-- ==== Sys2Proof/Word.lean ====
section
/-! DEFINITION. The word types of the Lamtal 880 (00_scope R5-R7, 01_machine R31). -/

namespace Sys2Proof

/-- A byte of memory. -/
abbrev Byte := BitVec 8
/-- A 32-bit register (R31). -/
abbrev Word := BitVec 32
/-- A 64-bit value, held in a register pair (R7). -/
abbrev DWord := BitVec 64
/-- A set of lanes of a group, bit l for lane l (R13). -/
abbrev Mask := BitVec 64
/-- An instruction word (R46). -/
abbrev IWord := BitVec 96

end Sys2Proof
end

