-- ==== Sys2Proof/Syntax.lean ====
section
/-! DEFINITION. The syntax of the steps of the Lamtal 880: one constructor for each row of the table of
operations and events. The first part is the instruction words of 02_encoding R46-R60, with operands and
modifiers as the entries name them; the second part is the events of 95_what_each_step_holds.md. -/

namespace Sys2Proof

/-- Types named by a type code of R50. -/
inductive Ty where
  | s8 | s16 | s32 | s64 | n8 | n16 | n32 | n64 | b32 | b64
  | f16 | f32 | f64 | bf16 | f16x2 | bf16x2 | e4m3 | e5m2 | e3m2 | e2m1 | e8m0
  deriving DecidableEq, Repr

/-- The fields every word carries: predicate enable, negate and register, STOP and STALL (R46). -/
structure Ctl where
  pe : Bool
  pn : Bool
  p : BitVec 8
  stop : Bool
  stall : BitVec 4
  deriving DecidableEq, Repr

/-- An operand field after its level and index are read (R33): a main-file register, an operand-file entry,
the last-result latch, or a special source. `spec 0` as a destination discards the result. -/
inductive Opnd where
  | v (i : BitVec 8)
  | o (i : BitVec 3)
  | lat
  | spec (i : BitVec 8)
  deriving DecidableEq, Repr

/-- Rounding modes of R86. -/
inductive Rm where
  | rn | rz | ru | rd
  deriving DecidableEq, Repr

/-- Relations of R109 and R128. -/
inductive Rel where
  | eq | ne | lt | le | gt | ge | num | nan
  deriving DecidableEq, Repr

/-- Scratch spaces that an address names (R51 SPACE). -/
inductive Sp where
  | blk | die
  deriving DecidableEq, Repr

/-- Access sizes of R51. -/
inductive Size where
  | n8 | s8 | n16 | s16 | b32 | b64 | b128
  deriving DecidableEq, Repr

/-- Scopes of R51 and R239. -/
inductive Scope where
  | grp | blk | gang | die | dev | pod | sys
  deriving DecidableEq, Repr

/-- Atomic operations of R51 and R196. -/
inductive AOp where
  | add32 | add64 | minS | minN | maxS | maxN | and | or | xor | xchg32 | xchg64 | inc | dec | fadd | cas32 | cas64
  deriving DecidableEq, Repr

/-- Lane source of `shfl` (R117). -/
inductive ShflMode where
  | idx | up | down | xor
  deriving DecidableEq, Repr

/-- Kinds of `vote` (R118). -/
inductive VoteKind where
  | any | all | ballot
  deriving DecidableEq, Repr

/-- Kinds of `fence` (R203). -/
inductive FenceKind where
  | acq | rel | ar
  deriving DecidableEq, Repr

/-- Kinds of `finj` (R377). -/
inductive InjKind where
  | acc | poison | parity | cevt
  deriving DecidableEq, Repr

/-- Copy classes of R209. -/
inductive CClass where
  | H | P | X | S
  deriving DecidableEq, Repr

/-- A remote request as a peer sends it to this device (R229-R232): range, per-lane offset and operands. -/
inductive RKind where
  | load | store | atom (op : AOp)
  deriving DecidableEq, Repr

/-- One lane's part of a remote request received from a peer: offset into the range, store data or operand, comparand's new value,
and whether its page lies in the memory of the target's host (TGT of 16 R360). -/
structure RLane where
  ofs : Nat
  b : DWord
  c : DWord
  host : Bool := false
  deriving DecidableEq, Repr

/-- A remote request received from a peer device (R232): the physical address its lease translates to is
carried by the request, since the flit layout is internal to the part (R324). -/
structure RReq where
  peer : Nat
  kind : RKind
  size : Nat
  base : Nat
  lanes : List RLane
  deriving DecidableEq, Repr

/-- A page of a peer's range as the peer's translation places it (16 R363): page number in the range, physical address at the
peer, whether it is mirrored there (18 R408), its ATOMOK (16 R360, R365), and whether it lies in the memory of the peer's host. -/
structure LPage where
  page : Nat
  phys : Nat
  mir : Bool
  atomOk : Nat := 3
  host : Bool := false
  deriving DecidableEq, Repr

/-- What a flit carries (R323, R324): the 64 bytes of a planned flit, which the pattern's entry for its slot places; in an open slot a
remote request, the values that a peer's request brings back (`none` for a lane that poison stops), or a piece of an unplanned
collective or copy with its place (R333); the duplicate of a mirrored write (18 R406); a
shard version in a control slot; the pair state of a spilled pair (R330). -/
inductive Payload where
  | data (bytes : List Byte)
  | request (r : RReq)
  | reply (vals : List (Option DWord))
  | contribution (entry : Nat) (rank : Nat) (ofs : Nat) (bytes : List Byte)
  | version (entry : Nat) (rank : Nat) (ver : DWord)
  | copy (addr : Nat) (bytes : List Byte)
  | mirrorWrite (addr : Nat) (bytes : List Byte)
  | pairState (peer : Nat)
  | idle
  deriving DecidableEq, Repr

/-- Kinds of a slot (R323); a backup slot serves one failed port (R329). -/
inductive SlotKind where
  | control | planned | ack | open_ | backup (port : Nat) | ease | idle
  deriving DecidableEq, Repr

/-- The operation that the pattern's entry for a slot names (R324): a step of a collective entry, with the rank of the source; a planned
copy; duplicates of writes to mirrored pages; a load of pair state. -/
inductive SlotOp where
  | none | coll (entry rank : Nat) | copy | mirror | pair (peer : Nat)
  deriving DecidableEq, Repr

/-- The pattern's entry for a slot of a port in one direction (R322-R324, R327), in every frame or in one of the period: the other
device, the operation and the place of the flit in it (an offset in a rank's contribution, or an address), and, for a data flit
received, port and index of the acknowledgement slot in the reverse direction that the pattern ties to it. -/
structure Slot where
  out : Bool
  port : Nat
  index : Nat
  kind : SlotKind
  peer : Nat
  frame : Option Nat := Option.none
  op : SlotOp := .none
  place : Nat := 0
  ack : Option (Nat × Nat) := Option.none
  deriving DecidableEq, Repr

/-- A range of a grid with its placement by a peer, where the peer holds it resident (16 R363). -/
structure LRange where
  rng : Nat
  place : List LPage := []
  deriving DecidableEq, Repr

/-- An acknowledgement flit: its 64 bytes, and the frames and slots of the flits that it covers, in order (15 R327). -/
structure AckFlit where
  covered : List (Nat × Nat)
  bytes : List Byte
  deriving DecidableEq, Repr

/-- A PTP message in a control slot (R320), each with the correction for residence time that the switches have entered: a Sync with the
tick of its sending, a delay request, or a delay response with the tick at which the request was received. -/
inductive PtpBody where
  | sync (t1 corr : Nat) | request | response (t4 corr : Nat)
  deriving DecidableEq, Repr

/-- A PTP message as it arrives: the device that sent it and the port it came by (R320). -/
structure PtpTimes where
  src : Nat
  port : Nat
  body : PtpBody
  deriving DecidableEq, Repr

/-- A row of a channel, by its bank (16 R367). -/
structure BankRow where
  bank : Nat
  row : Nat
  deriving DecidableEq, Repr

/-- What of a firmware configuration a rule reads: the test-mode enables of the partitions (16 R350) and CETHR (18 R416). -/
structure FwConf where
  testEn : BitVec 8
  cethr : Nat
  deriving DecidableEq, Repr

/-- The partner of a mirrored page of this device (18 R406). -/
structure MirrorPage where
  page : Nat
  device : Nat
  partner : Nat
  deriving DecidableEq, Repr

/-- Causes of a schedule fault (R334). -/
inductive SFault where
  | late | ease | clock | link | peer
  deriving DecidableEq, Repr

/-- A planned grid of the pattern (R333). -/
structure PlannedGrid where
  stream : Nat
  tag : Word
  frame : Nat
  startOfs : Nat
  endOfs : Nat
  ew : Nat
  deriving DecidableEq, Repr

/-- One planned read of a collective entry: its tick and the byte span of this device's contribution. The ticks of an entry are
planned ticks of the pattern, counted from the first tick of its frame 0 (R338, R341, R343). -/
structure CollRead where
  tick : Nat
  ofs : Nat
  len : Nat
  deriving DecidableEq, Repr

/-- The reduction tree of a collective entry (R344): leaves are ranks. -/
inductive RTree where
  | leaf (rank : Nat)
  | node (l r : RTree)
  deriving DecidableEq, Repr

/-- A collective entry of the pattern (R341): `devs` are the devices by rank, `send` is the tick by which every contribution stands
in the chunk buffers (R345), `lands` the tick at which the last byte of each chunk lands, `last` the tick of the last slot of the
owner in the period (R347), and `plan` the stream and TAG of the planned grid that arms it, where the pattern plans one (R333). -/
structure CollEntry where
  ident : Nat
  op : Nat
  gid : Nat
  gen : Nat
  len : Nat
  ndev : Nat
  rank : Nat
  root : Nat
  chunk : Nat
  tree : RTree
  reads : List CollRead
  send : Nat
  lands : List Nat
  last : Nat
  devs : List Nat := []
  plan : Option (Nat × Word) := none
  deriving DecidableEq, Repr

/-- What a loaded pattern gives this device (R319-R348): ease windows and the ticks of maintenance per channel (R331, R332),
`maintLen` the length of a refresh, of a refresh-management command, of a
retry, of a repair and of a row copy. -/
structure Pattern where
  nf : Nat
  rj : Nat
  dom : Nat
  device : Nat
  devices : Nat
  domainOf : List Nat
  hops : List Nat
  timingPort : Nat
  grandmaster : Nat
  ewlen : List Nat
  ewper : List Nat
  peers : Nat
  frameWatts : List Nat
  linkLimit : Nat
  planned : List PlannedGrid
  colls : List CollEntry
  checkpoints : List Nat
  excluded : List Nat
  chunkBuf : Nat
  maintLen : List Nat
  slots : List Slot
  mirrors : List MirrorPage
  digest : Nat
  deriving DecidableEq, Repr

/-- What is late (R334): a planned grid of the pattern's list with no record, a collective entry whose step finds its grid not
started, or a grid with a member that has not completed. -/
inductive Overdue where
  | planned (entry : Nat) | coll (entry : Nat) | grid (gr : Nat)
  deriving DecidableEq, Repr

/-- How the FEC found a flit (R324, R328). -/
inductive FlitRx where
  | clean | corrected | lost
  deriving DecidableEq, Repr

/-- How and where a flit reached this device: the port and the slot it came in, and what the FEC found (R322, R324). -/
structure FlitIn where
  port : Nat
  index : Nat
  how : FlitRx
  deriving DecidableEq, Repr

/-- A management request over MCTP (R371, R415, R416). -/
inductive Mgmt where
  | readSnapshots (pid : Nat)
  | power
  | retire (core : Nat)
  | snack (pid : Nat)
  deriving DecidableEq, Repr

/-- The steps of the part: one constructor for each row of spec/opcode_table.json. -/
inductive Instr where
  -- control, R280-R288
  | nop (c : Ctl)
  | bra (c : Ctl) (sofs : Word)
  | brz (c : Ctl) (a : Opnd) (sofs : Word)
  | brnz (c : Ctl) (a : Opnd) (sofs : Word)
  | call (c : Ctl) (d : Opnd) (sofs : Word)
  | ret (c : Ctl) (a : Opnd)
  | jmp (c : Ctl) (a : Opnd)
  | jcall (c : Ctl) (d a : Opnd)
  | exit (c : Ctl)
  | yield (c : Ctl)
  | sigchk (c : Ctl) (imm : Word)
  | stopmark (c : Ctl)
  | waitc (c : Ctl) (a : Opnd)
  -- integer, R100-R115
  | add (c : Ctl) (t : Ty) (sat : Bool) (d a b : Opnd)
  | sub (c : Ctl) (t : Ty) (sat : Bool) (d a b : Opnd)
  | addImm (c : Ctl) (t : Ty) (sat : Bool) (d a : Opnd) (imm : Word)
  | subImm (c : Ctl) (t : Ty) (sat : Bool) (d a : Opnd) (imm : Word)
  | mulLo (c : Ctl) (t : Ty) (d a b : Opnd)
  | mulLoImm (c : Ctl) (t : Ty) (d a : Opnd) (imm : Word)
  | mulHi (c : Ctl) (t : Ty) (d a b : Opnd)
  | mad (c : Ctl) (t : Ty) (d a b cc : Opnd)
  | min (c : Ctl) (t : Ty) (d a b : Opnd)
  | max (c : Ctl) (t : Ty) (d a b : Opnd)
  | abs (c : Ctl) (t : Ty) (sat : Bool) (d a : Opnd)
  | and (c : Ctl) (t : Ty) (d a b : Opnd)
  | or (c : Ctl) (t : Ty) (d a b : Opnd)
  | xor (c : Ctl) (t : Ty) (d a b : Opnd)
  | andImm (c : Ctl) (t : Ty) (d a : Opnd) (imm : Word)
  | orImm (c : Ctl) (t : Ty) (d a : Opnd) (imm : Word)
  | xorImm (c : Ctl) (t : Ty) (d a : Opnd) (imm : Word)
  | andn (c : Ctl) (t : Ty) (d a b : Opnd)
  | not (c : Ctl) (t : Ty) (d a : Opnd)
  | shl (c : Ctl) (t : Ty) (d a b : Opnd)
  | shr (c : Ctl) (t : Ty) (d a b : Opnd)
  | sar (c : Ctl) (t : Ty) (d a b : Opnd)
  | rot (c : Ctl) (t : Ty) (d a b : Opnd)
  | bfe (c : Ctl) (t : Ty) (d a b cc : Opnd)
  | bfi (c : Ctl) (d a b cc : Opnd)
  | popc (c : Ctl) (t : Ty) (d a : Opnd)
  | clz (c : Ctl) (t : Ty) (d a : Opnd)
  | ctz (c : Ctl) (t : Ty) (d a : Opnd)
  | brev (c : Ctl) (t : Ty) (d a : Opnd)
  | sel (c : Ctl) (t : Ty) (d a b cc : Opnd)
  | cmp (c : Ctl) (t : Ty) (rel : Rel) (d a b : Opnd)
  | lea (c : Ctl) (t : Ty) (sh : BitVec 4) (sx : Bool) (d a b : Opnd)
  | ext (c : Ctl) (t ts : Ty) (d a : Opnd)
  | trunc (c : Ctl) (t ts : Ty) (sat : Bool) (d a : Opnd)
  | mov (c : Ctl) (t : Ty) (d a : Opnd)
  | movImm (c : Ctl) (t : Ty) (d : Opnd) (imm : Word)
  | movs (c : Ctl) (sreg : BitVec 8) (fmt : BitVec 8) (d : Opnd)
  -- lane exchange and vote, R116-R122
  | shfl (c : Ctl) (mode : ShflMode) (w64 : Bool) (d a b : Opnd)
  | vote (c : Ctl) (k : VoteKind) (d a : Opnd)
  | bcast (c : Ctl) (t : Ty) (d a : Opnd)
  | matchAny (c : Ctl) (t : Ty) (d a : Opnd)
  | scanAdd (c : Ctl) (t : Ty) (excl : Bool) (d a : Opnd)
  | lanemask (c : Ctl) (absolute : Bool) (d a : Opnd)
  -- floating point, R126-R133
  | fadd (c : Ctl) (t : Ty) (rm : Rm) (d a b : Opnd)
  | fsub (c : Ctl) (t : Ty) (rm : Rm) (d a b : Opnd)
  | fmul (c : Ctl) (t : Ty) (rm : Rm) (d a b : Opnd)
  | ffma (c : Ctl) (t : Ty) (rm : Rm) (d a b cc : Opnd)
  | fdot2 (c : Ctl) (t : Ty) (rm : Rm) (d a b cc : Opnd)
  | fmin (c : Ctl) (t : Ty) (nanp : Bool) (d a b : Opnd)
  | fmax (c : Ctl) (t : Ty) (nanp : Bool) (d a b : Opnd)
  | fcmp (c : Ctl) (t : Ty) (rel : Rel) (d a b : Opnd)
  | fclass (c : Ctl) (t : Ty) (d a : Opnd)
  | frcp (c : Ctl) (t : Ty) (rm : Rm) (d a : Opnd)
  | frsq (c : Ctl) (t : Ty) (rm : Rm) (d a : Opnd)
  | fsqrt (c : Ctl) (t : Ty) (rm : Rm) (d a : Opnd)
  | fexp2 (c : Ctl) (t : Ty) (d a : Opnd)
  | flog2 (c : Ctl) (t : Ty) (d a : Opnd)
  | fsin (c : Ctl) (t : Ty) (d a : Opnd)
  | fcos (c : Ctl) (t : Ty) (d a : Opnd)
  | fround (c : Ctl) (t : Ty) (rm : Rm) (d a : Opnd)
  | fldexp (c : Ctl) (t : Ty) (rm : Rm) (d a b : Opnd)
  | ffrexp (c : Ctl) (t : Ty) (expPart : Bool) (d a : Opnd)
  -- conversion, R135-R138
  | cvt (c : Ctl) (t ts : Ty) (sat : Bool) (rm : Rm) (d a : Opnd)
  | cvtSr (c : Ctl) (t ts : Ty) (sat : Bool) (d a b : Opnd)
  | bpack (c : Ctl) (t : Ty) (d a : Opnd)
  | bunpack (c : Ctl) (t : Ty) (d a : Opnd)
  -- wide accumulator, R139-R142
  | wclr (c : Ctl) (d : Opnd)
  | wbase (c : Ctl) (d a b : Opnd)
  | wfma (c : Ctl) (neg : Bool) (d a b cc : Opnd)
  | wadd (c : Ctl) (neg : Bool) (d a cc : Opnd)
  | wsign (c : Ctl) (d a : Opnd)
  | wrnd (c : Ctl) (rm : Rm) (d a cc : Opnd)
  -- matrix engine and mantle, R154-R162, R175-R177
  | mma (c : Ctl) (t : Ty) (m64 : Bool) (scr : Option (BitVec 8)) (d a b cc : Opnd)
  | mloop (c : Ctl) (t : Ty) (tile : BitVec 3) (sc acc adie bdie cls : Bool) (d a b cc : Opnd)
  | mmab (c : Ctl) (t : Ty) (tile : BitVec 3) (scr : Option (BitVec 8)) (a b : Opnd)
  | mzero (c : Ctl) (tile : BitVec 3)
  | maccLd (c : Ctl) (tile : BitVec 3) (die cls : Bool) (a : Opnd)
  | maccSt (c : Ctl) (tile : BitVec 3) (die cls : Bool) (a : Opnd)
  | mdrain (c : Ctl) (tile : BitVec 3) (d : Opnd)
  | mchk (c : Ctl) (tile : BitVec 3) (frag : Bool) (d : Opnd)
  | mloc (c : Ctl) (tile : BitVec 3) (d : Opnd)
  | mfix (c : Ctl) (tile : BitVec 3) (d : Opnd)
  | mretry (c : Ctl) (tile : BitVec 3) (cls : Bool)
  | mprog (c : Ctl) (d : Opnd)
  | mtol (c : Ctl) (t : Ty) (a : Opnd)
  -- scratch, R194-R208
  | ld (c : Ctl) (sp : Sp) (sz : Size) (ord : Option Scope) (d a : Opnd) (ofs : BitVec 24)
  | st (c : Ctl) (sp : Sp) (sz : Size) (ord : Option Scope) (a b : Opnd) (ofs : BitVec 24)
  | spill (c : Ctl) (sz : Size) (a b : Opnd) (ofs : BitVec 24)
  | fill (c : Ctl) (sz : Size) (d a : Opnd) (ofs : BitVec 24)
  | atomBlk (c : Ctl) (op : AOp) (ord : Option Scope) (d a b cc : Opnd) (ofs : BitVec 24)
  | atomDie (c : Ctl) (op : AOp) (ord : Option Scope) (d a b cc : Opnd) (ofs : BitVec 24)
  | redBlk (c : Ctl) (op : AOp) (a b : Opnd) (ofs : BitVec 24)
  | redDie (c : Ctl) (op : AOp) (a b : Opnd) (ofs : BitVec 24)
  | ldr (c : Ctl) (sp : Sp) (w64 : Bool) (ord : Option Scope) (d a : Opnd) (ofs : BitVec 24)
  | stc (c : Ctl) (sp : Sp) (w64 : Bool) (ord : Option Scope) (d a b : Opnd) (ofs : BitVec 24)
  | fence (c : Ctl) (k : FenceKind) (sc : Scope)
  | aflush (c : Ctl) (d : Opnd)
  | halloc (c : Ctl) (mode1 : Bool) (d a b : Opnd)
  | hfree (c : Ctl) (a b cc : Opnd)
  -- copies, batches, remote access, R217-R234
  | cpy (c : Ctl) (out : Bool) (rng : BitVec 5) (die cls : Bool) (d a b cc : Opnd)
  | cpy2d (c : Ctl) (out : Bool) (rng : BitVec 5) (die cls : Bool) (d a b cc : Opnd)
  | gather (c : Ctl) (far : Option (BitVec 5)) (die : Bool) (esz : BitVec 3) (cls : Bool) (d a b cc : Opnd)
  | scatter (c : Ctl) (far : Option (BitVec 5)) (die : Bool) (esz : BitVec 3) (cls : Bool) (d a b cc : Opnd)
  | cpyAtom (c : Ctl) (op : AOp) (rng : BitVec 5) (ret cls : Bool) (d a b cc : Opnd)
  | cpyDigest (c : Ctl) (src : Option (BitVec 5)) (cls : Bool) (d a b cc : Opnd)
  | bclose (c : Ctl) (sc : Scope) (d : Opnd)
  | bwait (c : Ctl) (a : Opnd) (imm : Word)
  | rmtLd (c : Ctl) (sz : Size) (ord : Option Scope) (d a cc : Opnd) (ofs : BitVec 24)
  | rmtSt (c : Ctl) (sz : Size) (ord : Option Scope) (a b cc : Opnd) (ofs : BitVec 24)
  | rmtAtom (c : Ctl) (op : AOp) (ord : Option Scope) (d a b cc : Opnd) (ofs : BitVec 24)
  | rmtWait (c : Ctl)
  -- synchronisation, R304-R315
  | bar (c : Ctl)
  | gbar (c : Ctl)
  | bbar (c : Ctl) (a b : Opnd)
  | ringPut (c : Ctl) (a b : Opnd)
  | ringGet (c : Ctl) (d a : Opnd)
  | ringPeek (c : Ctl) (d a : Opnd)
  | launch (c : Ctl) (d a : Opnd)
  | signal (c : Ctl) (intr : Bool) (a b : Opnd)
  | semWait (c : Ctl) (d a b : Opnd)
  | semPost (c : Ctl) (a b : Opnd)
  | podt (c : Ctl) (d : Opnd)
  -- system, R372-R379, R392
  | trap (c : Ctl) (code : BitVec 16)
  | rti (c : Ctl)
  | sysrd (c : Ctl) (num : BitVec 12) (d : Opnd)
  | syswr (c : Ctl) (num : BitVec 12) (a : Opnd)
  | quench (c : Ctl)
  | snap (c : Ctl)
  | finj (c : Ctl) (k : InjKind) (die : Bool) (a : Opnd)
  | leaseChk (c : Ctl) (d a : Opnd)
  | evt (c : Ctl) (a b : Opnd)
  -- emulation class and fill word, R60, R61
  | div (t : Ty) (rest : BitVec 80)
  | rem (t : Ty) (rest : BitVec 80)
  | fillWord
  -- events inside the core; g names a group, k a core, b a block, gr a grid, p a partition, s a stream
  | resultLand (g : Nat)
  | lineRefetch (k line : Nat)
  | rotationBoundary
  | fairnessExcursion (g : Nat)
  | waitcExpire (g : Nat)
  | engineCommandStart (k : Nat)
  | mloopKStep (k : Nat)
  | matrixCommandEnd (k : Nat)
  | copyCommandStart (k : Nat) (cl : CClass)
  | copyUnitEffect (k : Nat) (cl : CClass)
  | copyMemberComplete (k : Nat) (cl : CClass)
  | batchComplete (g : Nat)
  | remoteApply (src : Option RReq)
  | remoteComplete (ident : Nat)
  | ringRetry (g : Nat)
  | barrierRelease (b : Nat)
  | gangBarrierRelease (gr gang : Nat)
  | semaphoreTurn (ident : Nat)
  | forcedFlush (k : Nat)
  | endFlush (b : Nat)
  | reductionEntryApply (k : Nat)
  | trapEntry (g : Nat)
  | trapFrameCaptured (g : Nat)
  | handlerEnd (g : Nat)
  | trapFrameRestored (g : Nat)
  | stopSpacing (g : Nat)
  | watchdog (p : Nat)
  | contextFault (p : Nat)
  | stopRecordsWritten (p : Nat)
  | snaptMatch (p : Nat)
  -- events of the stream front ends and the task scheduler
  | launchPacket (p s : Nat)
  | nopPacket (p s : Nat)
  | semwaitPacket (p s : Nat)
  | semwaitMet (p s : Nat)
  | semsigPacket (p s : Nat)
  | copyPacket (p s : Nat)
  | copyPacketDone (p s : Nat)
  | invalidPacket (p s : Nat)
  | serialRelease (p s : Nat)
  | gridReady (gr : Nat)
  | gridStart (gr : Nat)
  | blockDispatch (gr : Nat)
  | blockDataLoaded (b : Nat)
  | blockRelease (b : Nat)
  | gridComplete (gr : Nat)
  | ctimeExpire (p s : Nat)
  | collectiveStep (gr : Nat)
  | chunkLand (gr : Nat)
  | collectiveRetire (gr : Nat)
  -- the driver's commands and registers
  | openCmd (p : Nat) (ds : Bool)
  | haltCmd (p : Nat) (ds : Bool)
  | resumeCmd (p : Nat) (ds : Bool)
  | saveCmd (p : Nat) (ds : Bool)
  | restoreCmd (p : Nat) (ds : Bool)
  | terminateCmd (p : Nat) (ds : Bool)
  | haltComplete (p : Nat)
  | saveComplete (p : Nat)
  | restoreComplete (p : Nat)
  | clearingDone (p : Nat)
  | pgack (p : Nat)
  | invva (p : Nat) (va : DWord)
  | invalidationDone (p : Nat)
  | snack (p : Nat)
  | play (v : Word)
  | shadow (v : Word)
  | streamEn (p s : Nat) (v : Word)
  | restart (p s : Nat) (v : Word)
  | registerWrite (ofs : Nat) (v : Word)
  -- host memory accesses
  | hostRead (addr len : Nat)
  | hostWrite (addr : Nat) (bytes : List Byte) (poison : Bool)
  -- the pod
  | acknowledgement (pair : Nat) (flit : AckFlit) (lost : Bool)
  | flitReceive (pair frame slot : Nat) (rx : FlitIn) (poison : Bool) (body : Payload)
  | linkFailed (port : Nat)
  | ptpSync (m : PtpTimes)
  | timingPortLockLoss (locked : List Nat)
  | late (x : Overdue)
  | ease (channel : Nat)
  | peer (device : Nat) (frame : Nat) (cause : SFault) (tick : Nat)
  | quietFrames
  | alignmentCheck
  | rejoin
  | patternLoad (pat : Pattern)
  | patternEffect
  | leaseRecall (gr peer rng : Nat) (page : Nat)
  | recallAnswer (gr peer rng : Nat)
  | easeWindow
  | rowActivationAlert (channel : Nat) (row : BankRow)
  | checkpoint
  | coreMark (k : Nat)
  | standbySubstitution (k : Nat)
  | coldStart
  | firmwareLoad (signed : Bool) (ver : Word) (rb : Word) (conf : FwConf) (digest : Nat)
  | spdmRequest
  | managementRequest (m : Mgmt)
  | thermalTrip
  | leaseGrant (gr peer : Nat) (range : LRange)
  | executionMissesBound (ident : Nat)
  | mainRailDrop
  deriving DecidableEq, Repr

end Sys2Proof
end

