-- ==== Sys2Proof/Machine/Forms.lean ====
section
/-! DEFINITION. The forms of the instruction words: the types each opcode accepts (02_encoding R59), the
operand fields it uses with their widths and levels (R31, R33, R35, R47 and each entry), and its modifiers'
legal values. -/

namespace Sys2Proof

/-- Width in bits of a value of a type (R77-R80, R50). -/
def Ty.bits : Ty → Nat
  | .s8 | .n8 | .e4m3 | .e5m2 | .e8m0 => 8
  | .s16 | .n16 | .f16 | .bf16 => 16
  | .s32 | .n32 | .b32 | .f32 | .f16x2 | .bf16x2 => 32
  | .s64 | .n64 | .b64 | .f64 => 64
  | .e3m2 => 6
  | .e2m1 => 4

/-- Registers that a value of a type occupies (R7, R123). -/
def Ty.regs (t : Ty) : Nat := if t.bits = 64 then 2 else 1

def Ty.isInt : Ty → Bool
  | .s8 | .s16 | .s32 | .s64 | .n8 | .n16 | .n32 | .n64 => true
  | _ => false

def Ty.isSigned : Ty → Bool
  | .s8 | .s16 | .s32 | .s64 => true
  | _ => false

/-- The four small element types of R85. -/
def Ty.isSmall : Ty → Bool
  | .e4m3 | .e5m2 | .e3m2 | .e2m1 => true
  | _ => false

def Ty.int4 : List Ty := [.s32, .n32, .s64, .n64]
def Ty.int2 : List Ty := [.s32, .n32]
def Ty.bit2 : List Ty := [.b32, .b64]
def Ty.flt6 : List Ty := [.f16, .f32, .f64, .bf16, .f16x2, .bf16x2]
def Ty.flt4 : List Ty := [.f16, .f32, .f64, .bf16]
def Ty.flt2 : List Ty := [.f32, .f64]
def Ty.small : List Ty := [.e4m3, .e5m2, .e3m2, .e2m1]
def Ty.mat7 : List Ty := [.bf16, .f16, .e4m3, .e5m2, .e3m2, .e2m1, .s8]
def Ty.mat5 : List Ty := [.bf16, .f16, .e4m3, .e5m2, .s8]
def Ty.mtol : List Ty := [.bf16, .f16, .e4m3, .e5m2, .e3m2, .e2m1]
def Ty.ints : List Ty := [.s8, .s16, .s32, .s64, .n8, .n16, .n32, .n64]
def Ty.narrow : List Ty := [.s8, .n8, .s16, .n16, .s32, .n32]
def Ty.wide : List Ty := [.s16, .n16, .s32, .n32, .s64, .n64]
def Ty.cvtD : List Ty := ints ++ bit2 ++ flt4 ++ small

/-- Registers of a memory access size (R51). -/
def Size.regs : Size → Nat
  | .b128 => 4
  | .b64 => 2
  | _ => 1

/-- Bytes of a memory access size (R51). -/
def Size.bytes : Size → Nat
  | .n8 | .s8 => 1
  | .n16 | .s16 => 2
  | .b32 => 4
  | .b64 => 8
  | .b128 => 16

/-- Registers of one operand of an atomic operation: pairs for the 64-bit operations (R196). -/
def AOp.regs : AOp → Nat
  | .add64 | .xchg64 | .cas64 => 2
  | _ => 1

def AOp.isCas : AOp → Bool
  | .cas32 | .cas64 => true
  | _ => false

/-- Registers of the operand B of `cpy.atom` and `rmt.atom`: comparand and new value stand together in `cas`
(R225, R230). -/
def AOp.farRegs (o : AOp) : Nat := if o.isCas then 2 * o.regs else o.regs

/-- The operations `red` accepts (R197). -/
def AOp.redOk : AOp → Bool
  | .xchg32 | .xchg64 | .cas32 | .cas64 => false
  | _ => true

/-- How a form uses an operand field: `src` is read and stands at any level, `srcR` is read and stands in
registers, `dst` is written and may be discarded, `dstR` is written and may not be discarded, `upd` is a window
read and written; the number is the width in 32-bit registers. -/
inductive Use where
  | src (n : Nat) | srcR (n : Nat) | dst (n : Nat) | dstR (n : Nat) | upd (n : Nat)
  deriving DecidableEq, Repr

/-- Source registers that a use reads. -/
def Use.reads : Use → Option Nat
  | .src n | .srcR n | .upd n => some n
  | .dst _ | .dstR _ => none

/-- Level, alignment and limit rules of R31, R33, R34, R35 and R47 for a field in a kernel with `N` registers.
An operand wider than 64 bits stands in the main file only. -/
def Use.ok (N : Nat) : Use → Opnd → Bool
  | .upd n, .v i => i.toNat % n == 0 && i.toNat + n ≤ N
  | .src n, .v i | .srcR n, .v i | .dst n, .v i | .dstR n, .v i => i.toNat % n == 0 && i.toNat + n ≤ N
  | .src n, .o i | .srcR n, .o i | .dst n, .o i | .dstR n, .o i => n ≤ 2 && i.toNat % n == 0
  | .src n, .lat => n ≤ 2
  | .src n, .spec i => n ≤ 2 && i.toNat < 140
  | .dst n, .spec i => n ≤ 2 && i.toNat == 0
  | _, _ => false

/-- Elements per 32-bit register, K, and the fragment registers of `mma` (R151). -/
def mmaK : Ty → Nat
  | .bf16 | .f16 => 16
  | .e3m2 | .e2m1 => 64
  | _ => 32

def mmaC : Ty → Nat
  | .bf16 | .f16 => 16
  | .e2m1 => 4
  | _ => 8

def mmaRegs (t : Ty) (m64 : Bool) : Nat := (if t = .e3m2 then 8 else 4) * (if m64 then 2 else 1)
def mmaAccRegs (m64 : Bool) : Nat := if m64 then 64 else 16

/-- Registers of a special register read by `movs` (R115). -/
def sregRegs (n : Nat) : Nat := if n = 7 ∨ n = 8 then 2 else 1
/-- Registers of a register number of R373. -/
def sysRegs (n : Nat) : Nat := if n = 7 ∨ n = 8 ∨ n = 0x105 then 2 else 1

/-- The code of a type (R50). -/
def Ty.code : Ty → Nat
  | .s8 => 1 | .s16 => 2 | .s32 => 3 | .s64 => 4 | .n8 => 5 | .n16 => 6 | .n32 => 7 | .n64 => 8
  | .b32 => 9 | .b64 => 10 | .f16 => 0x10 | .f32 => 0x11 | .f64 => 0x12 | .bf16 => 0x13
  | .f16x2 => 0x14 | .bf16x2 => 0x15 | .e4m3 => 0x18 | .e5m2 => 0x19 | .e3m2 => 0x1A | .e2m1 => 0x1B
  | .e8m0 => 0x1C

/-- The control fields of a word, for every row that is an instruction word decode accepts field by field; the
emulation class and the fill word keep theirs unchecked (R60, R61). -/
def Instr.ctl? : Instr → Option Ctl
  | .nop c | .bra c _ | .brz c _ _ | .brnz c _ _ | .call c _ _ | .ret c _ | .jmp c _ | .jcall c _ _ | .exit c
  | .yield c | .sigchk c _ | .stopmark c | .waitc c _ => some c
  | .add c _ _ _ _ _ | .sub c _ _ _ _ _ | .addImm c _ _ _ _ _ | .subImm c _ _ _ _ _ | .mulLo c _ _ _ _
  | .mulLoImm c _ _ _ _ | .mulHi c _ _ _ _ | .mad c _ _ _ _ _ | .min c _ _ _ _ | .max c _ _ _ _
  | .abs c _ _ _ _ | .and c _ _ _ _ | .or c _ _ _ _ | .xor c _ _ _ _ | .andImm c _ _ _ _ | .orImm c _ _ _ _
  | .xorImm c _ _ _ _ | .andn c _ _ _ _ | .not c _ _ _ | .shl c _ _ _ _ | .shr c _ _ _ _ | .sar c _ _ _ _
  | .rot c _ _ _ _ | .bfe c _ _ _ _ _ | .bfi c _ _ _ _ | .popc c _ _ _ | .clz c _ _ _ | .ctz c _ _ _
  | .brev c _ _ _ | .sel c _ _ _ _ _ | .cmp c _ _ _ _ _ | .lea c _ _ _ _ _ _ | .ext c _ _ _ _
  | .trunc c _ _ _ _ _ | .mov c _ _ _ | .movImm c _ _ _ | .movs c _ _ _ => some c
  | .shfl c _ _ _ _ _ | .vote c _ _ _ | .bcast c _ _ _ | .matchAny c _ _ _ | .scanAdd c _ _ _ _
  | .lanemask c _ _ _ => some c
  | .fadd c _ _ _ _ _ | .fsub c _ _ _ _ _ | .fmul c _ _ _ _ _ | .ffma c _ _ _ _ _ _ | .fdot2 c _ _ _ _ _ _
  | .fmin c _ _ _ _ _ | .fmax c _ _ _ _ _ | .fcmp c _ _ _ _ _ | .fclass c _ _ _ | .frcp c _ _ _ _
  | .frsq c _ _ _ _ | .fsqrt c _ _ _ _ | .fexp2 c _ _ _ | .flog2 c _ _ _ | .fsin c _ _ _ | .fcos c _ _ _
  | .fround c _ _ _ _ | .fldexp c _ _ _ _ _ | .ffrexp c _ _ _ _ => some c
  | .cvt c _ _ _ _ _ _ | .cvtSr c _ _ _ _ _ _ | .bpack c _ _ _ | .bunpack c _ _ _ => some c
  | .wclr c _ | .wbase c _ _ _ | .wfma c _ _ _ _ _ | .wadd c _ _ _ _ | .wsign c _ _ | .wrnd c _ _ _ _ => some c
  | .mma c _ _ _ _ _ _ _ | .mloop c _ _ _ _ _ _ _ _ _ _ _ | .mmab c _ _ _ _ _ | .mzero c _ | .maccLd c _ _ _ _
  | .maccSt c _ _ _ _ | .mdrain c _ _ | .mchk c _ _ _ | .mloc c _ _ | .mfix c _ _ | .mretry c _ _ | .mprog c _
  | .mtol c _ _ => some c
  | .ld c _ _ _ _ _ _ | .st c _ _ _ _ _ _ | .spill c _ _ _ _ | .fill c _ _ _ _ | .atomBlk c _ _ _ _ _ _ _
  | .atomDie c _ _ _ _ _ _ _ | .redBlk c _ _ _ _ | .redDie c _ _ _ _ | .ldr c _ _ _ _ _ _
  | .stc c _ _ _ _ _ _ _ | .fence c _ _ | .aflush c _ | .halloc c _ _ _ _ | .hfree c _ _ _ => some c
  | .cpy c _ _ _ _ _ _ _ _ | .cpy2d c _ _ _ _ _ _ _ _ | .gather c _ _ _ _ _ _ _ _ | .scatter c _ _ _ _ _ _ _ _
  | .cpyAtom c _ _ _ _ _ _ _ _ | .cpyDigest c _ _ _ _ _ _ | .bclose c _ _ | .bwait c _ _ | .rmtLd c _ _ _ _ _ _
  | .rmtSt c _ _ _ _ _ _ | .rmtAtom c _ _ _ _ _ _ _ | .rmtWait c => some c
  | .bar c | .gbar c | .bbar c _ _ | .ringPut c _ _ | .ringGet c _ _ | .ringPeek c _ _ | .launch c _ _
  | .signal c _ _ _ | .semWait c _ _ _ | .semPost c _ _ | .podt c _ => some c
  | .trap c _ | .rti c | .sysrd c _ _ | .syswr c _ _ | .quench c | .snap c | .finj c _ _ _ | .leaseChk c _ _
  | .evt c _ _ => some c
  | _ => none

/-- The operand fields of each form with their use (the entry of each instruction). -/
def Instr.uses : Instr → List (Use × Opnd)
  | .brz _ a _ | .brnz _ a _ | .ret _ a | .jmp _ a => [(.src 1, a)]
  | .call _ d _ => [(.dstR 1, d)]
  | .jcall _ d a => [(.dstR 1, d), (.src 1, a)]
  | .waitc _ a => [(.src 2, a)]
  | .add _ t _ d a b | .sub _ t _ d a b | .min _ t d a b | .max _ t d a b | .and _ t d a b | .or _ t d a b
  | .xor _ t d a b | .andn _ t d a b | .fadd _ t _ d a b | .fsub _ t _ d a b | .fmul _ t _ d a b
  | .fmin _ t _ d a b | .fmax _ t _ d a b => [(.dst t.regs, d), (.src t.regs, a), (.src t.regs, b)]
  | .addImm _ t _ d a _ | .subImm _ t _ d a _ | .andImm _ t d a _ | .orImm _ t d a _ | .xorImm _ t d a _
  | .abs _ t _ d a | .not _ t d a | .brev _ t d a | .mov _ t d a | .bcast _ t d a | .frcp _ t _ d a
  | .frsq _ t _ d a | .fsqrt _ t _ d a | .fexp2 _ t d a | .flog2 _ t d a | .fsin _ t d a | .fcos _ t d a
  | .fround _ t _ d a => [(.dst t.regs, d), (.src t.regs, a)]
  | .mulLo _ _ d a b | .mulHi _ _ d a b => [(.dst 1, d), (.src 1, a), (.src 1, b)]
  | .mulLoImm _ _ d a _ => [(.dst 1, d), (.src 1, a)]
  | .mad _ t d a b cc => [(.dst t.regs, d), (.src 1, a), (.src 1, b), (.src t.regs, cc)]
  | .shl _ t d a b | .shr _ t d a b | .sar _ t d a b | .rot _ t d a b | .lea _ t _ _ d a b | .fldexp _ t _ d a b =>
    [(.dst t.regs, d), (.src t.regs, a), (.src 1, b)]
  | .bfe _ _ d a b cc | .bfi _ d a b cc | .fdot2 _ _ _ d a b cc =>
    [(.dst 1, d), (.src 1, a), (.src 1, b), (.src 1, cc)]
  | .popc _ t d a | .clz _ t d a | .ctz _ t d a | .fclass _ t d a => [(.dst 1, d), (.src t.regs, a)]
  | .sel _ t d a b cc => [(.dst t.regs, d), (.src t.regs, a), (.src t.regs, b), (.src 1, cc)]
  | .cmp _ t _ d a b | .fcmp _ t _ d a b => [(.dst 1, d), (.src t.regs, a), (.src t.regs, b)]
  | .ext _ t _ d a => [(.dst t.regs, d), (.src 1, a)]
  | .trunc _ _ ts _ d a => [(.dst 1, d), (.src ts.regs, a)]
  | .movImm _ t d _ => [(.dst t.regs, d)]
  | .movs _ r _ d => [(.dst (sregRegs r.toNat), d)]
  | .shfl _ _ w d a b => [(.dst (if w then 2 else 1), d), (.src (if w then 2 else 1), a), (.src 1, b)]
  | .vote _ k d a => [(.dst (if k = .ballot then 2 else 1), d), (.src 1, a)]
  | .matchAny _ t d a => [(.dst 2, d), (.src t.regs, a)]
  | .scanAdd _ _ _ d a => [(.dst 1, d), (.src 1, a)]
  | .lanemask _ _ d a => [(.dst 2, d), (.src 1, a)]
  | .ffma _ t _ d a b cc => [(.dst t.regs, d), (.src t.regs, a), (.src t.regs, b), (.src t.regs, cc)]
  | .ffrexp _ t p d a => [(.dst (if p then 1 else t.regs), d), (.src t.regs, a)]
  | .cvt _ t ts _ _ d a => [(.dst t.regs, d), (.src ts.regs, a)]
  | .cvtSr _ _ ts _ d a b => [(.dst 1, d), (.src ts.regs, a), (.src 1, b)]
  | .bpack _ _ d a | .bunpack _ _ d a => [(.dst 1, d), (.src 1, a)]
  | .wclr _ d => [(.dstR 16, d)]
  | .wbase _ d a b => [(.dst 1, d), (.src 2, a), (.src 1, b)]
  | .wfma _ _ d a b cc => [(.upd 16, d), (.src 2, a), (.src 2, b), (.src 1, cc)]
  | .wadd _ _ d a cc => [(.upd 16, d), (.src 2, a), (.src 1, cc)]
  | .wsign _ d a => [(.dst 1, d), (.srcR 16, a)]
  | .wrnd _ _ d a cc => [(.dst 2, d), (.srcR 16, a), (.src 1, cc)]
  | .mma _ t m scr d a b cc =>
    [(.dstR (mmaAccRegs m), d), (.srcR (mmaRegs t m), a), (.srcR (mmaRegs t m), b)]
    ++ (if cc = .spec 128 then [] else [(.srcR (mmaAccRegs m), cc)])
    ++ (match scr with | none => [] | some s => [(.srcR 1, .v s)])
  | .mloop _ _ _ _ _ _ _ _ d a b cc => [(.dst 1, d), (.srcR 2, a), (.src 1, b), (.src 1, cc)]
  | .mmab _ _ _ scr a b =>
    [(.srcR 32, a), (.srcR 32, b)] ++ (match scr with | none => [] | some s => [(.srcR 2, .v s)])
  | .maccLd _ _ _ _ a | .maccSt _ _ _ _ a | .mtol _ _ a => [(.src 1, a)]
  | .mdrain _ _ d | .mchk _ _ _ d | .mfix _ _ d | .mprog _ d => [(.dst 1, d)]
  | .mloc _ _ d => [(.dst 2, d)]
  | .ld _ _ sz _ d a _ =>
    [(if sz = .b128 then .dstR 4 else .dst sz.regs, d), (.src 1, a)]
  | .fill _ sz d a _ => [(if sz = .b128 then .dstR 4 else .dst sz.regs, d), (.src 1, a)]
  | .st _ _ sz _ a b _ => [(.src 1, a), (.src sz.regs, b)]
  | .spill _ sz a b _ => [(.src 1, a), (.src sz.regs, b)]
  | .atomBlk _ op _ d a b cc _ | .atomDie _ op _ d a b cc _ =>
    [(.dst op.regs, d), (.src 1, a), (.src op.regs, b)] ++ (if op.isCas then [(.src op.regs, cc)] else [])
  | .redBlk _ op a b _ | .redDie _ op a b _ => [(.src 1, a), (.src op.regs, b)]
  | .ldr _ _ w _ d a _ => [(.dst (if w then 2 else 1), d), (.src 1, a)]
  | .stc _ _ w _ d a b _ => [(.dst 1, d), (.src 1, a), (.src (if w then 2 else 1), b)]
  | .aflush _ d => [(.dst 1, d)]
  | .halloc _ _ d a b => [(.dstR 1, d), (.src 1, a), (.src 1, b)]
  | .hfree _ a b cc => [(.src 1, a), (.src 1, b), (.src 1, cc)]
  | .cpy _ _ _ _ _ d a b cc | .gather _ _ _ _ _ d a b cc | .scatter _ _ _ _ _ d a b cc
  | .cpyDigest _ _ _ d a b cc => [(.dst 1, d), (.srcR 2, a), (.src 1, b), (.src 1, cc)]
  | .cpy2d _ _ _ _ _ d a b cc => [(.dst 1, d), (.srcR 2, a), (.src 1, b), (.srcR 2, cc)]
  | .cpyAtom _ op _ wr _ d a b cc =>
    [(.dst 1, d), (.srcR 2, a), (.src op.farRegs, b)] ++ (if wr then [(.src 1, cc)] else [])
  | .bclose _ _ d => [(.dst 1, d)]
  | .bwait _ a _ => [(.src 1, a)]
  | .rmtLd _ sz _ d a cc _ => [(.dst sz.regs, d), (.src 1, a), (.src 1, cc)]
  | .rmtSt _ sz _ a b cc _ => [(.src 1, a), (.src sz.regs, b), (.src 1, cc)]
  | .rmtAtom _ op _ d a b cc _ => [(.dst op.regs, d), (.src 1, a), (.src op.farRegs, b), (.src 1, cc)]
  | .bbar _ a b | .ringPut _ a b | .signal _ _ a b | .semPost _ a b | .evt _ a b => [(.src 1, a), (.src 1, b)]
  | .ringGet _ d a => [(.dst 1, d), (.src 1, a)]
  | .ringPeek _ d a | .launch _ d a => [(.dst 2, d), (.src 1, a)]
  | .semWait _ d a b => [(.dst 1, d), (.src 1, a), (.src 1, b)]
  | .podt _ d => [(.dst 2, d)]
  | .sysrd _ n d => [(.dst (sysRegs n.toNat), d)]
  | .syswr _ n a => [(.src (sysRegs n.toNat), a)]
  | .finj _ _ _ a => [(.src 1, a)]
  | .leaseChk _ d a => [(.dst 1, d), (.src 1, a)]
  | _ => []

/-- The SUB values each typed form accepts, as types (R59, R51). -/
def Instr.subOk : Instr → Bool
  | .add _ t _ _ _ _ | .sub _ t _ _ _ _ | .addImm _ t _ _ _ _ | .subImm _ t _ _ _ _ | .mad _ t _ _ _ _
  | .min _ t _ _ _ | .max _ t _ _ _ | .ext _ t _ _ _ => Ty.int4.contains t
  | .mulLo _ t _ _ _ | .mulLoImm _ t _ _ _ | .mulHi _ t _ _ _ | .bfe _ t _ _ _ _ | .scanAdd _ t _ _ _ =>
    Ty.int2.contains t
  | .abs _ t _ _ _ | .sar _ t _ _ _ => [Ty.s32, .s64].contains t
  | .and _ t _ _ _ | .or _ t _ _ _ | .xor _ t _ _ _ | .andImm _ t _ _ _ | .orImm _ t _ _ _ | .xorImm _ t _ _ _
  | .andn _ t _ _ _ | .not _ t _ _ | .shl _ t _ _ _ | .shr _ t _ _ _ | .rot _ t _ _ _ | .popc _ t _ _
  | .clz _ t _ _ | .ctz _ t _ _ | .brev _ t _ _ | .sel _ t _ _ _ _ | .mov _ t _ _ | .movImm _ t _ _
  | .bcast _ t _ _ | .matchAny _ t _ _ => Ty.bit2.contains t
  | .cmp _ t _ _ _ _ => (Ty.int4 ++ Ty.bit2).contains t
  | .lea _ t _ _ _ _ _ => [Ty.n32, .n64].contains t
  | .trunc _ t _ _ _ _ => Ty.narrow.contains t
  | .fadd _ t _ _ _ _ | .fsub _ t _ _ _ _ | .fmul _ t _ _ _ _ | .ffma _ t _ _ _ _ _ | .fmin _ t _ _ _ _
  | .fmax _ t _ _ _ _ => Ty.flt6.contains t
  | .fdot2 _ t _ _ _ _ _ => [Ty.f16x2, .bf16x2].contains t
  | .fcmp _ t _ _ _ _ | .fclass _ t _ _ | .fround _ t _ _ _ => Ty.flt4.contains t
  | .frcp _ t _ _ _ | .frsq _ t _ _ _ | .fsqrt _ t _ _ _ | .fexp2 _ t _ _ | .flog2 _ t _ _ | .fsin _ t _ _
  | .fcos _ t _ _ | .fldexp _ t _ _ _ _ | .ffrexp _ t _ _ _ => Ty.flt2.contains t
  | .cvt _ t _ _ _ _ _ => Ty.cvtD.contains t
  | .cvtSr _ t _ _ _ _ _ | .bpack _ t _ _ | .bunpack _ t _ _ => Ty.small.contains t
  | .mma _ t _ _ _ _ _ _ | .mloop _ t _ _ _ _ _ _ _ _ _ _ => Ty.mat7.contains t
  | .mmab _ t _ _ _ _ => Ty.mat5.contains t
  | .mtol _ t _ => Ty.mtol.contains t
  | .st _ _ sz _ _ _ _ => !(sz == .s8 || sz == .s16)
  | .spill _ sz _ _ _ | .fill _ sz _ _ _ => [Size.b32, .b64, .b128].contains sz
  | .redBlk _ op _ _ _ | .redDie _ op _ _ _ => op.redOk
  | .rmtLd _ sz _ _ _ _ _ => sz != .b128
  | .rmtSt _ sz _ _ _ _ _ => !(sz == .s8 || sz == .s16 || sz == .b128)
  | .div t _ | .rem t _ => Ty.int4.contains t
  | _ => true

/-- A float-to-other conversion that only copies bits (R135). -/
def cvtBitOk : Ty → Ty → Bool
  | .b32, ts => [Ty.s32, .n32, .f32, .b32].contains ts
  | .b64, ts => [Ty.s64, .n64, .f64, .b64].contains ts
  | _, _ => false

/-- Modifier values that decode accepts, once SUB is in its space (R99, R109, R112-R115, R124, R135, R136, R154,
R155, R158, R175, R222, R240, R280, R373, R377). -/
def Instr.modsOk : Instr → Bool
  | .stopmark c => c.stop
  | .cmp _ t rel _ _ _ =>
    (match rel with
     | .eq | .ne => true
     | .lt | .le | .gt | .ge => !Ty.bit2.contains t
     | .num | .nan => false)
  | .lea _ t sh sx _ _ _ => sh.toNat ≤ 8 && !(sx && t == .n32)
  | .ext _ t ts _ _ => Ty.narrow.contains ts && ts.bits < t.bits
  | .trunc _ t ts _ _ _ => Ty.wide.contains ts && t.bits < ts.bits
  | .movs _ r fmt _ =>
    if r.toNat = 0x0D then (Ty.mtol.map Ty.code).contains fmt.toNat else r.toNat ≤ 0x0E && fmt == 0
  | .cvt _ t ts sat rm _ _ =>
    if Ty.bit2.contains t then cvtBitOk t ts && !sat && rm == .rn
    else (Ty.ints ++ Ty.flt4 ++ Ty.small).contains ts && !(t.isInt && ts.isInt && rm != .rn)
         || (ts == .e8m0 && Ty.flt2.contains t)
  | .cvtSr _ _ ts _ _ _ _ => Ty.flt4.contains ts
  | .mma _ t _ scr _ _ _ _ => scr.isNone || t.isSmall
  | .mmab _ t _ scr _ _ => scr.isNone || [Ty.e4m3, .e5m2].contains t
  | .mloop _ t _ sc _ _ _ _ _ _ _ _ => !sc || t.isSmall
  | .mchk _ tile frag _ => !frag || tile == 0
  | .gather _ _ _ esz _ _ _ _ _ | .scatter _ _ _ esz _ _ _ _ _ => esz.toNat ≤ 4
  | .rmtLd _ _ ord _ _ _ _ | .rmtSt _ _ ord _ _ _ _ | .rmtAtom _ _ ord _ _ _ _ _ =>
    (match ord with
     | none | some .dev | some .pod | some .sys => true
     | _ => false)
  | .atomBlk _ op _ _ _ _ cc _ | .atomDie _ op _ _ _ _ cc _ => op.isCas || cc == .v 0
  | .cpyAtom _ _ _ wr _ _ _ _ cc => wr || cc == .v 0
  | .sysrd _ n _ => n.toNat ≤ 0x0E && n.toNat ≠ 0x0D || 0x100 ≤ n.toNat && n.toNat ≤ 0x105
  | .syswr _ n _ => [0x009, 0x00C, 0x101, 0x102, 0x105].contains n.toNat
  | .finj _ k die _ => !die || k == .poison
  | _ => true

/-- The predicate fields of R47. -/
def Ctl.ok (N : Nat) (c : Ctl) : Bool := (c.pe || (!c.pn && c.p == 0)) && c.p.toNat < N

end Sys2Proof
end

