-- ==== Sys2Proof/WellFormed.lean ====
section
/-! DEFINITION. Well-formed instruction words: the checks of R62 on SUB, on modifiers, on the predicate and on
operands, as they apply to the syntax. `N` is the kernel's register count (R31). -/

namespace Sys2Proof

/-- The word's SUB is in its opcode's space (check 5 of R62). -/
def Instr.subWf (i : Instr) : Bool := i.subOk

/-- The word's fields break no rule that does not depend on the kernel (check 6 of R62). -/
def Instr.fieldsWf (i : Instr) : Bool := i.modsOk && (match i.ctl? with | some c => c.pe || (!c.pn && c.p == 0) | none => true)

/-- Every operand and predicate register respects the limits of a kernel of `N` registers (R31, R33-R35, R47). -/
def Instr.limitsWf (N : Nat) (i : Instr) : Bool :=
  i.uses.all (fun u => u.1.ok N u.2) && (match i.ctl? with | some c => c.ok N | none => true)

/-- An instruction word that decode accepts in a kernel of `N` registers. -/
def Instr.wf (N : Nat) (i : Instr) : Bool := i.subWf && i.fieldsWf && i.limitsWf N

end Sys2Proof
end

