-- ==== Sys2Proof/Decode.lean ====
section
/-! DEFINITION. Decoding and encoding of instruction words (02_encoding R46-R51, R59-R62). `decode` is total on
96-bit words. It reads the fields of a word, and accepts the word only when the instruction read encodes back to
the same bits, so every reserved bit and every unused field is checked (R47). -/

namespace Sys2Proof

/-- Why a word is no instruction (R61): emulation class, unassigned opcode, SUB outside its space, and a breach of
the field rules. The limits that depend on the kernel's register count are checked at issue. -/
inductive DecErr where
  | emul | unassigned | sub | reserved
  deriving DecidableEq, Repr

/-- The fields of a word (R46), with the control bits [15:0] together. -/
structure Raw where
  opc : BitVec 8
  sub : BitVec 8
  x : BitVec 24
  c : BitVec 10
  b : BitVec 10
  a : BitVec 10
  d : BitVec 10
  ctl : BitVec 16
  deriving DecidableEq, Repr

/-- The word with the given fields (R46). -/
def Raw.pack (r : Raw) : IWord := r.opc ++ r.sub ++ r.x ++ r.c ++ r.b ++ r.a ++ r.d ++ r.ctl

/-- The fields of a word (R46). -/
def Raw.unpack (w : IWord) : Raw where
  opc := w.extractLsb' 88 8
  sub := w.extractLsb' 80 8
  x := w.extractLsb' 56 24
  c := w.extractLsb' 46 10
  b := w.extractLsb' 36 10
  a := w.extractLsb' 26 10
  d := w.extractLsb' 16 10
  ctl := w.extractLsb' 0 16

/-- The immediate of formats I and B: word bits [77:46] (R48). -/
def Raw.imm (r : Raw) : Word := r.x.extractLsb' 0 22 ++ r.c
/-- X of a word of format I or B with modifier bits `mi` and immediate `v`. -/
def immX (mi : BitVec 2) (v : Word) : BitVec 24 := mi ++ v.extractLsb' 10 22
/-- Field C of a word of format I or B with immediate `v`. -/
def immC (v : Word) : BitVec 10 := v.extractLsb' 0 10

/-- Word bits [15:0] (R46). -/
def Ctl.enc (k : Ctl) : BitVec 16 :=
  BitVec.ofBool k.pe ++ BitVec.ofBool k.pn ++ k.p ++ 0#1 ++ BitVec.ofBool k.stop ++ k.stall
def Ctl.dec (w : BitVec 16) : Ctl where
  pe := w.getLsbD 15
  pn := w.getLsbD 14
  p := w.extractLsb' 6 8
  stop := w.getLsbD 4
  stall := w.extractLsb' 0 4

/-- An operand field: level in [9:8], index in [7:0] (R33). -/
def Opnd.enc : Opnd → BitVec 10
  | .v i => 0#2 ++ i
  | .o i => 1#2 ++ 0#5 ++ i
  | .lat => 0x200#10
  | .spec i => 3#2 ++ i
def Opnd.dec (w : BitVec 10) : Option Opnd :=
  match (w.extractLsb' 8 2).toNat with
  | 0 => some (.v (w.extractLsb' 0 8))
  | 1 => if w.extractLsb' 3 5 = 0 then some (.o (w.extractLsb' 0 3)) else none
  | 2 => if w.extractLsb' 0 8 = 0 then some .lat else none
  | _ => some (.spec (w.extractLsb' 0 8))

def Ty.all : List Ty :=
  [.s8, .s16, .s32, .s64, .n8, .n16, .n32, .n64, .b32, .b64, .f16, .f32, .f64, .bf16, .f16x2, .bf16x2, .e4m3, .e5m2,
   .e3m2, .e2m1, .e8m0]
/-- Type codes (R50). -/
def Ty.enc (t : Ty) : BitVec 8 := BitVec.ofNat 8 t.code
def Ty.dec (w : BitVec 8) : Option Ty := Ty.all.find? (fun t => t.enc == w)

def Rm.enc : Rm → BitVec 2
  | .rn => 0#2 | .rz => 1#2 | .ru => 2#2 | .rd => 3#2
def Rm.dec (w : BitVec 2) : Rm :=
  match w.toNat with
  | 0 => .rn | 1 => .rz | 2 => .ru | _ => .rd
def Rel.enc : Rel → BitVec 4
  | .eq => 0#4 | .ne => 1#4 | .lt => 2#4 | .le => 3#4 | .gt => 4#4 | .ge => 5#4 | .num => 6#4 | .nan => 7#4
def Rel.dec (w : BitVec 4) : Option Rel :=
  match w.toNat with
  | 0 => some .eq | 1 => some .ne | 2 => some .lt | 3 => some .le | 4 => some .gt | 5 => some .ge | 6 => some .num
  | 7 => some .nan | _ => none
def ShflMode.enc : ShflMode → BitVec 2
  | .idx => 0#2 | .up => 1#2 | .down => 2#2 | .xor => 3#2
def ShflMode.dec (w : BitVec 2) : ShflMode :=
  match w.toNat with
  | 0 => .idx | 1 => .up | 2 => .down | _ => .xor
def VoteKind.enc : VoteKind → BitVec 2
  | .any => 0#2 | .all => 1#2 | .ballot => 2#2
def VoteKind.dec (w : BitVec 2) : Option VoteKind :=
  match w.toNat with
  | 0 => some .any | 1 => some .all | 2 => some .ballot | _ => none
def FenceKind.enc : FenceKind → BitVec 2
  | .acq => 1#2 | .rel => 2#2 | .ar => 3#2
def FenceKind.dec (w : BitVec 2) : Option FenceKind :=
  match w.toNat with
  | 1 => some .acq | 2 => some .rel | 3 => some .ar | _ => none
def InjKind.enc : InjKind → BitVec 4
  | .acc => 0#4 | .poison => 1#4 | .parity => 2#4 | .cevt => 3#4
def InjKind.dec (w : BitVec 4) : Option InjKind :=
  match w.toNat with
  | 0 => some .acc | 1 => some .poison | 2 => some .parity | 3 => some .cevt | _ => none
/-- SPACE of R51. -/
def Sp.enc : Sp → BitVec 1
  | .blk => 0#1 | .die => 1#1
def Sp.dec (b : Bool) : Sp := if b then .die else .blk
/-- SIZE of R51. -/
def Size.enc : Size → BitVec 3
  | .n8 => 0#3 | .s8 => 1#3 | .n16 => 2#3 | .s16 => 3#3 | .b32 => 4#3 | .b64 => 5#3 | .b128 => 6#3
def Size.dec (w : BitVec 3) : Option Size :=
  match w.toNat with
  | 0 => some .n8 | 1 => some .s8 | 2 => some .n16 | 3 => some .s16 | 4 => some .b32 | 5 => some .b64
  | 6 => some .b128 | _ => none
/-- SCOPE of R51. -/
def Scope.enc : Scope → BitVec 3
  | .grp => 0#3 | .blk => 1#3 | .gang => 2#3 | .die => 3#3 | .dev => 4#3 | .pod => 5#3 | .sys => 6#3
def Scope.dec (w : BitVec 3) : Option Scope :=
  match w.toNat with
  | 0 => some .grp | 1 => some .blk | 2 => some .gang | 3 => some .die | 4 => some .dev | 5 => some .pod
  | 6 => some .sys | _ => none
/-- ORD and SCOPE, SUB bits [3:0] of the ordered forms (R51). -/
def ordEnc : Option Scope → BitVec 4
  | none => 0#4
  | some s => 1#1 ++ s.enc
def ordDec (w : BitVec 4) : Option (Option Scope) :=
  if w.getLsbD 3 then (Scope.dec (w.extractLsb' 0 3)).map some else some none
/-- OP of R51. -/
def AOp.enc : AOp → BitVec 4
  | .add32 => 0#4 | .add64 => 1#4 | .minS => 2#4 | .minN => 3#4 | .maxS => 4#4 | .maxN => 5#4 | .and => 6#4
  | .or => 7#4 | .xor => 8#4 | .xchg32 => 9#4 | .xchg64 => 10#4 | .inc => 11#4 | .dec => 12#4 | .fadd => 13#4
  | .cas32 => 14#4 | .cas64 => 15#4
def AOp.ofBits (w : BitVec 4) : AOp :=
  match w.toNat with
  | 0 => .add32 | 1 => .add64 | 2 => .minS | 3 => .minN | 4 => .maxS | 5 => .maxN | 6 => .and | 7 => .or
  | 8 => .xor | 9 => .xchg32 | 10 => .xchg64 | 11 => .inc | 12 => .dec | 13 => .fadd | 14 => .cas32 | _ => .cas64

/-- The assigned major opcodes below the emulation class (R59). -/
inductive Op where
  | nop | bra | brz | brnz | call | ret | jmp | jcall | exit | yield | sigchk | stopmark | waitc | add | sub
  | mulLo | mulHi | mad | min | max | abs | and | or | xor | andn | not | shl | shr | sar | rot | bfe | bfi
  | popc | clz | ctz | brev | sel | cmp | lea | ext | trunc | mov | movs | addImm | subImm | mulLoImm | andImm
  | orImm | xorImm | movImm | shfl | vote | bcast | matchAny | scanAdd | lanemask | fadd | fsub | fmul | ffma
  | fmin | fmax | fcmp | fclass | frcp | frsq | fsqrt | fexp2 | flog2 | fsin | fcos | fround | fldexp | ffrexp
  | fdot2 | cvt | cvtSr | bpack | bunpack | wclr | wbase | wfma | wadd | wsign | wrnd | mma | mloop | mmab
  | mzero | maccLd | maccSt | mdrain | mchk | mloc | mfix | mretry | mprog | mtol | ld | st | spill | fill
  | atomBlk | atomDie | redBlk | redDie | ldr | stc | fence | aflush | halloc | hfree | cpy | cpy2d | gather
  | scatter | cpyAtom | cpyDigest | bclose | bwait | rmtLd | rmtSt | rmtAtom | rmtWait | bar | gbar | bbar
  | ringPut | ringGet | ringPeek | launch | signal | semWait | semPost | podt | trap | rti | sysrd | syswr
  | quench | snap | finj | leaseChk | evt
  deriving DecidableEq, Repr

/-- The major opcode of each operation (R59). -/
def Op.code : Op → Nat
  | .nop => 0x00 | .bra => 0x01 | .brz => 0x02 | .brnz => 0x03 | .call => 0x04 | .ret => 0x05 | .jmp => 0x06
  | .jcall => 0x07 | .exit => 0x08 | .yield => 0x09 | .sigchk => 0x0A | .stopmark => 0x0B | .waitc => 0x0C
  | .add => 0x10 | .sub => 0x11 | .mulLo => 0x12 | .mulHi => 0x13 | .mad => 0x14 | .min => 0x15 | .max => 0x16
  | .abs => 0x17 | .and => 0x18 | .or => 0x19 | .xor => 0x1A | .andn => 0x1B | .not => 0x1C | .shl => 0x1D
  | .shr => 0x1E | .sar => 0x1F | .rot => 0x20 | .bfe => 0x21 | .bfi => 0x22 | .popc => 0x23 | .clz => 0x24
  | .ctz => 0x25 | .brev => 0x26 | .sel => 0x27 | .cmp => 0x28 | .lea => 0x29 | .ext => 0x2A | .trunc => 0x2B
  | .mov => 0x2C | .movs => 0x2D | .addImm => 0x30 | .subImm => 0x31 | .mulLoImm => 0x32 | .andImm => 0x33
  | .orImm => 0x34 | .xorImm => 0x35 | .movImm => 0x36 | .shfl => 0x40 | .vote => 0x41 | .bcast => 0x42
  | .matchAny => 0x43 | .scanAdd => 0x44 | .lanemask => 0x45 | .fadd => 0x50 | .fsub => 0x51 | .fmul => 0x52
  | .ffma => 0x53 | .fmin => 0x54 | .fmax => 0x55 | .fcmp => 0x56 | .fclass => 0x57 | .frcp => 0x58
  | .frsq => 0x59 | .fsqrt => 0x5A | .fexp2 => 0x5B | .flog2 => 0x5C | .fsin => 0x5D | .fcos => 0x5E
  | .fround => 0x5F | .fldexp => 0x60 | .ffrexp => 0x61 | .fdot2 => 0x62 | .cvt => 0x70 | .cvtSr => 0x71
  | .bpack => 0x72 | .bunpack => 0x73 | .wclr => 0x80 | .wbase => 0x81 | .wfma => 0x82 | .wadd => 0x83
  | .wsign => 0x84 | .wrnd => 0x85 | .mma => 0x90 | .mloop => 0x91 | .mmab => 0x92 | .mzero => 0x93
  | .maccLd => 0x94 | .maccSt => 0x95 | .mdrain => 0x96 | .mchk => 0x97 | .mloc => 0x98 | .mfix => 0x99
  | .mretry => 0x9A | .mprog => 0x9B | .mtol => 0x9C | .ld => 0xA0 | .st => 0xA1 | .spill => 0xA2
  | .fill => 0xA3 | .atomBlk => 0xA4 | .atomDie => 0xA5 | .redBlk => 0xA6 | .redDie => 0xA7 | .ldr => 0xA8
  | .stc => 0xA9 | .fence => 0xAA | .aflush => 0xAB | .halloc => 0xAC | .hfree => 0xAD | .cpy => 0xC0
  | .cpy2d => 0xC1 | .gather => 0xC2 | .scatter => 0xC3 | .cpyAtom => 0xC4 | .cpyDigest => 0xC5
  | .bclose => 0xC6 | .bwait => 0xC7 | .rmtLd => 0xC8 | .rmtSt => 0xC9 | .rmtAtom => 0xCA | .rmtWait => 0xCB
  | .bar => 0xD0 | .gbar => 0xD1 | .bbar => 0xD2 | .ringPut => 0xD3 | .ringGet => 0xD4 | .ringPeek => 0xD5
  | .launch => 0xD6 | .signal => 0xD7 | .semWait => 0xD8 | .semPost => 0xD9 | .podt => 0xDA | .trap => 0xE0
  | .rti => 0xE1 | .sysrd => 0xE2 | .syswr => 0xE3 | .quench => 0xE4 | .snap => 0xE5 | .finj => 0xE6
  | .leaseChk => 0xE7 | .evt => 0xE8

/-- Every assigned opcode, in the order of R59. -/
def Op.all : List Op :=
  [Op.nop, .bra, .brz, .brnz, .call, .ret, .jmp, .jcall, .exit, .yield, .sigchk, .stopmark, .waitc, .add, .sub, .mulLo] ++
  [Op.mulHi, .mad, .min, .max, .abs, .and, .or, .xor, .andn, .not, .shl, .shr, .sar, .rot, .bfe, .bfi] ++
  [Op.popc, .clz, .ctz, .brev, .sel, .cmp, .lea, .ext, .trunc, .mov, .movs, .addImm, .subImm, .mulLoImm, .andImm, .orImm] ++
  [Op.xorImm, .movImm, .shfl, .vote, .bcast, .matchAny, .scanAdd, .lanemask, .fadd, .fsub, .fmul, .ffma, .fmin, .fmax, .fcmp, .fclass] ++
  [Op.frcp, .frsq, .fsqrt, .fexp2, .flog2, .fsin, .fcos, .fround, .fldexp, .ffrexp, .fdot2, .cvt, .cvtSr, .bpack, .bunpack, .wclr] ++
  [Op.wbase, .wfma, .wadd, .wsign, .wrnd, .mma, .mloop, .mmab, .mzero, .maccLd, .maccSt, .mdrain, .mchk, .mloc, .mfix, .mretry] ++
  [Op.mprog, .mtol, .ld, .st, .spill, .fill, .atomBlk, .atomDie, .redBlk, .redDie, .ldr, .stc, .fence, .aflush, .halloc, .hfree] ++
  [Op.cpy, .cpy2d, .gather, .scatter, .cpyAtom, .cpyDigest, .bclose, .bwait, .rmtLd, .rmtSt, .rmtAtom, .rmtWait, .bar, .gbar, .bbar, .ringPut] ++
  [Op.ringGet, .ringPeek, .launch, .signal, .semWait, .semPost, .podt, .trap, .rti, .sysrd, .syswr, .quench, .snap, .finj, .leaseChk, .evt]

def Op.ofCode (n : Nat) : Option Op := Op.all.find? (fun o => o.code == n)

/-- SUB of a load, store, `ldr` or `stc`: SIZE 0b111 and SCOPE 7 name nothing (R51). -/
def memSub (s : Nat) : Bool := (s / 16) % 8 != 7 && s % 8 != 7

/-- The SUB space of each opcode (R59, R51). -/
def Op.subOk (o : Op) (s : Nat) : Bool :=
  match o with
  | .nop | .bra | .brz | .brnz | .call | .ret | .jmp | .jcall | .exit | .yield | .sigchk | .stopmark | .waitc
  | .movs | .wclr | .wbase | .wsign | .mzero | .maccLd | .maccSt | .mdrain | .mchk | .mloc | .mfix | .mretry
  | .mprog | .aflush | .hfree | .gather | .scatter | .cpyDigest | .bclose | .bwait | .rmtWait | .bar | .gbar
  | .bbar | .ringPut | .ringGet | .ringPeek | .launch | .signal | .semWait | .semPost | .podt | .trap | .rti
  | .sysrd | .syswr | .quench | .snap | .finj | .leaseChk | .evt => s == 0
  | .add | .sub | .mad | .min | .max | .ext | .addImm | .subImm => (Ty.int4).any (fun t => t.code == s)
  | .mulLo | .mulHi | .bfe | .mulLoImm | .scanAdd => (Ty.int2).any (fun t => t.code == s)
  | .abs | .sar => ([Ty.s32, .s64]).any (fun t => t.code == s)
  | .and | .or | .xor | .andn | .not | .shl | .shr | .rot | .popc | .clz | .ctz | .brev | .sel | .mov | .andImm
  | .orImm | .xorImm | .movImm | .bcast | .matchAny => (Ty.bit2).any (fun t => t.code == s)
  | .bfi => ([Ty.b32]).any (fun t => t.code == s)
  | .cmp => (Ty.int4 ++ Ty.bit2).any (fun t => t.code == s)
  | .lea => ([Ty.n32, .n64]).any (fun t => t.code == s)
  | .trunc => (Ty.narrow).any (fun t => t.code == s)
  | .shfl => s < 4
  | .vote => s < 3
  | .lanemask | .halloc | .cpy | .cpy2d => s < 2
  | .fadd | .fsub | .fmul | .ffma | .fmin | .fmax => (Ty.flt6).any (fun t => t.code == s)
  | .fcmp | .fclass | .fround => (Ty.flt4).any (fun t => t.code == s)
  | .frcp | .frsq | .fsqrt | .fexp2 | .flog2 | .fsin | .fcos | .fldexp | .ffrexp =>
    (Ty.flt2).any (fun t => t.code == s)
  | .fdot2 => ([Ty.f16x2, .bf16x2]).any (fun t => t.code == s)
  | .cvt => (Ty.cvtD).any (fun t => t.code == s)
  | .cvtSr | .bpack | .bunpack => (Ty.small).any (fun t => t.code == s)
  | .wfma | .wadd | .wrnd => ([Ty.f64]).any (fun t => t.code == s)
  | .mma | .mloop => (Ty.mat7).any (fun t => t.code == s)
  | .mmab => (Ty.mat5).any (fun t => t.code == s)
  | .mtol => (Ty.mtol).any (fun t => t.code == s)
  | .ld => memSub s
  | .st => memSub s && (s / 16) % 8 != 1 && (s / 16) % 8 != 3
  | .spill | .fill => [0x40, 0x50, 0x60].contains s
  | .atomBlk | .atomDie | .rmtAtom => s % 8 != 7
  | .redBlk | .redDie => s % 16 == 0 && !([9, 10, 14, 15] : List Nat).contains (s / 16)
  | .ldr | .stc => memSub s && ((s / 16) % 8 == 4 || (s / 16) % 8 == 5)
  | .fence => s < 64 && s / 16 != 0 && (s / 8) % 2 == 0 && s % 8 != 7
  | .cpyAtom => s % 16 == 0
  | .rmtLd => memSub s && s < 128 && (s / 16) % 8 != 6
  | .rmtSt => memSub s && s < 128 && !([1, 3, 6] : List Nat).contains ((s / 16) % 8)

/-- The instruction that the fields of a word name, its reserved bits and unused fields not yet checked. -/
def Op.parse (o : Op) (r : Raw) : Option Instr :=
  let k := Ctl.dec r.ctl
  match o with
  | .nop => some (.nop k)
  | .bra => some (.bra k r.imm)
  | .brz => do
    let a ← Opnd.dec r.a
    some (.brz k a r.imm)
  | .brnz => do
    let a ← Opnd.dec r.a
    some (.brnz k a r.imm)
  | .call => do
    let d ← Opnd.dec r.d
    some (.call k d r.imm)
  | .ret => do
    let a ← Opnd.dec r.a
    some (.ret k a)
  | .jmp => do
    let a ← Opnd.dec r.a
    some (.jmp k a)
  | .jcall => do
    let d ← Opnd.dec r.d
    let a ← Opnd.dec r.a
    some (.jcall k d a)
  | .exit => some (.exit k)
  | .yield => some (.yield k)
  | .sigchk => some (.sigchk k r.imm)
  | .stopmark => some (.stopmark k)
  | .waitc => do
    let a ← Opnd.dec r.a
    some (.waitc k a)
  | .add => do
    let t ← Ty.dec r.sub
    let sat := r.x.getLsbD 23
    let d ← Opnd.dec r.d
    let a ← Opnd.dec r.a
    let b ← Opnd.dec r.b
    some (.add k t sat d a b)
  | .sub => do
    let t ← Ty.dec r.sub
    let sat := r.x.getLsbD 23
    let d ← Opnd.dec r.d
    let a ← Opnd.dec r.a
    let b ← Opnd.dec r.b
    some (.sub k t sat d a b)
  | .mulLo => do
    let t ← Ty.dec r.sub
    let d ← Opnd.dec r.d
    let a ← Opnd.dec r.a
    let b ← Opnd.dec r.b
    some (.mulLo k t d a b)
  | .mulHi => do
    let t ← Ty.dec r.sub
    let d ← Opnd.dec r.d
    let a ← Opnd.dec r.a
    let b ← Opnd.dec r.b
    some (.mulHi k t d a b)
  | .mad => do
    let t ← Ty.dec r.sub
    let d ← Opnd.dec r.d
    let a ← Opnd.dec r.a
    let b ← Opnd.dec r.b
    let cc ← Opnd.dec r.c
    some (.mad k t d a b cc)
  | .min => do
    let t ← Ty.dec r.sub
    let d ← Opnd.dec r.d
    let a ← Opnd.dec r.a
    let b ← Opnd.dec r.b
    some (.min k t d a b)
  | .max => do
    let t ← Ty.dec r.sub
    let d ← Opnd.dec r.d
    let a ← Opnd.dec r.a
    let b ← Opnd.dec r.b
    some (.max k t d a b)
  | .abs => do
    let t ← Ty.dec r.sub
    let sat := r.x.getLsbD 23
    let d ← Opnd.dec r.d
    let a ← Opnd.dec r.a
    some (.abs k t sat d a)
  | .and => do
    let t ← Ty.dec r.sub
    let d ← Opnd.dec r.d
    let a ← Opnd.dec r.a
    let b ← Opnd.dec r.b
    some (.and k t d a b)
  | .or => do
    let t ← Ty.dec r.sub
    let d ← Opnd.dec r.d
    let a ← Opnd.dec r.a
    let b ← Opnd.dec r.b
    some (.or k t d a b)
  | .xor => do
    let t ← Ty.dec r.sub
    let d ← Opnd.dec r.d
    let a ← Opnd.dec r.a
    let b ← Opnd.dec r.b
    some (.xor k t d a b)
  | .andn => do
    let t ← Ty.dec r.sub
    let d ← Opnd.dec r.d
    let a ← Opnd.dec r.a
    let b ← Opnd.dec r.b
    some (.andn k t d a b)
  | .not => do
    let t ← Ty.dec r.sub
    let d ← Opnd.dec r.d
    let a ← Opnd.dec r.a
    some (.not k t d a)
  | .shl => do
    let t ← Ty.dec r.sub
    let d ← Opnd.dec r.d
    let a ← Opnd.dec r.a
    let b ← Opnd.dec r.b
    some (.shl k t d a b)
  | .shr => do
    let t ← Ty.dec r.sub
    let d ← Opnd.dec r.d
    let a ← Opnd.dec r.a
    let b ← Opnd.dec r.b
    some (.shr k t d a b)
  | .sar => do
    let t ← Ty.dec r.sub
    let d ← Opnd.dec r.d
    let a ← Opnd.dec r.a
    let b ← Opnd.dec r.b
    some (.sar k t d a b)
  | .rot => do
    let t ← Ty.dec r.sub
    let d ← Opnd.dec r.d
    let a ← Opnd.dec r.a
    let b ← Opnd.dec r.b
    some (.rot k t d a b)
  | .bfe => do
    let t ← Ty.dec r.sub
    let d ← Opnd.dec r.d
    let a ← Opnd.dec r.a
    let b ← Opnd.dec r.b
    let cc ← Opnd.dec r.c
    some (.bfe k t d a b cc)
  | .bfi => do
    let d ← Opnd.dec r.d
    let a ← Opnd.dec r.a
    let b ← Opnd.dec r.b
    let cc ← Opnd.dec r.c
    some (.bfi k d a b cc)
  | .popc => do
    let t ← Ty.dec r.sub
    let d ← Opnd.dec r.d
    let a ← Opnd.dec r.a
    some (.popc k t d a)
  | .clz => do
    let t ← Ty.dec r.sub
    let d ← Opnd.dec r.d
    let a ← Opnd.dec r.a
    some (.clz k t d a)
  | .ctz => do
    let t ← Ty.dec r.sub
    let d ← Opnd.dec r.d
    let a ← Opnd.dec r.a
    some (.ctz k t d a)
  | .brev => do
    let t ← Ty.dec r.sub
    let d ← Opnd.dec r.d
    let a ← Opnd.dec r.a
    some (.brev k t d a)
  | .sel => do
    let t ← Ty.dec r.sub
    let d ← Opnd.dec r.d
    let a ← Opnd.dec r.a
    let b ← Opnd.dec r.b
    let cc ← Opnd.dec r.c
    some (.sel k t d a b cc)
  | .cmp => do
    let t ← Ty.dec r.sub
    let rel ← Rel.dec (r.x.extractLsb' 20 4)
    let d ← Opnd.dec r.d
    let a ← Opnd.dec r.a
    let b ← Opnd.dec r.b
    some (.cmp k t rel d a b)
  | .lea => do
    let t ← Ty.dec r.sub
    let sh := r.x.extractLsb' 20 4
    let sx := r.x.getLsbD 19
    let d ← Opnd.dec r.d
    let a ← Opnd.dec r.a
    let b ← Opnd.dec r.b
    some (.lea k t sh sx d a b)
  | .ext => do
    let t ← Ty.dec r.sub
    let ts ← Ty.dec (r.x.extractLsb' 16 8)
    let d ← Opnd.dec r.d
    let a ← Opnd.dec r.a
    some (.ext k t ts d a)
  | .trunc => do
    let t ← Ty.dec r.sub
    let ts ← Ty.dec (r.x.extractLsb' 16 8)
    let sat := r.x.getLsbD 15
    let d ← Opnd.dec r.d
    let a ← Opnd.dec r.a
    some (.trunc k t ts sat d a)
  | .mov => do
    let t ← Ty.dec r.sub
    let d ← Opnd.dec r.d
    let a ← Opnd.dec r.a
    some (.mov k t d a)
  | .movs => do
    let sreg := r.x.extractLsb' 16 8
    let fmt := r.x.extractLsb' 8 8
    let d ← Opnd.dec r.d
    some (.movs k sreg fmt d)
  | .addImm => do
    let t ← Ty.dec r.sub
    let d ← Opnd.dec r.d
    let a ← Opnd.dec r.a
    some (.addImm k t (r.x.getLsbD 23) d a r.imm)
  | .subImm => do
    let t ← Ty.dec r.sub
    let d ← Opnd.dec r.d
    let a ← Opnd.dec r.a
    some (.subImm k t (r.x.getLsbD 23) d a r.imm)
  | .mulLoImm => do
    let t ← Ty.dec r.sub
    let d ← Opnd.dec r.d
    let a ← Opnd.dec r.a
    some (.mulLoImm k t d a r.imm)
  | .andImm => do
    let t ← Ty.dec r.sub
    let d ← Opnd.dec r.d
    let a ← Opnd.dec r.a
    some (.andImm k t d a r.imm)
  | .orImm => do
    let t ← Ty.dec r.sub
    let d ← Opnd.dec r.d
    let a ← Opnd.dec r.a
    some (.orImm k t d a r.imm)
  | .xorImm => do
    let t ← Ty.dec r.sub
    let d ← Opnd.dec r.d
    let a ← Opnd.dec r.a
    some (.xorImm k t d a r.imm)
  | .movImm => do
    let t ← Ty.dec r.sub
    let d ← Opnd.dec r.d
    some (.movImm k t d r.imm)
  | .shfl => do
    let d ← Opnd.dec r.d
    let a ← Opnd.dec r.a
    let b ← Opnd.dec r.b
    some (.shfl k (ShflMode.dec (r.sub.extractLsb' 0 2)) (r.x.getLsbD 23) d a b)
  | .vote => do
    let m ← VoteKind.dec (r.sub.extractLsb' 0 2)
    let d ← Opnd.dec r.d
    let a ← Opnd.dec r.a
    some (.vote k m d a)
  | .bcast => do
    let t ← Ty.dec r.sub
    let d ← Opnd.dec r.d
    let a ← Opnd.dec r.a
    some (.bcast k t d a)
  | .matchAny => do
    let t ← Ty.dec r.sub
    let d ← Opnd.dec r.d
    let a ← Opnd.dec r.a
    some (.matchAny k t d a)
  | .scanAdd => do
    let t ← Ty.dec r.sub
    let ex := r.x.getLsbD 23
    let d ← Opnd.dec r.d
    let a ← Opnd.dec r.a
    some (.scanAdd k t ex d a)
  | .lanemask => do
    let d ← Opnd.dec r.d
    let a ← Opnd.dec r.a
    some (.lanemask k (r.sub.getLsbD 0) d a)
  | .fadd => do
    let t ← Ty.dec r.sub
    let rm := Rm.dec (r.x.extractLsb' 22 2)
    let d ← Opnd.dec r.d
    let a ← Opnd.dec r.a
    let b ← Opnd.dec r.b
    some (.fadd k t rm d a b)
  | .fsub => do
    let t ← Ty.dec r.sub
    let rm := Rm.dec (r.x.extractLsb' 22 2)
    let d ← Opnd.dec r.d
    let a ← Opnd.dec r.a
    let b ← Opnd.dec r.b
    some (.fsub k t rm d a b)
  | .fmul => do
    let t ← Ty.dec r.sub
    let rm := Rm.dec (r.x.extractLsb' 22 2)
    let d ← Opnd.dec r.d
    let a ← Opnd.dec r.a
    let b ← Opnd.dec r.b
    some (.fmul k t rm d a b)
  | .ffma => do
    let t ← Ty.dec r.sub
    let rm := Rm.dec (r.x.extractLsb' 22 2)
    let d ← Opnd.dec r.d
    let a ← Opnd.dec r.a
    let b ← Opnd.dec r.b
    let cc ← Opnd.dec r.c
    some (.ffma k t rm d a b cc)
  | .fmin => do
    let t ← Ty.dec r.sub
    let nanp := r.x.getLsbD 23
    let d ← Opnd.dec r.d
    let a ← Opnd.dec r.a
    let b ← Opnd.dec r.b
    some (.fmin k t nanp d a b)
  | .fmax => do
    let t ← Ty.dec r.sub
    let nanp := r.x.getLsbD 23
    let d ← Opnd.dec r.d
    let a ← Opnd.dec r.a
    let b ← Opnd.dec r.b
    some (.fmax k t nanp d a b)
  | .fcmp => do
    let t ← Ty.dec r.sub
    let rel ← Rel.dec (r.x.extractLsb' 20 4)
    let d ← Opnd.dec r.d
    let a ← Opnd.dec r.a
    let b ← Opnd.dec r.b
    some (.fcmp k t rel d a b)
  | .fclass => do
    let t ← Ty.dec r.sub
    let d ← Opnd.dec r.d
    let a ← Opnd.dec r.a
    some (.fclass k t d a)
  | .frcp => do
    let t ← Ty.dec r.sub
    let rm := Rm.dec (r.x.extractLsb' 22 2)
    let d ← Opnd.dec r.d
    let a ← Opnd.dec r.a
    some (.frcp k t rm d a)
  | .frsq => do
    let t ← Ty.dec r.sub
    let rm := Rm.dec (r.x.extractLsb' 22 2)
    let d ← Opnd.dec r.d
    let a ← Opnd.dec r.a
    some (.frsq k t rm d a)
  | .fsqrt => do
    let t ← Ty.dec r.sub
    let rm := Rm.dec (r.x.extractLsb' 22 2)
    let d ← Opnd.dec r.d
    let a ← Opnd.dec r.a
    some (.fsqrt k t rm d a)
  | .fexp2 => do
    let t ← Ty.dec r.sub
    let d ← Opnd.dec r.d
    let a ← Opnd.dec r.a
    some (.fexp2 k t d a)
  | .flog2 => do
    let t ← Ty.dec r.sub
    let d ← Opnd.dec r.d
    let a ← Opnd.dec r.a
    some (.flog2 k t d a)
  | .fsin => do
    let t ← Ty.dec r.sub
    let d ← Opnd.dec r.d
    let a ← Opnd.dec r.a
    some (.fsin k t d a)
  | .fcos => do
    let t ← Ty.dec r.sub
    let d ← Opnd.dec r.d
    let a ← Opnd.dec r.a
    some (.fcos k t d a)
  | .fround => do
    let t ← Ty.dec r.sub
    let rm := Rm.dec (r.x.extractLsb' 22 2)
    let d ← Opnd.dec r.d
    let a ← Opnd.dec r.a
    some (.fround k t rm d a)
  | .fldexp => do
    let t ← Ty.dec r.sub
    let rm := Rm.dec (r.x.extractLsb' 22 2)
    let d ← Opnd.dec r.d
    let a ← Opnd.dec r.a
    let b ← Opnd.dec r.b
    some (.fldexp k t rm d a b)
  | .ffrexp => do
    let t ← Ty.dec r.sub
    let part := r.x.getLsbD 23
    let d ← Opnd.dec r.d
    let a ← Opnd.dec r.a
    some (.ffrexp k t part d a)
  | .fdot2 => do
    let t ← Ty.dec r.sub
    let rm := Rm.dec (r.x.extractLsb' 22 2)
    let d ← Opnd.dec r.d
    let a ← Opnd.dec r.a
    let b ← Opnd.dec r.b
    let cc ← Opnd.dec r.c
    some (.fdot2 k t rm d a b cc)
  | .cvt => do
    let t ← Ty.dec r.sub
    let ts ← Ty.dec (r.x.extractLsb' 16 8)
    let sat := r.x.getLsbD 15
    let rm := Rm.dec (r.x.extractLsb' 13 2)
    let d ← Opnd.dec r.d
    let a ← Opnd.dec r.a
    some (.cvt k t ts sat rm d a)
  | .cvtSr => do
    let t ← Ty.dec r.sub
    let ts ← Ty.dec (r.x.extractLsb' 16 8)
    let sat := r.x.getLsbD 15
    let d ← Opnd.dec r.d
    let a ← Opnd.dec r.a
    let b ← Opnd.dec r.b
    some (.cvtSr k t ts sat d a b)
  | .bpack => do
    let t ← Ty.dec r.sub
    let d ← Opnd.dec r.d
    let a ← Opnd.dec r.a
    some (.bpack k t d a)
  | .bunpack => do
    let t ← Ty.dec r.sub
    let d ← Opnd.dec r.d
    let a ← Opnd.dec r.a
    some (.bunpack k t d a)
  | .wclr => do
    let d ← Opnd.dec r.d
    some (.wclr k d)
  | .wbase => do
    let d ← Opnd.dec r.d
    let a ← Opnd.dec r.a
    let b ← Opnd.dec r.b
    some (.wbase k d a b)
  | .wfma => do
    let neg := r.x.getLsbD 23
    let d ← Opnd.dec r.d
    let a ← Opnd.dec r.a
    let b ← Opnd.dec r.b
    let cc ← Opnd.dec r.c
    some (.wfma k neg d a b cc)
  | .wadd => do
    let neg := r.x.getLsbD 23
    let d ← Opnd.dec r.d
    let a ← Opnd.dec r.a
    let cc ← Opnd.dec r.c
    some (.wadd k neg d a cc)
  | .wsign => do
    let d ← Opnd.dec r.d
    let a ← Opnd.dec r.a
    some (.wsign k d a)
  | .wrnd => do
    let rm := Rm.dec (r.x.extractLsb' 22 2)
    let d ← Opnd.dec r.d
    let a ← Opnd.dec r.a
    let cc ← Opnd.dec r.c
    some (.wrnd k rm d a cc)
  | .mma => do
    let t ← Ty.dec r.sub
    let d ← Opnd.dec r.d
    let a ← Opnd.dec r.a
    let b ← Opnd.dec r.b
    let cc ← Opnd.dec r.c
    some (.mma k t (r.x.getLsbD 22) (if r.x.getLsbD 21 then some (r.x.extractLsb' 8 8) else none) d a b cc)
  | .mloop => do
    let t ← Ty.dec r.sub
    let d ← Opnd.dec r.d
    let a ← Opnd.dec r.a
    let b ← Opnd.dec r.b
    let cc ← Opnd.dec r.c
    some (.mloop k t (r.x.extractLsb' 21 3) (r.x.getLsbD 20) (r.x.getLsbD 19) (r.x.getLsbD 18) (r.x.getLsbD 17) (r.x.getLsbD 7) d a b cc)
  | .mmab => do
    let t ← Ty.dec r.sub
    let a ← Opnd.dec r.a
    let b ← Opnd.dec r.b
    some (.mmab k t (r.x.extractLsb' 21 3) (if r.x.getLsbD 19 then some (r.x.extractLsb' 8 8) else none) a b)
  | .mzero => some (.mzero k (r.x.extractLsb' 21 3))
  | .maccLd => do
    let a ← Opnd.dec r.a
    some (.maccLd k (r.x.extractLsb' 21 3) (r.x.getLsbD 20) (r.x.getLsbD 19) a)
  | .maccSt => do
    let a ← Opnd.dec r.a
    some (.maccSt k (r.x.extractLsb' 21 3) (r.x.getLsbD 20) (r.x.getLsbD 19) a)
  | .mdrain => do
    let d ← Opnd.dec r.d
    some (.mdrain k (r.x.extractLsb' 21 3) d)
  | .mchk => do
    let d ← Opnd.dec r.d
    some (.mchk k (r.x.extractLsb' 21 3) (r.x.getLsbD 20) d)
  | .mloc => do
    let d ← Opnd.dec r.d
    some (.mloc k (r.x.extractLsb' 21 3) d)
  | .mfix => do
    let d ← Opnd.dec r.d
    some (.mfix k (r.x.extractLsb' 21 3) d)
  | .mretry => some (.mretry k (r.x.extractLsb' 21 3) (r.x.getLsbD 19))
  | .mprog => do
    let d ← Opnd.dec r.d
    some (.mprog k d)
  | .mtol => do
    let t ← Ty.dec r.sub
    let a ← Opnd.dec r.a
    some (.mtol k t a)
  | .ld => do
    let sz ← Size.dec (r.sub.extractLsb' 4 3)
    let od ← ordDec (r.sub.extractLsb' 0 4)
    let d ← Opnd.dec r.d
    let a ← Opnd.dec r.a
    some (.ld k (Sp.dec (r.sub.getLsbD 7)) sz od d a r.x)
  | .st => do
    let sz ← Size.dec (r.sub.extractLsb' 4 3)
    let od ← ordDec (r.sub.extractLsb' 0 4)
    let a ← Opnd.dec r.a
    let b ← Opnd.dec r.b
    some (.st k (Sp.dec (r.sub.getLsbD 7)) sz od a b r.x)
  | .spill => do
    let sz ← Size.dec (r.sub.extractLsb' 4 3)
    let a ← Opnd.dec r.a
    let b ← Opnd.dec r.b
    some (.spill k sz a b r.x)
  | .fill => do
    let sz ← Size.dec (r.sub.extractLsb' 4 3)
    let d ← Opnd.dec r.d
    let a ← Opnd.dec r.a
    some (.fill k sz d a r.x)
  | .atomBlk => do
    let op := AOp.ofBits (r.sub.extractLsb' 4 4)
    let od ← ordDec (r.sub.extractLsb' 0 4)
    let d ← Opnd.dec r.d
    let a ← Opnd.dec r.a
    let b ← Opnd.dec r.b
    let cc ← Opnd.dec r.c
    some (.atomBlk k op od d a b cc r.x)
  | .atomDie => do
    let op := AOp.ofBits (r.sub.extractLsb' 4 4)
    let od ← ordDec (r.sub.extractLsb' 0 4)
    let d ← Opnd.dec r.d
    let a ← Opnd.dec r.a
    let b ← Opnd.dec r.b
    let cc ← Opnd.dec r.c
    some (.atomDie k op od d a b cc r.x)
  | .redBlk => do
    let op := AOp.ofBits (r.sub.extractLsb' 4 4)
    let a ← Opnd.dec r.a
    let b ← Opnd.dec r.b
    some (.redBlk k op a b r.x)
  | .redDie => do
    let op := AOp.ofBits (r.sub.extractLsb' 4 4)
    let a ← Opnd.dec r.a
    let b ← Opnd.dec r.b
    some (.redDie k op a b r.x)
  | .ldr => do
    let od ← ordDec (r.sub.extractLsb' 0 4)
    let d ← Opnd.dec r.d
    let a ← Opnd.dec r.a
    some (.ldr k (Sp.dec (r.sub.getLsbD 7)) (r.sub.getLsbD 4) od d a r.x)
  | .stc => do
    let od ← ordDec (r.sub.extractLsb' 0 4)
    let d ← Opnd.dec r.d
    let a ← Opnd.dec r.a
    let b ← Opnd.dec r.b
    some (.stc k (Sp.dec (r.sub.getLsbD 7)) (r.sub.getLsbD 4) od d a b r.x)
  | .fence => do
    let m ← FenceKind.dec (r.sub.extractLsb' 4 2)
    let sc ← Scope.dec (r.sub.extractLsb' 0 3)
    some (.fence k m sc)
  | .aflush => do
    let d ← Opnd.dec r.d
    some (.aflush k d)
  | .halloc => do
    let d ← Opnd.dec r.d
    let a ← Opnd.dec r.a
    let b ← Opnd.dec r.b
    some (.halloc k (r.sub.getLsbD 0) d a b)
  | .hfree => do
    let a ← Opnd.dec r.a
    let b ← Opnd.dec r.b
    let cc ← Opnd.dec r.c
    some (.hfree k a b cc)
  | .cpy => do
    let d ← Opnd.dec r.d
    let a ← Opnd.dec r.a
    let b ← Opnd.dec r.b
    let cc ← Opnd.dec r.c
    some (.cpy k (r.sub.getLsbD 0) (r.x.extractLsb' 19 5) (r.x.getLsbD 18) (r.x.getLsbD 7) d a b cc)
  | .cpy2d => do
    let d ← Opnd.dec r.d
    let a ← Opnd.dec r.a
    let b ← Opnd.dec r.b
    let cc ← Opnd.dec r.c
    some (.cpy2d k (r.sub.getLsbD 0) (r.x.extractLsb' 19 5) (r.x.getLsbD 18) (r.x.getLsbD 7) d a b cc)
  | .gather => do
    let d ← Opnd.dec r.d
    let a ← Opnd.dec r.a
    let b ← Opnd.dec r.b
    let cc ← Opnd.dec r.c
    some (.gather k (if r.x.getLsbD 17 then some (r.x.extractLsb' 19 5) else none) (r.x.getLsbD 18) (r.x.extractLsb' 14 3) (r.x.getLsbD 7) d a b cc)
  | .scatter => do
    let d ← Opnd.dec r.d
    let a ← Opnd.dec r.a
    let b ← Opnd.dec r.b
    let cc ← Opnd.dec r.c
    some (.scatter k (if r.x.getLsbD 17 then some (r.x.extractLsb' 19 5) else none) (r.x.getLsbD 18) (r.x.extractLsb' 14 3) (r.x.getLsbD 7) d a b cc)
  | .cpyAtom => do
    let op := AOp.ofBits (r.sub.extractLsb' 4 4)
    let d ← Opnd.dec r.d
    let a ← Opnd.dec r.a
    let b ← Opnd.dec r.b
    let cc ← Opnd.dec r.c
    some (.cpyAtom k op (r.x.extractLsb' 19 5) (r.x.getLsbD 18) (r.x.getLsbD 7) d a b cc)
  | .cpyDigest => do
    let d ← Opnd.dec r.d
    let a ← Opnd.dec r.a
    let b ← Opnd.dec r.b
    let cc ← Opnd.dec r.c
    some (.cpyDigest k (if r.x.getLsbD 18 then none else some (r.x.extractLsb' 19 5)) (r.x.getLsbD 7) d a b cc)
  | .bclose => do
    let sc ← Scope.dec (r.x.extractLsb' 21 3)
    let d ← Opnd.dec r.d
    some (.bclose k sc d)
  | .bwait => do
    let a ← Opnd.dec r.a
    some (.bwait k a r.imm)
  | .rmtLd => do
    let sz ← Size.dec (r.sub.extractLsb' 4 3)
    let od ← ordDec (r.sub.extractLsb' 0 4)
    let d ← Opnd.dec r.d
    let a ← Opnd.dec r.a
    let cc ← Opnd.dec r.c
    some (.rmtLd k sz od d a cc r.x)
  | .rmtSt => do
    let sz ← Size.dec (r.sub.extractLsb' 4 3)
    let od ← ordDec (r.sub.extractLsb' 0 4)
    let a ← Opnd.dec r.a
    let b ← Opnd.dec r.b
    let cc ← Opnd.dec r.c
    some (.rmtSt k sz od a b cc r.x)
  | .rmtAtom => do
    let op := AOp.ofBits (r.sub.extractLsb' 4 4)
    let od ← ordDec (r.sub.extractLsb' 0 4)
    let d ← Opnd.dec r.d
    let a ← Opnd.dec r.a
    let b ← Opnd.dec r.b
    let cc ← Opnd.dec r.c
    some (.rmtAtom k op od d a b cc r.x)
  | .rmtWait => some (.rmtWait k)
  | .bar => some (.bar k)
  | .gbar => some (.gbar k)
  | .bbar => do
    let a ← Opnd.dec r.a
    let b ← Opnd.dec r.b
    some (.bbar k a b)
  | .ringPut => do
    let a ← Opnd.dec r.a
    let b ← Opnd.dec r.b
    some (.ringPut k a b)
  | .ringGet => do
    let d ← Opnd.dec r.d
    let a ← Opnd.dec r.a
    some (.ringGet k d a)
  | .ringPeek => do
    let d ← Opnd.dec r.d
    let a ← Opnd.dec r.a
    some (.ringPeek k d a)
  | .launch => do
    let d ← Opnd.dec r.d
    let a ← Opnd.dec r.a
    some (.launch k d a)
  | .signal => do
    let intr := r.x.getLsbD 23
    let a ← Opnd.dec r.a
    let b ← Opnd.dec r.b
    some (.signal k intr a b)
  | .semWait => do
    let d ← Opnd.dec r.d
    let a ← Opnd.dec r.a
    let b ← Opnd.dec r.b
    some (.semWait k d a b)
  | .semPost => do
    let a ← Opnd.dec r.a
    let b ← Opnd.dec r.b
    some (.semPost k a b)
  | .podt => do
    let d ← Opnd.dec r.d
    some (.podt k d)
  | .trap => some (.trap k (r.x.extractLsb' 0 16))
  | .rti => some (.rti k)
  | .sysrd => do
    let d ← Opnd.dec r.d
    some (.sysrd k (r.x.extractLsb' 0 12) d)
  | .syswr => do
    let a ← Opnd.dec r.a
    some (.syswr k (r.x.extractLsb' 0 12) a)
  | .quench => some (.quench k)
  | .snap => some (.snap k)
  | .finj => do
    let m ← InjKind.dec (r.x.extractLsb' 0 4)
    let a ← Opnd.dec r.a
    some (.finj k m (r.x.getLsbD 4) a)
  | .leaseChk => do
    let d ← Opnd.dec r.d
    let a ← Opnd.dec r.a
    some (.leaseChk k d a)
  | .evt => do
    let a ← Opnd.dec r.a
    let b ← Opnd.dec r.b
    some (.evt k a b)

/-- The fields of each instruction word below the emulation class (R48 and each entry). -/
def Instr.raw : Instr → Option Raw
  | .nop k => some (mk .nop k 0#8 0#24 0#10 0#10 0#10 0#10)
  | .bra k s => some (mk .bra k 0#8 (immX 0#2 s) (immC s) 0#10 0#10 0#10)
  | .brz k a s => some (mk .brz k 0#8 (immX 0#2 s) (immC s) 0#10 a.enc 0#10)
  | .brnz k a s => some (mk .brnz k 0#8 (immX 0#2 s) (immC s) 0#10 a.enc 0#10)
  | .call k d s => some (mk .call k 0#8 (immX 0#2 s) (immC s) 0#10 0#10 d.enc)
  | .ret k a => some (mk .ret k 0#8 0#24 0#10 0#10 a.enc 0#10)
  | .jmp k a => some (mk .jmp k 0#8 0#24 0#10 0#10 a.enc 0#10)
  | .jcall k d a => some (mk .jcall k 0#8 0#24 0#10 0#10 a.enc d.enc)
  | .exit k => some (mk .exit k 0#8 0#24 0#10 0#10 0#10 0#10)
  | .yield k => some (mk .yield k 0#8 0#24 0#10 0#10 0#10 0#10)
  | .sigchk k s => some (mk .sigchk k 0#8 (immX 0#2 s) (immC s) 0#10 0#10 0#10)
  | .stopmark k => some (mk .stopmark k 0#8 0#24 0#10 0#10 0#10 0#10)
  | .waitc k a => some (mk .waitc k 0#8 0#24 0#10 0#10 a.enc 0#10)
  | .add k t sat d a b => some (mk .add k t.enc (BitVec.ofBool sat ++ 0#23) 0#10 b.enc a.enc d.enc)
  | .sub k t sat d a b => some (mk .sub k t.enc (BitVec.ofBool sat ++ 0#23) 0#10 b.enc a.enc d.enc)
  | .mulLo k t d a b => some (mk .mulLo k t.enc 0#24 0#10 b.enc a.enc d.enc)
  | .mulHi k t d a b => some (mk .mulHi k t.enc 0#24 0#10 b.enc a.enc d.enc)
  | .mad k t d a b cc => some (mk .mad k t.enc 0#24 cc.enc b.enc a.enc d.enc)
  | .min k t d a b => some (mk .min k t.enc 0#24 0#10 b.enc a.enc d.enc)
  | .max k t d a b => some (mk .max k t.enc 0#24 0#10 b.enc a.enc d.enc)
  | .abs k t sat d a => some (mk .abs k t.enc (BitVec.ofBool sat ++ 0#23) 0#10 0#10 a.enc d.enc)
  | .and k t d a b => some (mk .and k t.enc 0#24 0#10 b.enc a.enc d.enc)
  | .or k t d a b => some (mk .or k t.enc 0#24 0#10 b.enc a.enc d.enc)
  | .xor k t d a b => some (mk .xor k t.enc 0#24 0#10 b.enc a.enc d.enc)
  | .andn k t d a b => some (mk .andn k t.enc 0#24 0#10 b.enc a.enc d.enc)
  | .not k t d a => some (mk .not k t.enc 0#24 0#10 0#10 a.enc d.enc)
  | .shl k t d a b => some (mk .shl k t.enc 0#24 0#10 b.enc a.enc d.enc)
  | .shr k t d a b => some (mk .shr k t.enc 0#24 0#10 b.enc a.enc d.enc)
  | .sar k t d a b => some (mk .sar k t.enc 0#24 0#10 b.enc a.enc d.enc)
  | .rot k t d a b => some (mk .rot k t.enc 0#24 0#10 b.enc a.enc d.enc)
  | .bfe k t d a b cc => some (mk .bfe k t.enc 0#24 cc.enc b.enc a.enc d.enc)
  | .bfi k d a b cc => some (mk .bfi k Ty.b32.enc 0#24 cc.enc b.enc a.enc d.enc)
  | .popc k t d a => some (mk .popc k t.enc 0#24 0#10 0#10 a.enc d.enc)
  | .clz k t d a => some (mk .clz k t.enc 0#24 0#10 0#10 a.enc d.enc)
  | .ctz k t d a => some (mk .ctz k t.enc 0#24 0#10 0#10 a.enc d.enc)
  | .brev k t d a => some (mk .brev k t.enc 0#24 0#10 0#10 a.enc d.enc)
  | .sel k t d a b cc => some (mk .sel k t.enc 0#24 cc.enc b.enc a.enc d.enc)
  | .cmp k t rel d a b => some (mk .cmp k t.enc (rel.enc ++ 0#20) 0#10 b.enc a.enc d.enc)
  | .lea k t sh sx d a b => some (mk .lea k t.enc (sh ++ BitVec.ofBool sx ++ 0#19) 0#10 b.enc a.enc d.enc)
  | .ext k t ts d a => some (mk .ext k t.enc (ts.enc ++ 0#16) 0#10 0#10 a.enc d.enc)
  | .trunc k t ts sat d a => some (mk .trunc k t.enc (ts.enc ++ BitVec.ofBool sat ++ 0#15) 0#10 0#10 a.enc d.enc)
  | .mov k t d a => some (mk .mov k t.enc 0#24 0#10 0#10 a.enc d.enc)
  | .movs k sreg fmt d => some (mk .movs k 0#8 (sreg ++ fmt ++ 0#8) 0#10 0#10 0#10 d.enc)
  | .addImm k t sat d a v => some (mk .addImm k t.enc (immX (BitVec.ofBool sat ++ 0#1) v) (immC v) 0#10 a.enc d.enc)
  | .subImm k t sat d a v => some (mk .subImm k t.enc (immX (BitVec.ofBool sat ++ 0#1) v) (immC v) 0#10 a.enc d.enc)
  | .mulLoImm k t d a v => some (mk .mulLoImm k t.enc (immX 0#2 v) (immC v) 0#10 a.enc d.enc)
  | .andImm k t d a v => some (mk .andImm k t.enc (immX 0#2 v) (immC v) 0#10 a.enc d.enc)
  | .orImm k t d a v => some (mk .orImm k t.enc (immX 0#2 v) (immC v) 0#10 a.enc d.enc)
  | .xorImm k t d a v => some (mk .xorImm k t.enc (immX 0#2 v) (immC v) 0#10 a.enc d.enc)
  | .movImm k t d v => some (mk .movImm k t.enc (immX 0#2 v) (immC v) 0#10 0#10 d.enc)
  | .shfl k m w d a b => some (mk .shfl k (0#6 ++ m.enc) (BitVec.ofBool w ++ 0#23) 0#10 b.enc a.enc d.enc)
  | .vote k m d a => some (mk .vote k (0#6 ++ m.enc) 0#24 0#10 0#10 a.enc d.enc)
  | .bcast k t d a => some (mk .bcast k t.enc 0#24 0#10 0#10 a.enc d.enc)
  | .matchAny k t d a => some (mk .matchAny k t.enc 0#24 0#10 0#10 a.enc d.enc)
  | .scanAdd k t ex d a => some (mk .scanAdd k t.enc (BitVec.ofBool ex ++ 0#23) 0#10 0#10 a.enc d.enc)
  | .lanemask k m d a => some (mk .lanemask k (0#7 ++ BitVec.ofBool m) 0#24 0#10 0#10 a.enc d.enc)
  | .fadd k t rm d a b => some (mk .fadd k t.enc (rm.enc ++ 0#22) 0#10 b.enc a.enc d.enc)
  | .fsub k t rm d a b => some (mk .fsub k t.enc (rm.enc ++ 0#22) 0#10 b.enc a.enc d.enc)
  | .fmul k t rm d a b => some (mk .fmul k t.enc (rm.enc ++ 0#22) 0#10 b.enc a.enc d.enc)
  | .ffma k t rm d a b cc => some (mk .ffma k t.enc (rm.enc ++ 0#22) cc.enc b.enc a.enc d.enc)
  | .fmin k t nanp d a b => some (mk .fmin k t.enc (BitVec.ofBool nanp ++ 0#23) 0#10 b.enc a.enc d.enc)
  | .fmax k t nanp d a b => some (mk .fmax k t.enc (BitVec.ofBool nanp ++ 0#23) 0#10 b.enc a.enc d.enc)
  | .fcmp k t rel d a b => some (mk .fcmp k t.enc (rel.enc ++ 0#20) 0#10 b.enc a.enc d.enc)
  | .fclass k t d a => some (mk .fclass k t.enc 0#24 0#10 0#10 a.enc d.enc)
  | .frcp k t rm d a => some (mk .frcp k t.enc (rm.enc ++ 0#22) 0#10 0#10 a.enc d.enc)
  | .frsq k t rm d a => some (mk .frsq k t.enc (rm.enc ++ 0#22) 0#10 0#10 a.enc d.enc)
  | .fsqrt k t rm d a => some (mk .fsqrt k t.enc (rm.enc ++ 0#22) 0#10 0#10 a.enc d.enc)
  | .fexp2 k t d a => some (mk .fexp2 k t.enc 0#24 0#10 0#10 a.enc d.enc)
  | .flog2 k t d a => some (mk .flog2 k t.enc 0#24 0#10 0#10 a.enc d.enc)
  | .fsin k t d a => some (mk .fsin k t.enc 0#24 0#10 0#10 a.enc d.enc)
  | .fcos k t d a => some (mk .fcos k t.enc 0#24 0#10 0#10 a.enc d.enc)
  | .fround k t rm d a => some (mk .fround k t.enc (rm.enc ++ 0#22) 0#10 0#10 a.enc d.enc)
  | .fldexp k t rm d a b => some (mk .fldexp k t.enc (rm.enc ++ 0#22) 0#10 b.enc a.enc d.enc)
  | .ffrexp k t part d a => some (mk .ffrexp k t.enc (BitVec.ofBool part ++ 0#23) 0#10 0#10 a.enc d.enc)
  | .fdot2 k t rm d a b cc => some (mk .fdot2 k t.enc (rm.enc ++ 0#22) cc.enc b.enc a.enc d.enc)
  | .cvt k t ts sat rm d a => some (mk .cvt k t.enc (ts.enc ++ BitVec.ofBool sat ++ rm.enc ++ 0#13) 0#10 0#10 a.enc d.enc)
  | .cvtSr k t ts sat d a b => some (mk .cvtSr k t.enc (ts.enc ++ BitVec.ofBool sat ++ 0#15) 0#10 b.enc a.enc d.enc)
  | .bpack k t d a => some (mk .bpack k t.enc 0#24 0#10 0#10 a.enc d.enc)
  | .bunpack k t d a => some (mk .bunpack k t.enc 0#24 0#10 0#10 a.enc d.enc)
  | .wclr k d => some (mk .wclr k 0#8 0#24 0#10 0#10 0#10 d.enc)
  | .wbase k d a b => some (mk .wbase k 0#8 0#24 0#10 b.enc a.enc d.enc)
  | .wfma k neg d a b cc => some (mk .wfma k Ty.f64.enc (BitVec.ofBool neg ++ 0#23) cc.enc b.enc a.enc d.enc)
  | .wadd k neg d a cc => some (mk .wadd k Ty.f64.enc (BitVec.ofBool neg ++ 0#23) cc.enc 0#10 a.enc d.enc)
  | .wsign k d a => some (mk .wsign k 0#8 0#24 0#10 0#10 a.enc d.enc)
  | .wrnd k rm d a cc => some (mk .wrnd k Ty.f64.enc (rm.enc ++ 0#22) cc.enc 0#10 a.enc d.enc)
  | .mma k t m scr d a b cc => some (mk .mma k t.enc (0#1 ++ BitVec.ofBool m ++ BitVec.ofBool scr.isSome ++ 0#5 ++ scr.getD 0#8 ++ 0#8) cc.enc b.enc a.enc d.enc)
  | .mloop k t tile sc acc adie bdie cls d a b cc => some (mk .mloop k t.enc (tile ++ BitVec.ofBool sc ++ BitVec.ofBool acc ++ BitVec.ofBool adie ++ BitVec.ofBool bdie ++ 0#9 ++ BitVec.ofBool cls ++ 0#7) cc.enc b.enc a.enc d.enc)
  | .mmab k t tile scr a b => some (mk .mmab k t.enc (tile ++ 0#1 ++ BitVec.ofBool scr.isSome ++ 0#3 ++ scr.getD 0#8 ++ 0#8) 0#10 b.enc a.enc 0#10)
  | .mzero k tile => some (mk .mzero k 0#8 (tile ++ 0#21) 0#10 0#10 0#10 0#10)
  | .maccLd k tile die cls a => some (mk .maccLd k 0#8 (tile ++ BitVec.ofBool die ++ BitVec.ofBool cls ++ 0#19) 0#10 0#10 a.enc 0#10)
  | .maccSt k tile die cls a => some (mk .maccSt k 0#8 (tile ++ BitVec.ofBool die ++ BitVec.ofBool cls ++ 0#19) 0#10 0#10 a.enc 0#10)
  | .mdrain k tile d => some (mk .mdrain k 0#8 (tile ++ 0#21) 0#10 0#10 0#10 d.enc)
  | .mchk k tile frag d => some (mk .mchk k 0#8 (tile ++ BitVec.ofBool frag ++ 0#20) 0#10 0#10 0#10 d.enc)
  | .mloc k tile d => some (mk .mloc k 0#8 (tile ++ 0#21) 0#10 0#10 0#10 d.enc)
  | .mfix k tile d => some (mk .mfix k 0#8 (tile ++ 0#21) 0#10 0#10 0#10 d.enc)
  | .mretry k tile cls => some (mk .mretry k 0#8 (tile ++ 0#1 ++ BitVec.ofBool cls ++ 0#19) 0#10 0#10 0#10 0#10)
  | .mprog k d => some (mk .mprog k 0#8 0#24 0#10 0#10 0#10 d.enc)
  | .mtol k t a => some (mk .mtol k t.enc 0#24 0#10 0#10 a.enc 0#10)
  | .ld k sp sz od d a ofs => some (mk .ld k (sp.enc ++ sz.enc ++ ordEnc od) ofs 0#10 0#10 a.enc d.enc)
  | .st k sp sz od a b ofs => some (mk .st k (sp.enc ++ sz.enc ++ ordEnc od) ofs 0#10 b.enc a.enc 0#10)
  | .spill k sz a b ofs => some (mk .spill k (0#1 ++ sz.enc ++ 0#4) ofs 0#10 b.enc a.enc 0#10)
  | .fill k sz d a ofs => some (mk .fill k (0#1 ++ sz.enc ++ 0#4) ofs 0#10 0#10 a.enc d.enc)
  | .atomBlk k op od d a b cc ofs => some (mk .atomBlk k (op.enc ++ ordEnc od) ofs cc.enc b.enc a.enc d.enc)
  | .atomDie k op od d a b cc ofs => some (mk .atomDie k (op.enc ++ ordEnc od) ofs cc.enc b.enc a.enc d.enc)
  | .redBlk k op a b ofs => some (mk .redBlk k (op.enc ++ 0#4) ofs 0#10 b.enc a.enc 0#10)
  | .redDie k op a b ofs => some (mk .redDie k (op.enc ++ 0#4) ofs 0#10 b.enc a.enc 0#10)
  | .ldr k sp w od d a ofs => some (mk .ldr k (sp.enc ++ 2#2 ++ BitVec.ofBool w ++ ordEnc od) ofs 0#10 0#10 a.enc d.enc)
  | .stc k sp w od d a b ofs => some (mk .stc k (sp.enc ++ 2#2 ++ BitVec.ofBool w ++ ordEnc od) ofs 0#10 b.enc a.enc d.enc)
  | .fence k m sc => some (mk .fence k (0#2 ++ m.enc ++ 0#1 ++ sc.enc) 0#24 0#10 0#10 0#10 0#10)
  | .aflush k d => some (mk .aflush k 0#8 0#24 0#10 0#10 0#10 d.enc)
  | .halloc k m d a b => some (mk .halloc k (0#7 ++ BitVec.ofBool m) 0#24 0#10 b.enc a.enc d.enc)
  | .hfree k a b cc => some (mk .hfree k 0#8 0#24 cc.enc b.enc a.enc 0#10)
  | .cpy k out rng die cls d a b cc => some (mk .cpy k (0#7 ++ BitVec.ofBool out) (rng ++ BitVec.ofBool die ++ 0#10 ++ BitVec.ofBool cls ++ 0#7) cc.enc b.enc a.enc d.enc)
  | .cpy2d k out rng die cls d a b cc => some (mk .cpy2d k (0#7 ++ BitVec.ofBool out) (rng ++ BitVec.ofBool die ++ 0#10 ++ BitVec.ofBool cls ++ 0#7) cc.enc b.enc a.enc d.enc)
  | .gather k far die esz cls d a b cc => some (mk .gather k 0#8 (far.getD 0#5 ++ BitVec.ofBool die ++ BitVec.ofBool far.isSome ++ esz ++ 0#6 ++ BitVec.ofBool cls ++ 0#7) cc.enc b.enc a.enc d.enc)
  | .scatter k far die esz cls d a b cc => some (mk .scatter k 0#8 (far.getD 0#5 ++ BitVec.ofBool die ++ BitVec.ofBool far.isSome ++ esz ++ 0#6 ++ BitVec.ofBool cls ++ 0#7) cc.enc b.enc a.enc d.enc)
  | .cpyAtom k op rng wr cls d a b cc => some (mk .cpyAtom k (op.enc ++ 0#4) (rng ++ BitVec.ofBool wr ++ 0#10 ++ BitVec.ofBool cls ++ 0#7) cc.enc b.enc a.enc d.enc)
  | .cpyDigest k src cls d a b cc => some (mk .cpyDigest k 0#8 (src.getD 0#5 ++ BitVec.ofBool src.isNone ++ 0#10 ++ BitVec.ofBool cls ++ 0#7) cc.enc b.enc a.enc d.enc)
  | .bclose k sc d => some (mk .bclose k 0#8 (sc.enc ++ 0#21) 0#10 0#10 0#10 d.enc)
  | .bwait k a v => some (mk .bwait k 0#8 (immX 0#2 v) (immC v) 0#10 a.enc 0#10)
  | .rmtLd k sz od d a cc ofs => some (mk .rmtLd k (0#1 ++ sz.enc ++ ordEnc od) ofs cc.enc 0#10 a.enc d.enc)
  | .rmtSt k sz od a b cc ofs => some (mk .rmtSt k (0#1 ++ sz.enc ++ ordEnc od) ofs cc.enc b.enc a.enc 0#10)
  | .rmtAtom k op od d a b cc ofs => some (mk .rmtAtom k (op.enc ++ ordEnc od) ofs cc.enc b.enc a.enc d.enc)
  | .rmtWait k => some (mk .rmtWait k 0#8 0#24 0#10 0#10 0#10 0#10)
  | .bar k => some (mk .bar k 0#8 0#24 0#10 0#10 0#10 0#10)
  | .gbar k => some (mk .gbar k 0#8 0#24 0#10 0#10 0#10 0#10)
  | .bbar k a b => some (mk .bbar k 0#8 0#24 0#10 b.enc a.enc 0#10)
  | .ringPut k a b => some (mk .ringPut k 0#8 0#24 0#10 b.enc a.enc 0#10)
  | .ringGet k d a => some (mk .ringGet k 0#8 0#24 0#10 0#10 a.enc d.enc)
  | .ringPeek k d a => some (mk .ringPeek k 0#8 0#24 0#10 0#10 a.enc d.enc)
  | .launch k d a => some (mk .launch k 0#8 0#24 0#10 0#10 a.enc d.enc)
  | .signal k intr a b => some (mk .signal k 0#8 (BitVec.ofBool intr ++ 0#23) 0#10 b.enc a.enc 0#10)
  | .semWait k d a b => some (mk .semWait k 0#8 0#24 0#10 b.enc a.enc d.enc)
  | .semPost k a b => some (mk .semPost k 0#8 0#24 0#10 b.enc a.enc 0#10)
  | .podt k d => some (mk .podt k 0#8 0#24 0#10 0#10 0#10 d.enc)
  | .trap k code => some (mk .trap k 0#8 (0#8 ++ code) 0#10 0#10 0#10 0#10)
  | .rti k => some (mk .rti k 0#8 0#24 0#10 0#10 0#10 0#10)
  | .sysrd k num d => some (mk .sysrd k 0#8 (0#12 ++ num) 0#10 0#10 0#10 d.enc)
  | .syswr k num a => some (mk .syswr k 0#8 (0#12 ++ num) 0#10 0#10 a.enc 0#10)
  | .quench k => some (mk .quench k 0#8 0#24 0#10 0#10 0#10 0#10)
  | .snap k => some (mk .snap k 0#8 0#24 0#10 0#10 0#10 0#10)
  | .finj k m die a => some (mk .finj k 0#8 (0#19 ++ BitVec.ofBool die ++ m.enc) 0#10 0#10 a.enc 0#10)
  | .leaseChk k d a => some (mk .leaseChk k 0#8 0#24 0#10 0#10 a.enc d.enc)
  | .evt k a b => some (mk .evt k 0#8 0#24 0#10 b.enc a.enc 0#10)
  | _ => none
where
  mk (o : Op) (k : Ctl) (sub : BitVec 8) (x : BitVec 24) (c b a d : BitVec 10) : Raw :=
    ⟨BitVec.ofNat 8 o.code, sub, x, c, b, a, d, k.enc⟩

/-- The word of an instruction; `none` for an event, which has no word. The fill word is all ones (R61). -/
def encode : Instr → Option IWord
  | .div t rest => some (0xF2#8 ++ t.enc ++ rest)
  | .rem t rest => some (0xF2#8 ++ (t.enc ||| 0x80#8) ++ rest)
  | .fillWord => some (BitVec.allOnes 96)
  | i => i.raw.map Raw.pack

/-- Decode of an emulation-class word: `div` and `rem` have their own SUB codes, every other word is EMUL (R60). -/
def decodeEmul (w : IWord) : Except DecErr Instr :=
  if w.extractLsb' 88 8 = 0xF2#8 then
    match Ty.dec (w.extractLsb' 80 8 &&& 0x7F#8) with
    | some t =>
      if Ty.int4.contains t then
        .ok (if w.getLsbD 87 then .rem t (w.extractLsb' 0 80) else .div t (w.extractLsb' 0 80))
      else .error .emul
    | none => .error .emul
  else .error .emul

/-- Decode, in the order of R62: fill, emulation class, unassigned opcode, SUB, then the field rules. -/
def decode (w : IWord) : Except DecErr Instr :=
  let r := Raw.unpack w
  if r.opc = 0xFF#8 then .ok .fillWord
  else if 0xF0 ≤ r.opc.toNat ∧ r.opc.toNat ≤ 0xF7 then decodeEmul w
  else
    match Op.ofCode r.opc.toNat with
    | none => .error .unassigned
    | some o =>
      if o.subOk r.sub.toNat then
        match o.parse r with
        | some i => if i.raw = some r && i.fieldsWf then .ok i else .error .reserved
        | none => .error .reserved
      else .error .sub

/-- The instruction read from a word given as the number that the table of operations numbers: bit 0 is the least
significant bit of the 96-bit word. -/
def decodeTableWord (nbits w : Nat) : Option Instr :=
  if nbits ≤ 96 then
    match decode (BitVec.ofNat 96 w) with
    | .ok i => some i
    | .error _ => none
  else none

end Sys2Proof
end

