-- ==== Sys2Proof/Config.lean ====
section
/-! DEFINITION. The constants of the part that the spec fixes, and the free values it leaves open. A free value is
an opaque function with no body: it is applied to the counter State.free and to what it depends on, and nothing in
Lean can know its value. -/

namespace Sys2Proof

/-- Cores per die, per unit and per device (00 R1, 16 R349). -/
def Config.coresPerDie : Nat := 96
def Config.cores : Nat := 192
/-- Bytes of block scratch and of instruction scratch of a core (01 R26). -/
def Config.blockScratch : Nat := 1048576
def Config.instrScratch : Nat := 524288
/-- Bytes of this device's HBM4, 384 GiB (01 R26). -/
def Config.hbmBytes : Nat := 384 * 2 ^ 30
/-- Rotation frame in ticks (01 R16); pattern frame in ticks (15 R322). -/
def Config.turnTicks : Nat := 16
def Config.frameTicks : Nat := 65536
/-- First latency L0 of a copy class, for classes H, X and S, and bytes per turn W (10 R209). -/
def Config.l0 (h : Nat) : CClass → Nat
  | .H => 48
  | .P => 68 * h + 16
  | .X => 240
  | .S => 8
def Config.rate : CClass → Nat
  | .H => 512
  | .P => 64
  | .X => 8
  | .S => 1024
/-- Test-mode enables, correctable-event threshold CETHR and key digests come from the running firmware image's
configuration; this is the threshold's default (18 R416). -/
def Config.cethr : Nat := 256

/-- A free 32-bit value, used for data the spec leaves open (assumption 4). -/
opaque Config.freeWord : Nat → Word
/-- A free byte: memory of a peer device, bytes of a saved image (assumptions 4, 12). -/
opaque Config.freeByte : Nat → Byte
/-- A free natural number, reduced by its reader to the bounds the spec gives (assumptions 7, 8, 14). -/
opaque Config.freeNat : Nat → Nat
/-- Refresh interval and postponement limit, in ticks, that the HBM4 standard gives for the fitted stacks (15 R331, R332): the interval
is at least one tick (assumption 78). -/
opaque Config.freeInterval : Nat
def Config.refreshInterval : Nat := Config.freeInterval + 1
opaque Config.refreshPostpone : Nat
/-- Lanes whose part of a remote request one flit holds, by the bytes of data of a lane: the layout is internal to the part (15 R324,
assumption 16). -/
opaque Config.flitLanes : Nat → Nat
/-- A free natural number for a deterministic grid, of what replay-identical runs share (assumption 70). -/
opaque Config.freeDet : List Nat → Nat

end Sys2Proof
end

