-- ==== Sys2Proof/Machine/State.lean ====
section
/-! DEFINITION. The state of one Lamtal 880 as plain data, its fault and refusal names, and the state right after
reset. INVENTORY.md lists every field with the rule of the spec that names it. -/

namespace Sys2Proof.Machine

/-- A table keyed by number, keys ascending. -/
abbrev Tbl (α : Type) := List (Nat × α)
/-- Bytes by address, addresses ascending; an unlisted byte reads 0 (assumption 5). -/
abbrev Mem := List Host.Cell

/-- A memory with its poison marks, by 64-byte granule number, ascending (01 R28, 10 R221). -/
structure Ram where
  cells : Mem := []
  poison : List Nat := []
  deriving DecidableEq, Repr

/-- Scratch spaces of 09 R182: block scratch, the die scratch of a grid on a die, the spill stack of a group. -/
inductive Space where
  | blk (b : Nat) | die (grid d : Nat) | spill (g : Nat)
  deriving DecidableEq, Repr

/-- The trap record of a parked lane (17 R385), with the word at its PC and the wait count it held (17 R388). -/
structure TrapRec where
  trap : Nat
  cause : Nat
  info : Nat := 0
  targ : Word := 0
  word : IWord := 0
  w : BitVec 16 := 0
  deriving DecidableEq, Repr

/-- Condition of a waiting lane (01 R20). -/
inductive Cond where
  | tick (t : Nat) | batch (w : Word) | bar | gbar | bbar (c : Nat) (target : Word) | ring (ident : Nat) | rti
  deriving DecidableEq, Repr

/-- A waiting lane: condition, tick of the start of the wait, and the tick at which the condition was met. -/
structure WaitSt where
  cond : Cond
  since : Nat
  met : Option Nat := none
  deriving DecidableEq, Repr

/-- Live mask and its complements (01 R19, 17 R382). -/
inductive Life where
  | live | retired | quenched
  deriving DecidableEq, Repr

/-- Reservation of a lane (09 R198-R200): granule a[31:4] in a space, whether it is held, and its place in the
order of R188. -/
structure Resv where
  space : Space
  granule : Nat
  held : Bool
  order : Nat
  deriving DecidableEq, Repr

/-- A lane's part in a running handler (17 R389). -/
inductive Hand where
  | out | inside | reached
  deriving DecidableEq, Repr

/-- A lane of a group (01 R13, 13 R268). `latSeq` is the number of words the group had issued when a result last
landed in the latch (02 R55, assumption 29). -/
structure Lane where
  life : Life := .live
  pc : BitVec 20 := 0
  depth : BitVec 8 := 0
  w : BitVec 16 := 0
  v : List Word := []
  o : List Word := List.replicate 8 0
  lat : DWord := 0
  latSeq : Nat := 0
  qread : Bool := false
  hexh : Bool := false
  wovf : Bool := false
  wait : Option WaitSt := none
  trec : Option TrapRec := none
  sig : Word := 0
  sigSaved : Option Word := none
  sigWord : IWord := 0
  handPc : BitVec 20 := 0
  resv : Option Resv := none
  starve : Bool := false
  hand : Hand := .out
  late : Option TrapRec := none
  seq : Nat := 0
  front : Nat := 0
  frontRd : Nat := 0
  deriving DecidableEq, Repr

/-- One lane's part of a result: registers written, and the flags it raises in the layout of FLAGS [7:0] (04 R90). -/
structure LRes where
  lane : Nat
  ws : List Word
  fl : BitVec 8 := 0
  deriving DecidableEq, Repr

/-- Kind of a pending result: stops and `stopmark` do not count matrix and remote results (02 R57). -/
inductive RKindL where
  | ord | mat | rmt
  deriving DecidableEq, Repr

/-- A register result that has not landed (02 R53, R54): turn, place in program order, destination, values, PC of the
raising word. `quench` are lanes a remote result quenches when it lands (10 R235). -/
structure Landing where
  due : Nat
  seq : Nat
  dst : Opnd
  res : List LRes
  pc : BitVec 20
  kind : RKindL := .ord
  quench : List Nat := []
  deriving DecidableEq, Repr

/-- A pending order requirement (09 R202): scratch accesses, or only writing ones, need a bank turn above `above`; a remote
execution waits for the turn after `acq`, the bank turn of a scratch acquire (11 R247). -/
structure OrdReq where
  writesOnly : Bool
  above : Nat
  acq : Nat := 0
  deriving DecidableEq, Repr

/-- Scratch bytes of a member that are busy, for all accesses or for writes (10 R219). -/
structure Busy where
  space : Space
  adr : Nat
  len : Nat
  all : Bool
  deriving DecidableEq, Repr

/-- A batch member that is not yet in a completed batch (10 R214-R216). -/
structure Member where
  ident : Nat
  batch : Option Word
  done : Bool
  busy : List Busy
  deriving DecidableEq, Repr

/-- A pending ring operation whose lanes wait (14 R307). -/
structure RingOp where
  ident : Nat
  put : Bool
  hdr : Nat
  val : Word
  lanes : Mask
  sigs : List (Nat × Word) := []
  dst : Opnd
  pc : BitVec 20
  tick : Nat
  seq : Nat
  tried : Nat := 0
  deriving DecidableEq, Repr

/-- One execution of a remote instruction (10 R231-R235): lanes with offset, operand and new value; the turns at
which it applies, lands and completes, once drawn. `first` is the first execution of its instruction, and `rel` marks a
release (11 R247). -/
structure RExec where
  ident : Nat
  first : Nat := 0
  rel : Bool := false
  gid : Nat
  peer : Word
  kind : RKind
  size : Nat
  signed : Bool
  lanes : List (Nat × RLane)
  dst : Opnd
  seq : Nat
  pc : BitVec 20
  issue : Nat
  floor : Nat := 0
  apply : Nat
  land : Nat
  done : Nat
  acq : Bool
  applied : Bool
  res : List LRes
  quench : List Nat
  resent : Bool := false
  late : Bool := false
  deriving DecidableEq, Repr

/-- Handler state of a group (17 R386-R390). -/
inductive HPhase where
  | idle
  | capture (from_ until_ : Nat) (lanes : Mask)
  | running
  | restore (until_ : Nat)
  deriving DecidableEq, Repr

/-- Roles of 01 R24. -/
inductive Role where
  | general | stoker | matrix | vector
  deriving DecidableEq, Repr

/-- A resident group. `rwait` is the identifier below which its remote executions hold it (10 R234, and wide fences, 11 R247), and `rnext` the turn
after the last of its executions completed. `sigLane` is the lowest lane of the last issue's I, whose signature `sigReg` is (18 R401); `mark` is the
issue set of a `stopmark` that the group has selected and not issued (13 R286). -/
structure Group where
  pid : Nat := 0
  grid : Nat := 0
  block : Nat := 0
  index : Nat := 0
  core : Nat := 0
  quarter : Nat := 0
  res : Nat := 0
  role : Role := .general
  nregs : Nat := 8
  readyAt : Nat := 0
  slot : Option Nat := none
  slotFrom : Nat := 0
  readySince : Option Nat := none
  lanes : List Lane := []
  live2 : Mask := 0
  te : BitVec 5 := 0
  fl : BitVec 5 := 0
  nq : Nat := 0
  qcause : Nat := 0
  qlane : Nat := 0
  nrec : Nat := 0
  exc : Bool := false
  emask : Mask := 0
  ecnt : Nat := 0
  yld : Bool := false
  next : Nat := 0
  hold : Nat := 0
  stopCnt : Nat := 0
  seq : Nat := 0
  pend : List Landing := []
  hl : Nat := 0
  hs : Nat := 0
  reqs : List OrdReq := []
  last : Word := 0
  compl : Word := 0
  members : List Member := []
  prog : Word := 0
  progSrc : Option Nat := none
  progN : Nat := 0
  mrec : Word := 0
  mrecSrc : Option Nat := none
  mrecN : Nat := 0
  frag : Word := 0x60400000
  spill : Ram := {}
  rings : List RingOp := []
  runq : List RExec := []
  rwait : Nat := 0
  rnext : Nat := 0
  hphase : HPhase := .idle
  hseq : Nat := 0
  sigReg : Word := 0
  sigLane : Nat := 0
  mark : Option Mask := none
  stood : Mask := 0
  stoodFin : Bool := false
  stime : Nat := 0
  fetchHold : Nat := 0
  relFence : Bool := false
  arrived : Bool := false
  haltDone : Bool := false
  deriving DecidableEq, Repr

/-- A closed generation of a barrier: turn of the closing arrival, tick of the first arrival, largest horizon of its
participants, release turn once fixed, and its groups or blocks (14 R308-R310). -/
structure BarGen where
  at_ : Nat
  first : Nat
  hold : Nat
  release : Option Nat
  parts : List Nat
  deriving DecidableEq, Repr

/-- A block barrier or a gang barrier: number of the open generation, its arrivals with the tick of the first, and the generations
closed and not yet released (14 R308-R310). -/
structure Barrier where
  gen : Nat := 0
  arrived : List Nat := []
  first : Option Nat := none
  closed : List BarGen := []
  deriving DecidableEq, Repr

/-- A resident block; `disp` is the turn and `dispTick` the tick of its dispatch, `snap` its snapshot of 18 R415, as bytes. -/
structure Block where
  grid : Nat := 0
  blockId : Nat := 0
  gang : Nat := 0
  core : Nat := 0
  q0 : Nat := 0
  disp : Nat := 0
  dispTick : Nat := 0
  loadAt : Nat := 0
  loaded : Bool := false
  groups : List Nat := []
  scr : Ram := {}
  bar : Barrier := {}
  lc : List Word := List.replicate 16 0
  endAt : Option Nat := none
  endDone : Bool := false
  released : Bool := false
  snap : List Byte := []
  deriving DecidableEq, Repr

/-- One stretch of a translated range or of a stream's ring: virtual offset, length, physical address, target
(host memory when set), widest atomic class, mirrored, and the size of the page it is a part of (16 R360). -/
structure Seg where
  ofs : Nat
  len : Nat
  phys : Nat
  host : Bool
  atomOk : Nat
  mir : Bool
  size : Nat := 65536
  deriving DecidableEq, Repr

/-- An entry of the range table with its translation (03 R76, 10 R211). -/
structure Extent where
  base : Nat
  size : Nat
  acc : Nat
  atom : Nat
  segs : List Seg := []
  deriving DecidableEq, Repr

/-- Launch request (14 R293). -/
structure LReq where
  stream : Nat := 0
  hdr : Word := 0
  tag : Word := 0
  desc : Nat := 0
  start : Nat := 0
  trace : Nat := 0
  own : Nat := 0
  nown : Nat := 0
  tmode : Nat := 0
  wen : Bool := false
  wsem : Nat := 0
  wval : Word := 0
  sen : Bool := false
  ssem : Nat := 0
  sval : Word := 0
  deriving DecidableEq, Repr

/-- Launch descriptor (03 R75). -/
structure Desc where
  dver : Nat := 0
  nlines : Nat := 0
  imgadr : Nat := 0
  trapofs : Word := 0xFFFFFFFF
  nregs : Nat := 8
  ngrp : Nat := 1
  nblkg : Nat := 0
  swz : Nat := 0
  order : Nat := 0
  det : Bool := false
  bscr : Nat := 0
  spill : Nat := 0
  dscr : Nat := 0
  roles : Nat := 0
  nbar : Nat := 1
  ngbar : Nat := 0
  gridx : Nat := 1
  gridy : Nat := 1
  nreloc : Nat := 0
  reloc : Nat := 0
  bdat : Nat := 0
  bdatsz : Nat := 0
  ddatsz : Nat := 0
  ddat : Nat := 0
  coll : Nat := 0
  ranges : Nat := 0
  nrange : Nat := 0
  deriving DecidableEq, Repr

/-- An ownership entry (12 R262). -/
structure Own where
  block : Nat
  die : Bool
  rng : Nat
  ofs : Nat
  len : Nat
  deriving DecidableEq, Repr

/-- A dispatch-trace record (12 R258). -/
structure TRec where
  block : Nat
  forced : Bool
  nent : Nat
  q0 : Nat
  core : Nat
  cyc : Nat
  used : Bool := false
  deriving DecidableEq, Repr

/-- Phases of an accepted grid (14 R296): waiting for residency, ready, being served, started, complete. -/
inductive GPhase where
  | accepted | ready | serving (until_ : Nat) | started | done
  deriving DecidableEq, Repr

/-- An attached collective (15 R341-R346): `step` reads and `landed` chunks are done, `vers` are the shard versions received by rank,
and `told` says that this rank's has been sent. -/
structure Coll where
  op : Nat := 0
  dt : Nat := 0
  rop : Nat := 0
  ssp : Bool := false
  dsp : Bool := false
  vchk : Bool := false
  lci : Nat := 0
  pent : Nat := 0
  gid : Nat := 0
  gen : Nat := 0
  srng : Nat := 0
  src : Nat := 0
  len : Nat := 0
  tblk : Nat := 0
  dofs : Nat := 0
  ver : DWord := 0
  armed : Option Nat := none
  step : Nat := 0
  landed : Nat := 0
  own : Tbl Byte := []
  ownPoison : List Nat := []
  peers : Tbl (Tbl Byte) := []
  peerPoison : Tbl (List Nat) := []
  vers : Tbl DWord := []
  told : Bool := false
  versOk : Bool := false
  retired : Bool := false
  deriving DecidableEq, Repr

/-- A lease from a peer for one of its ranges, with the peer's placement of it (16 R363). -/
structure Lease where
  peer : Nat
  rng : Nat
  state : Nat
  pages : List Nat := []
  answering : Bool := false
  place : List LPage := []
  deriving DecidableEq, Repr

/-- An accepted grid. `ddig` is the digest of its descriptor as decoded, in deterministic mode (12 R257). -/
structure Grid where
  pid : Nat := 0
  stream : Nat := 0
  priv : Bool := false
  req : LReq := {}
  desc : Desc := {}
  exts : List Extent := []
  owns : List Own := []
  trace : List TRec := []
  relocs : List Word := []
  ddig : List Byte := []
  gseq : Nat := 0
  acceptAt : Nat := 0
  residentAt : Option Nat := none
  missed : Bool := false
  phase : GPhase := .accepted
  base : Nat := 0
  start : Nat := 0
  cursor : Nat := 0
  nextUnit : Nat := 0
  order : Nat := 0
  scr0 : Ram := {}
  scr1 : Ram := {}
  nquench : Nat := 0
  ntrap : Nat := 0
  nforced : Nat := 0
  nlate : Nat := 0
  slip : Bool := false
  diverge : Bool := false
  nwritten : Nat := 0
  lostRec : Bool := false
  parFails : List Nat := []
  gbars : Tbl Barrier := []
  coll : Option Coll := none
  fsum : BitVec 7 := 0
  recorded : Bool := false
  lastDone : Option Nat := none
  code : Word := 0
  late : Bool := false
  leases : List Lease := []
  deriving DecidableEq, Repr

/-- A fetch line of instruction scratch: five slots and the line word (02 R39, R40). -/
structure Line where
  slots : List IWord := List.replicate 5 (BitVec.allOnes 96)
  lw : Word := 0
  deriving DecidableEq, Repr

/-- Captured `mloop` (07 R158-R160). -/
structure MLoop where
  tile : Nat
  t : Ty
  sc : Bool
  acc : Bool
  adie : Bool
  bdie : Bool
  abase : Nat
  bbase : Nat
  ainc : Int
  binc : Int
  nk : Nat
  rl : Nat
  deriving DecidableEq, Repr

/-- States of a tile (07 R145). -/
inductive TileSt where
  | empty | open_ | drained
  deriving DecidableEq, Repr

/-- A tile of accumulator memory with its mantle state and record (07 R143, 08 R166). `dm`, `de` hold DELTA
exactly as `dm * 2 ^ de`. -/
structure Tile where
  words : List Word := List.replicate 4096 0
  st : TileSt := .empty
  hem : List Word := List.replicate 64 0
  cuff : List Word := List.replicate 64 0
  int : Bool := false
  mag : Word := 0
  stat : Nat := 6
  ncol : Nat := 0
  nrow : Nat := 0
  retries : Nat := 0
  dm : Int := 0
  de : Int := 0
  row : Nat := 0
  col : Nat := 0
  poison : Bool := false
  retry : Option MLoop := none
  tolTy : Ty := .bf16
  deriving DecidableEq, Repr

/-- Engine commands with their captured sources (07 R146, 08 R176, 16 R377). `srcs` are each lane's source registers. -/
inductive EKind where
  | mma (t : Ty) (m64 sc zero : Bool) (a b cc : List (List Word)) (scr : List Word)
  | mmab (t : Ty) (tile : Nat) (sc : Bool) (a b : List (List Word)) (scr : List (List Word))
  | mloop (m : MLoop) (retry : Bool)
  | mzero (tile : Nat)
  | maccLd (tile : Nat) (sp : Space) (adr : Nat)
  | maccSt (tile : Nat) (sp : Space) (adr : Nat)
  | mdrain (tile : Nat)
  | mchk (tile : Nat) (frag : Bool)
  | mloc (tile : Nat)
  | mfix (tile : Nat)
  | mtol (t : Ty) (v : Word)
  | acc (bit tile row col : Nat)
  deriving DecidableEq, Repr

/-- Data of a K-step of `mloop` that the engine has read and not multiplied yet (07 R161). -/
structure StepData where
  step : Nat
  bytes : List Byte
  poisoned : Bool
  deriving DecidableEq, Repr

/-- A command accepted by a matrix engine, with the turn and the tick of its issue (07 R146-R148, R163). -/
structure ECmd where
  ident : Nat
  gid : Nat
  kind : EKind
  sel : Mask
  dst : Opnd
  seq : Nat
  pc : BitVec 20
  issue : Nat
  tick : Nat := 0
  fill : Nat := 0
  start : Option Nat := none
  occ : Nat := 1
  p0 : Nat := 0
  steps : Nat := 0
  drained : Bool := false
  member : Option Nat := none
  fa : Nat := 0
  fb : Nat := 0
  ra : Nat := 0
  rb : Nat := 0
  da : List StepData := []
  db : List StepData := []
  deriving DecidableEq, Repr

/-- An `mdrain` whose D has not landed: the command, the turn of its start, its tile as it was, and whether its outcome counted as a mantle
event (20 R423, assumption 34). -/
structure DrainRun where
  cmd : ECmd
  start : Nat
  n : Nat
  tile : Tile
  counted : Bool
  deriving DecidableEq, Repr

/-- What a copy command does (10 R222-R226). -/
inductive CKind where
  | move (out : Bool) (rng far : Nat) (sp : Space) (adr rows rlen fstr sstr : Nat)
  | index (scat : Bool) (far : Option Nat) (base : Nat) (sp : Space) (adr esz : Nat) (idx : List Word)
  | atom (op : AOp) (rng : Nat) (lanes : List (Nat × RLane)) (ret : Option Nat)
  | digest (rng : Option Nat) (src : Nat) (dsp : Space) (dst len : Nat)
  deriving DecidableEq, Repr

/-- A command of a copy-class queue (10 R210, R220, R228). `late` is what its far end has delayed it so far, `asked` the number
of units whose reply is in `late`, `src` the contents at acceptance of the scratch spaces it reads (10 R220). -/
structure CCmd where
  ident : Nat
  gid : Nat
  blk : Nat
  grid : Nat
  kind : CKind
  pc : BitVec 20 := 0
  issue : Nat
  start : Option Nat := none
  h : Nat := 0
  units : Nat := 0
  vol : Nat := 0
  done : Nat := 0
  skip : Nat := 0
  late : Nat := 0
  asked : Nat := 0
  drawn : Nat := 0
  mir : Bool := false
  src : List (Space × Ram) := []
  data : List Byte := []
  poisoned : Bool := false
  stopped : Bool := false
  ran : Bool := false
  deriving DecidableEq, Repr

/-- A mirrored member whose engine command has ended, at `plan` − 152 if nothing delayed it, and whose partner's acknowledgement comes at turn
`due` or, where duplicates go later, after them (18 R407). -/
structure MTail where
  due : Nat
  plan : Nat
  gid : Nat
  ident : Nat
  deriving DecidableEq, Repr

/-- An entry of the reduction buffer (12 R264). -/
structure REntry where
  space : Space
  adr : Nat
  op : AOp
  val : DWord
  block : Nat
  gidx : Nat
  lane : Nat
  seq : Nat
  gid : Nat
  tick : Nat
  deriving DecidableEq, Repr

/-- A core. A line that `lines` does not list is the fill line, and while `zeroed` one of zeros (14 R297, 18 R417). -/
structure Core where
  lines : Tbl Line := []
  tiles : List Tile := List.replicate 8 {}
  eq : List ECmd := []
  eEnd : Nat := 0
  cqH : List CCmd := []
  cqP : List CCmd := []
  cqX : List CCmd := []
  cqS : List CCmd := []
  endH : Nat := 0
  endP : Nat := 0
  endX : Nat := 0
  endS : Nat := 0
  tail : List MTail := []
  rbuf : List REntry := []
  rflush : List (Nat × REntry) := []
  rlast : Option Nat := none
  cecnt : Word := 0
  ceWin : Nat := 0
  sigFaults : Nat := 0
  marked : Bool := false
  used : List Nat := []
  refetch : Tbl Nat := []
  zeroed : Bool := false
  drain : Option DrainRun := none
  deriving DecidableEq, Repr

/-- A scratch access waiting for its bank turn (09 R187, R188). -/
inductive AccOp where
  | ld (sz : Size)
  | st (n : Nat)
  | atom (op : AOp) (ret : Bool)
  | ldr (w64 : Bool)
  | stc (w64 : Bool)
  | halloc (mode1 : Bool)
  | hfree
  | put | get | peek
  | launch
  | poison
  | bulk (bad : Bool)
  deriving DecidableEq, Repr

/-- One lane's part of a scratch access: address, operand, second operand; for a word that may park its lanes at the bank
turn, the lane's signature from before its issue (18 R402). -/
structure ALane where
  lane : Nat
  adr : Nat
  b : List Word := []
  c : List Word := []
  sig : Word := 0
  deriving DecidableEq, Repr

structure Access where
  bank : Nat
  tick : Nat
  core : Nat
  quarter : Nat
  gid : Nat
  space : Space
  op : AccOp
  lanes : List ALane
  dst : Opnd
  land : Nat
  seq : Nat
  pc : BitVec 20
  deriving DecidableEq, Repr

/-- A register write of `syswr`, `mtol` or `snap` that takes effect later (16 R374, R376, 08 R176). -/
inductive PWrite where
  | reg (num : Nat) (v : DWord) | tol (t : Ty) (v : Word) | flags (g : Nat) (vals : List (Nat × Word))
  | snap | evt (bytes : List Byte) | parity (core line slot : Nat)
  deriving DecidableEq, Repr

structure Pending where
  due : Nat
  tick : Nat
  core : Nat
  quarter : Nat
  write : PWrite
  deriving DecidableEq, Repr

/-- An isolation violation, a schedule fault or another context fault about to be taken (17 R394, 16 R364). -/
structure CFault where
  bit : Nat
  tick : Nat
  cause : Nat := 0
  master : Nat := 0
  core : Nat := 0xFF
  qtr : Nat := 0
  grp : Nat := 0
  res : Nat := 0
  fpc : Word := 0
  adr : DWord := 0
  peer : Word := 0
  exp : Word := 0
  got : Word := 0
  deriving DecidableEq, Repr

/-- Context states (16 R355). -/
inductive PState where
  | empty | running | stopping | halted | saving | restoring | clearing | frozen
  deriving DecidableEq, Repr

/-- A semaphore access at its semaphore turn, after the group's remote executions below `after` (14 R292, R313). -/
structure SemAcc where
  ident : Nat
  pid : Nat
  turn : Nat
  tick : Nat
  core : Nat
  quarter : Nat
  gid : Nat
  sem : Nat
  kind : Nat
  val : Word
  intr : Bool
  dst : Opnd
  sel : Mask
  seq : Nat
  pc : BitVec 20
  after : Nat := 0
  deriving DecidableEq, Repr

/-- A saved context (16 R358): what RESTORE puts back, and the bytes of the image as SAVE left them (assumption 12). -/
structure Image where
  grids : List (Nat × Grid)
  blocks : List (Nat × Block)
  groups : List (Nat × Group)
  cores : List (Nat × Core)
  sems : Tbl Word
  gctr : Nat
  tol : List (Ty × Word)
  srds : List (Nat × Word)
  semq : List SemAcc
  devseq : Word
  mask : Nat
  asid : Nat
  gen : Nat
  ds : Bool
  stops : List (Nat × List Byte) := []
  bytes : List Byte
  deriving DecidableEq, Repr

/-- A cached translation with its tag (16 R362): the page that a walk found. -/
structure TEntry where
  asid : Nat
  gen : Nat
  base : Nat
  size : Nat
  phys : Nat
  host : Bool
  atomOk : Nat
  mir : Bool
  w : Bool
  rd : Bool
  deriving DecidableEq, Repr

/-- The KIND 4 record of a `launch` that was rejected, until the turn in which it is written (14 R314): stream, TAG, launch status word,
amount, and whether it asks for an interrupt at once. -/
structure LateReject where
  due : Nat
  stream : Nat
  tag : Word
  lstat : Word
  amount : Word
  intr : Bool
  deriving DecidableEq, Repr

/-- A partition's control registers and context (16 R353, R355). `fkey` and `sgkey` are the places in the order of 16 R364 of
the violation and of the SIGNATURE fault that are recorded; `bwdogAt` is the tick at which BWDOG was last written (14 R312); `semStream` is the stream that last stepped on the semaphore
table in turn `semTurn` (14 R292); `stops` are the stop records written last, by their offset in the image (17 R396), and `shard` the streams of grids whose collectives met
SHARD_VERSION in this freeze, with the lowest rank that differs (15 R346). -/
structure Part where
  st : PState := .empty
  cstat : Nat := 0
  fsum : BitVec 7 := 0
  cimg : DWord := 0
  csel : Nat := 0
  ivec : Nat := 0
  test : Bool := false
  sbchk : Bool := false
  fairlim : Nat := 0x400
  bwdog : Word := 0x01000000
  bwdogAt : Nat := 0
  asid : Nat := 0
  gen : Nat := 0
  dsh0 : Nat := 0
  dsh1 : Nat := 0
  ptbase : DWord := 0
  pgva : Nat := 0
  pgv : Bool := false
  fcause : Nat := 0
  fmaster : Nat := 0
  fcore : Nat := 0
  fqtr : Nat := 0
  fgrp : Nat := 0
  fmore : Nat := 0
  fpc : Word := 0
  fadr : DWord := 0
  fpeer : Word := 0
  elogbase : DWord := 0
  elogsz : Word := 0
  elogwp : Word := 0
  elogrd : Word := 0
  elogdrop : Word := 0
  invva : DWord := 0
  invbusy : List Nat := []
  sgcause : Nat := 0
  sgcore : Nat := 0
  sgqtr : Nat := 0
  sgres : Nat := 0
  sgpc : Word := 0
  sgexp : Word := 0
  sggot : Word := 0
  fkey : Nat := 0
  sgkey : Nat := 0
  scmant : Word := 0
  scsig : Word := 0
  scce : Word := 0
  snheld : Bool := false
  snmiss : Nat := 0
  snapt : DWord := 0
  tol : List (Ty × Word) := [(.bf16, 0xE01), (.f16, 0xE01), (.e4m3, 0xE01), (.e5m2, 0xE01), (.e3m2, 0xE01), (.e2m1, 0xE01)]
  sems : Tbl Word := []
  gctr : Nat := 0
  pend : List Pending := []
  faults : List CFault := []
  haltTick : Option Nat := none
  haltBy : Bool := false
  freezeAt : Nat := 0
  cmdDone : Nat := 0
  cmdDs : Bool := false
  cmdOpen : Bool := false
  snTrig : Nat := 0
  stops : List (Nat × List Byte) := []
  shard : List (Nat × Nat) := []
  semTurn : Nat := 0
  semStream : Nat := 0
  tcache : List TEntry := []
  rejects : List LateReject := []
  deriving DecidableEq, Repr

/-- A command stream (16 R354, 14 R289-R292, R318). `ringMiss` is the address at which a walk for one of its rings missed (16 R361). -/
structure Stream where
  sbase : DWord := 0
  ssize : Word := 0
  srd : Word := 0
  swr : Word := 0
  svec : Nat := 0
  spriv : Bool := false
  en : Bool := false
  ebase : DWord := 0
  esize : Word := 0
  ewr : Word := 0
  erd : Word := 0
  ccount : Nat := 0
  ctime : Word := 0
  segs : List Seg := []
  esegs : List Seg := []
  stopped : Bool := false
  pkt : Option (List Byte) := none
  copyAt : Option Nat := none
  copySegs : List Seg × List Seg := ([], [])
  copyBy : Nat := 0
  semw : Bool := false
  missed : Bool := false
  ringMiss : Option Nat := none
  unsig : Nat := 0
  oldest : Option Nat := none
  held : List (List Byte × Bool) := []
  curHdr : Word := 0
  curTag : Word := 0
  deriving DecidableEq, Repr

/-- The device block (16 R352, 18 R420) and the parts of 16 R369-R371 and 18 R417-R419 behind it. -/
structure Dev where
  step : Nat := 0
  fwver : Word := 0
  rbcnt : Word := 0
  playerr : Bool := false
  sherr : Bool := false
  play : Word := 0xFFFFFFFF
  nsh0 : Nat := 0
  nsh1 : Nat := 0
  rq : Bool := false
  sb0 : Nat := 4
  sb1 : Nat := 4
  deff : Nat := 0
  hch : Nat := 0
  hchSet : List Nat := []
  devseq : Word := 0
  fwok : Bool := true
  testEn : BitVec 8 := 0
  fwdigest : Nat := 0
  power : Bool := true
  cethr : Nat := Config.cethr
  deriving DecidableEq, Repr

/-- One slot of one frame on a port, with the tick at which it begins (15 R322). -/
structure Place where
  tick : Nat
  frame : Nat
  slot : Nat
  port : Nat
  deriving DecidableEq, Repr

/-- A data flit on its way to a slot (15 R323, R324): what it belongs to, 0 for none, the device it goes to, its POISON bit, the kind
of slot, what the pattern's entry for a planned one names, and what it carries. `ident` names a remote execution or the writer of a mirrored
write (18 R407). -/
structure HeldFlit where
  ident : Nat := 0
  peer : Nat
  poison : Bool := false
  kind : SlotKind := .open_
  op : SlotOp := .none
  place : Nat := 0
  body : Payload := .idle
  deriving DecidableEq, Repr

/-- A data flit with a slot, not acknowledged (15 R326-R329): what it belongs to, 0 for none, its sequence number, the port,
frame and slot in which it goes or last went and the tick at which that slot begins, whether it has begun (`gone`), its CRC, how often it
has been re-sent, and the device's own copy. -/
structure SentFlit where
  ident : Nat
  frame : Nat
  slot : Nat
  port : Nat
  crc : Word
  again : Nat := 0
  atFrame : Nat := frame
  atSlot : Nat := slot
  tick : Nat := 0
  gone : Bool := false
  copy : HeldFlit := { peer := 0 }
  deriving DecidableEq, Repr

/-- A received flit that waits for its acknowledgement slot (15 R327): the tick of that slot, its port and index, RXOK and CRC. -/
structure AckDue where
  pair : Nat
  tick : Nat
  port : Nat := 0
  slot : Nat := 0
  ok : Bool
  crc : Word
  deriving DecidableEq, Repr

/-- A lease that this device has granted: another device's grids may reach a range that a grid here holds resident, on this device's
translation `ext` (16 R363). `recalled` are the pages of the range, by number, that a recall names whose answer is not here. -/
structure Grant where
  dev : Nat
  pid : Nat
  grid : Nat
  rng : Nat
  ext : Extent
  recalled : List Nat := []
  deriving DecidableEq, Repr

/-- A host write to mirrored pages whose completion is due at a turn, with its address and the name of its duplicates (18 R407). -/
structure HostPend where
  due : Nat
  adr : Nat
  ident : Nat
  deriving DecidableEq, Repr

/-- The pattern register block and clock (15 R319-R340). `acks` are the flits sent to each device, `seen` the bitmap of each source,
`ackq` the acknowledgements to send, `lost` the uncorrectable flits of each port in pattern frame `lostIn`, `backups` the failed
ports whose flits go on in backup slots from a tick on, `held` the flits that wait for a slot and `ctl` the control slots that messages
have taken (R323); `ptp` is t2 − t1 of the last Sync, its correction taken off, with t3 (R320); `granted` are the
leases granted to other devices (16 R363), `gens` the last GEN of each GID that a pattern has used (R347); `pckptOld` is PCKPT
before the checkpoint of frame `pckptAt` (R337); `partner` are the bytes that stand in the partner copies of this
device's mirrored pages, by local address, and `partnerBad` their marked granules (18 R406); `recs` holds the last completion
record of each planned (stream, TAG), `lateSeen` the deadlines that brought LATE, `since` the tick from which the pattern runs
(R333, R334, R337), and `syncAt` the tick of the next Sync that a grandmaster sends (R320). -/
structure Pat where
  st : Nat := 0
  cause : Nat := 0
  attempt : Nat := 0
  dom : Nat := 0
  pspill : Word := 0
  pshift : Nat := 0
  pjoin : Nat := 0
  pftick : Nat := 0
  pfdev : Word := 0
  pckpt : Nat := 0
  pckptOld : Nat := 0
  pckptAt : Nat := 0
  cur : Option Pattern := none
  nxt : Option Pattern := none
  nxtAt : Nat := 0
  fault : Option Nat := none
  port : Nat := 0
  locked : List Bool := List.replicate 12 true
  syncs : List Int := []
  syncAt : Nat := 0
  seen : Tbl (List (Nat × Nat)) := []
  failed : List Nat := []
  acks : Tbl (List SentFlit) := []
  ackq : List AckDue := []
  held : List HeldFlit := []
  ctl : List Place := []
  ptp : Option (Int × Nat) := none
  granted : List Grant := []
  gens : List (Nat × Nat) := []
  lost : Tbl Nat := []
  lostIn : Nat := 0
  backups : List (Nat × Nat) := []
  mirPend : List HostPend := []
  partner : Tbl Byte := []
  partnerBad : List Nat := []
  recs : List (Nat × Word × Nat) := []
  lateSeen : Tbl Nat := []
  since : Nat := 0
  ckptFrame : Option Nat := none
  aligned : Bool := false
  rejoined : Option Nat := none
  deriving DecidableEq, Repr

/-- A row of HBM4. -/
structure HRow where
  ch : Nat
  bank : Nat
  row : Nat
  deriving DecidableEq, Repr

/-- Maintenance that a channel's controller has to do in an ease window (15 R331, 16 R367, 18 R409, R419): a refresh, refresh
management for a row's neighbours, a retry, the repair of a mirrored granule, or the move of a row to a spare one. -/
inductive MaintKind where
  | refresh | manage | retry | repair (granule : Nat) | remap
  deriving DecidableEq, Repr

/-- Maintenance waiting for a window of its channel; at tick `limit` it may wait no longer (15 R332). -/
structure Maint where
  row : HRow
  kind : MaintKind
  limit : Nat
  deriving DecidableEq, Repr

/-- The HBM4 controller (15 R331, R332, 16 R367, 18 R409, R419), rows keyed by number: activations since the last refresh, rows
with an alert logged, maintenance waiting, corrected errors since cold start, spare rows used by each bank, and the tick of
each channel's next ease window. -/
structure Dram where
  acts : Tbl Nat := []
  alerts : List Nat := []
  maint : List Maint := []
  fixed : Tbl Nat := []
  spares : Tbl Nat := []
  easeAt : Tbl Nat := []
  deriving DecidableEq, Repr

/-- What happens to the part from outside that is no row of the opcode table: an error that an access finds in scratch, seen by
a core, or in HBM4 (`bad` when the code cannot correct it, 09 R190, 18 R409, R419); an activation of a row and the coming due
of its refresh (16 R367); a retry after an interface error (15 R331); a member of classes H, P or S that falls behind its share
by some turns, and an acknowledgement of a partner that comes late (10 R210, 18 R407); a write by the host to its own
memory (11 R237); and the answer of another device to a recall (16 R363). -/
inductive Hap where
  | scratchError (core : Nat) (sp : Space) (granule : Nat) (bad : Bool)
  | hbmError (row : HRow) (granule : Nat) (bad : Bool)
  | activate (row : HRow)
  | refreshDue (row : HRow)
  | retry (row : HRow)
  | fallBehind (core : Nat) (cl : CClass) (turns : Nat)
  | lateAck (core : Nat) (turns : Nat)
  | hostMem (addr : Nat) (bytes : List Byte) (poison : Bool)
  | recallAnswered (peer gr rng : Nat)
  deriving DecidableEq, Repr

/-- What the device sends out: interrupts, replies to the host, announcements, recall answers, acknowledgement
flits, SPDM and management replies (14 R318, 16 R357, R368-R371, 15 R335, R327). -/
inductive Emit where
  | msix (vec : Nat)
  | hostData (addr : Nat) (bytes : List Byte) (poison : Bool)
  | hostUr (addr : Nat)
  | hostAck (addr : Nat)
  | announce (slot : Place) (frame device cause tick : Nat)
  | recallDone (gr peer rng : Nat)
  | flit (pair frame slot port : Nat) (poison : Bool) (body : Payload)
  | ackFlit (pair port slot : Nat) (bytes : List Byte)
  | resend (pair frame slot port atFrame atSlot : Nat)
  | sync (slot : Place)
  | delayRequest (peer : Nat) (slot : Place)
  | delayResponse (peer : Nat) (slot : Place) (tick : Nat)
  | grant (peer gr rng : Nat) (ext : Extent)
  | recall (peer : Nat) (slot : Place) (gr rng page pages : Nat)
  | linkNotice (slot : Place) (port : Nat)
  | linkDown (port : Nat)
  | measure (fw : Nat) (rbcnt : Word) (pattern : Nat)
  | mgmt (bytes : List Byte)
  deriving DecidableEq, Repr

/-- The issue in progress (13 R270, R271): the group, its word, I, `sel`, and what the words of the issue have done. -/
structure Issue where
  gid : Nat
  pc : BitVec 20
  iset : Mask
  all : Mask := 0
  word : IWord
  lane0 : Nat := 0
  second : Option IWord := none
  isSecond : Bool := false
  backward : Bool := false
  blocked : Bool := false
  rtiDone : Bool := false
  rejected : Bool := false
  moved : Mask := 0
  lineBad : Bool := false
  tgt : Bool := false
  tgt2 : Bool := false
  sig0 : Word := 0
  extra : Nat := 0
  stall : BitVec 4 := 0
  stop : Bool := false
  void : Bool := false
  deriving DecidableEq, Repr

/-- The machine. `turn` and `pos` are the place in time: slot k of core c, quarter q stands at 1536 k + 4 c + q,
and each tick takes 768 places. -/
structure State where
  turn : Nat := 0
  pos : Nat := 0
  bdry : Bool := false
  issue : Option Issue := none
  groups : Tbl Group := []
  blocks : Tbl Block := []
  grids : Tbl Grid := []
  cores : Tbl Core := []
  parts : List Part := List.replicate 8 {}
  streams : Tbl Stream := []
  bankQ : List Access := []
  remotes : List RExec := []
  semq : List SemAcc := []
  images : List Image := []
  hbm : Ram := {}
  host : Ram := {}
  dev : Dev := {}
  pat : Pat := {}
  dram : Dram := {}
  inputs : List (Nat × Instr) := []
  haps : List (Nat × Hap) := []
  out : List Emit := []
  free : Nat := 0
  ident : Nat := 1
  shadows : Tbl Mem := []
  deriving DecidableEq, Repr

/-- Why a step can stop. The spec gives the part no behaviour that stops the whole machine, so both names are the
model's own and are raised only when a meaning is applied outside its context; both are safe. -/
inductive Fault where
  /-- A word's meaning was applied with no issue in progress: raised by every word's meaning; safe, no step of
  `step` does so. -/
  | noIssue
  /-- An event's meaning was applied to a group, block, grid, core, partition or stream that does not exist: raised
  by the events' meanings; safe, no step of `step` does so. -/
  | noObject
  deriving DecidableEq, Repr

/-- Why a step has no meaning. -/
inductive Refusal where
  /-- The instruction has no meaning yet: raised by an arm of Dispatch; safe. -/
  | notModelled (mnemonic : String)
  deriving DecidableEq, Repr

/-- The machine right after reset: cold start is over and the signed firmware runs (assumption 1). -/
def State.reset : State := {}

end Sys2Proof.Machine
end

