-- ==== Sys2Proof/Machine/Ops.lean ====
section
/-! DEFINITION. The operations every meaning shares: tables, memories and poison, masks and lanes, access to the
parts of the state, parking and quenching of lanes, context faults, taking a group trap and returning from it. -/

namespace Sys2Proof.Machine

open Host (Cell)

/-! Tables -/

/-- The entry of a key. -/
def tget {α : Type} : Tbl α → Nat → Option α
  | [], _ => none
  | (k, a) :: t, n => if k == n then some a else tget t n

/-- The table with an entry set, keys ascending. -/
def tset {α : Type} : Tbl α → Nat → α → Tbl α
  | [], n, x => [(n, x)]
  | (k, a) :: t, n, x => if n < k then (n, x) :: (k, a) :: t else if n == k then (n, x) :: t else (k, a) :: tset t n x

/-- The table without a key. -/
def tdel {α : Type} : Tbl α → Nat → Tbl α
  | [], _ => []
  | (k, a) :: t, n => if k == n then t else (k, a) :: tdel t n

/-- The table with the entry of a key changed, where there is one. -/
def tmod {α : Type} : Tbl α → Nat → (α → α) → Tbl α
  | [], _, _ => []
  | (k, a) :: t, n, f => if k == n then (k, f a) :: t else (k, a) :: tmod t n f

/-- The list with element `i` changed. -/
def lmod {α : Type} : List α → Nat → (α → α) → List α
  | [], _, _ => []
  | a :: t, 0, f => f a :: t
  | a :: t, i + 1, f => a :: lmod t i f

/-- `f` applied to every element with its index, counted from `i`. -/
def mapFrom {α β : Type} (f : Nat → α → β) : Nat → List α → List β
  | _, [] => []
  | i, a :: t => f i a :: mapFrom f (i + 1) t

/-- The first element that `f` answers, in order. -/
def firstSome {α β : Type} (f : α → Option β) : List α → Option β
  | [] => none
  | a :: t => (f a).or (firstSome f t)

/-- A number inserted into an ascending list without repeats. -/
def insNat : List Nat → Nat → List Nat
  | [], n => [n]
  | k :: t, n => if n < k then n :: k :: t else if n == k then k :: t else k :: insNat t n

/-- Stable insertion sort; `le a b` keeps `a` before `b`. -/
def insertBy {α : Type} (le : α → α → Bool) (a : α) : List α → List α
  | [] => [a]
  | b :: t => if le a b then a :: b :: t else b :: insertBy le a t
def sortBy {α : Type} (le : α → α → Bool) : List α → List α
  | [] => []
  | a :: t => insertBy le a (sortBy le t)

/-! Memories -/

/-- A byte; unlisted bytes read 0 (assumption 5, 03 R68). -/
def memRd : Mem → Nat → Byte
  | [], _ => 0
  | (k, b) :: t, n => if k == n then b else if n < k then 0 else memRd t n

/-- A byte written; a 0 is not listed. -/
def memWr : Mem → Nat → Byte → Mem
  | [], n, x => if x == 0 then [] else [(n, x)]
  | (k, b) :: t, n, x =>
    if n < k then (if x == 0 then (k, b) :: t else (n, x) :: (k, b) :: t)
    else if n == k then (if x == 0 then t else (n, x) :: t)
    else (k, b) :: memWr t n x

/-- The canonical form of a memory: addresses strictly rising, no 0 listed. -/
def Memory.wf : Mem → Bool
  | [] => true
  | [(_, b)] => b != 0
  | (k, b) :: (k', b') :: t => b != 0 && k < k' && Memory.wf ((k', b') :: t)

/-- `n` bytes from address `a`. -/
def memRead (m : Mem) (a : Nat) : Nat → List Byte
  | 0 => []
  | n + 1 => memRd m a :: memRead m (a + 1) n

/-- Bytes written from address `a`. -/
def memWrite (m : Mem) (a : Nat) : List Byte → Mem
  | [] => m
  | b :: t => memWrite (memWr m a b) (a + 1) t

/-- Little-endian value of bytes (00 R7). -/
def leNat : List Byte → Nat
  | [] => 0
  | b :: t => b.toNat + 256 * leNat t

/-- The `n` low bytes of a number, little-endian. -/
def toBytes : Nat → Nat → List Byte
  | 0, _ => []
  | n + 1, v => BitVec.ofNat 8 v :: toBytes n (v / 256)

/-- Little-endian words of a number. -/
def toWords : Nat → Nat → List Word
  | 0, _ => []
  | n + 1, v => BitVec.ofNat 32 v :: toWords n (v / 2 ^ 32)

/-- Value of registers, lowest first (00 R7). -/
def ofWords : List Word → Nat
  | [] => 0
  | w :: t => w.toNat + 2 ^ 32 * ofWords t

/-- poisoned(a, n): some byte lies in a marked granule (17 R381). -/
def Ram.poisoned (r : Ram) (a n : Nat) : Bool :=
  n != 0 && r.poison.any (fun g => a / 64 ≤ g && g ≤ (a + n - 1) / 64)

def Ram.read (r : Ram) (a n : Nat) : List Byte := memRead r.cells a n
def Ram.nat (r : Ram) (a n : Nat) : Nat := leNat (memRead r.cells a n)

/-- The granules from address `a` over `n` bytes. -/
def granules (a n : Nat) : List Nat :=
  if n = 0 then [] else (List.range ((a + n - 1) / 64 - a / 64 + 1)).map (a / 64 + ·)

def Ram.mark (r : Ram) (gs : List Nat) : Ram := { r with poison := gs.foldl insNat r.poison }
def Ram.unmark (r : Ram) (gs : List Nat) : Ram := { r with poison := r.poison.filter (fun g => !gs.contains g) }

/-- One write of one unit: unmarked data clears the mark of every granule it covers in full, marked data marks every
granule it touches (09 R192, 10 R221). -/
def Ram.write (r : Ram) (a : Nat) (bs : List Byte) (bad : Bool := false) : Ram :=
  let r' : Ram := { r with cells := memWrite r.cells a bs }
  if bad then r'.mark (granules a bs.length)
  else r'.unmark ((granules a bs.length).filter (fun g => a ≤ 64 * g && 64 * g + 64 ≤ a + bs.length))

/-- Granules that a set of byte addresses covers in full. -/
def coveredBy (adrs : List Nat) : List Nat :=
  let gs := adrs.foldl (fun l a => insNat l (a / 64)) []
  gs.filter (fun g => (List.range 64).all (fun i => adrs.contains (64 * g + i)))

/-! Masks and lanes -/

/-- The lanes of a mask, ascending. -/
def lanesOf (m : Mask) : List Nat := (List.range 64).filter (fun i => m.getLsbD i)

def maskOfFrom (p : Lane → Bool) : Nat → List Lane → Mask
  | _, [] => 0
  | i, l :: t => (if p l then (1#64 <<< i) else 0) ||| maskOfFrom p (i + 1) t

/-- The lanes of a group that satisfy `p`. -/
def Group.maskOf (g : Group) (p : Lane → Bool) : Mask := maskOfFrom p 0 g.lanes

def maskOfList (l : List Nat) : Mask := l.foldl (fun m i => m ||| (1#64 <<< i)) 0

def Lane.isLive (l : Lane) : Bool := l.life == .live
def Group.live (g : Group) : Mask := g.maskOf (·.isLive)
def Group.parked (g : Group) : Mask := g.maskOf (fun l => l.isLive && l.trec.isSome)
def Group.waiting (g : Group) : Mask := g.maskOf (fun l => l.isLive && l.trec.isNone && l.wait.isSome)
/-- Every live lane gone (01 R19). -/
def Group.finished (g : Group) : Bool := g.lanes.all (fun l => !l.isLive)
/-- Every lane quenched (17 R382). -/
def Group.extinguished (g : Group) : Bool := g.lanes.all (fun l => l.life == .quenched)

/-- Selectable lane (13 R270, R279): live, not parked, not waiting, and a handler lane while a handler runs. -/
def Group.selectable (g : Group) (l : Lane) : Bool :=
  l.isLive && l.trec.isNone && l.wait.isNone &&
  (match g.hphase with
   | .idle => true
   | .running => l.hand == .inside
   | .capture _ _ _ | .restore _ => false)

def Group.selMask (g : Group) : Mask := g.maskOf g.selectable

/-- The key of 13 R269 as one number, (255 − DEPTH) above PC. -/
def Lane.key (l : Lane) : Nat := (255 - l.depth.toNat) * 2 ^ 20 + l.pc.toNat

def Group.lane (g : Group) (i : Nat) : Lane := g.lanes.getD i {}
/-- `f` applied to the lanes of a mask. -/
def Group.modLanes (g : Group) (m : Mask) (f : Lane → Lane) : Group :=
  { g with lanes := mapFrom (fun i l => if m.getLsbD i then f l else l) 0 g.lanes }
def Group.modLane (g : Group) (i : Nat) (f : Lane → Lane) : Group := { g with lanes := lmod g.lanes i f }

/-! Parts of the state -/

/-- PODTIME at this place in time, as a number (01 R29, R16). -/
def State.now (s : State) : Nat := 16 * s.turn + Nat.min 15 (s.pos / 768)

def State.group (s : State) (g : Nat) : Group := (tget s.groups g).getD {}
def State.setGroup (s : State) (g : Nat) (x : Group) : State := { s with groups := tset s.groups g x }
def State.modGroup (s : State) (g : Nat) (f : Group → Group) : State := { s with groups := tmod s.groups g f }
def State.block (s : State) (b : Nat) : Block := (tget s.blocks b).getD {}
def State.modBlock (s : State) (b : Nat) (f : Block → Block) : State := { s with blocks := tmod s.blocks b f }
def State.grid (s : State) (g : Nat) : Grid := (tget s.grids g).getD {}
def State.modGrid (s : State) (g : Nat) (f : Grid → Grid) : State := { s with grids := tmod s.grids g f }
def State.core (s : State) (c : Nat) : Core := (tget s.cores c).getD {}
def State.setCore (s : State) (c : Nat) (x : Core) : State := { s with cores := tset s.cores c x }
def State.modCore (s : State) (c : Nat) (f : Core → Core) : State := s.setCore c (f (s.core c))
def State.part (s : State) (p : Nat) : Part := s.parts.getD p {}
def State.modPart (s : State) (p : Nat) (f : Part → Part) : State := { s with parts := lmod s.parts p f }
def State.stream (s : State) (p i : Nat) : Stream := (tget s.streams (64 * p + i)).getD {}
def State.modStream (s : State) (p i : Nat) (f : Stream → Stream) : State :=
  { s with streams := tset s.streams (64 * p + i) (f (s.stream p i)) }
def State.emit (s : State) (e : Emit) : State := { s with out := s.out ++ [e] }

/-- The die of a core (16 R349). -/
def dieOf (core : Nat) : Nat := core / Config.coresPerDie

/-- A fresh identifier of the model's own. -/
def State.fresh (s : State) : Nat × State := (s.ident, { s with ident := s.ident + 1 })
/-- A free number below `n` (assumption 4). -/
def State.drawNat (s : State) (n : Nat) : Nat × State :=
  (Config.freeNat s.free % (Nat.max n 1), { s with free := s.free + 1 })
/-- A free number below `n` for what a group does. In deterministic mode it is the same in replay-identical runs: it depends on
the descriptor, the code, the block, the group and `tags` alone (12 R254, assumption 70). -/
def State.drawFor (s : State) (g : Group) (tags : List Nat) (n : Nat) : Nat × State :=
  let r := s.grid g.grid
  if r.desc.det then
    (Config.freeDet (r.ddig.map BitVec.toNat ++ [r.code.toNat, (s.block g.block).blockId, g.index] ++ tags) % (Nat.max n 1), s)
  else s.drawNat n

/-- The memory of a scratch space (09 R182). -/
def State.ram (s : State) : Space → Ram
  | .blk b => (s.block b).scr
  | .die g d => if d = 0 then (s.grid g).scr0 else (s.grid g).scr1
  | .spill g => (s.group g).spill
def State.modRam (s : State) (sp : Space) (f : Ram → Ram) : State :=
  match sp with
  | .blk b => s.modBlock b (fun x => { x with scr := f x.scr })
  | .die g d => s.modGrid g (fun x => if d = 0 then { x with scr0 := f x.scr0 } else { x with scr1 := f x.scr1 })
  | .spill g => s.modGroup g (fun x => { x with spill := f x.spill })

/-- Size of a scratch space in bytes (09 R182). -/
def State.spaceSize (s : State) : Space → Nat
  | .blk b => (s.grid (s.block b).grid).desc.bscr
  | .die g _ => (s.grid g).desc.dscr
  | .spill g => (s.grid (s.group g).grid).desc.spill

/-! Traps, quench and context faults -/

/-- A context fault of the partition, to be taken in this tick (17 R394). -/
def State.raise (s : State) (p : Nat) (f : CFault) : State := s.modPart p (fun x => { x with faults := x.faults ++ [f] })

/-- The lane as its live bit clears: no record, no wait, W 0, no reservation (17 R382, 13 R275, 09 R199). -/
def Lane.gone (l : Lane) (life : Life) : Lane :=
  { l with life := life, trec := none, wait := none, w := 0, resv := none, hand := .out, late := none }

/-- quench(l, cause) (17 R382, R383). An access that finds poison for a lane that has retired or is quenched already by then counts nothing
and leaves the quench record as it stands: 09 R191 does not say (DESIGN CHOICE, assumption 95). -/
def State.quench (s : State) (g lane cause : Nat) : State :=
  let x := s.group g
  if (x.lane lane).isLive then
    (s.setGroup g { x.modLane lane (fun l => l.gone .quenched) with
        nq := Nat.min (x.nq + 1) 255, qcause := cause, qlane := lane,
        emask := x.emask &&& ~~~(1#64 <<< lane), live2 := x.live2 &&& ~~~(1#64 <<< lane) }).modGrid x.grid
      (fun r => { r with nquench := r.nquench + 1 })
  else s

def State.quenchAll (s : State) (g : Nat) (lanes : List Nat) (cause : Nat) : State :=
  lanes.foldl (fun s l => s.quench g l cause) s

/-- A poisoned access that quenched no lane (17 R383). -/
def State.logNrec (s : State) (g : Nat) : State := s.modGroup g (fun x => { x with nrec := Nat.min (x.nrec + 1) 4095 })

/-- The context fault MANTLE of a group (17 R391). -/
def State.mantleFault (s : State) (g : Nat) : State :=
  s.raise (s.group g).pid { bit := 6, tick := s.now, core := (s.group g).core, qtr := (s.group g).quarter }

/-- A lane parks by a group trap at `pc` (17 R385). A parked lane keeps its first record; a handler lane is quenched
with cause NESTED, or takes the context fault MANTLE (R391). -/
def State.park (s : State) (g lane : Nat) (pc : BitVec 20) (r : TrapRec) : State :=
  let x := s.group g
  let l := x.lane lane
  if !l.isLive || l.trec.isSome then s
  else if x.hphase = .running ∧ l.hand ≠ .out then
    if r.trap = 9 then
      (s.mantleFault g).modGroup g (fun x => x.modLane lane (fun l =>
        { l with trec := some { r with w := l.w }, pc := pc, w := 0, wait := none, resv := none }))
    else s.quench g lane 6
  else
    match x.hphase with
    | .capture _ _ m =>
      if m.getLsbD lane then s
      else s.modGroup g (fun x => x.modLane lane (fun l =>
        { l with trec := some { r with w := l.w }, pc := pc, w := 0, wait := none, resv := none }))
    | _ => s.modGroup g (fun x => x.modLane lane (fun l =>
        { l with trec := some { r with w := l.w }, pc := pc, w := 0, wait := none, resv := none }))

/-- Size of a register frame and the turns its capture or restore takes (17 R386, R388). -/
def frameSize (n : Nat) : Nat := 80 + 4 * n
def frameTurns (n : Nat) : Nat := (frameSize n + 15) / 16

/-- Where byte `a` of a lane's spill area is held (09 R195). -/
def spillAdr (lane a : Nat) : Nat := 256 * (a / 4) + 4 * lane + a % 4

/-- FLAGS of a lane (04 R90). -/
def Group.flagsOf (g : Group) (l : Lane) : Word :=
  (0#11 ++ g.te ++ 0#8 ++ BitVec.ofBool l.qread ++ BitVec.ofBool l.hexh ++ BitVec.ofBool l.wovf ++ g.fl)

/-- The words of the register frame of a lane (17 R388). -/
def Group.frame (g : Group) (l : Lane) : List Word :=
  let r := l.trec.getD { trap := 0, cause := 0 }
  [0#12 ++ l.pc, 0#16 ++ l.depth ++ 0#8, 0#16 ++ r.w,
   BitVec.ofNat 8 r.trap ++ BitVec.ofNat 8 r.cause ++ BitVec.ofNat 16 r.info, r.targ, g.flagsOf l,
   r.word.extractLsb' 0 32, r.word.extractLsb' 32 32, r.word.extractLsb' 64 32,
   l.lat.extractLsb' 0 32, l.lat.extractLsb' 32 32, 0] ++ l.o ++ l.v

/-- Words written to a lane's spill area from offset `a`, a multiple of 4. -/
def spillWords (m : Mem) (lane a : Nat) : List Word → Mem
  | [] => m
  | w :: t => spillWords (memWrite m (spillAdr lane a) (toBytes 4 w.toNat)) lane (a + 4) t

/-- A 32-bit word of a lane's spill area. -/
def spillWord (m : Mem) (lane a : Nat) : Word := BitVec.ofNat 32 (leNat (memRead m (spillAdr lane a) 4))

/-- Turn by which every register result of the group other than matrix and remote results has landed (02 R57); a word
that selected no lane has none. -/
def Group.settled (g : Group) : Nat := (g.pend.filter (fun p => p.kind == .ord && !p.res.isEmpty)).foldl (fun m p => Nat.max m p.due) 0

/-- The lanes whose untaken traps share the lowest PC (17 R386). -/
def Group.entryLanes (g : Group) : Mask :=
  let ls := g.lanes.filter (fun l => l.isLive && l.trec.isSome && l.hand == .out)
  let p := ls.foldl (fun m l => Nat.min m l.pc.toNat) (2 ^ 20)
  g.maskOf (fun l => l.isLive && l.trec.isSome && l.hand == .out && l.pc.toNat == p)

/-- TAKING A GROUP TRAP at turn `e` (17 R386, R391): the entry lanes are those parked at the lowest PC; NTRAP rises; without a
usable handler they are quenched with cause UNHANDLED, or the partition takes MANTLE; otherwise capture of their
frames starts at the later of the next turn and the turn by which the group's results have landed. -/
def State.takeTrap (s : State) (g e : Nat) : State :=
  let x := s.group g
  let d := (s.grid x.grid).desc
  let m := x.entryLanes
  let s := s.modGrid x.grid (fun r => { r with ntrap := r.ntrap + 1 })
  if d.trapofs = 0xFFFFFFFF ∨ d.spill / 64 < frameSize x.nregs then
    if (lanesOf m).any (fun i => ((x.lane i).trec.map (·.trap)) == some 9) then s.mantleFault g
    else s.quenchAll g (lanesOf m) 5
  else
    let c := Nat.max (e + 1) x.settled
    s.modGroup g (fun x => { x with hphase := .capture c (c + frameTurns x.nregs) m, hseq := x.seq, stopCnt := 0 })

/-- The frames of the entry lanes written as capture starts (17 R386 step 2, R390). -/
def State.captureFrames (s : State) (g : Nat) : State :=
  let x := s.group g
  match x.hphase with
  | .capture _ u m =>
    let cells := (lanesOf m).foldl (fun mm i => spillWords mm i 0 (x.frame (x.lane i))) x.spill.cells
    let adrs := (lanesOf m).flatMap (fun i => (List.range (frameSize x.nregs / 4)).map (fun j => spillAdr i (4 * j)))
    let full := (adrs.foldl (fun l a => insNat l (a / 64)) []).filter (fun gr =>
      (List.range 16).all (fun i => adrs.contains (64 * gr + 4 * i)))
    s.setGroup g { x with hphase := .capture 0 u m, spill := ({ x.spill with cells := cells } : Ram).unmark full }
  | _ => s

/-- The handler starts (17 R386 step 3, 18 R402): the entry lanes stand at B + TRAPOFS with W 0, no record, an empty
signature, and their own signature saved. The group's part of the selector state stays as it stands (13 R268): an
excursion ends by the rules of 13 R276 alone (assumption 64). No `stopmark` is held any more. -/
def State.enterHandler (s : State) (g : Nat) : State :=
  let x := s.group g
  let r := s.grid x.grid
  match x.hphase with
  | .capture _ _ m =>
    let x' := x.modLanes m (fun l =>
      if l.isLive then
        { l with pc := BitVec.ofNat 20 (r.base + r.desc.trapofs.toNat), w := 0, trec := none, resv := none,
                 hand := .inside, sigSaved := some l.sig, handPc := l.pc,
                 sigWord := (l.trec.map TrapRec.word).getD 0, sig := 0 }
      else l)
    s.setGroup g { x' with hphase := .running, stopCnt := 0, mark := none }
  | _ => s

/-- The handler has ended: no handler lane is live and short of its `rti` (17 R389, R391). -/
def Group.handlerEnded (g : Group) : Bool :=
  g.hphase == .running && g.lanes.all (fun l => l.hand != .inside)

/-- A PC names a slot of some line counted from B (17 R389). -/
def slotPc (base pc : Nat) : Bool := base ≤ pc && [0, 12, 24, 36, 48].contains ((pc - base) % 64)

/-- The sequential successor of a PC (13 R269). -/
def succPc (base : Nat) (pc : BitVec 20) : BitVec 20 :=
  if (pc.toNat + 2 ^ 20 - base) % 64 < 48 then pc + 12 else pc + 16

/-- CRC-32C over bytes from a state, bit-reflected (18 R401). -/
def crcByte (c : Word) (b : Byte) : Word :=
  (List.range 8).foldl (fun c _ => if c.getLsbD 0 then (c >>> 1) ^^^ 0x82F63B78#32 else c >>> 1) (c ^^^ b.setWidth 32)
/-- The CRC of a byte string continued from the CRC of its start; the empty string has CRC 0. -/
def crcCont (c : Word) (bs : List Byte) : Word := ~~~(bs.foldl crcByte (~~~c))
def crc32c (bs : List Byte) : Word := crcCont 0 bs

/-- A word folded into a signature (18 R401, R402). -/
def foldSig (sig : Word) (w : IWord) : Word := crcCont sig (toBytes 12 w.toNat)

/-- Instruction scratch that holds no image holds the fill word, with its parity (14 R297, 16 R356). -/
def fillLine : Line := { slots := List.replicate 5 (BitVec.allOnes 96), lw := 0 }

/-- A line of instruction scratch that is zero (18 R417). -/
def zeroLine : Line := { slots := List.replicate 5 0, lw := 0 }

/-- The line at a PC, `none` outside the kernel's image (02 R61). -/
def State.lineAt (s : State) (g : Group) (pc : Nat) : Option Line :=
  let r := s.grid g.grid
  if r.base ≤ pc && pc < r.base + 64 * r.desc.nlines then
    let k := s.core g.core
    some ((tget k.lines (pc / 64)).getD (if k.zeroed then zeroLine else fillLine))
  else none

/-- Slot number of a PC within its line (02 R39). -/
def slotOf (base pc : Nat) : Nat := ((pc - base) % 64) / 12

/-- The word at a PC of a group's image. -/
def State.wordAt (s : State) (g : Group) (pc : Nat) : IWord :=
  match s.lineAt g pc with
  | some l => l.slots.getD (slotOf (s.grid g.grid).base pc) (BitVec.allOnes 96)
  | none => BitVec.allOnes 96

/-- RETURN FROM A GROUP TRAP (17 R389, R390, 18 R402): each lane that reached `rti` takes PC, DEPTH, latch, operand
file and main file from its frame, W 0, and the signature that its resumption PC gives; a poisoned frame quenches
with cause LOAD, a PC that is no slot with cause FRAME; a flag raised meanwhile parks it with ARITH, at its restored
PC and with the word there (17 R385, R390). -/
def State.restoreFrames (s : State) (g : Nat) : State :=
  let x := s.group g
  let base := (s.grid x.grid).base
  let reached := lanesOf (x.maskOf (fun l => l.isLive && l.hand == .reached))
  let s := s.modGroup g (fun x => { x with hphase := .idle })
  reached.foldl (fun s i =>
    let x := s.group g
    let m := x.spill.cells
    let poisoned := (List.range (frameSize x.nregs / 4)).any (fun j => x.spill.poisoned (spillAdr i (4 * j)) 4)
    let pc := (spillWord m i 0).toNat % 2 ^ 20
    if poisoned then s.quench g i 1
    else if !slotPc base pc then s.quench g i 7
    else
      let late := (x.lane i).late
      let s := s.modGroup g (fun x => x.modLane i (fun l =>
        { l with
          pc := BitVec.ofNat 20 pc
          depth := (spillWord m i 4).extractLsb' 8 8
          lat := spillWord m i 0x28 ++ spillWord m i 0x24
          o := (List.range 8).map (fun j => spillWord m i (0x30 + 4 * j))
          v := (List.range x.nregs).map (fun j => spillWord m i (0x50 + 4 * j))
          w := 0, hand := .out, wait := none, late := none, sigSaved := none
          sig := if pc = l.handPc.toNat then l.sigSaved.getD 0
                 else if BitVec.ofNat 20 pc = succPc base l.handPc then foldSig (l.sigSaved.getD 0) l.sigWord
                 else 0 }))
      match late with
      | some r => s.park g i (BitVec.ofNat 20 pc) { r with word := s.wordAt x pc }
      | none => s) s

/-- The quotient rounded up. -/
def ceilDiv (a b : Nat) : Nat := (a + b - 1) / b

/-- A partition runs (16 R355). -/
def State.running (s : State) (p : Nat) : Bool := (s.part p).st == .running
/-- A partition runs, or is on its way to a halt. -/
def State.going (s : State) (p : Nat) : Bool := (s.part p).st == .running || ((s.part p).st == .stopping && (s.part p).haltBy)

end Sys2Proof.Machine
end

