-- ==== Sys2Proof/Machine/Operands.lean ====
section
/-! DEFINITION. Operand forms: sources at every level of 01 R33 with the constants of R34, destinations, the results
of a word and when they land (02 R53, R54), and the scoreboard check of 02 R55. -/

namespace Sys2Proof.Machine

/-- What a word's meaning sees of its issue: the group as it stands at the issue, the word's PC, I and `sel`, the
turn, the tick of the lanes 0-31 beat, and the word's place in program order. -/
structure Ctx where
  gid : Nat
  g : Group
  pc : BitVec 20
  iset : Mask
  sel : Mask
  turn : Nat
  tick : Nat
  seq : Nat
  base : Nat
  deriving DecidableEq, Repr

/-- Tick of a lane's beat (01 R16, R30). -/
def Ctx.beat (c : Ctx) (lane : Nat) : Nat := if lane < 32 then c.tick else c.tick + 1

/-- The lanes in `sel`, ascending. -/
def Ctx.lanes (c : Ctx) : List Nat := lanesOf c.sel
/-- The lowest-numbered lane in `sel` (07 R149, 14 R304, 16 R372); lane 0 when there is none. -/
def Ctx.low (c : Ctx) : Nat := (lanesOf c.sel).headD 0

/-- The named specials of 01 R34, as a 64-bit value. -/
def Ctx.special (s : State) (c : Ctx) (lane idx : Nat) : Nat :=
  let b := s.block c.g.block
  match idx with
  | 129 => lane
  | 130 => c.g.index
  | 131 => b.blockId
  | 132 => b.gang
  | 133 => c.beat lane % 2 ^ 32
  | 134 => c.beat lane / 2 ^ 32 % 2 ^ 32
  | 135 => c.g.quarter
  | 136 => c.g.core
  | 137 => dieOf c.g.core
  | 138 => c.g.live.toNat % 2 ^ 32
  | 139 => c.g.live.toNat / 2 ^ 32
  | _ => 0

/-- Constant `i` of level 0b11 as a signed number (01 R34). -/
def constInt (i : BitVec 8) : Int := if i.toNat < 64 then i.toNat else (i.toNat : Int) - 128

/-- Fraction bits, exponent bias and width of the four wide float types (04 R78). -/
def fltShape : Ty → Option (Nat × Nat × Nat)
  | .f64 => some (52, 1023, 64)
  | .f32 => some (23, 127, 32)
  | .f16 => some (10, 15, 16)
  | .bf16 => some (7, 127, 16)
  | _ => none

/-- The encoding of a small integer, exact in the format (01 R34). -/
def fltOfInt (m bias w : Nat) (v : Int) : Nat :=
  let a := v.natAbs
  if a = 0 then 0
  else (if v < 0 then 2 ^ (w - 1) else 0) + (Nat.log2 a + bias) * 2 ^ m + (a * 2 ^ (m - Nat.log2 a) - 2 ^ m)

/-- A constant as the source type of a float instruction reads it: the exact value for f16, f32, f64, bf16 and in
both elements of the packed types, the bits otherwise (01 R34). -/
def constOf (t : Ty) (i : BitVec 8) : DWord :=
  match t with
  | .f16x2 => let e := fltOfInt 10 15 16 (constInt i); BitVec.ofNat 64 (e + 2 ^ 16 * e)
  | .bf16x2 => let e := fltOfInt 7 127 16 (constInt i); BitVec.ofNat 64 (e + 2 ^ 16 * e)
  | _ =>
    match fltShape t with
    | some (m, bias, w) => BitVec.ofNat 64 (fltOfInt m bias w (constInt i))
    | none => BitVec.ofInt 64 (constInt i)

/-- A source of `n` registers, 1 or 2, of a lane at any level; a 32-bit source is zero-extended (01 R33-R36). -/
def Ctx.srcT (s : State) (c : Ctx) (t : Ty) (n : Nat) (lane : Nat) : Opnd → DWord
  | .v i =>
    let l := c.g.lane lane
    (if n = 2 then l.v.getD (i.toNat + 1) 0 else 0) ++ l.v.getD i.toNat 0
  | .o i =>
    let l := c.g.lane lane
    (if n = 2 then l.o.getD (i.toNat + 1) 0 else 0) ++ l.o.getD i.toNat 0
  | .lat => if n = 2 then (c.g.lane lane).lat else (c.g.lane lane).lat.setWidth 32 |>.setWidth 64
  | .spec i =>
    let x := if i.toNat < 128 then constOf t i else BitVec.ofNat 64 (c.special s lane i.toNat)
    if n = 2 then x else (x.setWidth 32).setWidth 64

/-- An integer or bit source of 32 or 64 bits (05 R97). -/
def Ctx.src (s : State) (c : Ctx) (n : Nat) (lane : Nat) (o : Opnd) : DWord := c.srcT s .b64 n lane o
/-- A 32-bit source. -/
def Ctx.src32 (s : State) (c : Ctx) (lane : Nat) (o : Opnd) : Word := (c.src s 1 lane o).setWidth 32
/-- A 32-bit source taken from the lowest lane in `sel`. -/
def Ctx.low32 (s : State) (c : Ctx) (o : Opnd) : Word := c.src32 s c.low o

/-- `n` registers of the main file, as words. -/
def Lane.regs (l : Lane) (n : Nat) (i : Nat) : List Word := (List.range n).map (fun j => l.v.getD (i + j) 0)
/-- The source words of a lane for any width. -/
def Ctx.srcWords (s : State) (c : Ctx) (n : Nat) (lane : Nat) (o : Opnd) : List Word :=
  match o with
  | .v i => (c.g.lane lane).regs n i.toNat
  | _ => toWords n (c.src s n lane o).toNat

/-- Operand B of an atomic operation of `n` registers: of type f32 in `fadd.f32`, bits in the others (01 R34, 09 R196). -/
def Ctx.opWords (s : State) (c : Ctx) (op : AOp) (n : Nat) (lane : Nat) (o : Opnd) : List Word :=
  if op = .fadd then [(c.srcT s .f32 1 lane o).setWidth 32] else c.srcWords s n lane o

/-- Registers that a destination field writes. -/
def Lane.write (l : Lane) (d : Opnd) (ws : List Word) : Lane :=
  match d with
  | .v i => { l with v := mapFrom (fun j w => if i.toNat ≤ j ∧ j < i.toNat + ws.length then ws.getD (j - i.toNat) w else w) 0 l.v }
  | .o i => { l with o := mapFrom (fun j w => if i.toNat ≤ j ∧ j < i.toNat + ws.length then ws.getD (j - i.toNat) w else w) 0 l.o }
  | _ => l

/-- The latch takes the least significant 64 bits of the result (01 R36); `n` words have issued by then. -/
def Lane.latch (l : Lane) (ws : List Word) (n : Nat) : Lane := { l with lat := ws.getD 1 0 ++ ws.getD 0 0, latSeq := n }

/-- A result that lands for an entry lane whose frame stands: written to the frame, not to the registers
(17 R390). -/
def frameRes (m : Mem) (lane : Nat) (d : Opnd) (ws : List Word) : Mem :=
  let m := match d with
    | .v i => spillWords m lane (0x50 + 4 * i.toNat) ws
    | .o i => spillWords m lane (0x30 + 4 * i.toNat) ws
    | _ => m
  spillWords m lane 0x24 [ws.getD 0 0, ws.getD 1 0]

/-- Registers named by two fields overlap: `d` of `nd` registers written, `o` of `n` registers read. -/
def overlaps (d : Opnd) (nd : Nat) (o : Opnd) (n : Nat) : Bool :=
  match d, o with
  | .v i, .v j => i.toNat < j.toNat + n && j.toNat < i.toNat + nd
  | .o i, .o j => i.toNat < j.toNat + n && j.toNat < i.toNat + nd
  | _, _ => false

/-- Registers of a pending result. -/
def Landing.width (p : Landing) : Nat := p.res.foldl (fun m r => Nat.max m r.ws.length) 1

/-- A read of field `o` by a lane meets a pending result of the lane (02 R55). For the latch, a result counts only while
no other result has landed in the latch since its word issued: otherwise the latch does not hold the value from before
that word (assumption 29). -/
def Group.pendingRead (g : Group) (lane : Nat) (o : Opnd) (n : Nat) : Bool :=
  g.pend.any (fun p => p.res.any (fun r => r.lane == lane) &&
    (if o == .lat then (g.lane lane).latSeq < p.seq else overlaps p.dst p.width o n))

/-- Whose copies of a source a selected lane reads: its own, that of the lowest selected lane, those of every selected
lane, those of all 64 lanes but the quenched ones, of the selected lanes of its half, or of the selected lanes below it (with its own unless `excl`), or a lane that
the word itself picks (`shfl`, which judges that read in its own meaning). -/
inductive Reader where
  | own | low | all | group | half | below (excl : Bool) | picked
  deriving DecidableEq, Repr

/-- The readers of source field `j` of a word, counted among its operand fields (02 R55). Exchange words read the lanes that
05 R116-R121 name, `bpack` its block (06 R137), and the matrix fragments all 64 lanes (07 R150). Where a word takes an operand from the lowest selected lane alone (07
R149, 14 R304, 16 R372, 10 R222), 02 R55 does not say which lanes read it: the model counts every selected lane as its
reader, of the lowest lane's copy (assumption 32). -/
def readerOf (i : Instr) (j : Nat) : Reader :=
  match i with
  | .shfl .. => if j = 1 then .picked else .own
  | .vote .. | .matchAny .. => .all
  | .mma .. | .mmab .. => .group
  | .scanAdd _ _ excl _ _ => .below excl
  | .bpack .. => .half
  | .bcast .. | .bbar .. | .ringPut .. | .ringGet .. | .ringPeek .. | .signal .. | .semWait .. | .semPost .. | .launch ..
  | .cpy .. | .cpy2d .. | .gather .. | .scatter .. | .cpyDigest .. | .mloop .. | .maccLd .. | .maccSt .. | .mtol ..
  | .finj .. | .evt .. => .low
  | .cpyAtom .. => if j = 3 then .low else .own
  | .halloc .. => if j = 1 then .low else .own
  | .hfree .. => if j = 0 then .low else .own
  | .syswr _ n _ => if n.toNat = 0x009 then .own else .low
  | _ => .own

/-- The lanes whose copies a reader may take, of a selection. -/
def Reader.from_ (r : Reader) (g : Group) (sel : List Nat) : List Nat :=
  match r with
  | .group => (List.range 64).filter (fun l => (g.lane l).life != .quenched)
  | _ => sel

/-- The selected lanes that read a lane of `pend`, by the reader of the source. -/
def Reader.hit (r : Reader) (sel pend : List Nat) : List Nat :=
  match r with
  | .own => pend
  | .low => if pend.contains (sel.headD 64) then sel else []
  | .all | .group => if pend.isEmpty then [] else sel
  | .half => sel.filter (fun l => pend.any (fun j => j / 32 == l / 32))
  | .below excl => sel.filter (fun l => pend.any (fun j => if excl then j < l else j ≤ l))
  | .picked => []

/-- The lanes of `sel` that read, through sources whose reader satisfies `p`, a register with a pending result. -/
def readersOf (g : Group) (i : Instr) (p : Reader → Bool) (sel : List Nat) : List Nat :=
  (mapFrom (fun j u => (j, u)) 0 i.uses).flatMap (fun u =>
    match u.2.1.reads with
    | some n => if p (readerOf i u.1) then (readerOf i u.1).hit sel (((readerOf i u.1).from_ g sel).filter (fun l => g.pendingRead l u.2.2 n)) else []
    | none => [])

/-- Lanes of `sel` that read a register before its pending result has landed (02 R55): first through their own sources, then,
of those left, through the source that the word takes from the lowest of them. -/
def earlyLanes (g : Group) (i : Instr) (sel : Mask) : Mask :=
  let own := maskOfList (readersOf g i (fun r => r != .low) (lanesOf sel))
  own ||| maskOfList (readersOf g i (fun r => r == .low) (lanesOf (sel &&& ~~~own)))

/-- A result of a word, one value for each lane written, lands `lat` turns after the issue (02 R53). -/
def State.result (s : State) (c : Ctx) (lat : Nat) (d : Opnd) (res : List LRes) (kind : RKindL := .ord) : State :=
  s.modGroup c.gid (fun g => { g with pend := g.pend ++ [
    { due := c.turn + lat, seq := c.seq, dst := d, res := res, pc := c.pc, kind := kind }] })

/-- One value of `n` registers for each lane in `sel`, with its flags. -/
def Ctx.each (c : Ctx) (n : Nat) (f : Nat → Nat × BitVec 8) : List LRes :=
  c.lanes.map (fun l => let r := f l; { lane := l, ws := toWords n r.1, fl := r.2 })

/-- The result of a word that writes every lane in `sel` and raises no flag. -/
def State.put (s : State) (c : Ctx) (lat : Nat) (d : Opnd) (n : Nat) (f : Nat → Nat) : State :=
  s.result c lat d (c.each n (fun l => (f l, 0)))

/-- The result of a word that may raise flags (04 R91). -/
def State.putF (s : State) (c : Ctx) (lat : Nat) (d : Opnd) (n : Nat) (f : Nat → Nat × BitVec 8) : State :=
  s.result c lat d (c.each n f)

/-- A result whose values are known only later; its lanes and width are noted for the scoreboard. -/
def State.reserve (s : State) (c : Ctx) (due : Nat) (d : Opnd) (n : Nat) (kind : RKindL := .ord) : State :=
  s.modGroup c.gid (fun g => { g with pend := g.pend ++ [
    { due := due, seq := c.seq, dst := d, res := c.lanes.map (fun l => { lane := l, ws := List.replicate n 0 }),
      pc := c.pc, kind := kind }] })

/-- The values of a reserved result. -/
def State.fillRes (s : State) (g seq : Nat) (res : List LRes) : State :=
  s.modGroup g (fun x => { x with pend := x.pend.map (fun p => if p.seq == seq then { p with res := res } else p) })

/-- The turn at which a reserved result lands. -/
def State.dueRes (s : State) (g seq due : Nat) : State :=
  s.modGroup g (fun x => { x with pend := x.pend.map (fun p => if p.seq == seq then { p with due := due } else p) })

end Sys2Proof.Machine
end

