-- ==== Sys2Proof/Machine/Flags.lean ====
section
/-! DEFINITION. Flags as results land (04 R90, R91, 06 R134), the landing of results, and writes of FLAGS. -/

namespace Sys2Proof.Machine

/-- The bits of FLAGS [4:0] and of the per-lane bits [7:5]. -/
def fNX : BitVec 8 := 0x01
def fUF : BitVec 8 := 0x02
def fOF : BitVec 8 := 0x04
def fDZ : BitVec 8 := 0x08
def fNV : BitVec 8 := 0x10
def fWOVF : BitVec 8 := 0x20
def fHEXH : BitVec 8 := 0x40
def fQREAD : BitVec 8 := 0x80

/-- The flags of a landing result are set (04 R91, 06 R134). -/
def Group.raiseFlags (g : Group) (r : LRes) : Group :=
  { g.modLane r.lane (fun l => { l with
      qread := l.qread || r.fl.getLsbD 7, hexh := l.hexh || r.fl.getLsbD 6, wovf := l.wovf || r.fl.getLsbD 5 }) with
    fl := g.fl ||| r.fl.extractLsb' 0 5 }

/-- The entry lanes of a captured frame, whose results land in the frame (17 R390). -/
def Group.framed (g : Group) (lane : Nat) : Bool :=
  match g.hphase with
  | .idle => false
  | .capture f _ m => f == 0 && m.getLsbD lane
  | .running | .restore _ => (g.lane lane).hand != .out

/-- The handler has ended and its frames are being read (17 R389). -/
def Group.restoring (g : Group) : Bool :=
  match g.hphase with
  | .restore _ => true
  | _ => false

/-- One lane's result lands: register and latch, or the frame; flags; an enabled flag parks the lane with ARITH at the
PC it holds (04 R91), with the word there (17 R385), or, for an entry lane, at its restored PC (17 R390). While the
handler runs, the results of its own words land in the registers; before it starts and once it has ended, every result
goes to the frame. -/
def State.landLane (s : State) (gid : Nat) (p : Landing) (r : LRes) : State :=
  let g := s.group gid
  let pc := (g.lane r.lane).pc
  let rec_ : TrapRec := { trap := 0x0A, cause := (r.fl &&& 0x1F#8).toNat, targ := 0#12 ++ p.pc, word := s.wordAt g pc.toNat }
  let trap := g.te &&& r.fl.extractLsb' 0 5 != 0
  if g.framed r.lane && (p.seq ≤ g.hseq || g.restoring) then
    let g' := { g with spill := { g.spill with cells := frameRes g.spill.cells r.lane p.dst r.ws } }
    s.setGroup gid ((g'.raiseFlags r).modLane r.lane (fun l =>
      let l := { l with latSeq := g.seq }
      if trap && l.late.isNone then { l with late := some rec_ } else l))
  else
    let s := s.setGroup gid ((g.modLane r.lane (fun l => (l.write p.dst r.ws).latch r.ws g.seq)).raiseFlags r)
    if trap then s.park gid r.lane pc rec_ else s

/-- A result lands in this turn; one of a semaphore access that has not applied yet waits for it (17 R398). -/
def State.landsNow (s : State) (gid : Nat) (p : Landing) : Bool :=
  p.due ≤ s.turn && !s.semq.any (fun q => q.gid == gid && q.seq == p.seq)

/-- Every result of a group that is due lands, in program order (02 R54, 01 R37). -/
def State.land (s : State) (gid : Nat) : State :=
  let g := s.group gid
  let now := sortBy (fun a b => a.seq ≤ b.seq) (g.pend.filter (s.landsNow gid))
  let s := s.setGroup gid { g with pend := g.pend.filter (fun p => !s.landsNow gid p) }
  now.foldl (fun s p => (s.quenchAll gid p.quench 3 |> fun s => p.res.foldl (fun s r => s.landLane gid p r) s)) s

/-- A `syswr` to FLAGS takes effect: per-lane bits of each selected lane, group bits from the lowest (04 R90). -/
def Group.writeFlags (g : Group) (vals : List (Nat × Word)) : Group :=
  let g := vals.foldl (fun g (i, w) => g.modLane i (fun l => { l with
    qread := w.getLsbD 7, hexh := w.getLsbD 6, wovf := w.getLsbD 5 })) g
  match vals.head? with
  | some (_, w) => { g with fl := w.extractLsb' 0 5, te := w.extractLsb' 16 5 }
  | none => g

end Sys2Proof.Machine
end

