-- ==== Sys2Proof/Machine/Issue.lean ====
section
/-! DEFINITION. Selection (13 R268-R279), fetch (02 R39-R43), the decode checks of 02 R62 that depend on the group, and
what an issue leaves behind once its words have acted (13 R271, R275, R276, 02 R52, R58, 18 R402). -/

namespace Sys2Proof

/-- The major opcode of a word; the emulation class for `div` and `rem`, 0xFF for the fill word. -/
def Instr.opc (i : Instr) : Nat :=
  match i.raw with
  | some r => r.opc.toNat
  | none => match i with | .fillWord => 0xFF | _ => 0xF2

/-- Which of its lanes' earlier remote executions take effect before a word: before a release in scratch, a barrier and a `ring.put`, and
before what a `fence` makes a release all of them; before what follows a `fence.acq` those that read (11 R242, R250). -/
def Instr.front : Instr → Bool × Bool
  | .st _ _ _ ord _ _ _ | .atomBlk _ _ ord _ _ _ _ _ | .atomDie _ _ ord _ _ _ _ _ | .stc _ _ _ ord _ _ _ _ => (ord.isSome, false)
  | .fence _ k _ => (k != .acq, true)
  | .bar _ | .gbar _ | .ringPut _ _ _ => (true, false)
  | _ => (false, false)

end Sys2Proof

namespace Sys2Proof.Machine

/-- Role grants of 01 R24. -/
def roleOk (opc : Nat) (r : Role) : Bool :=
  if opc ≤ 0x3F || (0xD0 ≤ opc && opc ≤ 0xEF) || [0xA2, 0xA3, 0xAA, 0xC6, 0xC7].contains opc || 0xF0 ≤ opc then true
  else if opc ≤ 0x8F || (0xA0 ≤ opc && opc ≤ 0xBF) then r == .vector || r == .general
  else if opc ≤ 0x9F then r == .matrix
  else r == .stoker || r == .general

/-- Issue units of 02 R44. -/
def unitOf (opc : Nat) : Nat :=
  if opc ≤ 0x0F then 0 else if opc ≤ 0x3F then 1 else if opc ≤ 0x4F then 2 else if opc ≤ 0x8F then 3
  else if opc ≤ 0x9F then 4 else if opc ≤ 0xBF then 5 else if opc ≤ 0xCF then 6 else if opc ≤ 0xDF then 7
  else if opc ≤ 0xEF then 8 else 9

/-- Engine commands (07 R146, 16 R377). -/
def isEngine (opc : Nat) : Bool := (0x90 ≤ opc && opc ≤ 0x9A) || opc == 0x9C

/-- Blocking words of 01 R20, and `yield` (13 R276). -/
def endsExcursion (opc : Nat) : Bool := [0x09, 0x0C, 0xC7, 0xD0, 0xD1, 0xD2, 0xD3, 0xD4].contains opc

/-- Words that end a held reservation of the lanes that issue them (09 R200). -/
def endsHeld (opc : Nat) : Bool :=
  (0xA0 ≤ opc && opc ≤ 0xAD && opc != 0xA8 && opc != 0xA9) || (0xC0 ≤ opc && opc ≤ 0xC6)
  || [0xC8, 0xC9, 0xCA, 0xCB, 0x0C, 0xC7, 0xD0, 0xD1, 0xD2, 0xD3, 0xD4].contains opc

/-- Privileged words: `mtol`, `finj`, and `syswr` to a register of the partition (16 R372, R373, 08 R176). -/
def needsPriv : Instr → Bool
  | .mtol .. | .finj .. => true
  | .syswr _ n _ => n.toNat != 0x009
  | _ => false

/-- ILLEGAL with a class (17 R385). -/
def illegal (cause : Nat) : TrapRec := { trap := 1, cause := cause }

/-- Operand limits of a word in a kernel of `N` registers (02 R47, R62 check 6). -/
def fieldsOk (N : Nat) (i : Instr) : Bool := i.wf N

/-- The lanes of I that the word's predicate selects (02 R47). -/
def predSel (g : Group) (iset : Mask) (i : Instr) : Mask :=
  match i.ctl? with
  | some k =>
    if k.pe then iset &&& g.maskOf (fun l => (l.v.getD k.p.toNat 0).getLsbD 0 != k.pn) else iset
  | none => iset

/-- Decode checks 4 and 6 to 8 of 02 R62 for a decoded word: the trap class, and whether the word's STOP and STALL
fields apply (they do after checks 7 and 8). -/
def State.rejects (s : State) (i : Instr) (g : Group) (iset : Mask) (lineBad : Bool) : Option (Nat × Bool) :=
  if 0xF0 ≤ i.opc then none
  else if !roleOk i.opc g.role then some (4, false)
  else if lineBad || !fieldsOk g.nregs i then some (2, false)
  else if needsPriv i && (!(s.grid g.grid).priv || (i.opc == 0xE6 && !(s.part g.pid).test)) then some (6, true)
  else if isEngine i.opc && predSel g iset i != g.live then some (5, true)
  else none

/-- Park every lane of a mask at the word's PC. -/
def State.parkMask (s : State) (g : Nat) (m : Mask) (pc : BitVec 20) (r : TrapRec) : State :=
  (lanesOf m).foldl (fun s l => s.park g l pc r) s

/-- The lanes a word parks with UNDERSIZED_STALL when SBCHK is set: readers of pending results, its predicate's
included, and every lane of a STOP word over unsettled results (02 R55, R57). -/
def State.undersized (s : State) (i : Instr) (g : Group) (iset sel : Mask) : Mask :=
  if (s.part g.pid).sbchk then
    let pred := match i.ctl? with
      | some k => if k.pe then maskOfList ((lanesOf iset).filter (fun l => g.pendingRead l (.v k.p) 1)) else 0
      | none => 0
    let stop := match i.ctl? with
      | some k => if k.stop && i.opc != 0x0B && s.turn < g.settled then iset else 0
      | none => 0
    pred ||| stop ||| earlyLanes g i sel
  else 0

/-- The issue after a word that the decode checks accept (02 R52, R56, 13 R276). -/
def Issue.ran (x : Issue) (i : Instr) : Issue :=
  { x with stall := (i.ctl?.map Ctl.stall).getD 0, stop := x.stop || (i.ctl?.map Ctl.stop).getD false
           blocked := x.blocked || endsExcursion i.opc }

/-- What an accepted word sees of its issue, for the lanes in `sel`. -/
def wordCtx (s : State) (x : Issue) (g : Group) (sel : Mask) : Ctx :=
  { gid := x.gid, g := g, pc := x.pc, iset := x.iset, sel := sel, turn := s.turn,
    tick := 16 * s.turn + 2 * g.slot.getD 0, seq := g.seq + 1, base := (s.grid g.grid).base }

/-- The group as an accepted word begins: its place in program order, the remote executions of the lanes that take effect before it
(11 R242), those of a remote acquire with which it is paired among them, and the held reservations that the word ends (09 R200). A
word issued between an `ldr` and that `ldr`'s bank turn ends no reservation that is still to be taken: R200 has a held reservation
that stands end, and leaves that case open (DESIGN CHOICE, assumption 36). -/
def Group.noteWord (g : Group) (i : Instr) (sel : Mask) : Group :=
  let rd := i.front.2 || (unitOf i.opc == 5 && g.runq.any (·.acq))
  if endsHeld i.opc || i.front.1 || rd then
    { g.modLanes sel (fun l =>
        { l with resv := if endsHeld i.opc && (l.resv.map (·.held)).getD false then none else l.resv
                 front := if i.front.1 then g.seq else l.front
                 frontRd := if rd then g.seq else l.frontRd }) with seq := g.seq + 1 }
  else { g with seq := g.seq + 1 }

/-- The state in which an accepted word's own effect begins. -/
def State.began (s : State) (i : Instr) (x : Issue) (g : Group) (sel : Mask) : State :=
  { s.setGroup x.gid (g.noteWord i sel) with issue := some (x.ran i) }

/-- A word acts: the decode checks that depend on the group, the scoreboard check, then the word's own effect on the
lanes in `sel`. -/
def runWord (i : Instr) (x : Issue) (g : Group) (s : State) (body : Ctx → State → State) : State :=
  match s.rejects i g x.iset x.lineBad with
  | some (cls, keeps) =>
    { s.parkMask x.gid x.iset x.pc { illegal cls with word := x.word } with
      issue := some { x with rejected := x.rejected || !keeps
                             stall := if keeps then (i.ctl?.map Ctl.stall).getD 0 else 0
                             stop := x.stop || (keeps && (i.ctl?.map Ctl.stop).getD false) } }
  | none =>
    let early := s.undersized i g x.iset (predSel g x.iset i)
    let sel := predSel g x.iset i &&& ~~~early
    (body (wordCtx s x g sel) (s.began i x g sel)).parkMask x.gid early x.pc { trap := 5, cause := 1, word := x.word }

/-- The frame of every word's meaning: it acts in the issue in progress. The second word of a pair finds what the first has done to the group
and its block: a `movs` there reads PROG, LIVEMASK and QLOG as the first word left them, where the spec does not say (DESIGN CHOICE,
assumption 92). -/
def withIssue (i : Instr) (s : State) (body : Ctx → State → State) : Host.Outcome State Fault Refusal :=
  match s.issue with
  | none => .fault .noIssue
  | some x =>
    match tget s.groups x.gid with
    | none => .fault .noIssue
    | some g => .next (runWord i x g s body)

/-- Changes to the issue in progress. -/
def State.modIssue (s : State) (f : Issue → Issue) : State := { s with issue := s.issue.map f }

/-- The word freezes its context and has no effect: no lane moves past it (16 R364; DEDUCED, assumption 30). -/
def State.voidIssue (s : State) : State := s.modIssue (fun q => { q with void := true })

/-- Every lane in `sel` parks at the word's PC (09 R193, 10 R213). -/
def State.parkSel (s : State) (c : Ctx) (r : TrapRec) : State :=
  s.parkMask c.gid c.sel c.pc { r with word := (s.issue.map (·.word)).getD 0 }

/-- A lane parks at the word's PC. -/
def State.parkLane (s : State) (c : Ctx) (lane : Nat) (r : TrapRec) : State :=
  s.park c.gid lane c.pc { r with word := (s.issue.map (·.word)).getD 0 }

/-- Lanes in `sel` start to wait (01 R20). -/
def State.waitLane (s : State) (c : Ctx) (lane : Nat) (cond : Cond) (since : Nat) : State :=
  s.modGroup c.gid (fun g => g.modLane lane (fun l => { l with wait := some { cond := cond, since := since }, w := 0 }))

/-! Fetch -/

/-- XOR of the low `n` bits of a number. -/
def parity : Nat → Nat → Bool
  | 0, _ => false
  | n + 1, v => (v % 2 == 1) != parity n (v / 2)

/-- All six parities of a line hold (02 R40, R41). -/
def Line.ok (l : Line) : Bool :=
  parity 30 l.lw.toNat == false &&
  (List.range 5).all (fun k => parity 96 (l.slots.getD k 0).toNat == l.lw.getLsbD (24 + k))
/-- Reserved bits of the line word (02 R42). -/
def Line.bad (l : Line) : Bool := l.lw.extractLsb' 30 2 != 0 || l.lw.extractLsb' 9 15 != 0
/-- The line word of five slots with the given PAIR and TGT masks and even parity (02 R40). -/
def lineWord (slots : List IWord) (pair : BitVec 4) (tgt : BitVec 5) : Word :=
  let spar := (List.range 5).foldl (fun n k => n + if parity 96 (slots.getD k 0).toNat then 2 ^ (24 + k) else 0) 0
  let lo := spar + 32 * pair.toNat + tgt.toNat
  BitVec.ofNat 32 (lo + if parity 29 lo then 2 ^ 29 else 0)

/-- valid(x) of 13 R281. -/
def State.validTarget (s : State) (g : Group) (pc : Nat) : Bool :=
  let r := s.grid g.grid
  slotPc r.base pc && (match s.lineAt g pc with
    | some l => l.lw.getLsbD (slotOf r.base pc)
    | none => false)

/-! Selection -/

/-- The lanes whose key is the least of a mask's lanes. -/
def Group.leastKey (g : Group) (m : Mask) : Nat :=
  (lanesOf m).foldl (fun k i => Nat.min k (g.lane i).key) (2 ^ 28)

/-- The excursion trigger of 13 R276: the lanes EMASK of an excursion about to start. -/
def Group.excursion (g : Group) (lim : Nat) : Option Mask :=
  let sel := g.selMask
  let m := g.leastKey sel
  let u := (lanesOf sel).filter (fun i => m < (g.lane i).key)
  if g.hphase == .idle && !(g.exc && g.emask &&& sel != 0) && !u.isEmpty
      && (g.yld || u.any (fun i => lim ≤ (g.lane i).w.toNat)) then
    let best := u.foldl (fun b i =>
      match b with
      | none => some i
      | some j =>
        let wi := (g.lane i).w.toNat
        let wj := (g.lane j).w.toNat
        if wj < wi || (wi == wj && (g.lane i).key < (g.lane j).key) then some i else some j) (none : Option Nat)
    best.map (fun x => maskOfList (u.filter (fun i => (g.lane i).key == (g.lane x).key)))
  else none

/-- The issue set I, and the selector state after the selection (13 R270, R276). -/
def Group.select (g : Group) : Mask × Group :=
  let sel := g.selMask
  if g.exc && g.emask &&& sel != 0 then
    let k := g.leastKey (g.emask &&& sel)
    let i := g.maskOf (fun l => g.selectable l && l.key == k)
    (i, { g with emask := g.emask ||| i, ecnt := g.ecnt + 1, yld := false })
  else
    let k := g.leastKey sel
    (g.maskOf (fun l => g.selectable l && l.key == k), { g with exc := false, yld := false })

/-! The end of a word and of an issue -/

/-- The word folded into a lane's signature, a new span begun by its TGT bit or by `sigchk`, which is never folded (18 R402). -/
def Issue.fold (x : Issue) (sig : Word) : Word :=
  if x.word.extractLsb' 88 8 = 0x0A#8 then 0 else foldSig (if x.tgt then 0 else sig) x.word

/-- A lane of I that left the live mask in this word and was not parked by it: it retired, or it was quenched other than as a
handler lane that a trap would have parked (17 R391, 18 R402). -/
def Group.leftUnparked (g : Group) (l : Lane) : Bool :=
  l.life == .retired || (l.life == .quenched && !(g.hphase == .running && g.qcause == 6))

/-- PC and signature of the lanes of I once their word has acted (13 R271, 18 R402): a lane that the word parks folds
nothing. -/
def endWord (x : Issue) (base : Nat) (g : Group) : Group :=
  { g with lanes := mapFrom (fun i l =>
      if x.iset.getLsbD i && l.isLive && l.trec.isNone then
        { l with pc := if x.moved.getLsbD i then l.pc else succPc base x.pc, sig := x.fold l.sig }
      else if x.iset.getLsbD i && g.leftUnparked l then { l with sig := x.fold l.sig }
      else l) 0 g.lanes }

/-- Wait counts, the end of an excursion, stall, stop spacing and SIG after an issue (13 R275, R276, 02 R52, R58,
18 R401). -/
def endIssue (x : Issue) (all : Mask) (turn : Nat) (g : Group) : Group :=
  let sel := g.selMask
  let lanes := mapFrom (fun i l =>
    if all.getLsbD i || !sel.getLsbD i then { l with w := 0 }
    else { l with w := if l.w = 0xFFFF#16 then l.w else l.w + 1 }) 0 g.lanes
  let ends := x.backward || x.blocked || g.ecnt == 64 || g.emask &&& sel == 0
  { g with
    lanes := lanes
    exc := g.exc && !ends
    next := turn + 1 + x.extra + x.stall.toNat
    stopCnt := if x.stop || x.rtiDone then 0 else g.stopCnt + (if x.isSecond then 2 else 1)
    sigReg := (lanes.getD x.lane0 {}).sig
    sigLane := x.lane0 }

/-- A void issue is over: no lane moves, and SIG is the signature of its I's lowest lane as it stands (18 R401). -/
def Group.endVoid (g : Group) (x : Issue) : Group := { g with sigReg := (g.lane x.lane0).sig, sigLane := x.lane0 }

/-- The lanes at a word's PC leave it by parking in a later turn, `sigs` their signatures from before the word issued, which
they have again: a lane that a word parks does not fold it (18 R402, assumption 65). -/
def State.parkBack (s : State) (gid : Nat) (sigs : List (Nat × Word)) (pc : BitVec 20) (r : TrapRec) : State :=
  sigs.foldl (fun s q =>
    if ((s.group gid).lane q.1).isLive && ((s.group gid).lane q.1).trec.isNone then
      (s.park gid q.1 pc r).modGroup gid (fun g =>
        let g := g.modLane q.1 (fun l => { l with sig := q.2 })
        if g.sigLane = q.1 then { g with sigReg := q.2 } else g)
    else s) s

/-- What a step adds after a word's meaning: the lanes move past the word, the second word of a pair follows for the lanes
that the first did not park, however few (02 R45), or the issue ends. The second word follows in the same turn also where the first is
a remote acquire: 11 R247 holds the group's next issue, and a pair is one (DESIGN CHOICE, assumption 77). The first word is folded before the
second acts: a `sigchk` there compares the signature with it, where 13 R287 does not say (DESIGN CHOICE, assumption 92). -/
def State.finishWord (s : State) : State :=
  match s.issue with
  | none => s
  | some x =>
    match tget s.groups x.gid with
    | none => { s with issue := none, pos := s.pos + 1 }
    | some g =>
      if x.void then { s.setGroup x.gid (g.endVoid x) with issue := none, pos := s.pos + 1 }
      else
        let base := (s.grid g.grid).base
        let g := endWord x base g
        let s := s.setGroup x.gid g
        match x.second with
        | some w =>
          let x' : Issue := { x with pc := succPc base x.pc, iset := g.maskOf (fun l => l.isLive && l.trec.isNone) &&& x.iset, word := w
                                     second := none, isSecond := true, moved := 0, tgt := x.tgt2 }
          { s with issue := some x' }
        | none => { s.setGroup x.gid (endIssue x x.all s.turn g) with issue := none, pos := s.pos + 1 }

/-- The position of a group's turn (01 R16): slot, then core, then quarter. -/
def Group.posOf (g : Group) : Option Nat := g.slot.map (fun k => 1536 * k + 4 * g.core + g.quarter)

/-- The group whose turn stands at a position. -/
def State.groupAt (s : State) (pos : Nat) : Option Nat :=
  (s.groups.find? (fun p => p.2.posOf == some pos)).map (·.1)

/-- Remote executions of a group numbered below `lim` have not completed (10 R234, 11 R247). -/
def State.rmtOut (s : State) (gid lim : Nat) : Bool :=
  s.remotes.any (fun r => r.gid == gid && r.ident < lim) || (s.group gid).runq.any (fun r => r.ident < lim)

/-- A group is held by remote executions: those numbered below `rwait` (10 R234, and a wide fence), and those of a remote acquire
(11 R247). -/
def State.rmtHolds (s : State) (gid : Nat) (g : Group) : Bool :=
  s.rmtOut gid g.rwait || s.remotes.any (fun r => r.gid == gid && r.acq) || g.runq.any (·.acq)

/-- A group may start an issue at this turn: active, its stall and holds over, its context running or on its way to a
stop point, and some lane selectable (01 R17, 02 R52, 17 R395). -/
def State.canIssue (s : State) (i : Nat) (g : Group) : Bool :=
  let p := s.part g.pid
  g.slotFrom ≤ s.turn && g.next ≤ s.turn && g.hold ≤ s.turn && g.fetchHold ≤ s.turn && g.runq.isEmpty && !s.rmtHolds i g
  && (p.st == .running || (p.st == .stopping && p.haltBy && !g.haltDone)) && g.selMask != 0

/-- The next group to issue at or after this position of the turn. -/
def State.pick (s : State) : Option (Nat × Nat × Group) :=
  s.groups.foldl (fun b p =>
    match p.2.posOf with
    | some q =>
      if s.pos ≤ q && s.canIssue p.1 p.2 && (match b with | some (q', _, _) => q < q' | none => true) then some (q, p.1, p.2)
      else b
    | none => b) none

end Sys2Proof.Machine
end

