-- ==== Sys2Proof/Machine/Special.lean ====
section
/-! DEFINITION. The special registers that `movs` and `sysrd` read (05 R115, 17 R383, 08 R174). -/

namespace Sys2Proof.Machine

/-- QLOG (17 R383). -/
def Group.qlog (g : Group) : Word :=
  BitVec.ofNat 8 g.nq ++ BitVec.ofNat 4 g.qcause ++ 0#2 ++ BitVec.ofNat 6 g.qlane ++ BitVec.ofNat 12 g.nrec

/-- The tolerance register of a format (08 R174). -/
def Part.tolOf (p : Part) (t : Ty) : Word := ((p.tol.find? (fun e => e.1 == t)).map (·.2)).getD 0

/-- A special register as a lane reads it at its own beat (05 R115, 18 R401). FAIRLIM is read once for all lanes, also where a driver's write
arrives at the tick of the second beat: 01 R18 lets the pod time alone show that beat (DESIGN CHOICE, assumption 93). -/
def Ctx.sreg (s : State) (c : Ctx) (lane num : Nat) (fmt : Option Ty) : Nat :=
  match num with
  | 0x00 => lane
  | 0x01 => c.g.index
  | 0x02 => (s.block c.g.block).blockId
  | 0x03 => (s.block c.g.block).gang
  | 0x04 => c.g.quarter
  | 0x05 => c.g.core
  | 0x06 => dieOf c.g.core
  | 0x07 => c.g.live.toNat
  | 0x08 => c.beat lane
  | 0x09 => (c.g.flagsOf (c.g.lane lane)).toNat
  | 0x0A => c.g.qlog.toNat
  | 0x0B => ((s.issue.map Issue.sig0).getD 0).toNat
  | 0x0C => (s.part c.g.pid).fairlim
  | 0x0D => ((fmt.map (s.part c.g.pid).tolOf).getD 0).toNat
  | 0x0E => c.g.prog.toNat
  | _ => 0

end Sys2Proof.Machine
end

