-- ==== Sys2Proof/Machine/Integer.lean ====
section
/-! DEFINITION. The integer, address and logic instructions of 05 R97-R115. -/

namespace Sys2Proof

/-- The low bits of a source read as an integer type (04 R77). -/
def Ty.val (t : Ty) (x : DWord) : Int :=
  let m := x.toNat % 2 ^ t.bits
  if t.isSigned && 2 ^ (t.bits - 1) ≤ m then (m : Int) - 2 ^ t.bits else m

/-- Bounds of an integer type (04 R77). -/
def Ty.minVal (t : Ty) : Int := if t.isSigned then -2 ^ (t.bits - 1) else 0
def Ty.maxVal (t : Ty) : Int := if t.isSigned then 2 ^ (t.bits - 1) - 1 else 2 ^ t.bits - 1

/-- sat(x, T) of an integer type (04 R93). -/
def Ty.sat (t : Ty) (x : Int) : Int := if x < t.minVal then t.minVal else if t.maxVal < x then t.maxVal else x

/-- A number reduced to a type's width and read as the type (04 R77). -/
def Ty.wrap (t : Ty) (x : Int) : Int := t.val (BitVec.ofInt 64 x)

/-- A value of an integer type in its destination registers: an s type is sign-extended to 32 bits, an n type
zero-extended (04 R77). -/
def Ty.out (t : Ty) (x : Int) : Nat := (x % 2 ^ (32 * t.regs)).toNat

/-- A relation of two values that compare (05 R109, 06 R128). -/
def Rel.holds (r : Rel) (u v : Int) : Bool :=
  match r with
  | .eq => u == v
  | .ne => u != v
  | .lt => u < v
  | .le => u ≤ v
  | .gt => v < u
  | .ge => v ≤ u
  | .num => true
  | .nan => false

end Sys2Proof

namespace Sys2Proof.Machine

open Host (Outcome)

/-- The immediate extended to an operation of type `t` (02 R49, 05 R103). -/
def immOf (t : Ty) (v : Word) : DWord := if t.isSigned then v.signExtend 64 else v.setWidth 64

/-- `add` and `sub` for either second source (05 R100, R103): `x` is the exact result. -/
def addOut (t : Ty) (sat : Bool) (x : Int) : Nat := t.out (if sat then t.sat x else t.wrap x)

/-- A b-typed result of the operation's width. -/
def bitsOut (t : Ty) (x : Nat) : Nat := x % 2 ^ t.bits

def execAdd (c : Ctl) (t : Ty) (sat : Bool) (d a b : Opnd) (s : State) : Outcome State Fault Refusal :=
  withIssue (.add c t sat d a b) s (fun x s => s.put x 1 d t.regs (fun l =>
    addOut t sat (t.val (x.src s t.regs l a) + t.val (x.src s t.regs l b))))

def execSub (c : Ctl) (t : Ty) (sat : Bool) (d a b : Opnd) (s : State) : Outcome State Fault Refusal :=
  withIssue (.sub c t sat d a b) s (fun x s => s.put x 1 d t.regs (fun l =>
    addOut t sat (t.val (x.src s t.regs l a) - t.val (x.src s t.regs l b))))

def execAddImm (c : Ctl) (t : Ty) (sat : Bool) (d a : Opnd) (imm : Word) (s : State) : Outcome State Fault Refusal :=
  withIssue (.addImm c t sat d a imm) s (fun x s => s.put x 1 d t.regs (fun l =>
    addOut t sat (t.val (x.src s t.regs l a) + t.val (immOf t imm))))

def execSubImm (c : Ctl) (t : Ty) (sat : Bool) (d a : Opnd) (imm : Word) (s : State) : Outcome State Fault Refusal :=
  withIssue (.subImm c t sat d a imm) s (fun x s => s.put x 1 d t.regs (fun l =>
    addOut t sat (t.val (x.src s t.regs l a) - t.val (immOf t imm))))

/-- `mul.lo` (05 R101). -/
def execMulLo (c : Ctl) (t : Ty) (d a b : Opnd) (s : State) : Outcome State Fault Refusal :=
  withIssue (.mulLo c t d a b) s (fun x s => s.put x 1 d 1 (fun l =>
    (x.src32 s l a).toNat * (x.src32 s l b).toNat % 2 ^ 32))

def execMulLoImm (c : Ctl) (t : Ty) (d a : Opnd) (imm : Word) (s : State) : Outcome State Fault Refusal :=
  withIssue (.mulLoImm c t d a imm) s (fun x s => s.put x 1 d 1 (fun l =>
    (x.src32 s l a).toNat * imm.toNat % 2 ^ 32))

/-- `mul.hi` (05 R101). -/
def execMulHi (c : Ctl) (t : Ty) (d a b : Opnd) (s : State) : Outcome State Fault Refusal :=
  withIssue (.mulHi c t d a b) s (fun x s => s.put x 1 d 1 (fun l =>
    (t.val (x.src s 1 l a) * t.val (x.src s 1 l b) / 2 ^ 32 % 2 ^ 32).toNat))

/-- The type at which the 64-bit `mad` reads A and B (05 R101). -/
def madHalf (t : Ty) : Ty := if t.isSigned then .s32 else .n32

/-- `mad` (05 R101). -/
def execMad (c : Ctl) (t : Ty) (d a b cc : Opnd) (s : State) : Outcome State Fault Refusal :=
  withIssue (.mad c t d a b cc) s (fun x s => s.put x 1 d t.regs (fun l =>
    t.out (t.wrap ((madHalf t).val (x.src s 1 l a) * (madHalf t).val (x.src s 1 l b) + t.val (x.src s t.regs l cc)))))

/-- `min` (05 R102). -/
def execMin (c : Ctl) (t : Ty) (d a b : Opnd) (s : State) : Outcome State Fault Refusal :=
  withIssue (.min c t d a b) s (fun x s => s.put x 1 d t.regs (fun l =>
    let u := t.val (x.src s t.regs l a)
    let v := t.val (x.src s t.regs l b)
    t.out (if v < u then v else u)))

/-- `max` (05 R102). -/
def execMax (c : Ctl) (t : Ty) (d a b : Opnd) (s : State) : Outcome State Fault Refusal :=
  withIssue (.max c t d a b) s (fun x s => s.put x 1 d t.regs (fun l =>
    let u := t.val (x.src s t.regs l a)
    let v := t.val (x.src s t.regs l b)
    t.out (if u < v then v else u)))

/-- `abs` (05 R102). -/
def execAbs (c : Ctl) (t : Ty) (sat : Bool) (d a : Opnd) (s : State) : Outcome State Fault Refusal :=
  withIssue (.abs c t sat d a) s (fun x s => s.put x 1 d t.regs (fun l =>
    addOut t sat (t.val (x.src s t.regs l a)).natAbs))

/-! Logic (05 R104) -/

def execAnd (c : Ctl) (t : Ty) (d a b : Opnd) (s : State) : Outcome State Fault Refusal :=
  withIssue (.and c t d a b) s (fun x s => s.put x 1 d t.regs (fun l =>
    bitsOut t (x.src s t.regs l a &&& x.src s t.regs l b).toNat))

def execOr (c : Ctl) (t : Ty) (d a b : Opnd) (s : State) : Outcome State Fault Refusal :=
  withIssue (.or c t d a b) s (fun x s => s.put x 1 d t.regs (fun l =>
    bitsOut t (x.src s t.regs l a ||| x.src s t.regs l b).toNat))

def execXor (c : Ctl) (t : Ty) (d a b : Opnd) (s : State) : Outcome State Fault Refusal :=
  withIssue (.xor c t d a b) s (fun x s => s.put x 1 d t.regs (fun l =>
    bitsOut t (x.src s t.regs l a ^^^ x.src s t.regs l b).toNat))

def execAndImm (c : Ctl) (t : Ty) (d a : Opnd) (imm : Word) (s : State) : Outcome State Fault Refusal :=
  withIssue (.andImm c t d a imm) s (fun x s => s.put x 1 d t.regs (fun l =>
    bitsOut t (x.src s t.regs l a &&& immOf t imm).toNat))

def execOrImm (c : Ctl) (t : Ty) (d a : Opnd) (imm : Word) (s : State) : Outcome State Fault Refusal :=
  withIssue (.orImm c t d a imm) s (fun x s => s.put x 1 d t.regs (fun l =>
    bitsOut t (x.src s t.regs l a ||| immOf t imm).toNat))

def execXorImm (c : Ctl) (t : Ty) (d a : Opnd) (imm : Word) (s : State) : Outcome State Fault Refusal :=
  withIssue (.xorImm c t d a imm) s (fun x s => s.put x 1 d t.regs (fun l =>
    bitsOut t (x.src s t.regs l a ^^^ immOf t imm).toNat))

def execAndn (c : Ctl) (t : Ty) (d a b : Opnd) (s : State) : Outcome State Fault Refusal :=
  withIssue (.andn c t d a b) s (fun x s => s.put x 1 d t.regs (fun l =>
    bitsOut t (x.src s t.regs l a &&& ~~~(x.src s t.regs l b)).toNat))

def execNot (c : Ctl) (t : Ty) (d a : Opnd) (s : State) : Outcome State Fault Refusal :=
  withIssue (.not c t d a) s (fun x s => s.put x 1 d t.regs (fun l => bitsOut t (~~~(x.src s t.regs l a)).toNat))

/-! Shifts (05 R105): a count of the width or more is not a shift by a multiple of it -/

def execShl (c : Ctl) (t : Ty) (d a b : Opnd) (s : State) : Outcome State Fault Refusal :=
  withIssue (.shl c t d a b) s (fun x s => s.put x 1 d t.regs (fun l =>
    let n := (x.src32 s l b).toNat
    if t.bits ≤ n then 0 else bitsOut t ((x.src s t.regs l a).toNat * 2 ^ n)))

def execShr (c : Ctl) (t : Ty) (d a b : Opnd) (s : State) : Outcome State Fault Refusal :=
  withIssue (.shr c t d a b) s (fun x s => s.put x 1 d t.regs (fun l =>
    let n := (x.src32 s l b).toNat
    if t.bits ≤ n then 0 else bitsOut t (x.src s t.regs l a).toNat / 2 ^ n))

def execSar (c : Ctl) (t : Ty) (d a b : Opnd) (s : State) : Outcome State Fault Refusal :=
  withIssue (.sar c t d a b) s (fun x s => s.put x 1 d t.regs (fun l =>
    let n := (x.src32 s l b).toNat
    let v := t.val (x.src s t.regs l a)
    if t.bits ≤ n then t.out (if v < 0 then -1 else 0) else t.out (v / 2 ^ n)))

/-- `rot` rotates left (05 R105). -/
def execRot (c : Ctl) (t : Ty) (d a b : Opnd) (s : State) : Outcome State Fault Refusal :=
  withIssue (.rot c t d a b) s (fun x s => s.put x 1 d t.regs (fun l =>
    let k := (x.src32 s l b).toNat % t.bits
    let v := bitsOut t (x.src s t.regs l a).toNat
    bitsOut t (v * 2 ^ k) + v / 2 ^ (t.bits - k)))

/-! Bit fields and counts (05 R106-R108) -/

def execBfe (c : Ctl) (t : Ty) (d a b cc : Opnd) (s : State) : Outcome State Fault Refusal :=
  withIssue (.bfe c t d a b cc) s (fun x s => s.put x 1 d 1 (fun l =>
    let pos := Nat.min (x.src32 s l b).toNat 32
    let len := Nat.min (x.src32 s l cc).toNat (32 - pos)
    let f := (x.src32 s l a).toNat / 2 ^ pos % 2 ^ len
    if len = 0 then 0
    else if t = .s32 ∧ 2 ^ (len - 1) ≤ f then f + 2 ^ 32 - 2 ^ len
    else f))

def execBfi (c : Ctl) (d a b cc : Opnd) (s : State) : Outcome State Fault Refusal :=
  withIssue (.bfi c d a b cc) s (fun x s => s.put x 1 d 1 (fun l =>
    let w := x.src32 s l cc
    let pos := Nat.min (w.extractLsb' 0 8).toNat 32
    let len := Nat.min (w.extractLsb' 8 8).toNat (32 - pos)
    let mask : Word := BitVec.ofNat 32 ((2 ^ len - 1) * 2 ^ pos)
    ((x.src32 s l a &&& ~~~mask) ||| (BitVec.ofNat 32 ((x.src32 s l b).toNat * 2 ^ pos) &&& mask)).toNat))

/-- Number of 1 bits among the low `n`. -/
def popCount : Nat → Nat → Nat
  | 0, _ => 0
  | n + 1, v => v % 2 + popCount n (v / 2)
/-- Number of 0 bits below the lowest 1 bit of the low `n`. -/
def lowZeros : Nat → Nat → Nat
  | 0, _ => 0
  | n + 1, v => if v % 2 = 1 then 0 else 1 + lowZeros n (v / 2)
/-- Bits [n − 1:0] in reverse order. -/
def revBits : Nat → Nat → Nat
  | 0, _ => 0
  | n + 1, v => v % 2 * 2 ^ n + revBits n (v / 2)

def execPopc (c : Ctl) (t : Ty) (d a : Opnd) (s : State) : Outcome State Fault Refusal :=
  withIssue (.popc c t d a) s (fun x s => s.put x 1 d 1 (fun l => popCount t.bits (x.src s t.regs l a).toNat))

def execClz (c : Ctl) (t : Ty) (d a : Opnd) (s : State) : Outcome State Fault Refusal :=
  withIssue (.clz c t d a) s (fun x s => s.put x 1 d 1 (fun l =>
    lowZeros t.bits (revBits t.bits (x.src s t.regs l a).toNat)))

def execCtz (c : Ctl) (t : Ty) (d a : Opnd) (s : State) : Outcome State Fault Refusal :=
  withIssue (.ctz c t d a) s (fun x s => s.put x 1 d 1 (fun l => lowZeros t.bits (x.src s t.regs l a).toNat))

def execBrev (c : Ctl) (t : Ty) (d a : Opnd) (s : State) : Outcome State Fault Refusal :=
  withIssue (.brev c t d a) s (fun x s => s.put x 1 d t.regs (fun l => revBits t.bits (x.src s t.regs l a).toNat))

/-! Compare, select and move (05 R109-R111) -/

def execSel (c : Ctl) (t : Ty) (d a b cc : Opnd) (s : State) : Outcome State Fault Refusal :=
  withIssue (.sel c t d a b cc) s (fun x s => s.put x 1 d t.regs (fun l =>
    (if (x.src32 s l cc).getLsbD 0 then x.src s t.regs l a else x.src s t.regs l b).toNat))

def execCmp (c : Ctl) (t : Ty) (rel : Rel) (d a b : Opnd) (s : State) : Outcome State Fault Refusal :=
  withIssue (.cmp c t rel d a b) s (fun x s => s.put x 1 d 1 (fun l =>
    if rel.holds (t.val (x.src s t.regs l a)) (t.val (x.src s t.regs l b)) then 1 else 0))

def execMov (c : Ctl) (t : Ty) (d a : Opnd) (s : State) : Outcome State Fault Refusal :=
  withIssue (.mov c t d a) s (fun x s => s.put x 1 d t.regs (fun l => (x.src s t.regs l a).toNat))

def execMovImm (c : Ctl) (t : Ty) (d : Opnd) (imm : Word) (s : State) : Outcome State Fault Refusal :=
  withIssue (.movImm c t d imm) s (fun x s => s.put x 1 d t.regs (fun _ => (immOf t imm).toNat))

/-! Address and width changes (05 R112-R114), special registers (05 R115) -/

def execLea (c : Ctl) (t : Ty) (sh : BitVec 4) (sx : Bool) (d a b : Opnd) (s : State) : Outcome State Fault Refusal :=
  withIssue (.lea c t sh sx d a b) s (fun x s => s.put x 1 d t.regs (fun l =>
    let i : Int := if sx then (x.src32 s l b).toInt else (x.src32 s l b).toNat
    t.out (t.wrap ((x.src s t.regs l a).toNat + i * 2 ^ sh.toNat))))

def execExt (c : Ctl) (t ts : Ty) (d a : Opnd) (s : State) : Outcome State Fault Refusal :=
  withIssue (.ext c t ts d a) s (fun x s => s.put x 1 d t.regs (fun l => t.out (ts.val (x.src s 1 l a))))

def execTrunc (c : Ctl) (t ts : Ty) (sat : Bool) (d a : Opnd) (s : State) : Outcome State Fault Refusal :=
  withIssue (.trunc c t ts sat d a) s (fun x s => s.put x 1 d 1 (fun l =>
    let v := ts.val (x.src s ts.regs l a)
    t.out (if sat then t.sat v else t.wrap v)))

def execMovs (c : Ctl) (sreg : BitVec 8) (fmt : BitVec 8) (d : Opnd) (s : State) : Outcome State Fault Refusal :=
  withIssue (.movs c sreg fmt d) s (fun x s => s.put x 1 d (sregRegs sreg.toNat) (fun l =>
    x.sreg s l sreg.toNat (Ty.dec fmt)))

end Sys2Proof.Machine
end

