-- ==== Sys2Proof/Machine/Float.lean ====
section
/-! DEFINITION. Floating-point values and rounding (04 R78-R89, R92, R93): every value is an exact dyadic number, and
`roundTo` is `round` of R87 with the flags of R88. -/

namespace Sys2Proof

/-- A floating-point layout of 04 R78: fraction bits, bias, width, largest finite mantissa (in units of the spacing at
the largest exponent) and that exponent; whether the type has infinities, and its canonical NaN. -/
structure Fmt where
  m : Nat
  bias : Nat
  width : Nat
  maxMant : Nat
  emax : Int
  inf : Bool
  qnan : Option Nat
  deriving DecidableEq, Repr

def Fmt.f64 : Fmt := { m := 52, bias := 1023, width := 64, maxMant := 2 ^ 53 - 1, emax := 1023, inf := true, qnan := some 0x7FF8000000000000 }
def Fmt.f32 : Fmt := { m := 23, bias := 127, width := 32, maxMant := 2 ^ 24 - 1, emax := 127, inf := true, qnan := some 0x7FC00000 }
def Fmt.f16 : Fmt := { m := 10, bias := 15, width := 16, maxMant := 2 ^ 11 - 1, emax := 15, inf := true, qnan := some 0x7E00 }
def Fmt.bf16 : Fmt := { m := 7, bias := 127, width := 16, maxMant := 2 ^ 8 - 1, emax := 127, inf := true, qnan := some 0x7FC0 }
def Fmt.e4m3 : Fmt := { m := 3, bias := 7, width := 8, maxMant := 14, emax := 8, inf := false, qnan := some 0x7F }
def Fmt.e5m2 : Fmt := { m := 2, bias := 15, width := 8, maxMant := 7, emax := 15, inf := true, qnan := some 0x7E }
def Fmt.e3m2 : Fmt := { m := 2, bias := 3, width := 6, maxMant := 7, emax := 4, inf := false, qnan := none }
def Fmt.e2m1 : Fmt := { m := 1, bias := 1, width := 4, maxMant := 3, emax := 2, inf := false, qnan := none }

/-- The layout of a float type; packed types give their element's. -/
def Ty.fmt : Ty → Fmt
  | .f64 => .f64
  | .f16 | .f16x2 => .f16
  | .bf16 | .bf16x2 => .bf16
  | .e4m3 => .e4m3
  | .e5m2 => .e5m2
  | .e3m2 => .e3m2
  | .e2m1 => .e2m1
  | _ => .f32

/-- A decoded value: a NaN, signalling or quiet, an infinity, or the number (−1)^neg × m × 2^e with a signed zero. -/
inductive FV where
  | nan (sig : Bool)
  | inf (neg : Bool)
  | num (neg : Bool) (m : Nat) (e : Int)
  deriving DecidableEq, Repr

/-- Exponent of the smallest normal. -/
def Fmt.emin (f : Fmt) : Int := 1 - (f.bias : Int)

/-- Decoding of 04 R79; the bits above the type's width are ignored (R83, 06 R123). -/
def Fmt.decode (f : Fmt) (x : Nat) : FV :=
  let neg := x / 2 ^ (f.width - 1) % 2 == 1
  let ex := x % 2 ^ (f.width - 1) / 2 ^ f.m
  let fr := x % 2 ^ f.m
  let top := 2 ^ (f.width - 1 - f.m) - 1
  if ex = 0 then .num neg fr (f.emin - f.m)
  else if f.inf ∧ ex = top then (if fr = 0 then .inf neg else .nan (4 < f.m && fr < 2 ^ (f.m - 1)))
  else if f.qnan.isSome ∧ ¬ f.inf ∧ ex = top ∧ fr = 2 ^ f.m - 1 then .nan false
  else .num neg (2 ^ f.m + fr) ((ex : Int) - f.bias - f.m)

/-- An e8m0 scale (04 R80): `none` for NaN. -/
def e8m0 (x : Nat) : Option Int := if x % 256 = 255 then none else some ((x % 256 : Nat) - 127)

def FV.isNan : FV → Bool
  | .nan _ => true
  | _ => false
def FV.isSnan : FV → Bool
  | .nan s => s
  | _ => false
def FV.isInf : FV → Bool
  | .inf _ => true
  | _ => false
def FV.isZero : FV → Bool
  | .num _ 0 _ => true
  | _ => false
def FV.sign : FV → Bool
  | .nan _ => false
  | .inf s | .num s _ _ => s
def FV.negate : FV → FV
  | .nan s => .nan s
  | .inf s => .inf (!s)
  | .num s m e => .num (!s) m e

/-- A result and the flags it raises. -/
abbrev FRes := Nat × BitVec 8

/-- The sign bit of a format. -/
def Fmt.signBit (f : Fmt) (neg : Bool) : Nat := if neg then 2 ^ (f.width - 1) else 0
/-- Largest finite magnitude, as bits. -/
def Fmt.maxBits (f : Fmt) : Nat := ((f.emax + f.bias - 1).toNat) * 2 ^ f.m + f.maxMant
/-- An infinity of a type that has them. -/
def Fmt.infBits (f : Fmt) (neg : Bool) : Nat := f.signBit neg + (2 ^ (f.width - 1 - f.m) - 1) * 2 ^ f.m
/-- The canonical NaN, +0 in the types without NaN (04 R81, R87). -/
def Fmt.nanBits (f : Fmt) : Nat := f.qnan.getD 0
def Fmt.zeroBits (f : Fmt) (neg : Bool) : Nat := f.signBit neg

/-- Rounding directions of 04 R86, with the generator value of stochastic rounding. -/
inductive RMode where
  | mode (r : Rm) | sr (rnd : Nat)
  deriving DecidableEq, Repr

/-- ovf of 04 R87. -/
def Fmt.ovf (f : Fmt) (neg : Bool) (mode : RMode) (wasInf : Bool) : Nat :=
  let maxb := f.signBit neg + f.maxBits
  if f.inf then
    if wasInf then f.infBits neg
    else match mode with
      | .sr _ | .mode .rn => f.infBits neg
      | .mode .rz => maxb
      | .mode .ru => if neg then maxb else f.infBits neg
      | .mode .rd => if neg then f.infBits neg else maxb
  else if f.qnan.isSome then f.nanBits
  else maxb

/-- Whether the magnitude is rounded away from zero: `lo` is the lower neighbour in units of the spacing, and the
fraction above it is `rem / 2^k`, not 0. -/
def roundUp (mode : RMode) (neg : Bool) (lo rem k : Nat) : Bool :=
  match mode with
  | .mode .rn => 2 ^ k < 2 * rem || (2 * rem == 2 ^ k && lo % 2 == 1)
  | .mode .rz => false
  | .mode .ru => !neg
  | .mode .rd => neg
  | .sr rnd => rnd < rem * 2 ^ 32 / 2 ^ k

/-- round(x, mode, T) of 04 R87 for the number (−1)^neg × m × 2^e, with the flags of R88. -/
def Fmt.roundTo (f : Fmt) (mode : RMode) (neg : Bool) (m : Nat) (e : Int) : FRes :=
  if m = 0 then (f.zeroBits neg, 0)
  else
    let top : Int := Nat.log2 m + e
    if f.emax < top then (f.ovf neg mode false, fOFNX)
    else
      let q : Int := (if top < f.emin then f.emin else top) - f.m
      -- the magnitude in units of 2^q: lower neighbour, remainder and its scale
      let k : Nat := (q - e).toNat
      let lo : Nat := if q ≤ e then m * 2 ^ (e - q).toNat else if Nat.log2 m + 40 < k then 0 else m / 2 ^ k
      let rem : Nat := if q ≤ e then 0 else if Nat.log2 m + 40 < k then 1 else m % 2 ^ k
      let kr : Nat := if q ≤ e then 0 else if Nat.log2 m + 40 < k then 40 else k
      let pick := if rem ≠ 0 ∧ roundUp mode neg lo rem kr then lo + 1 else lo
      if q = f.emax - f.m ∧ f.maxMant < pick then (f.ovf neg mode false, fOFNX)
      else
        let bits := f.signBit neg + (q + f.m + f.bias - 1).toNat * 2 ^ f.m + pick
        (bits, if rem = 0 then 0 else if pick < 2 ^ f.m then 0x03#8 else 0x01#8)
where
  /-- OF and NX. -/
  fOFNX : BitVec 8 := 0x05

/-- A number that lies strictly between m × 2^e and (m + 1) × 2^e when `inexact`, else m × 2^e: the extra low bit keeps
the same neighbours as long as the spacing is above 2^e. -/
def Fmt.roundSticky (f : Fmt) (mode : RMode) (neg : Bool) (m : Nat) (e : Int) (inexact : Bool) : FRes :=
  if inexact then f.roundTo mode neg (2 * m + 1) (e - 1) else f.roundTo mode neg m e

/-- round of any value; a NaN gives the canonical NaN, an infinity sets no flag (04 R87, R88). -/
def Fmt.round (f : Fmt) (mode : RMode) : FV → FRes
  | .nan _ => (f.nanBits, 0)
  | .inf s => (f.ovf s mode true, 0)
  | .num s m e => f.roundTo mode s m e

/-- A number as an integer multiple of 2^−1200, for comparisons of exact values. -/
def FV.scaled : FV → Int
  | .num s m e => let v : Int := (m * 2 ^ (e + 1200).toNat : Nat); if s then -v else v
  | .inf s => if s then -2 ^ 4000 else 2 ^ 4000
  | .nan _ => 0

/-- |x| > max finite of the format. -/
def Fmt.exceeds (f : Fmt) (m : Nat) (e : Int) : Bool :=
  m != 0 && (f.emax < Nat.log2 m + e ||
    (Nat.log2 m + e == f.emax &&
      (let q := f.emax - f.m
       if q ≤ e then f.maxMant < m * 2 ^ (e - q).toNat else f.maxMant * 2 ^ (q - e).toNat < m)))

/-- round(sat(x, T), mode, T) when saturating, else round(x, mode, T) (04 R92, R93): clamping a finite x sets OF and NX, and
clamping an infinity nothing, in widening conversions and in those from a type to itself too, although R135 gives these 'the value itself'
(assumption 72). -/
def Fmt.convert (f : Fmt) (sat : Bool) (mode : RMode) : FV → FRes
  | .nan s => (f.nanBits, if s || f.qnan.isNone then 0x10#8 else 0)
  | .inf s => if sat then (f.signBit s + f.maxBits, 0) else (f.ovf s mode true, 0)
  | .num s m e => if sat && f.exceeds m e then (f.signBit s + f.maxBits, 0x05#8) else f.roundTo mode s m e

/-- A number rounded to an integer: its magnitude, and whether it changed. -/
def roundInt (mode : Rm) (neg : Bool) (m : Nat) (e : Int) : Nat × Bool :=
  if 0 ≤ e then (m * 2 ^ e.toNat, false)
  else
    let k := (-e).toNat
    let lo := m / 2 ^ k
    let rem := m % 2 ^ k
    (if rem ≠ 0 ∧ roundUp (.mode mode) neg lo rem k then lo + 1 else lo, rem != 0)

/-- Float to integer (04 R92): the value, with NV and NX. -/
def Ty.ofFloat (t : Ty) (mode : Rm) : FV → Int × BitVec 8
  | .nan _ => (0, 0x10#8)
  | .inf s => (if s then t.minVal else t.maxVal, 0x10#8)
  | .num s m e =>
    let (a, nx) := roundInt mode s m e
    let r : Int := if s then -a else a
    (t.sat r, (if nx then 0x01#8 else 0) ||| (if t.sat r ≠ r then 0x10#8 else 0))

/-- The generator value of stochastic rounding (04 R89). -/
def srRnd (seed : Word) (group lane elem : Nat) : Nat :=
  let x : Word := seed ^^^ (BitVec.ofNat 32 group <<< 12) ^^^ (BitVec.ofNat 32 lane <<< 6) ^^^ BitVec.ofNat 32 elem
  let x : Word := if x = 0 then 1 else x
  let x := x ^^^ (x <<< 13)
  let x := x ^^^ (x >>> 17)
  let x := x ^^^ (x <<< 5)
  x.toNat

/-! Sums of exact terms (06 R125, R126) -/

/-- A product is 0 × infinity. -/
def FV.badProd (a b : FV) : Bool := (a.isZero && b.isInf) || (a.isInf && b.isZero)

/-- An exact product of two values that are no NaN and not 0 × infinity. -/
def FV.mul (a b : FV) : FV :=
  match a, b with
  | .num s m e, .num s' m' e' => .num (s != s') (m * m') (e + e')
  | _, _ => .inf (a.sign != b.sign)

/-- The exact sum of numbers over the least exponent among them. -/
def sumNums (ts : List FV) : Int × Int :=
  let e0 : Int := ts.foldl (fun e t => match t with | .num _ m x => if m ≠ 0 ∧ x < e then x else e | _ => e) 5000
  (ts.foldl (fun n t => match t with
    | .num s m x => if m = 0 then n else
        let v : Int := (m * 2 ^ (x - e0).toNat : Nat)
        if s then n - v else n + v
    | _ => n) 0, e0)

/-- The rounded sum of products and terms (06 R126). -/
def Fmt.sum (f : Fmt) (rm : Rm) (prods : List (FV × FV)) (adds : List FV) : FRes :=
  let inputs := prods.flatMap (fun p => [p.1, p.2]) ++ adds
  let bad := prods.any (fun p => p.1.badProd p.2)
  if bad || inputs.any FV.isNan then (f.nanBits, if bad || inputs.any FV.isSnan then 0x10#8 else 0)
  else
    let ts := prods.map (fun p => p.1.mul p.2) ++ adds
    let pinf := ts.any (fun t => t.isInf && !t.sign)
    let ninf := ts.any (fun t => t.isInf && t.sign)
    if pinf && ninf then (f.nanBits, 0x10#8)
    else if pinf || ninf then (f.infBits ninf, 0)
    else
      let (n, e) := sumNums ts
      if n = 0 then
        (f.zeroBits (if ts.all FV.isZero && (ts.all FV.sign || !(ts.any FV.sign)) then ts.all FV.sign
                     else rm == .rd), 0)
      else f.roundTo (.mode rm) (n < 0) n.natAbs e

end Sys2Proof
end

