-- ==== Sys2Proof/Machine/Trans.lean ====
section
/-! DEFINITION. Correctly rounded reciprocals, roots and transcendentals (06 R133). Reciprocals and roots are exact
integer divisions and roots with a remainder. `fexp2`, `flog2`, `fsin` and `fcos` enclose the exact value in an open
interval and round both ends; when the ends round alike, that is the correctly rounded result. -/

namespace Sys2Proof

/-- Integer square root, bit by bit from bit `k − 1`: the largest r < 2^k with (acc + r)² ≤ n. -/
def isqrtFrom (n : Nat) : Nat → Nat → Nat
  | 0, acc => acc
  | k + 1, acc => isqrtFrom n k (if (acc + 2 ^ k) * (acc + 2 ^ k) ≤ n then acc + 2 ^ k else acc)
def isqrt (n : Nat) : Nat := isqrtFrom n (Nat.log2 n / 2 + 1) 0

/-- 1/x. -/
def Fmt.rcp (f : Fmt) (rm : Rm) : FV → FRes
  | .nan s => (f.nanBits, if s then 0x10#8 else 0)
  | .inf s => (f.zeroBits s, 0)
  | .num s m e =>
    if m = 0 then (f.infBits s, 0x08#8)
    else
      let k := Nat.log2 m + 70
      f.roundSticky (.mode rm) s (2 ^ k / m) (-(k : Int) - e) (2 ^ k % m != 0)

/-- The number scaled to an even exponent. -/
def evenExp (m : Nat) (e : Int) : Nat × Int := if e % 2 = 0 then (m, e) else (2 * m, e - 1)

/-- √x. -/
def Fmt.sqrt (f : Fmt) (rm : Rm) : FV → FRes
  | .nan s => (f.nanBits, if s then 0x10#8 else 0)
  | .inf s => if s then (f.nanBits, 0x10#8) else (f.infBits false, 0)
  | .num s m e =>
    if m = 0 then (f.zeroBits s, 0)
    else if s then (f.nanBits, 0x10#8)
    else
      let (m, e) := evenExp m e
      let n := m * 2 ^ 160
      let r := isqrt n
      f.roundSticky (.mode rm) false r (e / 2 - 80) (r * r != n)

/-- 1/√x. -/
def Fmt.rsq (f : Fmt) (rm : Rm) : FV → FRes
  | .nan s => (f.nanBits, if s then 0x10#8 else 0)
  | .inf s => if s then (f.nanBits, 0x10#8) else (f.zeroBits false, 0)
  | .num s m e =>
    if m = 0 then (f.infBits s, 0x08#8)
    else if s then (f.nanBits, 0x10#8)
    else
      let (m, e) := evenExp m e
      let r := isqrt (2 ^ 400 / m)
      f.roundSticky (.mode rm) false r (-(e / 2) - 200) (r * r * m != 2 ^ 400)

/-! Fixed-point series: every value is an integer in units of 2^−P, with a stated error in those units -/

/-- Σ x^j / j! from the term `t` = x^j / j!, in units of 2^−P; each step truncates by at most 1. -/
def expSeries (P x : Nat) : Nat → Nat → Nat → Nat
  | 0, _, _ => 0
  | n + 1, j, t => t + expSeries P x n (j + 1) (t * x / 2 ^ P / (j + 1))

/-- Σ ± t / (2 j + 1) with t multiplied by y at each step; `alt` alternates signs. -/
def oddSeries (P y : Nat) (alt : Bool) : Nat → Nat → Nat → Int
  | 0, _, _ => 0
  | n + 1, j, t =>
    let v : Int := (t / (2 * j + 1) : Nat)
    (if alt && j % 2 == 1 then -v else v) + oddSeries P y alt n (j + 1) (t * y / 2 ^ P)

/-- arctan(1/q) in units of 2^−P. -/
def atanInv (P q : Nat) : Nat → Nat → Nat → Int
  | 0, _, _ => 0
  | n + 1, j, t =>
    let v : Int := (t / (2 * j + 1) : Nat)
    (if j % 2 = 1 then -v else v) + atanInv P q n (j + 1) (t / (q * q))

/-- π in units of 2^−P, within 8 P (Machin's formula). -/
def piFix (P : Nat) : Nat :=
  (16 * atanInv P 5 (P / 4 + 2) 0 (2 ^ P / 5) - 4 * atanInv P 239 (P / 15 + 2) 0 (2 ^ P / 239)).toNat

/-- ln 2 in units of 2^−P, within 2 P: Σ 1 / (j 2^j). -/
def ln2From (P : Nat) : Nat → Nat → Nat
  | 0, _ => 0
  | n + 1, j => 2 ^ P / 2 ^ j / j + ln2From P n (j + 1)
def ln2Fix (P : Nat) : Nat := ln2From P (P + 2) 1

/-- Σ ± x^(2j + o) / (2j + o)! for sine (o = 1) and cosine (o = 0), from the term `t`; `x2` is x². -/
def trigSeries (P x2 : Nat) : Nat → Nat → Nat → Bool → Int
  | 0, _, _, _ => 0
  | n + 1, i, t, neg =>
    (if neg then -(t : Int) else t) + trigSeries P x2 n (i + 2) (t * x2 / 2 ^ P / ((i + 1) * (i + 2))) (!neg)

/-- An enclosure: the magnitude lies strictly between (a − err) × 2^e and (a + err) × 2^e. -/
structure Encl where
  neg : Bool
  a : Nat
  err : Nat
  e : Int
  deriving DecidableEq, Repr

/-- The rounding of an enclosed inexact value, when both ends round alike. -/
def Fmt.roundEncl (f : Fmt) (rm : Rm) (c : Encl) : Option FRes :=
  if c.a ≤ c.err then none
  else
    let lo := f.roundTo (.mode rm) c.neg (2 * (c.a - c.err) + 1) (c.e - 1)
    let hi := f.roundTo (.mode rm) c.neg (2 * (c.a + c.err) - 1) (c.e - 1)
    if lo = hi then some lo else none

/-- A signed fixed-point value as an enclosure. -/
def enclOf (v : Int) (err : Nat) (e : Int) : Encl := { neg := v < 0, a := v.natAbs, err := err, e := e }

/-- 2^x for x = ± m 2^e that is no integer. -/
def exp2Encl (P : Nat) (s : Bool) (m : Nat) (e : Int) : Encl :=
  if Nat.log2 m + e < -64 then
    -- 1 < 2^x < 1 + 2^−63, or 1 − 2^−63 < 2^x < 1
    { neg := false, a := if s then 2 ^ 65 - 1 else 2 ^ 65 + 1, err := 1, e := -65 }
  else
    -- x in units of 2^e, e < 0, as n + r with 0 < r < 1
    let k := (-e).toNat
    let v : Int := if s then -(m : Int) else m
    let n := v / 2 ^ k
    let r := (v % 2 ^ k).toNat
    let y := (if k ≤ P then r * 2 ^ (P - k) else r / 2 ^ (k - P)) * ln2Fix P / 2 ^ P
    { neg := false, a := expSeries P y (P / 2 + 8) 0 (2 ^ P), err := 16 * P, e := n - P }

/-- log2 x for x = m 2^e that is no power of 2. -/
def log2Encl (P : Nat) (m : Nat) (e : Int) : Encl :=
  let b := Nat.log2 m
  -- x = 2^(b + e) × z with 1 < z < 2; ln z = 2 artanh((z − 1) / (z + 1))
  let t := (m - 2 ^ b) * 2 ^ P / (m + 2 ^ b)
  let y := t * t / 2 ^ P
  let ln := 2 * oddSeries P y false (P / 3 + 4) 0 t
  let l2 := ln2Fix P
  enclOf ((b + e) * 2 ^ P + ln * 2 ^ P / l2) (32 * P) (-(P : Int))

/-- sin x (`cosine` false) or cos x for x = ± m 2^e, m ≠ 0. -/
def trigEncl (P : Nat) (cosine s : Bool) (m : Nat) (e : Int) : Encl :=
  let top := Nat.log2 m + e
  if top < -64 then
    if cosine then { neg := false, a := 2 ^ 128 - 1, err := 1, e := -128 }
    else { neg := s, a := m * 2 ^ 128 - m * 2 ^ 8, err := m * 2 ^ 8, e := e - 128 }
  else
    let Q := P + (if 0 < top then top.toNat else 0) + 16
    let x := if 0 ≤ e + Q then m * 2 ^ (e + Q).toNat else m / 2 ^ (-(e + Q)).toNat
    let pi := piFix Q
    let n := 2 * x / pi
    let r := ((2 * x - n * pi) / 2) / 2 ^ (Q - P)
    let x2 := r * r / 2 ^ P
    let sn := trigSeries P x2 (P / 4 + 8) 1 r false
    let cs := trigSeries P x2 (P / 4 + 8) 0 (2 ^ P) false
    let q := (n + if cosine then 1 else 0) % 4
    let v := if q = 0 then sn else if q = 1 then cs else if q = 2 then -sn else -cs
    enclOf (if s && !cosine then -v else v) (8 * P) (-(P : Int))

/-- The working precisions tried, in order. -/
def precisions : List Nat := [160, 320, 640]
/-- The precision whose enclosure is rounded at its middle when none of the others decides (assumption 10). -/
def lastPrecision : Nat := 1280

/-- The rounding of an enclosed inexact value by the first precision that decides it, else by the middle of the last enclosure.
The exact value is no midpoint of two numbers of the format, so a precision that decides exists. -/
def Fmt.decide (f : Fmt) (rm : Rm) (enc : Nat → Encl) : FRes :=
  match precisions.findSome? (fun P => f.roundEncl rm (enc P)) with
  | some r => r
  | none =>
    let c := enc lastPrecision
    f.roundTo (.mode rm) c.neg (2 * c.a + 1) (c.e - 1)

/-- The dyadic number is an integer. -/
def isInteger (m : Nat) (e : Int) : Bool := 0 ≤ e || m % 2 ^ (-e).toNat == 0

/-- 2^x: an integer is exact, and beyond the range of the format every x gives the same rounding as ±20000. -/
def Fmt.exp2 (f : Fmt) (x : Nat) : FRes :=
  match f.decode x with
  | .nan s => (f.nanBits, if s then 0x10#8 else 0)
  | .inf s => if s then (f.zeroBits false, 0) else (f.infBits false, 0)
  | .num s m e =>
    if m = 0 then f.roundTo (.mode .rn) false 1 0
    else if 14 < Nat.log2 m + e then f.roundTo (.mode .rn) false 1 (if s then -20000 else 20000)
    else if isInteger m e then
      let n : Int := if 0 ≤ e then (m * 2 ^ e.toNat : Nat) else (m / 2 ^ (-e).toNat : Nat)
      f.roundTo (.mode .rn) false 1 (if s then -n else n)
    else f.decide .rn (fun P => exp2Encl P s m e)

/-- log2 x. -/
def Fmt.log2 (f : Fmt) (x : Nat) : FRes :=
  match f.decode x with
  | .nan s => (f.nanBits, if s then 0x10#8 else 0)
  | .inf s => if s then (f.nanBits, 0x10#8) else (f.infBits false, 0)
  | .num s m e =>
    if m = 0 then (f.infBits true, 0x08#8)
    else if s then (f.nanBits, 0x10#8)
    else if m = 2 ^ Nat.log2 m then
      let n : Int := Nat.log2 m + e
      f.roundTo (.mode .rn) (n < 0) n.natAbs 0
    else f.decide .rn (fun P => log2Encl P m e)

/-- sin x and cos x in radians. -/
def Fmt.trig (f : Fmt) (cosine : Bool) (x : Nat) : FRes :=
  match f.decode x with
  | .nan s => (f.nanBits, if s then 0x10#8 else 0)
  | .inf _ => (f.nanBits, 0x10#8)
  | .num s m e =>
    if m = 0 then (if cosine then f.roundTo (.mode .rn) false 1 0 else (f.zeroBits s, 0))
    else f.decide .rn (fun P => trigEncl P cosine s m e)

end Sys2Proof
end

