-- ==== Sys2Proof/Machine/FloatOps.lean ====
section
/-! DEFINITION. The floating-point instructions of 06 R123-R133. -/

namespace Sys2Proof.Machine

open Host (Outcome)

/-- A float source of a lane as bits. -/
def Ctx.fbits (s : State) (x : Ctx) (t : Ty) (l : Nat) (o : Opnd) : Nat := (x.srcT s t t.regs l o).toNat

/-- A result computed for each element of a type: both halves of a packed type, else once (06 R125). -/
def elems (t : Ty) (f : (Nat → Nat) → FRes) : FRes :=
  match t with
  | .f16x2 | .bf16x2 =>
    let r0 := f (fun x => x % 2 ^ 16)
    let r1 := f (fun x => x / 2 ^ 16 % 2 ^ 16)
    (r0.1 + 2 ^ 16 * r1.1, r0.2 ||| r1.2)
  | _ => f (fun x => x % 2 ^ t.bits)

/-- A result of latency `lat` in type `t`. -/
def State.putT (s : State) (x : Ctx) (lat : Nat) (t : Ty) (d : Opnd) (f : Nat → FRes) : State :=
  s.putF x lat d t.regs f

def execFadd (c : Ctl) (t : Ty) (rm : Rm) (d a b : Opnd) (s : State) : Outcome State Fault Refusal :=
  withIssue (.fadd c t rm d a b) s (fun x s => s.putT x 2 t d (fun l => elems t (fun el =>
    t.fmt.sum rm [] [t.fmt.decode (el (x.fbits s t l a)), t.fmt.decode (el (x.fbits s t l b))])))

def execFsub (c : Ctl) (t : Ty) (rm : Rm) (d a b : Opnd) (s : State) : Outcome State Fault Refusal :=
  withIssue (.fsub c t rm d a b) s (fun x s => s.putT x 2 t d (fun l => elems t (fun el =>
    t.fmt.sum rm [] [t.fmt.decode (el (x.fbits s t l a)), (t.fmt.decode (el (x.fbits s t l b))).negate])))

def execFmul (c : Ctl) (t : Ty) (rm : Rm) (d a b : Opnd) (s : State) : Outcome State Fault Refusal :=
  withIssue (.fmul c t rm d a b) s (fun x s => s.putT x 2 t d (fun l => elems t (fun el =>
    t.fmt.sum rm [(t.fmt.decode (el (x.fbits s t l a)), t.fmt.decode (el (x.fbits s t l b)))] [])))

def execFfma (c : Ctl) (t : Ty) (rm : Rm) (d a b cc : Opnd) (s : State) : Outcome State Fault Refusal :=
  withIssue (.ffma c t rm d a b cc) s (fun x s => s.putT x 2 t d (fun l => elems t (fun el =>
    t.fmt.sum rm [(t.fmt.decode (el (x.fbits s t l a)), t.fmt.decode (el (x.fbits s t l b)))]
      [t.fmt.decode (el (x.fbits s t l cc))])))

/-- `fdot2` (06 R126): A and B are packed, C and the result are f32. -/
def execFdot2 (c : Ctl) (t : Ty) (rm : Rm) (d a b cc : Opnd) (s : State) : Outcome State Fault Refusal :=
  withIssue (.fdot2 c t rm d a b cc) s (fun x s => s.putT x 2 .f32 d (fun l =>
    let u := x.fbits s t l a
    let v := x.fbits s t l b
    Fmt.f32.sum rm [(t.fmt.decode (u % 2 ^ 16), t.fmt.decode (v % 2 ^ 16)),
                    (t.fmt.decode (u / 2 ^ 16), t.fmt.decode (v / 2 ^ 16))]
      [Fmt.f32.decode (x.fbits s .f32 l cc)]))

/-- The choice of `fmin` and `fmax` (06 R127): −0 is below +0, and A is kept when the two are equal. -/
def pickMin (f : Fmt) (nanp maxi : Bool) (a b : Nat) : FRes :=
  let u := f.decode a
  let v := f.decode b
  let nv := if u.isSnan || v.isSnan then 0x10#8 else 0
  let ku := 2 * u.scaled + if u.isZero && u.sign then -1 else 0
  let kv := 2 * v.scaled + if v.isZero && v.sign then -1 else 0
  (if u.isNan && v.isNan then f.nanBits
   else if u.isNan then (if nanp then f.nanBits else b)
   else if v.isNan then (if nanp then f.nanBits else a)
   else if (if maxi then ku < kv else kv < ku) then b else a, nv)

def execFmin (c : Ctl) (t : Ty) (nanp : Bool) (d a b : Opnd) (s : State) : Outcome State Fault Refusal :=
  withIssue (.fmin c t nanp d a b) s (fun x s => s.putT x 2 t d (fun l => elems t (fun el =>
    pickMin t.fmt nanp false (el (x.fbits s t l a)) (el (x.fbits s t l b)))))

def execFmax (c : Ctl) (t : Ty) (nanp : Bool) (d a b : Opnd) (s : State) : Outcome State Fault Refusal :=
  withIssue (.fmax c t nanp d a b) s (fun x s => s.putT x 2 t d (fun l => elems t (fun el =>
    pickMin t.fmt nanp true (el (x.fbits s t l a)) (el (x.fbits s t l b)))))

/-- `fcmp` (06 R128). -/
def fcmpRes (rel : Rel) (u v : FV) : FRes :=
  let nan := u.isNan || v.isNan
  let quiet := match rel with
    | .lt | .le | .gt | .ge => false
    | _ => true
  let r := match rel with
    | .num => !nan
    | .nan => nan
    | .ne => nan || u.scaled != v.scaled
    | r => !nan && r.holds u.scaled v.scaled
  (if r then 1 else 0, if (if quiet then u.isSnan || v.isSnan else nan) then 0x10#8 else 0)

def execFcmp (c : Ctl) (t : Ty) (rel : Rel) (d a b : Opnd) (s : State) : Outcome State Fault Refusal :=
  withIssue (.fcmp c t rel d a b) s (fun x s => s.putF x 2 d 1 (fun l =>
    fcmpRes rel (t.fmt.decode (x.fbits s t l a)) (t.fmt.decode (x.fbits s t l b))))

/-- The class bit of a value (06 R129). -/
def classBit (f : Fmt) : FV → Nat
  | .nan s => if s then 8 else 9
  | .inf s => if s then 0 else 7
  | .num s m _ => if m = 0 then (if s then 3 else 4) else if m < 2 ^ f.m then (if s then 2 else 5) else (if s then 1 else 6)

def execFclass (c : Ctl) (t : Ty) (d a : Opnd) (s : State) : Outcome State Fault Refusal :=
  withIssue (.fclass c t d a) s (fun x s => s.put x 2 d 1 (fun l => 2 ^ classBit t.fmt (t.fmt.decode (x.fbits s t l a))))

/-! Reciprocals, roots and transcendentals (06 R133), latency 3 -/

def execFrcp (c : Ctl) (t : Ty) (rm : Rm) (d a : Opnd) (s : State) : Outcome State Fault Refusal :=
  withIssue (.frcp c t rm d a) s (fun x s => s.putT x 3 t d (fun l => t.fmt.rcp rm (t.fmt.decode (x.fbits s t l a))))

def execFrsq (c : Ctl) (t : Ty) (rm : Rm) (d a : Opnd) (s : State) : Outcome State Fault Refusal :=
  withIssue (.frsq c t rm d a) s (fun x s => s.putT x 3 t d (fun l => t.fmt.rsq rm (t.fmt.decode (x.fbits s t l a))))

def execFsqrt (c : Ctl) (t : Ty) (rm : Rm) (d a : Opnd) (s : State) : Outcome State Fault Refusal :=
  withIssue (.fsqrt c t rm d a) s (fun x s => s.putT x 3 t d (fun l => t.fmt.sqrt rm (t.fmt.decode (x.fbits s t l a))))

def execFexp2 (c : Ctl) (t : Ty) (d a : Opnd) (s : State) : Outcome State Fault Refusal :=
  withIssue (.fexp2 c t d a) s (fun x s => s.putT x 3 t d (fun l => t.fmt.exp2 (x.fbits s t l a)))

def execFlog2 (c : Ctl) (t : Ty) (d a : Opnd) (s : State) : Outcome State Fault Refusal :=
  withIssue (.flog2 c t d a) s (fun x s => s.putT x 3 t d (fun l => t.fmt.log2 (x.fbits s t l a)))

def execFsin (c : Ctl) (t : Ty) (d a : Opnd) (s : State) : Outcome State Fault Refusal :=
  withIssue (.fsin c t d a) s (fun x s => s.putT x 3 t d (fun l => t.fmt.trig false (x.fbits s t l a)))

def execFcos (c : Ctl) (t : Ty) (d a : Opnd) (s : State) : Outcome State Fault Refusal :=
  withIssue (.fcos c t d a) s (fun x s => s.putT x 3 t d (fun l => t.fmt.trig true (x.fbits s t l a)))

/-! Rounding, scaling and decomposition (06 R130-R132) -/

/-- `fround` (06 R130): no NX, OF or UF; a zero result keeps the sign. -/
def froundRes (f : Fmt) (rm : Rm) : FV → FRes
  | .nan s => (f.nanBits, if s then 0x10#8 else 0)
  | .inf s => (f.infBits s, 0)
  | .num s m e => ((f.roundTo (.mode .rn) s (roundInt rm s m e).1 0).1, 0)

def execFround (c : Ctl) (t : Ty) (rm : Rm) (d a : Opnd) (s : State) : Outcome State Fault Refusal :=
  withIssue (.fround c t rm d a) s (fun x s => s.putT x 2 t d (fun l => froundRes t.fmt rm (t.fmt.decode (x.fbits s t l a))))

/-- `fldexp` (06 R131). A count beyond ±10000 rounds as that bound does. -/
def fldexpRes (f : Fmt) (rm : Rm) (n : Int) : FV → FRes
  | .nan s => (f.nanBits, if s then 0x10#8 else 0)
  | .inf s => (f.infBits s, 0)
  | .num s m e => f.roundTo (.mode rm) s m (e + if n < -10000 then -10000 else if 10000 < n then 10000 else n)

def execFldexp (c : Ctl) (t : Ty) (rm : Rm) (d a b : Opnd) (s : State) : Outcome State Fault Refusal :=
  withIssue (.fldexp c t rm d a b) s (fun x s => s.putT x 2 t d (fun l =>
    fldexpRes t.fmt rm (x.src32 s l b).toInt (t.fmt.decode (x.fbits s t l a))))

/-- `ffrexp` (06 R132). -/
def ffrexpRes (f : Fmt) (expPart : Bool) (a : Nat) : FRes :=
  match f.decode a with
  | .nan s => (if expPart then 0 else f.nanBits, if s then 0x10#8 else 0)
  | .inf s => (if expPart then 0 else f.infBits s, 0)
  | .num s m e =>
    if m = 0 then (if expPart then 0 else f.zeroBits s, 0)
    else
      let ex : Int := Nat.log2 m + e + 1
      if expPart then ((ex % 2 ^ 32).toNat, 0) else f.roundTo (.mode .rn) s m (e - ex)

def execFfrexp (c : Ctl) (t : Ty) (expPart : Bool) (d a : Opnd) (s : State) : Outcome State Fault Refusal :=
  withIssue (.ffrexp c t expPart d a) s (fun x s => s.putF x 2 d (if expPart then 1 else t.regs) (fun l =>
    ffrexpRes t.fmt expPart (x.fbits s t l a)))

end Sys2Proof.Machine
end

