-- ==== Sys2Proof/Machine/Scratch.lean ====
section
/-! DEFINITION. The scratch spaces and the order of accesses to them (09 R182-R193, R202), reservations (R198-R200),
declared ownership (12 R263), busy ranges (10 R219), and the accesses as they apply at their bank turns. -/

namespace Sys2Proof

/-- new(old, B, C) of 09 R196. -/
def AOp.new (o : AOp) (old b c : Nat) : Nat :=
  let i := fun (n : Nat) => (Ty.s32.val (BitVec.ofNat 64 n))
  match o with
  | .add32 => (old + b) % 2 ^ 32
  | .add64 => (old + b) % 2 ^ 64
  | .minS => if i b < i old then b else old
  | .minN => if b < old then b else old
  | .maxS => if i old < i b then b else old
  | .maxN => if old < b then b else old
  | .and => old &&& b
  | .or => old ||| b
  | .xor => old ^^^ b
  | .xchg32 | .xchg64 => b
  | .inc => if b ≤ old then 0 else old + 1
  | .dec => if old = 0 ∨ b < old then b else old - 1
  | .fadd => (Fmt.f32.sum .rn [] [Fmt.f32.decode old, Fmt.f32.decode b]).1
  | .cas32 | .cas64 => if old = b then c else old

/-- A loaded value extended to its registers (04 R77). -/
def Size.extend (sz : Size) (v : Nat) : Nat :=
  match sz with
  | .s8 => if 2 ^ 7 ≤ v then v + 2 ^ 32 - 2 ^ 8 else v
  | .s16 => if 2 ^ 15 ≤ v then v + 2 ^ 32 - 2 ^ 16 else v
  | _ => v

end Sys2Proof

namespace Sys2Proof.Machine

/-! Places -/

/-- The group's gang has blocks on both dies (09 R183). -/
def State.gangDies (s : State) (g : Group) : Bool :=
  (s.grid g.grid).desc.nblkg != 0 && s.blocks.any (fun p =>
    p.2.grid == g.grid && p.2.gang == (s.block g.block).gang && dieOf p.2.core != dieOf g.core)

/-- Space and offset that `n` bytes at a program's address name, `none` outside the allocation (09 R182-R184). -/
def State.locate (s : State) (g : Group) (die : Bool) (a n : Nat) : Option (Space × Nat) :=
  let d := (s.grid g.grid).desc
  if die then
    let o := a % 2 ^ 28
    let other := a / 2 ^ 28 % 2 == 1
    if a < 2 ^ 29 && o + n ≤ d.dscr && (!other || s.gangDies g) then
      some (.die g.grid (if other then 1 - dieOf g.core else dieOf g.core), o)
    else none
  else if a + n ≤ d.bscr then some (.blk g.block, a) else none

/-- Turns from issue to the bank turn of a group's access (09 R187); its result lands after twice as many. -/
def bankDelay (g : Group) : Space → Nat
  | .blk _ | .spill _ => 1
  | .die _ d => if d = dieOf g.core then 3 else 6

/-- A byte of the range is busy: for every access, or for writes (10 R219). -/
def State.busy (s : State) (sp : Space) (a n : Nat) (wr : Bool) : Bool :=
  s.groups.any (fun p => p.2.members.any (fun m => m.busy.any (fun b =>
    (b.all || wr) && b.space == sp && a < b.adr + b.len && b.adr < a + n)))

/-- The intervals cover [a, e); `fuel` bounds the walk. -/
def covers (es : List (Nat × Nat)) : Nat → Nat → Nat → Bool
  | 0, a, e => e ≤ a
  | fuel + 1, a, e =>
    if e ≤ a then true
    else
      let m := es.foldl (fun m iv => if iv.1 ≤ a && m < iv.2 then iv.2 else m) a
      if m ≤ a then false else covers es fuel m e

/-- A block of the grid may write these bytes of a range or of die scratch (12 R262, R263). -/
def Grid.mayWrite (r : Grid) (blockId : Nat) (die : Bool) (rng a n : Nat) : Bool :=
  !r.desc.det ||
    (let es := (r.owns.filter (fun o => (o.block == blockId || o.block == 0xFFFFFFFF) && o.die == die
        && (die || o.rng == rng))).map (fun o => (64 * o.ofs, 64 * (o.ofs + o.len)))
     covers es (es.length + 1) a (a + n))

/-- Isolation violation of a word (16 R364, R365): the word has no effect, and the issue ends with it
(DEDUCED, assumption 30). -/
def State.violate (s : State) (x : Ctx) (cause : Nat) (adr : DWord) (peer : Word := 0) : State :=
  (s.raise x.g.pid { bit := 0, tick := x.tick, cause := cause, core := x.g.core, qtr := x.g.quarter, grp := x.g.index,
                     res := x.g.res, fpc := 0#12 ++ x.pc, adr := adr, peer := peer }).voidIssue

/-- Every lane in `sel` parks at the word's PC, each with its own TARG (17 R385). -/
def State.parkEach (s : State) (x : Ctx) (trap cause : Nat) (targ : Nat → Word) : State :=
  x.lanes.foldl (fun s l => s.parkLane x l { trap := trap, cause := cause, targ := targ l }) s

/-- ACCESS causes of 17 R385. -/
def accAlign : Nat := 1
def accSpread : Nat := 2
def accLength : Nat := 3
def accPeer : Nat := 4
def accNoBatch : Nat := 5
def accIndex : Nat := 6

/-! Writes -/

/-- A write ends the reservations of every other lane on the 16-byte granules it touches (09 R199). -/
def State.endResv (s : State) (sp : Space) (a n : Nat) (who : Option (Nat × Nat)) : State :=
  if n = 0 || !(s.groups.any (fun p => p.2.lanes.any (fun l => l.resv.isSome))) then s
  else
    let hit := fun (g i : Nat) (r : Resv) =>
      r.space == sp && a / 16 ≤ r.granule && r.granule ≤ (a + n - 1) / 16 && who != some (g, i)
    let clear := fun (g i : Nat) (l : Lane) =>
      match l.resv with
      | some r => if hit g i r then { l with resv := none } else l
      | none => l
    { s with groups := s.groups.map (fun p => (p.1, { p.2 with lanes := mapFrom (clear p.1) 0 p.2.lanes })) }

/-- A write of one unit into a space, with the mark its data carries (09 R192, R199, 10 R221). -/
def State.scratchWrite (s : State) (sp : Space) (a : Nat) (bs : List Byte) (bad : Bool) (who : Option (Nat × Nat)) : State :=
  (s.modRam sp (fun r => r.write a bs bad)).endResv sp a bs.length who

/-! The accesses as they apply -/

/-- The bytes of one lane's access in the memory of its space (09 R195 for the spill stack): address and length of
each stretch. -/
def stretches (sp : Space) (lane adr n : Nat) : List (Nat × Nat) :=
  match sp with
  | .spill _ => (List.range (n / 4)).map (fun j => (spillAdr lane (adr + 4 * j), 4))
  | _ => [(adr, n)]

def Ram.readAll (r : Ram) (st : List (Nat × Nat)) : Nat := leNat (st.flatMap (fun p => r.read p.1 p.2))
def Ram.anyPoison (r : Ram) (st : List (Nat × Nat)) : Bool := st.any (fun p => r.poisoned p.1 p.2)

/-- A load or `fill` (09 R191, R194, R195). -/
def State.applyLoad (s : State) (x : Access) (sz : Size) : State :=
  let r := s.ram x.space
  let st := fun (l : ALane) => stretches x.space l.lane l.adr sz.bytes
  let good := x.lanes.filter (fun l => !r.anyPoison (st l))
  let s := s.quenchAll x.gid ((x.lanes.filter (fun l => r.anyPoison (st l))).map (·.lane)) 1
  s.fillRes x.gid x.seq (good.map (fun l => { lane := l.lane, ws := toWords sz.regs (sz.extend (r.readAll (st l))) }))

/-- A store or `spill` (09 R192, R194, R195): a granule that its lanes together write in full loses its mark. -/
def State.applyStore (s : State) (x : Access) (n : Nat) : State :=
  let bytes := fun (l : ALane) => (stretches x.space l.lane l.adr n).zip (if n < 4 then [toBytes n (ofWords l.b)]
    else match x.space with
      | .spill _ => l.b.map (fun w => toBytes 4 w.toNat)
      | _ => [toBytes n (ofWords l.b)])
  let full := if (s.ram x.space).poison.isEmpty then [] else coveredBy (x.lanes.flatMap (fun l =>
    (stretches x.space l.lane l.adr n).flatMap (fun p => (List.range p.2).map (p.1 + ·))))
  let s := x.lanes.foldl (fun s l => (bytes l).foldl (fun s p =>
    (s.modRam x.space (fun r => { r with cells := memWrite r.cells p.1.1 p.2 })).endResv x.space p.1.1 p.2.length
      (some (x.gid, l.lane))) s) s
  s.modRam x.space (fun r => r.unmark full)

/-- An atomic or a reduction that is not buffered (09 R191, R196, R197), lanes ascending. A reduction counts each lane that finds
poison in NREC, and an `hfree` counts once: R191 does not say which (DESIGN CHOICE, assumption 36). -/
def State.applyAtom (s : State) (x : Access) (o : AOp) (ret : Bool) : State :=
  let n := 4 * o.regs
  let p := x.lanes.foldl (fun (p : State × List LRes) l =>
    let r := p.1.ram x.space
    if r.poisoned l.adr n then
      (if ret then p.1.quench x.gid l.lane 2 else p.1.logNrec x.gid, p.2)
    else
      let old := r.nat l.adr n
      let bs := toBytes n (o.new old (ofWords l.b) (ofWords l.c))
      let s' := (p.1.modRam x.space (fun r => { r with cells := memWrite r.cells l.adr bs })).endResv
        x.space l.adr n (some (x.gid, l.lane))
      (s', p.2 ++ [{ lane := l.lane, ws := toWords o.regs old }])) (s, [])
  if ret then p.1.fillRes x.gid x.seq p.2 else p.1

/-- `ldr` (09 R198, R200): the lane's reservation is held when its STARVE bit is set. A lane that a trap has parked since the issue takes none:
the spec does not say (DESIGN CHOICE, assumption 95). -/
def State.applyLdr (s : State) (x : Access) (sz : Size) : State :=
  let s := s.applyLoad x sz
  x.lanes.foldl (fun s l =>
    let k := (s.group x.gid).lane l.lane
    if k.isLive && k.trec.isNone then
      let (o, s) := s.fresh
      s.modGroup x.gid (fun g => g.modLane l.lane (fun k =>
        { k with resv := some { space := x.space, granule := l.adr / 16, held := k.starve, order := o } }))
    else s) s

/-- The `stc` of a lane succeeds (09 R198, R200). -/
def State.stcOk (s : State) (gid lane : Nat) (sp : Space) (gran : Nat) : Bool :=
  match ((s.group gid).lane lane).resv with
  | some r =>
    r.space == sp && r.granule == gran && s.groups.all (fun p =>
      (mapFrom (fun i (l : Lane) => (i, l)) 0 p.2.lanes).all (fun q =>
        match q.2.resv with
        | some h => !(h.held && h.space == sp && h.granule == gran) || (p.1 == gid && q.1 == lane)
            || (r.held && r.order < h.order)
        | none => true))
  | none => false

/-- `stc` (09 R198, R200), lanes ascending. -/
def State.applyStc (s : State) (x : Access) (n : Nat) : State :=
  let p := x.lanes.foldl (fun (p : State × List LRes) l =>
    let ok := p.1.stcOk x.gid l.lane x.space (l.adr / 16)
    let s' := if ok then (p.1.modRam x.space (fun r => { r with cells := memWrite r.cells l.adr (toBytes n (ofWords l.b)) })).endResv
      x.space l.adr n (some (x.gid, l.lane)) else p.1
    (s'.modGroup x.gid (fun g => g.modLane l.lane (fun k => { k with resv := none, starve := !ok })),
     p.2 ++ [{ lane := l.lane, ws := [if ok then 1 else 0] }])) (s, [])
  let full := if (p.1.ram x.space).poison.isEmpty then [] else coveredBy ((x.lanes.zip p.2).flatMap (fun q =>
    if q.2.ws = [1] then (List.range n).map (q.1.adr + ·) else []))
  (p.1.modRam x.space (fun r => r.unmark full)).fillRes x.gid x.seq p.2

/-! The device heap (09 R205-R208) -/

/-- A heap descriptor as words of its 64 bytes. -/
structure Heap where
  ws : List Nat
  deriving DecidableEq, Repr

def Heap.word (h : Heap) (i : Nat) : Nat := h.ws.getD i 0
def Heap.set (h : Heap) (i v : Nat) : Heap := { h with ws := lmod h.ws i (fun _ => v % 2 ^ 32) }
def Heap.depth (h : Heap) : Nat := h.word 3 % 2 ^ 16
def Heap.top (h : Heap) (c : Nat) : Nat := h.word (4 + c / 2) / 2 ^ (16 * (c % 2)) % 2 ^ 16
def Heap.setTop (h : Heap) (c v : Nat) : Heap :=
  h.set (4 + c / 2) (if c % 2 = 0 then h.word (4 + c / 2) / 2 ^ 16 * 2 ^ 16 + v else h.word (4 + c / 2) % 2 ^ 16 + v * 2 ^ 16)
/-- A descriptor that breaks a constraint of 09 R205. -/
def Heap.corrupt (h : Heap) : Bool :=
  h.word 0 % 64 != 0 || h.word 1 % 64 != 0 || h.word 0 < h.word 1 || h.word 2 % 64 != 0 || h.word 3 / 2 ^ 16 != 0
    || h.word 15 != 0 || (List.range 16).any (fun c => h.depth < h.top c)
/-- The class of a request of n bytes (09 R205). -/
def heapClass (n : Nat) : Nat := ((List.range 17).find? (fun c => n ≤ 64 * 2 ^ c)).getD 16
/-- The address of entry `e` of the stack of class `c` (09 R205). -/
def Heap.entry (h : Heap) (c e : Nat) : Nat := h.word 2 + 4 * (h.depth * c + e)

/-- Where stack words may lie: the bytes of the descriptor's space, and whether the group may name the other die (09 R183, R184). -/
structure StackRoom where
  size : Nat
  two : Bool
  deriving DecidableEq, Repr

/-- The offset of a stack word in the descriptor's space, `none` outside the allocation (09 R183, R184, R208). Bit 28 of STK is void for a
group that may name the other die: the access is one to the descriptor's die (assumption 26). -/
def Heap.place (h : Heap) (room : StackRoom) (c e : Nat) : Option Nat :=
  let o := h.word 2 % 2 ^ 28 + 4 * (h.depth * c + e)
  if h.word 2 < (if room.two then 2 ^ 29 else 2 ^ 28) ∧ o + 4 ≤ room.size then some o else none

/-- Progress of one heap step on the descriptor at `base`: the descriptor, stack words read and written, the words of scratch that
each lane has changed, results, and what stops the step. -/
structure HeapRun where
  h : Heap
  base : Nat := 0
  rd : List Nat := []
  wr : List (Nat × Nat) := []
  by_ : List (Nat × Nat) := []
  res : List LRes := []
  failed : Option (Nat × Nat) := none
  outside : Option Nat := none
  poison : Bool := false
  deriving DecidableEq, Repr

/-- A stack word as the step has left it. -/
def HeapRun.stack (p : HeapRun) (r : Ram) (a : Nat) : Nat := ((p.wr.find? (fun w => w.1 == a)).map (·.2)).getD (r.nat a 4)

/-- The stack words that the step has read or written. -/
def HeapRun.touched (p : HeapRun) : List Nat := p.rd ++ p.wr.map (·.1)

/-- The step after `p`, with the words that its lane has changed, each with the lane. -/
def HeapRun.noting (p p' : HeapRun) (lane : Nat) : HeapRun :=
  let words := ((List.range 16).filter (fun i => p'.h.word i != p.h.word i)).map (fun i => (p.base + 4 * i, lane))
  { p' with by_ := p'.by_ ++ words ++ (if p'.wr == p.wr then [] else (p'.wr.take 1).map (fun w => (w.1, lane))) }

/-- One lane of `halloc` (09 R206). A corrupt descriptor fails with cause CORRUPT also where n is above 2^21: the spec does not say
which cause of 17 R385 is recorded then (DESIGN CHOICE, assumption 36). -/
def HeapRun.alloc (p : HeapRun) (r : Ram) (room : StackRoom) (lane n : Nat) : HeapRun :=
  let h := p.h
  let c := heapClass n
  let give := fun (h : Heap) (v : Nat) =>
    { p with h := h.set 12 (h.word 12 + 1), res := p.res ++ [{ lane := lane, ws := [BitVec.ofNat 32 v] }] }
  let fail := fun (cause : Nat) =>
    { p with h := h.set 13 (h.word 13 + 1), res := p.res ++ [{ lane := lane, ws := [0xFFFFFFFF#32], fl := 0x40#8 }]
             failed := p.failed.or (some (lane, cause)) }
  if h.corrupt then fail 2
  else if 2 ^ 21 < n then fail 1
  else if 0 < h.top c then
    match h.place room c (h.top c - 1) with
    | none => { p with outside := p.outside.or (some (h.entry c (h.top c - 1))) }
    | some a =>
      let q := give (h.setTop c (h.top c - 1)) (p.stack r a)
      { q with rd := a :: p.rd, poison := p.poison || r.poisoned a 4 }
  else if h.word 1 + 64 * 2 ^ c ≤ h.word 0 then give (h.set 1 (h.word 1 + 64 * 2 ^ c)) (h.word 1)
  else fail 3

/-- One lane of `hfree` (09 R207). -/
def HeapRun.release (p : HeapRun) (room : StackRoom) (b n : Nat) : HeapRun :=
  let h := p.h
  let c := heapClass n
  if b = 0xFFFFFFFF then p
  else if h.corrupt || 2 ^ 21 < n || b % 64 != 0 || h.word 0 < b + 64 * 2 ^ c || h.top c == h.depth then
    { p with h := h.set 14 (h.word 14 + 1) }
  else
    match h.place room c (h.top c) with
    | none => { p with outside := p.outside.or (some (h.entry c (h.top c))) }
    | some a => { p with h := (h.setTop c (h.top c + 1)).set 12 (h.word 12 + 2 ^ 32 - 1), wr := (a, b) :: p.wr.filter (fun w => w.1 != a) }

/-- The words that a heap step changed are written; a granule that they cover in full loses its mark (09 R192), and each lane's
writes end the reservations of the others (09 R199). Every lane goes by the descriptor as read when the step began, and the stack words
are written after it, also where an STK points into the descriptor's own 64 bytes: 09 R207 says only that it is a single step (DESIGN
CHOICE, assumption 36). -/
def State.heapWrite (s : State) (sp : Space) (gid a : Nat) (old : Heap) (p : HeapRun) : State :=
  let ws := ((List.range 16).filter (fun i => p.h.word i != old.word i)).map (fun i => (a + 4 * i, p.h.word i)) ++ p.wr.reverse
  let full := if (s.ram sp).poison.isEmpty then [] else coveredBy (ws.flatMap (fun w => (List.range 4).map (w.1 + ·)))
  let s := s.modRam sp (fun r => (ws.foldl (fun r w => { r with cells := memWrite r.cells w.1 (toBytes 4 w.2) }) r).unmark full)
  p.by_.foldl (fun s w => s.endResv sp w.1 4 (some (gid, w.2))) s

/-- The descriptor at an address of a memory. -/
def Ram.heap (r : Ram) (a : Nat) : Heap := { ws := (List.range 16).map (fun i => r.nat (a + 4 * i) 4) }
/-- What an `hfree` of these lanes does to the descriptor at `a` of a memory. -/
def Ram.frees (r : Ram) (room : StackRoom) (a : Nat) (lanes : List ALane) : HeapRun :=
  lanes.foldl (fun p l => p.noting (p.release room (ofWords l.b) (ofWords l.c)) l.lane) { h := r.heap a, base := a : HeapRun }
/-- What a `halloc` of these lanes does to the descriptor at `a` of a memory. -/
def Ram.allocs (r : Ram) (room : StackRoom) (a : Nat) (lanes : List ALane) : HeapRun :=
  lanes.foldl (fun p l => p.noting (p.alloc r room l.lane (ofWords l.b)) l.lane) { h := r.heap a, base := a : HeapRun }
/-- Where the stack words of a group's heap word may lie. -/
def State.stackRoom (s : State) (g : Group) (sp : Space) : StackRoom := { size := s.spaceSize sp, two := s.gangDies g }
/-- A stack word that an `hfree` of these lanes would write and the group's block does not own (12 R263). -/
def State.foreignFree (s : State) (g : Group) (sp : Space) (a : Nat) (lanes : List ALane) : Option Nat :=
  let r := s.ram sp
  if r.poisoned a 64 then none
  else ((r.frees (s.stackRoom g sp) a lanes).wr.find? (fun w =>
    !(s.grid g.grid).mayWrite (s.block g.block).blockId true 0 w.1 4)).map (·.1)

/-- Bit 28 of an address of die scratch that is not the die of the group's core (09 R182, R183). -/
def Group.dieBit (g : Group) : Space → Nat
  | .die _ d => if d = dieOf g.core then 0 else 2 ^ 28
  | _ => 0

/-- A violation that a step finds after its issue. -/
def State.violateAt (s : State) (gid : Nat) (pc : BitVec 20) (cause : Nat) (adr : DWord) (peer : Word := 0) : State :=
  let g := s.group gid
  s.raise g.pid { bit := 0, tick := 16 * s.turn, cause := cause, core := g.core, qtr := g.quarter, grp := g.index, res := g.res,
                  fpc := 0#12 ++ pc, adr := adr, peer := peer }

/-- `halloc` as one step (09 R206, R208). A poisoned descriptor names no stack word; otherwise a stack word outside the allocation
comes before a poisoned one (09 R193). -/
def State.applyHalloc (s : State) (x : Access) (mode1 : Bool) : State :=
  match x.lanes with
  | [] => s
  | l0 :: _ =>
    let r := s.ram x.space
    let a := l0.adr
    let h := r.heap a
    let p := r.allocs (s.stackRoom (s.group x.gid) x.space) a x.lanes
    let poisoned := (s.fillRes x.gid x.seq []).quenchAll x.gid (x.lanes.map (·.lane)) 1
    if r.poisoned a 64 then poisoned
    else match p.outside with
      | some o => (s.fillRes x.gid x.seq []).violateAt x.gid x.pc 2 (BitVec.ofNat 64 o)
      | none =>
        if p.poison then poisoned
        else match mode1, p.failed with
        | true, some (lane, cause) =>
          let s := s.heapWrite x.space x.gid a h { h := h.set 13 (h.word 13 + 1), by_ := [(a + 52, lane)] }
          let g := s.group x.gid
          let targ := BitVec.ofNat 32 (g.dieBit x.space + a)
          (s.fillRes x.gid x.seq []).parkBack x.gid (x.lanes.map (fun l => (l.lane, l.sig))) x.pc
            { trap := 8, cause := cause, info := lane, targ := targ, word := s.wordAt g x.pc.toNat }
        | _, _ => (s.heapWrite x.space x.gid a h p).fillRes x.gid x.seq p.res

/-- `hfree` as one step (09 R207, R208). -/
def State.applyHfree (s : State) (x : Access) : State :=
  match x.lanes with
  | [] => s
  | l0 :: _ =>
    let r := s.ram x.space
    let a := l0.adr
    let g := s.group x.gid
    let p := r.frees (s.stackRoom g x.space) a x.lanes
    if r.poisoned a 64 then s.logNrec x.gid
    else match p.outside with
      | some o => s.violateAt x.gid x.pc 2 (BitVec.ofNat 64 o)
      | none =>
        match s.foreignFree g x.space a x.lanes with
        | some w => s.violateAt x.gid x.pc 3 (BitVec.ofNat 64 (g.dieBit x.space + w))
        | none => s.heapWrite x.space x.gid a (r.heap a) p

/-! The reduction buffer (12 R264-R267) -/

/-- The sort key of an entry as one number. -/
def REntry.key (e : REntry) : Nat := ((e.block * 16 + e.gidx) * 64 + e.lane) * 2 ^ 32 + e.seq

/-- A flush of a core at turn `t` takes the entries issued before tick `lim`: how many, and their last bank turn
(12 R265, R266). -/
def State.flush (s : State) (k t lim : Nat) : State × Nat × Nat :=
  let c := s.core k
  let es := sortBy (fun a b => a.key ≤ b.key) (c.rbuf.filter (fun e => e.tick < lim))
  let b0 := Nat.max (t + 6) (match c.rlast with | some e => e + 1 | none => 0)
  if es.isEmpty then (s, 0, 0)
  else
    let last := b0 + (es.length - 1) / 64
    (s.setCore k { c with rbuf := c.rbuf.filter (fun e => !(e.tick < lim))
                          rflush := c.rflush ++ mapFrom (fun i e => (b0 + i / 64, e)) 0 es, rlast := some last },
     es.length, last)

/-- An entry applies as a write by its lane (12 R266, R267). -/
def State.applyEntry (s : State) (e : REntry) : State :=
  let r := s.ram e.space
  let n := 4 * e.op.regs
  if r.poisoned e.adr n then s.logNrec e.gid
  else
    let bs := toBytes n (e.op.new (r.nat e.adr n) e.val.toNat 0)
    (s.modRam e.space (fun r => { r with cells := memWrite r.cells e.adr bs })).endResv e.space e.adr n (some (e.gid, e.lane))

/-! Issue of an access -/

/-- What a scratch word asks of the checks: its space, bytes, whether it reads or writes, its acquire and release
bits, whether the segment rule, the horizons and a `fence.rel` apply, and of a heap word the stack words that it touches besides: their
offsets, the address of one outside the allocation, and that of one that an `hfree` may not write (12 R263). -/
structure AccShape where
  die : Bool
  n : Nat
  reads : Bool
  writes : Bool
  acq : Bool := false
  rel : Bool := false
  spread : Bool := true
  turnless : Bool := false
  hz : Bool := true
  fenced : Bool := true
  words : List Nat := []
  beyond : Option Nat := none
  foreign : Option Nat := none
  deriving DecidableEq, Repr

/-- The order rule of 09 R202 for a bank turn. A release in scratch is checked against the scratch horizons alone, as R202 says: the lane's
remote executions on this device apply before it all the same (11 R242, `State.applyTurn`), and those that have not gone out or that apply at
peers neither hold nor trap it (DESIGN CHOICE, assumption 77). A reduction in deterministic mode has no bank turn at its issue and is never
judged by this rule: its entry's bank turn, six turns or more after its flush, is above every horizon that stands by then (DEDUCED,
assumption 40). `fence.rel` binds stores, atomics, reductions and `stc`, not the heap words. -/
def orderOk (g : Group) (k : AccShape) (bank : Nat) : Bool :=
  k.turnless || (g.reqs.all (fun r => (r.writesOnly && !(k.writes && k.fenced)) || r.above < bank)
    && (!k.rel || (g.hl < bank && g.hs < bank)))

/-- The horizons and the acquire's requirement after an accepted access (09 R202); requirements that every later bank
turn and every remote execution meets are dropped: one of this very turn still holds a remote word paired with this one (11 R247). -/
def Group.horizon (g : Group) (k : AccShape) (bank turn : Nat) : Group :=
  if k.turnless || !k.hz then g
  else { g with hl := if k.reads then Nat.max g.hl bank else g.hl
                hs := if k.writes then Nat.max g.hs bank else g.hs
                reqs := g.reqs.filter (fun r => turn ≤ r.above) ++ (if k.acq then [{ writesOnly := false, above := bank, acq := bank }] else []) }

/-- The checks of 09 R193 in order, then `go` with the space, the bank turn and each lane's offset. -/
def scratchWord (x : Ctx) (k : AccShape) (adr : Nat → Word) (s : State)
    (go : Space → Nat → (Nat → Nat) → State → State) : State :=
  match x.lanes with
  | [] => s
  | l0 :: _ =>
    let loc := fun l => s.locate x.g k.die (adr l).toNat k.n
    let at_ := fun l => ((loc l).map (·.2)).getD 0
    let blk := (s.block x.g.block).blockId
    match x.lanes.find? (fun l => (loc l).isNone) with
    | some l => s.violate x 2 ((adr l).setWidth 64)
    | none =>
      match k.beyond.map (fun a => (2, a)) <|> (x.lanes.find? (fun l => k.die && k.writes && !(s.grid x.g.grid).mayWrite blk true 0 (at_ l) k.n)).map
          (fun l => (3, (adr l).toNat)) <|> k.foreign.map (fun a => (3, a)) with
      | some (cause, a) => s.violate x cause (BitVec.ofNat 64 a)
      | none =>
        let sp := ((loc l0).map (·.1)).getD (.blk x.g.block)
        let bank := s.turn + bankDelay x.g sp
        if x.lanes.any (fun l => at_ l % k.n != 0) then s.parkEach x 0x0B accAlign adr
        else if k.die && k.spread && x.lanes.any (fun l => adr l >>> 8 != adr l0 >>> 8) then s.parkEach x 0x0B accSpread adr
        else if x.lanes.any (fun l => s.busy sp (at_ l) k.n k.writes) || k.words.any (fun w => s.busy sp w 4 k.writes) then s.parkEach x 6 0 adr
        else if !orderOk x.g k bank then s.parkEach x 5 2 (fun _ => 0)
        else (go sp bank at_ s).modGroup x.gid (fun g => g.horizon k bank s.turn)

/-- An access that waits for its bank turn. -/
def State.enqueue (s : State) (x : Ctx) (sp : Space) (bank : Nat) (op : AccOp) (lanes : List ALane) (d : Opnd := .spec 0) : State :=
  { s with bankQ := s.bankQ ++ [{ bank := bank, tick := x.tick, core := x.g.core, quarter := x.g.quarter, gid := x.gid,
                                  space := sp, op := op, lanes := lanes, dst := d, land := 2 * bank - s.turn, seq := x.seq, pc := x.pc }] }

/-- The address of a lane: base and offset modulo 2^32 (09 R194). -/
def Ctx.adr (s : State) (x : Ctx) (a : Opnd) (ofs : BitVec 24) (l : Nat) : Word := x.src32 s l a + ofs.signExtend 32

/-- A plain-access place in the order of 09 R188: `a` before `b`. -/
def Access.before (a b : Access) : Bool :=
  let k := fun (x : Access) => (((x.bank * 2 ^ 64 + x.tick) * 256 + x.core) * 4 + x.quarter) * 2 ^ 40 + x.seq
  k a ≤ k b

end Sys2Proof.Machine
end

