-- ==== Sys2Proof/Machine/ScratchOps.lean ====
section
/-! DEFINITION. The scratch instructions of 09 R194-R208. -/

namespace Sys2Proof

/-- The scopes `.dev` and wider (11 R239). -/
def Scope.wide : Scope → Bool
  | .dev | .pod | .sys => true
  | _ => false

end Sys2Proof

namespace Sys2Proof.Machine

open Host (Outcome)

/-- `ld` (09 R194). -/
def execLd (c : Ctl) (sp : Sp) (sz : Size) (ord : Option Scope) (d a : Opnd) (ofs : BitVec 24) (s : State) :
    Outcome State Fault Refusal :=
  withIssue (.ld c sp sz ord d a ofs) s (fun x s =>
    scratchWord x { die := sp == .die, n := sz.bytes, reads := true, writes := false, acq := ord.isSome } (x.adr s a ofs) s
      (fun spc bank at_ s => (s.enqueue x spc bank (.ld sz) (x.lanes.map (fun l => { lane := l, adr := at_ l }))).reserve
        x (2 * bank - s.turn) d sz.regs))

/-- `st` (09 R194). -/
def execSt (c : Ctl) (sp : Sp) (sz : Size) (ord : Option Scope) (a b : Opnd) (ofs : BitVec 24) (s : State) :
    Outcome State Fault Refusal :=
  withIssue (.st c sp sz ord a b ofs) s (fun x s =>
    scratchWord x { die := sp == .die, n := sz.bytes, reads := false, writes := true, rel := ord.isSome } (x.adr s a ofs) s
      (fun spc bank at_ s => s.enqueue x spc bank (.st sz.bytes)
        (x.lanes.map (fun l => { lane := l, adr := at_ l, b := x.srcWords s sz.regs l b }))))

/-- The checks of the spill stack (09 R193, R195): SPILL_LIMIT, then alignment. -/
def spillWordOp (x : Ctx) (n : Nat) (adr : Nat → Word) (s : State) (go : State → State) : State :=
  let size := (s.grid x.g.grid).desc.spill / 64
  if x.lanes.any (fun l => size < (adr l).toNat + n) then s.parkEach x 7 0 adr
  else if x.lanes.any (fun l => (adr l).toNat % n != 0) then s.parkEach x 0x0B accAlign adr
  else if x.sel = 0 then s else go s

/-- `spill` (09 R195). -/
def execSpill (c : Ctl) (sz : Size) (a b : Opnd) (ofs : BitVec 24) (s : State) : Outcome State Fault Refusal :=
  withIssue (.spill c sz a b ofs) s (fun x s => spillWordOp x sz.bytes (x.adr s a ofs) s (fun s =>
    s.enqueue x (.spill x.gid) (s.turn + 1) (.st sz.bytes)
      (x.lanes.map (fun l => { lane := l, adr := (x.adr s a ofs l).toNat, b := x.srcWords s sz.regs l b }))))

/-- `fill` (09 R195). -/
def execFill (c : Ctl) (sz : Size) (d a : Opnd) (ofs : BitVec 24) (s : State) : Outcome State Fault Refusal :=
  withIssue (.fill c sz d a ofs) s (fun x s => spillWordOp x sz.bytes (x.adr s a ofs) s (fun s =>
    (s.enqueue x (.spill x.gid) (s.turn + 1) (.ld sz)
      (x.lanes.map (fun l => { lane := l, adr := (x.adr s a ofs l).toNat }))).reserve x (s.turn + 2) d sz.regs))

/-- A returning atomic (09 R196). -/
def atomWord (x : Ctx) (die : Bool) (op : AOp) (ord : Bool) (d a b cc : Opnd) (ofs : BitVec 24) (s : State) : State :=
  scratchWord x { die := die, n := 4 * op.regs, reads := true, writes := true, acq := ord, rel := ord } (x.adr s a ofs) s
    (fun spc bank at_ s => (s.enqueue x spc bank (.atom op true) (x.lanes.map (fun l =>
      { lane := l, adr := at_ l, b := x.opWords s op op.regs l b
        c := if op.isCas then x.srcWords s op.regs l cc else [] }))).reserve x (2 * bank - s.turn) d op.regs)

def execAtomBlk (c : Ctl) (op : AOp) (ord : Option Scope) (d a b cc : Opnd) (ofs : BitVec 24) (s : State) :
    Outcome State Fault Refusal :=
  withIssue (.atomBlk c op ord d a b cc ofs) s (fun x s => atomWord x false op ord.isSome d a b cc ofs s)

def execAtomDie (c : Ctl) (op : AOp) (ord : Option Scope) (d a b cc : Opnd) (ofs : BitVec 24) (s : State) :
    Outcome State Fault Refusal :=
  withIssue (.atomDie c op ord d a b cc ofs) s (fun x s => atomWord x true op ord.isSome d a b cc ofs s)

/-- A reduction (09 R197): at its bank turn with DET clear, into the core's buffer with DET set (12 R264). With DET set it has no bank turn at
its issue (09 R202): check 5 of 09 R193 never judges it, and it moves no horizon (DEDUCED, assumption 40). -/
def redWord (x : Ctx) (die : Bool) (op : AOp) (a b : Opnd) (ofs : BitVec 24) (s : State) : State :=
  let det := (s.grid x.g.grid).desc.det
  scratchWord x { die := die, n := 4 * op.regs, reads := false, writes := true, turnless := det } (x.adr s a ofs) s
    (fun spc bank at_ s =>
      if det then
        let es := x.lanes.map (fun l =>
          { space := spc, adr := at_ l, op := op, val := BitVec.ofNat 64 (ofWords (x.opWords s op op.regs l b)),
            block := (s.block x.g.block).blockId, gidx := x.g.index, lane := l, seq := (x.g.lane l).seq, gid := x.gid,
            tick := x.tick : REntry })
        (s.modCore x.g.core (fun k => { k with rbuf := k.rbuf ++ es })).modGroup x.gid (fun g =>
          g.modLanes x.sel (fun l => { l with seq := l.seq + 1 }))
      else s.enqueue x spc bank (.atom op false)
        (x.lanes.map (fun l => { lane := l, adr := at_ l, b := x.opWords s op op.regs l b })))

def execRedBlk (c : Ctl) (op : AOp) (a b : Opnd) (ofs : BitVec 24) (s : State) : Outcome State Fault Refusal :=
  withIssue (.redBlk c op a b ofs) s (fun x s => redWord x false op a b ofs s)

def execRedDie (c : Ctl) (op : AOp) (a b : Opnd) (ofs : BitVec 24) (s : State) : Outcome State Fault Refusal :=
  withIssue (.redDie c op a b ofs) s (fun x s => redWord x true op a b ofs s)

/-- `ldr` (09 R198). -/
def execLdr (c : Ctl) (sp : Sp) (w64 : Bool) (ord : Option Scope) (d a : Opnd) (ofs : BitVec 24) (s : State) :
    Outcome State Fault Refusal :=
  withIssue (.ldr c sp w64 ord d a ofs) s (fun x s =>
    let n := if w64 then 8 else 4
    scratchWord x { die := sp == .die, n := n, reads := true, writes := false, acq := ord.isSome } (x.adr s a ofs) s
      (fun spc bank at_ s => (s.enqueue x spc bank (.ldr w64) (x.lanes.map (fun l => { lane := l, adr := at_ l }))).reserve
        x (2 * bank - s.turn) d (n / 4)))

/-- `stc` (09 R198). -/
def execStc (c : Ctl) (sp : Sp) (w64 : Bool) (ord : Option Scope) (d a b : Opnd) (ofs : BitVec 24) (s : State) :
    Outcome State Fault Refusal :=
  withIssue (.stc c sp w64 ord d a b ofs) s (fun x s =>
    let n := if w64 then 8 else 4
    scratchWord x { die := sp == .die, n := n, reads := false, writes := true, rel := ord.isSome } (x.adr s a ofs) s
      (fun spc bank at_ s => (s.enqueue x spc bank (.stc w64) (x.lanes.map (fun l =>
        { lane := l, adr := at_ l, b := x.srcWords s (n / 4) l b }))).reserve x (2 * bank - s.turn) d 1))

/-- `fence` (09 R202, R203, 11 R247): requirements over later accesses; a scope of `.dev` or wider holds the group
until its earlier remote executions have completed. A word paired behind it issues in its turn, for a pair is one issue, and a remote word
there goes out when they have completed (11 R242, assumption 77). -/
def execFence (c : Ctl) (k : FenceKind) (sc : Scope) (s : State) : Outcome State Fault Refusal :=
  withIssue (.fence c k sc) s (fun x s =>
    if x.sel = 0 then s
    else
      let both := Nat.max x.g.hl x.g.hs
      let r : OrdReq := match k with
        | .acq => { writesOnly := false, above := x.g.hl, acq := x.g.hl }
        | .rel => { writesOnly := true, above := both }
        | .ar => { writesOnly := false, above := both, acq := x.g.hl }
      s.modGroup x.gid (fun g => { g with
        reqs := g.reqs.filter (fun q => s.turn ≤ q.above) ++ (if s.turn ≤ r.above then [r] else [])
        relFence := g.relFence || (sc.wide && k != .acq)
        rwait := if sc.wide then s.ident else g.rwait }))

/-- `aflush` (09 R204, 12 R265, 11 R251). -/
def execAflush (c : Ctl) (d : Opnd) (s : State) : Outcome State Fault Refusal :=
  withIssue (.aflush c d) s (fun x s =>
    if x.sel = 0 then s
    else if (s.grid x.g.grid).desc.det then
      let (s, n, last) := s.flush x.g.core s.turn x.tick
      (s.modGroup x.gid (fun g => { g with hs := Nat.max g.hs last })).put x 2 d 1 (fun _ => n)
    else s.put x 2 d 1 (fun _ => 0))

/-- The free stacks' side of a heap word, by the bytes as they stand at its issue (09 R193, R208, 10 R219, assumption 36): the step that its
lanes' requests bring, as `run` gives it, on an aligned descriptor in the allocation. A poisoned one names no stack word. -/
def State.heapRun (s : State) (x : Ctx) (a : Opnd) (run : Ram → StackRoom → Nat → HeapRun) : Option HeapRun :=
  match s.locate x.g true (x.low32 s a).toNat 64 with
  | some (sp, o) => if o % 64 != 0 || (s.ram sp).poisoned o 64 then none else some (run (s.ram sp) (s.stackRoom x.g sp) o)
  | none => none

/-- What a heap word asks of the checks (09 R193, R208): its stack words are in the allocation and not busy. -/
def State.heapShape (s : State) (x : Ctx) (a : Opnd) (run : Ram → StackRoom → Nat → HeapRun) : AccShape :=
  let p := s.heapRun x a run
  { die := true, n := 64, reads := true, writes := true, spread := false, hz := false, fenced := false
    words := (p.map HeapRun.touched).getD [], beyond := p.bind (·.outside) }

/-- The requests of a heap word's lanes: the size B, or the offset B and the size C. -/
def Ctx.requests (s : State) (x : Ctx) (b : Opnd) (cc : Option Opnd) : List ALane :=
  x.lanes.map (fun l => { lane := l, adr := 0, b := [x.src32 s l b], c := (cc.map (fun o => [x.src32 s l o])).getD [] })

/-- `halloc` (09 R206, R208): the descriptor address comes from the lowest lane in `sel`. -/
def execHalloc (c : Ctl) (mode1 : Bool) (d a b : Opnd) (s : State) : Outcome State Fault Refusal :=
  withIssue (.halloc c mode1 d a b) s (fun x s =>
    scratchWord x (s.heapShape x a (fun r room o => r.allocs room o (x.requests s b none))) (fun _ => x.low32 s a) s
      (fun spc bank at_ s => (s.enqueue x spc bank (.halloc mode1) (x.lanes.map (fun l =>
        { lane := l, adr := at_ l, b := [x.src32 s l b], sig := (x.g.lane l).sig }))).reserve x (2 * bank - s.turn) d 1))

/-- The stack word that an `hfree` would write outside the block's declared ownership, by the bytes as they stand at issue: its
address (12 R263, assumption 36). -/
def State.freeForeign (s : State) (x : Ctx) (a b cc : Opnd) : Option Nat :=
  match s.locate x.g true (x.low32 s a).toNat 64 with
  | some (sp, o) =>
    if o % 64 = 0 then (s.foreignFree x.g sp o (x.requests s b (some cc))).map (fun w => (x.low32 s a).toNat / 2 ^ 28 * 2 ^ 28 + w) else none
  | none => none

/-- `hfree` (09 R207, R208). -/
def execHfree (c : Ctl) (a b cc : Opnd) (s : State) : Outcome State Fault Refusal :=
  withIssue (.hfree c a b cc) s (fun x s =>
    scratchWord x { s.heapShape x a (fun r room o => r.frees room o (x.requests s b (some cc))) with foreign := s.freeForeign x a b cc }
      (fun _ => x.low32 s a) s
      (fun spc bank at_ s => s.enqueue x spc bank .hfree (x.lanes.map (fun l =>
        { lane := l, adr := at_ l, b := [x.src32 s l b], c := [x.src32 s l cc] }))))

end Sys2Proof.Machine
end

