-- ==== Sys2Proof/Machine/Batch.lean ====
section
/-! DEFINITION. Batches of engine commands (10 R214-R218). -/

namespace Sys2Proof.Machine

open Host (Outcome)

/-- One close: every pending member joins batch LAST + 1 (10 R214). -/
def Group.close (g : Group) : Group :=
  { g with last := g.last + 1, members := g.members.map (fun m => if m.batch.isNone then { m with batch := some (g.last + 1) } else m) }

/-- An accepted command becomes a pending member with its busy ranges (10 R214, R219). -/
def Group.join (g : Group) (ident : Nat) (busy : List Busy) : Group :=
  { g with members := g.members ++ [{ ident := ident, batch := none, done := false, busy := busy }] }

/-- A member completes (10 R215). -/
def Group.memberDone (g : Group) (ident : Nat) : Group :=
  { g with members := g.members.map (fun m => if m.ident == ident then { m with done := true } else m) }

/-- Batch COMPL + 1 is closed and every member of it has completed (10 R215). -/
def Group.batchDue (g : Group) : Bool :=
  g.compl != g.last && g.members.all (fun m => m.batch != some (g.compl + 1) || m.done)

/-- The group's outstanding limit (10 R216). -/
def Group.memberLimit (g : Group) : Bool := 32 ≤ g.members.length

/-- Lanes whose condition holds have met it at a tick (01 R20, R22). -/
def Group.meet (g : Group) (p : Cond → Bool) (tick : Nat) : Group :=
  { g with lanes := g.lanes.map (fun l =>
      match l.wait with
      | some w => if w.met.isNone && p w.cond then { l with wait := some { w with met := some tick } } else l
      | none => l) }

/-- `bclose` (10 R217). -/
def execBclose (c : Ctl) (sc : Scope) (d : Opnd) (s : State) : Outcome State Fault Refusal :=
  withIssue (.bclose c sc d) s (fun x s =>
    if x.sel = 0 then s
    else (s.modGroup x.gid (fun g => g.close)).put x 1 d 1 (fun _ => (x.g.last + 1).toNat))

/-- `bwait` (10 R218). -/
def execBwait (c : Ctl) (a : Opnd) (imm : Word) (s : State) : Outcome State Fault Refusal :=
  withIssue (.bwait c a imm) s (fun x s => x.lanes.foldl (fun s l =>
    let w := x.src32 s l a + imm
    let ahead := (w - x.g.last).toNat
    if 1 ≤ ahead && ahead < 2 ^ 31 then s.parkLane x l { trap := 0x0B, cause := accNoBatch, targ := w }
    else if 2 ^ 31 ≤ (x.g.compl - w).toNat then s.waitLane x l (.batch w) x.tick
    else s) s)

/-- BATCH_COMPLETE: COMPL becomes N at tick 16u, and the lanes that wait for N or less have met their condition
(10 R215, R218, 11 R248). -/
def execBatchComplete (g : Nat) (s : State) : Outcome State Fault Refusal :=
  match tget s.groups g with
  | none => .fault .noObject
  | some x =>
    if x.batchDue then
      let n := x.compl + 1
      let x' := { x with compl := n, members := x.members.filter (fun m => m.batch != some n) }
      .next (s.setGroup g (x'.meet (fun c => match c with
        | .batch w => (n - w).toNat < 2 ^ 31
        | _ => false) (16 * s.turn)))
    else .next s

end Sys2Proof.Machine
end

