-- ==== Sys2Proof/Machine/Flits.lean ====
section
/-! DEFINITION. The pod as the loaded pattern gives it, pattern frames and slots, and the sending of flits (15 R322-R329, R338;
with no pattern the device is alone, assumption 3). -/

namespace Sys2Proof.Machine

def State.selfDev (s : State) : Nat := (s.pat.cur.map (·.device)).getD 0
def State.devCount (s : State) : Nat := (s.pat.cur.map (·.devices)).getD 1
/-- h for a peer (10 R209): 0 for the device itself. -/
def State.hops (s : State) (peer : Nat) : Nat :=
  if peer = s.selfDev then 0 else (s.pat.cur.map (fun p => p.hops.getD peer 4)).getD 4
/-- The fault domain of a device (15 R336). -/
def State.domainOf (s : State) (dev : Nat) : Nat := (s.pat.cur.map (fun p => p.domainOf.getD dev p.dom)).getD 0

/-- What the device does only with firmware whose signatures verify; without, it offers management and image loading alone
(16 R369). -/
def State.served (s : State) (f : State → State) : State := if s.dev.fwok then f s else s

/-- PFRAME (15 R338). -/
def State.pframe (s : State) : Nat := s.now / 65536 - s.pat.pshift

/-- Slots of a frame on one port in one direction, and the offset in the frame at which a slot begins (15 R322). -/
def slotsPerFrame : Nat := 122880
def slotTick (i : Nat) : Nat := 64 * (i / 120) + 64 * (i % 120) / 120
/-- The first slot that begins at or after an offset of the frame. -/
def slotAfter (o : Nat) : Nat := 120 * (o / 64) + (120 * (o % 64) + 63) / 64

/-- Kind of a slot: slot 0 of every superslot is a control slot (15 R323). -/
def slotKind (q : Slot) : SlotKind := if q.index % 120 = 0 then .control else q.kind

/-- Frames of the pattern's period (15 R348). -/
def State.frames (s : State) : Nat := Nat.max ((s.pat.cur.map (·.nf)).getD 1) 1

/-- The pattern's entry for a grid, when the grid is planned (15 R333). -/
def State.plannedOf (s : State) (r : Grid) : Option PlannedGrid :=
  ((s.pat.cur.map (·.planned)).getD []).find? (fun e => e.stream == r.stream && e.tag == r.req.tag)

/-- The pattern's slots. -/
def State.slots (s : State) : List Slot := (s.pat.cur.map (·.slots)).getD []

/-- The k-th time from now on that the slot of an entry begins. -/
def State.occurs (s : State) (q : Slot) (k : Nat) : Place :=
  let t := s.now / 65536 * 65536 + slotTick q.index
  let t := if t < s.now then t + 65536 else t
  let t := match q.frame with
    | none => t + 65536 * k
    | some f => t + 65536 * ((f + s.frames - (t / 65536 - s.pat.pshift) % s.frames) % s.frames + s.frames * k)
  { tick := t, frame := t / 65536 - s.pat.pshift, slot := q.index, port := q.port }

/-- A sequence number that no unacknowledged flit of the pair has (15 R326). -/
def State.freshSeq (s : State) (peer : Nat) (p : Place) : Bool :=
  !((tget s.pat.acks peer).getD []).any (fun f => f.frame == p.frame && f.slot == p.slot)

/-- A slot carries one flit (15 R322): no flit of any pair goes in this one. -/
def State.vacant (s : State) (p : Place) : Bool :=
  !s.pat.acks.any (fun q => q.2.any (fun f => f.port == p.port && f.atFrame == p.frame && f.atSlot == p.slot))

/-- The first place of an entry's slot that will do, where it comes before the one found so far. -/
def State.sooner (s : State) (ok : Place → Bool) (b : Option Place) (q : Slot) : Option Place :=
  match ((List.range 64).map (s.occurs q)).find? ok with
  | none => b
  | some p => match b with
    | some y => if p.tick < y.tick then some p else b
    | none => some p

/-- The first place from now on whose slot's entry satisfies `want` and that is free: for a first sending one whose sequence number is
unused. A pattern whose record lists no slots at all gives any slot of port 0 but a control slot (assumption 15). -/
def State.place (s : State) (peer : Nat) (fresh : Bool) (want : Slot → Bool) : Option Place :=
  let ok := fun (p : Place) => s.vacant p && (!fresh || s.freshSeq peer p)
  if s.slots.isEmpty then
    let i := slotAfter (s.now % 65536)
    let at_ := fun (k : Nat) =>
      let f := s.now / 65536 + (i + k) / slotsPerFrame
      let n := (i + k) % slotsPerFrame
      ({ tick := 65536 * f + slotTick n, frame := f - s.pat.pshift, slot := n, port := 0 } : Place)
    ((List.range 4096).find? (fun k => (i + k) % 120 != 0 && ok (at_ k))).map at_
  else
    (s.slots.filter (fun q => q.out && q.peer == peer && want q)).foldl (s.sooner ok) none

/-- Slots of a port whose link has failed may be used: backup slots from the next superslot on (15 R329). -/
def State.backupOpen (s : State) (port : Nat) : Bool := s.pat.failed.contains port && !s.pat.backups.any (fun b => b.1 == port)

/-- A slot that serves a data flit (15 R323, R324): of its kind on a port whose link works, or a backup slot of a failed link. The flit
has no header, so a slot for a planned one is of its operation and place, and an open flit goes in none of an operation. -/
def State.serves (s : State) (f : HeldFlit) (q : Slot) : Bool :=
  let fits := if f.kind = .planned then q.op == f.op && q.place == f.place else q.op == .none
  match slotKind q with
  | .backup p => s.backupOpen p && fits
  | k => !s.pat.failed.contains q.port && k == f.kind && fits

/-- The CRC of a flit's 64 bytes (15 R327): one of an operation is its data. The bits of the others are internal to the part: free
(15 R324, assumption 16). -/
def State.flitCrc (s : State) (body : Payload) : Word :=
  match body with
  | .data bs => crc32c bs
  | _ => Config.freeWord s.free

/-- A data flit for another device takes its next slot (15 R322-R328), and is kept until it is acknowledged. While only control slots carry
traffic (R337), and where the pattern gives it no slot, it waits. -/
def State.sendData (s : State) (f : HeldFlit) : State :=
  match if s.pat.st = 1 then s.place f.peer true (s.serves f) else none with
  | none => { s with pat := { s.pat with held := s.pat.held ++ [f] } }
  | some p =>
    let fl : SentFlit := { ident := f.ident, frame := p.frame, slot := p.slot, port := p.port, crc := s.flitCrc f.body
                           atFrame := p.frame, atSlot := p.slot, tick := p.tick, copy := f }
    { s with free := s.free + 1, pat := { s.pat with acks := tset s.pat.acks f.peer ((tget s.pat.acks f.peer).getD [] ++ [fl]) } }

/-- The slot of a flit has begun, and the flit is to go out: none does while only control slots carry traffic (15 R337). -/
def State.flitBegins (s : State) (f : SentFlit) : Bool := s.pat.st == 1 && !f.gone && f.tick ≤ s.now

/-- Flits whose slots have begun (15 R322). -/
def State.flitsDue (s : State) : Bool := s.pat.acks.any (fun q => q.2.any s.flitBegins)

/-- They go out: for the first time, or again with the sequence number of the first sending (15 R328, R329). -/
def State.launchFlits (s : State) : State :=
  s.pat.acks.foldl (fun s q => (q.2.filter s.flitBegins).foldl (fun s f =>
      s.emit (if f.again = 0 then .flit q.1 f.atFrame f.atSlot f.port f.copy.poison f.copy.body
        else .resend q.1 f.frame f.slot f.port f.atFrame f.atSlot)) s)
    { s with pat := { s.pat with acks := s.pat.acks.map (fun q => (q.1, q.2.map (fun f => { f with gone := f.gone || s.flitBegins f }))) } }

/-- What an open flit holds of a list whose items take `data` bytes each: as many as fit its 64 bytes with what names them, as the layout
internal to the part has it (15 R322, R324, assumption 16). -/
def perFlit (data : Nat) : Nat := Nat.max 1 (Nat.min (Config.flitLanes data) (if data = 0 then 64 else 63 / data))
def flitGroups {α : Type} (data : Nat) (xs : List α) : List (List α) :=
  (List.range (ceilDiv xs.length (perFlit data))).map (fun i => (xs.drop (i * perFlit data)).take (perFlit data))

/-- Bytes with their place go in open slots, in as many flits as they need: `named` says what `bs` at an offset of them is. -/
def State.sendNamed (s : State) (f : HeldFlit) (bytes : List Byte) (named : Nat → List Byte → Payload) : State :=
  (mapFrom (fun i bs => (perFlit 1 * i, bs)) 0 (flitGroups 1 bytes)).foldl
    (fun s p => s.sendData { f with kind := .open_, body := named p.1 p.2 }) s

/-- A slot is planned for a piece of an operation to a device (15 R323, R324). -/
def State.plansPiece (s : State) (peer : Nat) (op : SlotOp) (place : Nat) : Bool :=
  s.slots.any (fun q => q.out && q.peer == peer && slotKind q == .planned && q.op == op && q.place == place)

/-- A piece of an operation: 64 bytes in the slot planned for it, or, where it is not planned, bytes with their place in open slots (15 R323,
R324, R333). -/
def State.sendPiece (s : State) (ident peer : Nat) (poison planned : Bool) (op : SlotOp) (place : Nat) (whole bytes : List Byte)
    (named : Nat → List Byte → Payload) : State :=
  let f : HeldFlit := { ident := ident, peer := peer, poison := poison, op := op, place := place }
  if peer = s.selfDev then s
  else if planned && s.plansPiece peer op place then s.sendData { f with kind := .planned, body := .data whole }
  else s.sendNamed f bytes named

/-- The next control slot of a port that no message has taken: slot 0 of a superslot, or another that the pattern makes one (15 R323). -/
def State.controlPlace (s : State) (port : Nat) : Place :=
  let free := fun (p : Place) => !s.pat.ctl.contains p
  let zero := fun (k : Nat) =>
    let t := 64 * (ceilDiv s.now 64 + k)
    ({ tick := t, frame := t / 65536 - s.pat.pshift, slot := 120 * (t % 65536 / 64), port := port } : Place)
  let z := (((List.range (s.pat.ctl.length + 1)).map zero).find? free).getD (zero 0)
  ((s.slots.filter (fun q => q.out && q.port == port && slotKind q == .control)).foldl (s.sooner free) (some z)).getD z

/-- A message goes out in the next control slot of a port (15 R323). -/
def State.sendControl (s : State) (port : Nat) (msg : Place → Emit) : State :=
  let p := s.controlPlace port
  ({ s with pat := { s.pat with ctl := s.pat.ctl.filter (fun q => decide (s.now ≤ q.tick)) ++ [p] } } : State).emit (msg p)

/-- The lowest port whose link works: a message for which the spec names no port goes out on it (assumption 15). -/
def State.anyPort (s : State) : Nat := ((List.range 12).find? (fun p => !s.pat.failed.contains p)).getD 0

/-- A leaf entry of the table at `tab` or below it maps a mirrored page with a byte of [a, a + n): MIR = 1 and TGT = 0, at a level and
an alignment that a walk takes (16 R360, 18 R406). A valid entry has its first byte listed. -/
def mirrorLeaf (hbm host : Ram) (a n : Nat) : List (Nat × Nat) → Bool → Nat → Bool
  | [], _, _ => false
  | (sh, cnt) :: rest, out, tab =>
    let m := if out then host else hbm
    m.cells.any (fun c => tab ≤ c.1 && c.1 < tab + 8 * cnt && (c.1 - tab) % 8 == 0 && (
      let e := m.nat c.1 8
      let frame := e / 2 ^ 12 % 2 ^ 36 * 2 ^ 12
      e % 2 == 1 && e / 16 % 16 == 0 && e / 2 ^ 48 == 0 && e / 2 ^ 8 % 4 != 3 &&
        (if e / 8 % 2 = 1 then sh != 39 && frame % 2 ^ sh == 0 && e / 2 ^ 8 % 4 == 2 && decide (frame < a + n) && decide (a < frame + 2 ^ sh)
        else mirrorLeaf hbm host a n rest (e / 2 ^ 8 % 2 == 1) frame)))

/-- Index shift and entries of each level of the tables (16 R360). -/
def walkLevels : List (Nat × Nat) := [(39, 512), (30, 512), (21, 512), (16, 32)]

/-- Some byte of the stretch lies in a mirrored page (18 R406): by a leaf entry of a partition's tables, or as the translations in use
have it (16 R362). -/
def State.mirroredAt (s : State) (a n : Nat) : Bool :=
  let seg := fun (q : Seg) => q.mir && q.phys < a + n && a < q.phys + q.len
  s.parts.any (fun q => q.tcache.any (fun e => e.mir && e.phys < a + n && a < e.phys + e.size))
    || s.grids.any (fun r => r.2.exts.any (fun e => e.segs.any seg))
    || s.streams.any (fun x => (x.2.segs ++ x.2.esegs).any seg)
    || s.parts.any (fun q => (q.st != .empty || q.ptbase != 0) && mirrorLeaf s.hbm s.host a n walkLevels false q.ptbase.toNat)

/-- The duplicate of a write to mirrored pages that stands here (18 R406, R407): of each granule, as it now stands, 64 bytes go in the slot
planned for its place in the partner page that the pattern assigns, or, where none is planned, the bytes written with their address (assumption
15); the partner copy takes the bytes, and its granules the mark of the data, which the POISON sideband carries. -/
def State.mirror (s : State) (ident a : Nat) (bs : List Byte) (bad : Bool) : State :=
  let n := bs.length
  let gs := granules a n
  let full := gs.filter (fun g => a ≤ 64 * g && 64 * g + 64 ≤ a + n)
  let pb := s.pat.partnerBad
  let s : State := { s with pat := { s.pat with
    partner := (mapFrom (fun i b => (a + i, b)) 0 bs).foldl (fun t b => tset t b.1 b.2) s.pat.partner
    partnerBad := if bad then gs.foldl insNat pb else pb.filter (fun g => !full.contains g) } }
  gs.foldl (fun s g =>
    let lo := Nat.max a (64 * g)
    match ((s.pat.cur.map (·.mirrors)).getD []).find? (fun m => m.page == lo / 65536) with
    | some m =>
      let at_ := 65536 * m.partner + lo % 65536
      let mark := if s.plansPiece m.device .mirror (at_ / 64 * 64) then s.hbm.poisoned (64 * g) 64 else bad
      s.sendPiece ident m.device mark true .mirror (at_ / 64 * 64) (s.hbm.read (64 * g) 64)
        ((bs.drop (lo - a)).take (Nat.min (64 * g + 64) (a + n) - lo)) (fun o b => .mirrorWrite (at_ + o) b)
    | none => s) s

/-- Duplicates of a writer are on their way: they wait for a slot, or for their partner's acknowledgement (15 R327, R328, 18 R407). -/
def State.mirOut (s : State) (ident : Nat) : Bool :=
  s.pat.held.any (fun f => f.op == .mirror && f.ident == ident)
    || s.pat.acks.any (fun q => q.2.any (fun f => f.copy.op == .mirror && f.copy.ident == ident))

/-- A duplicate with the bytes and the mark that now stand in this device's copy of its page. -/
def State.freshDup (s : State) (f : HeldFlit) : HeldFlit :=
  let page := fun (at_ : Nat) => ((s.pat.cur.map (·.mirrors)).getD []).find? (fun m => m.device == f.peer && m.partner == at_ / 65536)
  let now := fun (at_ n : Nat) (body : List Byte → Payload) => match page at_ with
    | some m => let a := 65536 * m.page + at_ % 65536; { f with body := body (s.hbm.read a n), poison := s.hbm.poisoned a n }
    | none => f
  match f.body with
  | .data bs => now f.place bs.length .data
  | .mirrorWrite at_ bs => now at_ bs.length (.mirrorWrite at_)
  | _ => f

end Sys2Proof.Machine
end

