-- ==== Sys2Proof/Machine/Mantle.lean ====
section
/-! DEFINITION. The matrix sum order (04 R94, R95), fragments (07 R151-R153), and the mantle: checksums, drains and
corrections (08 R166-R176). -/

namespace Sys2Proof

/-- An element under its block's scale (04 R85). -/
def FV.scale (x : FV) : Option Int → FV
  | none => .nan false
  | some k => match x with
    | .num s m e => .num s m (e + k)
    | y => y

def FV.abs : FV → FV
  | .num _ m e => .num false m e
  | .inf _ => .inf false
  | .nan s => .nan s

end Sys2Proof

namespace Sys2Proof.Machine

/-! Values and chunk sums -/

/-- An element of a matrix type as an exact value (04 R79, 07 R151). -/
def matVal (t : Ty) (bits : Nat) : FV :=
  if t = .s8 then
    let v := Ty.s8.val (BitVec.ofNat 64 bits)
    .num (v < 0) v.natAbs 0
  else t.fmt.decode bits

/-- round(s, rn, f32) of the exact sum of products, the chunk rules of 04 R94. -/
def prodSum (rm : Rm) (ps : List (FV × FV)) : Nat :=
  if ps.any (fun p => p.1.isNan || p.2.isNan || p.1.badProd p.2) then Fmt.f32.nanBits
  else
    let ts := ps.map (fun p => p.1.mul p.2)
    let pinf := ts.any (fun t => t.isInf && !t.sign)
    let ninf := ts.any (fun t => t.isInf && t.sign)
    if pinf && ninf then Fmt.f32.nanBits
    else if pinf || ninf then Fmt.f32.infBits ninf
    else
      let (n, e) := sumNums ts
      (Fmt.f32.roundTo (.mode rm) (n < 0) n.natAbs e).1

/-- The exact integer sum of s8 products (04 R95). -/
def intSum (ps : List (FV × FV)) : Int := (sumNums (ps.map (fun p => p.1.mul p.2))).1

def one : FV := .num false 1 0
/-- A rounded f32 sum of two f32 values (04 R94). A sum that is exactly zero takes its sign as 06 R125 gives it (assumption 72). -/
def addF (rm : Rm) (a b : Nat) : Nat := (Fmt.f32.sum rm [] [Fmt.f32.decode a, Fmt.f32.decode b]).1

/-- An accumulator word after one chunk (04 R94, R95). -/
def accWord (int : Bool) (w : Word) (ps : List (FV × FV)) : Word :=
  if int then w + BitVec.ofInt 32 (intSum ps) else BitVec.ofNat 32 (addF .rn w.toNat (prodSum .rn ps))

/-! A square of accumulator words with its mantle -/

/-- An n × n accumulator with hem, cuff and MAG (08 R166, R173). -/
structure Sheet where
  n : Nat
  words : List Word
  hem : List Word
  cuff : List Word
  int : Bool
  mag : Word
  deriving DecidableEq, Repr

def Sheet.row (t : Sheet) (i : Nat) : List Word := (t.words.drop (t.n * i)).take t.n
def Sheet.col (t : Sheet) (j : Nat) : List Word :=
  let a := t.words.toArray
  (List.range t.n).map (fun i => a.getD (t.n * i + j) 0)

/-- Words read as values of the sheet's kind. -/
def kindVal (int : Bool) (w : Word) : FV :=
  if int then .num w.msb w.toInt.natAbs 0 else Fmt.f32.decode w.toNat

/-- The sum of a line as a mantle word (08 R168). -/
def lineSum (int : Bool) (ws : List Word) : Word :=
  let ps := ws.map (fun w => (kindVal int w, one))
  if int then BitVec.ofInt 32 (intSum ps) else BitVec.ofNat 32 (prodSum .rn ps)

/-- The larger of two non-negative f32 magnitudes; a NaN stands. -/
def maxF (a b : Nat) : Nat :=
  if (Fmt.f32.decode a).isNan then a else if (Fmt.f32.decode b).isNan then b else if a < b then b else a

/-- The mantle seeded from the words under a kind (08 R168). -/
def Sheet.seed (t : Sheet) (int : Bool) : Sheet :=
  let rows := (List.range t.n).map t.row
  let cols := (List.range t.n).map t.col
  { t with
    int := int
    hem := cols.map (lineSum int)
    cuff := rows.map (lineSum int)
    mag := if int then t.mag else
      BitVec.ofNat 32 ((rows ++ cols).foldl (fun m ws =>
        maxF m (prodSum .ru (ws.map (fun w => ((kindVal false w).abs, one))))) 0) }

/-- Column k of a list of rows. -/
def columnOf (rows : List (List FV)) (k : Nat) : List FV := rows.map (fun r => r.getD k (.num false 0 0))

/-- The chunk's magnitude bound m of 08 R167, rounded up: the largest sum of |a × b| over a line. -/
def chunkMag (rows cols : List (List FV)) (kn : Nat) : Nat :=
  let all := (rows ++ cols).flatten
  let bad := (List.range kn).any (fun k =>
    let ra := columnOf rows k
    let cb := columnOf cols k
    (ra.any FV.isZero && cb.any FV.isInf) || (ra.any FV.isInf && cb.any FV.isZero))
  if all.any FV.isNan || bad then Fmt.f32.nanBits
  else if all.any FV.isInf then Fmt.f32.infBits false
  else
    let exact := fun (l : List FV) => (let (n, e) := sumNums (l.map FV.abs); (FV.num false n.natAbs e : FV))
    let sa := (List.range kn).map (fun k => exact (columnOf rows k))
    let sb := (List.range kn).map (fun k => exact (columnOf cols k))
    let line := fun (sums : List FV) (l : List FV) => prodSum .ru (sums.zip (l.map FV.abs))
    (cols.map (line sa) ++ rows.map (line sb)).foldl maxF 0

/-- Words of a window of the sheet changed: rows from r0, columns from c0, `ps i j` the products of an element. -/
def Sheet.update (t : Sheet) (r0 c0 nr nc : Nat) (ps : Nat → Nat → List (FV × FV)) : List Word :=
  mapFrom (fun idx w =>
    let i := idx / t.n
    let j := idx % t.n
    if r0 ≤ i && i < r0 + nr && c0 ≤ j && j < c0 + nc then accWord t.int w (ps (i - r0) (j - c0)) else w) 0 t.words

/-- One chunk accumulated into words and mantle (04 R94, R95, 08 R167): `rows` are the chunk's rows of A from row r0,
`cols` the columns of B from column c0. -/
def Sheet.chunk (t : Sheet) (r0 c0 : Nat) (rows cols : List (List FV)) : Sheet :=
  let ra := rows.toArray
  let ca := cols.toArray
  let kn := (rows.headD []).length
  let words := t.update r0 c0 rows.length cols.length (fun i j => (ra.getD i []).zip (ca.getD j []))
  let total := fun (l : List FV) =>
    let ps := l.map (fun v => (v, one))
    if t.int then (let v := intSum ps; FV.num (v < 0) v.natAbs 0) else Fmt.f32.decode (prodSum .rn ps)
  let alpha := (List.range kn).map (fun k => total (columnOf rows k))
  let beta := (List.range kn).map (fun k => total (columnOf cols k))
  let line := fun (w : Word) (ps : List (FV × FV)) => accWord t.int w ps
  { t with
    words := words
    hem := mapFrom (fun j w => if c0 ≤ j && j < c0 + cols.length then line w (alpha.zip (ca.getD (j - c0) [])) else w) 0 t.hem
    cuff := mapFrom (fun i w => if r0 ≤ i && i < r0 + rows.length then line w ((ra.getD (i - r0) []).zip beta) else w) 0 t.cuff
    mag := if t.int then t.mag else BitVec.ofNat 32 (addF .ru t.mag.toNat (chunkMag rows cols kn)) }

/-- The chunks of 16 of rows and columns of depth `k`, in ascending K. -/
def Sheet.chunks (t : Sheet) (r0 c0 : Nat) (rows cols : List (List FV)) (k : Nat) : Sheet :=
  (List.range ((k + 15) / 16)).foldl (fun t c =>
    t.chunk r0 c0 (rows.map (fun r => (r.drop (16 * c)).take 16)) (cols.map (fun r => (r.drop (16 * c)).take 16))) t

/-! Drains -/

/-- A drain's outcome: STAT, failing columns and rows, and the located error (08 R170). -/
structure Drain where
  stat : Nat
  ncol : Nat := 0
  nrow : Nat := 0
  row : Nat := 0
  col : Nat := 0
  dm : Int := 0
  de : Int := 0
  deriving DecidableEq, Repr

/-- Whether |d| stays within the tolerance register's bound for a FLOAT line, both exact multiples of 2^−1200
(08 R169, R174). -/
def within (tol : Word) (mag : Nat) (d : Int) : Bool :=
  let abse := tol.toNat % 2 ^ 8
  let relb := tol.toNat / 2 ^ 8 % 2 ^ 6
  abse == 255 || d.natAbs ≤ (if abse = 0 then 0 else 2 ^ (1200 + abse - 127)) ||
    d.natAbs ≤ (Fmt.f32.decode mag).scaled.natAbs / 2 ^ relb

/-- A drain (08 R169, R170). -/
def Sheet.drain (t : Sheet) (tol : Word) (poison : Bool) : Drain :=
  let bad := fun (w : Word) => let v := Fmt.f32.decode w.toNat; v.isNan || v.isInf
  if poison then { stat := 3 }
  else if !t.int && (t.words.any bad || t.hem.any bad || t.cuff.any bad || bad t.mag) then { stat := 4 }
  else
    let val := fun (w : Word) => if t.int then w.toInt else (Fmt.f32.decode w.toNat).scaled
    let diff := fun (line : List Word) (m : Word) => line.foldl (fun n w => n + val w) 0 - val m
    let ok := fun (d : Int) => if t.int then d % 2 ^ 32 == 0 else within tol t.mag.toNat d
    let dc := mapFrom (fun j m => diff (t.col j) m) 0 t.hem
    let dr := mapFrom (fun i m => diff (t.row i) m) 0 t.cuff
    let fc := (List.range t.n).filter (fun j => !ok (dc.getD j 0))
    let fr := (List.range t.n).filter (fun i => !ok (dr.getD i 0))
    match fc, fr with
    | [], [] => { stat := 0 }
    | [c], [r] => { stat := 1, ncol := 1, nrow := 1, row := r, col := c, dm := dc.getD c 0, de := if t.int then 0 else -1200 }
    | _, _ => { stat := 2, ncol := fc.length, nrow := fr.length }

/-! Tiles -/

def Tile.sheet (t : Tile) : Sheet := { n := 64, words := t.words, hem := t.hem, cuff := t.cuff, int := t.int, mag := t.mag }
def Tile.ofSheet (t : Tile) (x : Sheet) : Tile := { t with words := x.words, hem := x.hem, cuff := x.cuff, int := x.int, mag := x.mag }

/-- The tile status word (08 R172). -/
def Tile.status (t : Tile) (num : Nat) : Word :=
  BitVec.ofNat 4 t.stat ++ BitVec.ofNat 3 num ++ BitVec.ofNat 2 t.retries ++ 0#1 ++ BitVec.ofNat 7 t.ncol ++ BitVec.ofNat 7 t.nrow ++ 0#8

/-- The tile becomes OPEN: no outcome yet (07 R145, 08 R172). NCOL and NROW of its status are 0: 08 R172 gives them for the outcomes of
drains only (DESIGN CHOICE, assumption 85). -/
def Tile.open' (t : Tile) : Tile := { t with st := .open_, stat := 5, ncol := 0, nrow := 0, row := 0, col := 0, dm := 0, de := 0 }

/-- The tile cleared with its mantle state reset, its retry record kept (07 R156, R160, 08 R166, R178, R180). -/
def Tile.clear (t : Tile) : Tile := { retry := t.retry }

/-- The tile after its kind is made that of a command (08 R168). -/
def Tile.asKind (t : Tile) (int : Bool) : Tile := if t.int = int then t else t.ofSheet (t.sheet.seed int)

/-- Products accumulated into the tile by a command of type `ty`. An `mloop` with NK = 0 has none, and leaves the tolerance type of the
tile as it was: 08 R169 does not say whether it counts as an accumulating command (DESIGN CHOICE, assumption 34). -/
def Tile.accumulate (t : Tile) (ty : Ty) (r0 c0 : Nat) (rows cols : List (List FV)) (k : Nat) : Tile :=
  let t := t.asKind (ty == .s8)
  { t.ofSheet (t.sheet.chunks r0 c0 rows cols k) with tolTy := if ty = .s8 then t.tolTy else ty }

/-- A drain of an OPEN tile; other tiles keep their outcome (07 R145, R156). -/
def Tile.drainWith (t : Tile) (tol : Word) : Tile :=
  let d := t.sheet.drain tol t.poison
  { t with st := .drained, stat := d.stat, ncol := d.ncol, nrow := d.nrow, row := d.row, col := d.col, dm := d.dm, de := d.de }

/-- `mfix` of a LOCATED tile (08 R176). Where the element less DELTA is exactly zero the word is +0: neither 04 R87 nor R176 gives the sign
of that zero (DESIGN CHOICE, assumption 94). -/
def Tile.fix (t : Tile) (tol : Word) : Tile :=
  if t.stat = 1 then
    let idx := 64 * t.row + t.col
    let w := t.words.getD idx 0
    let w' := if t.int then w - BitVec.ofInt 32 t.dm
      else BitVec.ofNat 32 (Fmt.f32.sum .rn [] [Fmt.f32.decode w.toNat, .num (0 < t.dm) t.dm.natAbs t.de]).1
    let t' := { t with words := lmod t.words idx (fun _ => w') }.drainWith tol
    if t'.stat = 0 then { t' with stat := 7 } else t'
  else t

/-- The words that `mloc` writes (08 R176). -/
def Tile.location (t : Tile) (num : Nat) : List Word :=
  let h : BitVec 7 := BitVec.ofNat 4 t.stat ++ BitVec.ofNat 3 num
  if t.stat = 1 then
    [h ++ 0#13 ++ BitVec.ofNat 6 t.row ++ BitVec.ofNat 6 t.col,
     if t.int then BitVec.ofInt 32 t.dm else BitVec.ofNat 32 (Fmt.f32.roundTo (.mode .rn) (t.dm < 0) t.dm.natAbs t.de).1]
  else [h ++ 0#25, 0]

/-! Fragments (07 R150-R155) -/

/-- Element κ of a lane's registers in containers of `c` bits. -/
def container (regs : List Word) (c κ : Nat) : Nat :=
  (regs.getD (κ / (32 / c)) 0).toNat / 2 ^ (c * (κ % (32 / c))) % 2 ^ c

/-- Row or column `i` of an `mma` source from the lanes' registers (07 R152, R153): `lo` is the byte of SCR that holds
block 0's scale. -/
def fragLine (t : Ty) (m64 : Bool) (regs : List (List Word)) (scr : Option (List Word)) (lo i : Nat) : List FV :=
  let kk := mmaK t
  let lane := fun k => if m64 then i else i + 32 * (k / (kk / 2))
  let κ := fun k => if m64 then k else k % (kk / 2)
  (List.range kk).map (fun k =>
    let v := matVal t (container (regs.getD (lane k) []) (mmaC t) (κ k))
    match scr with
    | none => v
    | some ws =>
      let b := k / 32
      FV.scale v (e8m0 ((ws.getD (lane (32 * b)) 0).toNat / 2 ^ (8 * (lo + b)) % 256)))

/-- Element (i, j) of a C or D fragment of `mma`: lane and register (07 R152). -/
def accPlace (m64 : Bool) (i j : Nat) : Nat × Nat := if m64 then (i, j) else (i + 32 * (j / 16), j % 16)

/-- The accumulator of an `mma` with its fragment mantle (07 R154, 08 R173). -/
def mmaSheet (t : Ty) (m64 zero : Bool) (a b cc : List (List Word)) (scr : Option (List Word)) : Sheet :=
  let n := if m64 then 64 else 32
  let ca := cc.toArray
  let words := (List.range (n * n)).map (fun idx =>
    if zero then 0 else (let (l, r) := accPlace m64 (idx / n) (idx % n); (ca.getD l []).getD r 0))
  let s0 : Sheet := { n := n, words := words, hem := List.replicate n 0, cuff := List.replicate n 0, int := t == .s8, mag := 0 }
  let s1 := if zero then s0 else s0.seed (t == .s8)
  s1.chunks 0 0 ((List.range n).map (fragLine t m64 a scr 0)) ((List.range n).map (fragLine t m64 b scr 2)) (mmaK t)

/-- Registers of a lane's D fragment. -/
def mmaOut (t : Sheet) (m64 : Bool) (lane : Nat) : List Word :=
  if m64 then t.row lane else ((t.row (lane % 32)).drop (16 * (lane / 32))).take 16

/-- Row or column 4q + r of product P of an `mmab` (07 R155). -/
def blockLine (t : Ty) (regs : List (List Word)) (scr : Option (List Word)) (p i : Nat) : List FV :=
  let lane := 4 * p + i / 4
  let ws := ((regs.getD lane []).drop (8 * (i % 4))).take 8
  (List.range (mmaK t)).map (fun k =>
    let v := matVal t (container ws (mmaC t) k)
    match scr with
    | none => v
    | some sc => FV.scale v (e8m0 ((sc.getD lane 0).toNat / 2 ^ (8 * (i % 4)) % 256)))

/-- The sixteen products of an `mmab` (07 R155), in ascending P, each with all its chunks before the next: the order in which they
enter the hem, the cuff and MAG that they share (assumption 72). -/
def Tile.mmab (t : Tile) (ty : Ty) (a b : List (List Word)) (scr : Option (List (List Word))) : Tile :=
  let sa := scr.map (fun l => l.map (fun ws => ws.getD 0 0))
  let sb := scr.map (fun l => l.map (fun ws => ws.getD 1 0))
  ((List.range 16).foldl (fun t p => t.accumulate ty (16 * (p / 4)) (16 * (p % 4))
    ((List.range 16).map (blockLine ty a sa p)) ((List.range 16).map (blockLine ty b sb p)) (mmaK ty)) t).open'

/-! K-step data of `mloop` (07 R159) -/

/-- Bytes of one packed row, and of a whole step's data of one source. -/
def rowBytes (t : Ty) : Nat := if t = .e3m2 then 48 else 32
def stepBytes (t : Ty) (sc : Bool) : Nat := 64 * rowBytes t + if sc then 64 * (mmaK t / 32) else 0

/-- The 64 rows of a step's data, scaled. -/
def stepRows (t : Ty) (sc : Bool) (bs : List Byte) : List (List FV) :=
  let nb := mmaK t / 32
  let arr := bs.toArray
  let slice := fun (a n : Nat) => (List.range n).map (fun i => arr.getD (a + i) 0)
  (List.range 64).map (fun i =>
    let row := leNat (slice (rowBytes t * i) (rowBytes t))
    (List.range (mmaK t)).map (fun k =>
      let v := matVal t (row / 2 ^ (t.bits * k) % 2 ^ t.bits)
      if sc then FV.scale v (e8m0 (arr.getD (64 * rowBytes t + nb * i + k / 32) 0).toNat) else v))

end Sys2Proof.Machine
end

