-- ==== Sys2Proof/Machine/Matrix.lean ====
section
/-! DEFINITION. The matrix engine: its commands at acceptance (07 R146-R162, 08 R175-R177), and its own steps: the start
of a command, the K-steps of `mloop`, the end of a command (07 R160-R164, 08 R178). -/

namespace Sys2Proof.Machine

open Host (Outcome)

/-! Acceptance -/

/-- Fill latency F of a scratch address (07 R147). -/
def fillOf (die : Bool) (adr : Nat) : Nat := if !die then 2 else if adr / 2 ^ 28 % 2 = 1 then 12 else 6

/-- The end of a command and the states of the tiles after it, given the end of the command before (07 R145-R147, 08 R176,
16 R377). -/
def ECmd.predict (p : Nat × List TileSt) (c : ECmd) : Nat × List TileSt :=
  let st := c.start.getD (Nat.max (c.issue + 1) p.1)
  let setT := fun (n : Nat) (f : TileSt → TileSt) => lmod p.2 n f
  let drained := fun (t : TileSt) => if t = .open_ then .drained else t
  match c.kind with
  | .mmab _ n _ _ _ _ | .maccLd n _ _ => (st + c.occ, setT n (fun _ => .open_))
  | .acc _ n _ _ => (st + c.occ, setT n (fun t => if t = .drained then .open_ else t))
  | .mzero n => (st + c.occ, setT n (fun _ => .empty))
  | .mdrain n => (st + c.occ, setT n drained)
  | .mloop m _ => (st + c.occ, setT m.tile (fun _ => .drained))
  | .maccSt n _ _ => (st + c.occ + (if c.start.isNone && p.2.getD n .empty == .open_ then 2 else 0), setT n drained)
  | .mma .. | .mchk .. | .mloc .. | .mfix .. | .mtol .. => (st + c.occ, p.2)

/-- The turn at which a command issued now would start (07 R146). For one issued between the engine's stop and its group's own stop point
S cannot be known before the engine goes on, and 07 R160 gives D of an `mloop` no value there: the head counts as one that has done all its steps (`p0` =
STEPS) with no stop in force (DESIGN CHOICE, assumption 83). -/
def Core.nextStart (k : Core) (turn : Nat) : Nat :=
  Nat.max (turn + 1) (k.eq.foldl ECmd.predict (k.eEnd, k.tiles.map (·.st))).1

/-- An engine command passes to its own checks unless four are outstanding (07 R148). -/
def engineWord (x : Ctx) (s : State) (go : State → State) : State :=
  if x.sel = 0 then s
  else if 4 ≤ (s.core x.g.core).eq.length then s.parkEach x 5 3 (fun _ => 0)
  else go s

/-- A command joins the engine's queue, as a batch member when `busy` is given (07 R146, R157). -/
def State.accept (s : State) (x : Ctx) (k : EKind) (occ : Nat) (d : Opnd := .spec 0) (fa : Nat := 0) (fb : Nat := 0)
    (busy : Option (List Busy) := none) (cls : Bool := false) : State :=
  let (id, s) := s.fresh
  let c : ECmd := { ident := id, gid := x.gid, kind := k, sel := x.sel, dst := d, seq := x.seq, pc := x.pc,
                    issue := s.turn, tick := x.tick, occ := occ, fill := Nat.max fa fb, fa := fa, fb := fb, member := busy.map (fun _ => id) }
  let s := s.modCore x.g.core (fun q => { q with eq := q.eq ++ [c] })
  match busy with
  | none => s
  | some b => s.modGroup x.gid (fun g => (fun (g : Group) => if cls then g.close else g) (g.join id b))

/-- A result register of a command that has not started; its turn is known when the command starts. -/
def State.later (s : State) (x : Ctx) (d : Opnd) (n : Nat) : State := s.reserve x (2 ^ 60) d n .mat

/-- Registers of all 64 lanes: retired lanes as they stand, quenched lanes 0 (07 R150). -/
def Ctx.capture (x : Ctx) (n : Nat) (o : Opnd) : List (List Word) :=
  x.g.lanes.map (fun l => match o with
    | .v i => if l.life == .quenched then List.replicate n 0 else l.regs n i.toNat
    | _ => List.replicate n 0)

/-- A tile of a core changed. -/
def State.modTile (s : State) (k n : Nat) (f : Tile → Tile) : State :=
  s.modCore k (fun c => { c with tiles := lmod c.tiles n f })
def State.tile (s : State) (k n : Nat) : Tile := (s.core k).tiles.getD n {}

/-- `mma` (07 R154). -/
def execMma (c : Ctl) (t : Ty) (m64 : Bool) (scr : Option (BitVec 8)) (d a b cc : Opnd) (s : State) :
    Outcome State Fault Refusal :=
  withIssue (.mma c t m64 scr d a b cc) s (fun x s => engineWord x s (fun s =>
    let n := mmaRegs t m64
    let zero := cc == .spec 128
    let sc := match scr with
      | some r => (x.capture 1 (.v r)).map (fun ws => ws.getD 0 0)
      | none => []
    (s.accept x (.mma t m64 scr.isSome zero (x.capture n a) (x.capture n b)
      (if zero then [] else x.capture (mmaAccRegs m64) cc) sc) 1 d).later x d (mmaAccRegs m64)))

/-- `mmab` (07 R155). -/
def execMmab (c : Ctl) (t : Ty) (tile : BitVec 3) (scr : Option (BitVec 8)) (a b : Opnd) (s : State) :
    Outcome State Fault Refusal :=
  withIssue (.mmab c t tile scr a b) s (fun x s => engineWord x s (fun s =>
    let sc := match scr with
      | some r => x.capture 2 (.v r)
      | none => []
    (s.accept x (.mmab t tile.toNat scr.isSome (x.capture 32 a) (x.capture 32 b) sc) 1).modTile x.g.core tile.toNat
      (fun t => { t with retry := none })))

/-- Turns that an `mloop` occupies the engine from step p0 (07 R147, R164). -/
def MLoop.occ (m : MLoop) (fill p0 : Nat) : Nat := if m.nk = 0 then 4 else fill + (m.nk - p0) + 2
/-- The fill of an operand's space, by the die of its base address for every step, also of a ring whose later steps lie on the other die:
07 R147 gives each space one fill and is silent on that (DESIGN CHOICE, assumption 34). -/
def MLoop.fa (m : MLoop) : Nat := if m.nk = 0 then 0 else fillOf m.adie m.abase
def MLoop.fb (m : MLoop) : Nat := if m.nk = 0 then 0 else fillOf m.bdie m.bbase

/-- The record of 07 R162 as an `mloop` is accepted. -/
def loopRecord (tile steps : Nat) : Word := 1#4 ++ 0#1 ++ BitVec.ofNat 3 tile ++ 0#8 ++ BitVec.ofNat 16 steps

/-- The records of the `mloop` that is member `id` show it done from turn S + O on (07 R160, R162). -/
def Group.recordDone (g : Group) (id : Nat) : Group :=
  { g with prog := if g.progSrc = some id then g.prog ||| 0x08000000#32 else g.prog
           mrec := if g.mrecSrc = some id then g.mrec ||| 0x08000000#32 else g.mrec }

/-- An `mloop` accepted, by itself or by `mretry` (07 R158, R160, 08 R177). -/
def State.acceptLoop (s : State) (x : Ctx) (m : MLoop) (retry cls : Bool) : State :=
  if x.g.memberLimit then s.parkEach x 5 3 (fun _ => 0)
  else
    let id := s.ident
    let s := s.accept x (.mloop m retry) (m.occ (Nat.max m.fa m.fb) 0) (.spec 0) m.fa m.fb (some []) cls
    let s := s.modGroup x.gid (fun g =>
      { g with prog := loopRecord m.tile 0, progSrc := some id, progN := m.nk, mrec := loopRecord m.tile 0, mrecSrc := some id
               mrecN := m.nk })
    if retry then s else s.modTile x.g.core m.tile (fun t => { t with retry := if m.acc then none else some m })

/-- `mloop` (07 R158-R160): D receives the turns from the issue to the command's end. -/
def execMloop (c : Ctl) (t : Ty) (tile : BitVec 3) (sc acc adie bdie cls : Bool) (d a b cc : Opnd) (s : State) :
    Outcome State Fault Refusal :=
  withIssue (.mloop c t tile sc acc adie bdie cls d a b cc) s (fun x s => engineWord x s (fun s =>
    let base := x.src s 2 x.low a
    let inc := x.low32 s b
    let cnt := x.low32 s cc
    let m : MLoop := { tile := tile.toNat, t := t, sc := sc, acc := acc, adie := adie, bdie := bdie,
                       abase := (base.extractLsb' 0 32).toNat, bbase := (base.extractLsb' 32 32).toNat,
                       ainc := (inc.extractLsb' 0 16).toInt, binc := (inc.extractLsb' 16 16).toInt,
                       nk := (cnt.extractLsb' 0 16).toNat, rl := (cnt.extractLsb' 16 16).toNat }
    let dv := (s.core x.g.core).nextStart s.turn + m.occ (Nat.max m.fa m.fb) 0 - s.turn
    if x.g.memberLimit then s.parkEach x 5 3 (fun _ => 0)
    else (s.acceptLoop x m false cls).result x 1 d (x.each 1 (fun _ => (dv, 0))) .mat))

/-- `mzero` (07 R156). -/
def execMzero (c : Ctl) (tile : BitVec 3) (s : State) : Outcome State Fault Refusal :=
  withIssue (.mzero c tile) s (fun x s => engineWord x s (fun s =>
    (s.accept x (.mzero tile.toNat) 1).modTile x.g.core tile.toNat (fun t => { t with retry := none })))

/-- The address of `macc.ld` and `macc.st`: the lowest lane's, bits [5:0] as 0 (07 R156). -/
def Ctx.maccAdr (s : State) (x : Ctx) (a : Opnd) : Nat := (x.low32 s a).toNat / 64 * 64

/-- `macc.ld` (07 R156, R157). -/
def execMaccLd (c : Ctl) (tile : BitVec 3) (die cls : Bool) (a : Opnd) (s : State) : Outcome State Fault Refusal :=
  withIssue (.maccLd c tile die cls a) s (fun x s => engineWord x s (fun s =>
    let adr := x.maccAdr s a
    match s.locate x.g die adr 16384 with
    | none => s.violate x 2 (BitVec.ofNat 64 adr)
    | some (sp, o) =>
      if s.busy sp o 16384 false then s.parkEach x 6 0 (fun _ => BitVec.ofNat 32 adr)
      else if x.g.memberLimit then s.parkEach x 5 3 (fun _ => 0)
      else (s.accept x (.maccLd tile.toNat sp o) (fillOf die adr + 4) (.spec 0) 0 0 (some []) cls).modTile x.g.core tile.toNat
        (fun t => { t with retry := none })))

/-- `macc.st` (07 R156, R157): its destination is busy until its batch completes. -/
def execMaccSt (c : Ctl) (tile : BitVec 3) (die cls : Bool) (a : Opnd) (s : State) : Outcome State Fault Refusal :=
  withIssue (.maccSt c tile die cls a) s (fun x s => engineWord x s (fun s =>
    let adr := x.maccAdr s a
    match s.locate x.g die adr 16384 with
    | none => s.violate x 2 (BitVec.ofNat 64 adr)
    | some (sp, o) =>
      if die && !(s.grid x.g.grid).mayWrite (s.block x.g.block).blockId true 0 o 16384 then s.violate x 3 (BitVec.ofNat 64 adr)
      else if s.busy sp o 16384 true then s.parkEach x 6 0 (fun _ => BitVec.ofNat 32 adr)
      else if x.g.memberLimit then s.parkEach x 5 3 (fun _ => 0)
      else s.accept x (.maccSt tile.toNat sp o) (fillOf die adr + 4) (.spec 0) 0 0
        (some [{ space := sp, adr := o, len := 16384, all := true }]) cls))

/-- `mdrain` (07 R156). -/
def execMdrain (c : Ctl) (tile : BitVec 3) (d : Opnd) (s : State) : Outcome State Fault Refusal :=
  withIssue (.mdrain c tile d) s (fun x s => engineWord x s (fun s => (s.accept x (.mdrain tile.toNat) 2 d).later x d 1))

/-- `mchk` (08 R175, R176). -/
def execMchk (c : Ctl) (tile : BitVec 3) (frag : Bool) (d : Opnd) (s : State) : Outcome State Fault Refusal :=
  withIssue (.mchk c tile frag d) s (fun x s => engineWord x s (fun s => (s.accept x (.mchk tile.toNat frag) 1 d).later x d 1))

/-- `mloc` (08 R175, R176). -/
def execMloc (c : Ctl) (tile : BitVec 3) (d : Opnd) (s : State) : Outcome State Fault Refusal :=
  withIssue (.mloc c tile d) s (fun x s => engineWord x s (fun s => (s.accept x (.mloc tile.toNat) 1 d).later x d 2))

/-- `mfix` (08 R175, R176). -/
def execMfix (c : Ctl) (tile : BitVec 3) (d : Opnd) (s : State) : Outcome State Fault Refusal :=
  withIssue (.mfix c tile d) s (fun x s => engineWord x s (fun s => (s.accept x (.mfix tile.toNat) 3 d).later x d 1))

/-- A group's MANTLE event enters the partition's count SCMANT (18 R413). -/
def Part.countMantle (p : Part) : Part := { p with scmant := if p.scmant = 0xFFFFFFFF#32 then p.scmant else p.scmant + 1 }

/-- `mretry` (08 R177): accepted as the `mloop` of the tile's retry record. Of a tile with an empty record by a group with 32 batch members
the trap is NORECORD: 07 R148 and 08 R177 order only the check of four outstanding commands (DESIGN CHOICE, assumption 84). -/
def execMretry (c : Ctl) (tile : BitVec 3) (cls : Bool) (s : State) : Outcome State Fault Refusal :=
  withIssue (.mretry c tile cls) s (fun x s => engineWord x s (fun s =>
    let t := s.tile x.g.core tile.toNat
    match t.retry with
    | none => (s.parkEach x 9 2 (fun _ => t.status tile.toNat)).modPart x.g.pid Part.countMantle
    | some m => s.acceptLoop x m true cls))

/-- `mprog` (07 R162): the record as it stood at the start of the turn. -/
def execMprog (c : Ctl) (d : Opnd) (s : State) : Outcome State Fault Refusal :=
  withIssue (.mprog c d) s (fun x s => s.put x 1 d 1 (fun _ => x.g.mrec.toNat))

/-- `mtol` (08 R176). -/
def execMtol (c : Ctl) (t : Ty) (a : Opnd) (s : State) : Outcome State Fault Refusal :=
  withIssue (.mtol c t a) s (fun x s => engineWord x s (fun s => s.accept x (.mtol t (x.low32 s a)) 1))

/-! The engine's own steps -/

/-- The command at the head of a core's queue changed. -/
def State.modHead (s : State) (k : Nat) (f : ECmd → ECmd) : State := s.modCore k (fun q => { q with eq := lmod q.eq 0 f })

/-- The result of a command lands at a turn, in the lanes it was issued for. -/
def State.engineResult (s : State) (c : ECmd) (due : Nat) (f : Nat → List Word) : State :=
  (s.fillRes c.gid c.seq ((lanesOf c.sel).map (fun l => { lane := l, ws := f l }))).dueRes c.gid c.seq due

/-- A drain's outcome that counts as a mantle event (18 R413). -/
def drainCounts (stat : Nat) : Bool := stat == 1 || stat == 2 || stat == 4

/-- A drain's outcome counts as a mantle event when it finds an error or a non-finite value (18 R413). -/
def State.countDrain (s : State) (pid stat : Nat) : State :=
  if drainCounts stat then s.modPart pid Part.countMantle else s

/-- A tile drained with the tolerance of its type at this turn (08 R169). -/
def State.drainTile (s : State) (pid k n : Nat) : State :=
  let t := s.tile k n
  let t' := t.drainWith ((s.part pid).tolOf t.tolTy)
  (s.modTile k n (fun _ => t')).countDrain pid t'.stat

/-- The effect of a command at its start S, where what 07 and 08 place before the results' landing happens too: the drain of an
`mma` with its tolerance and fragment status, and the correction of an `mfix` (assumption 34). An `mretry` raises RETRY here, where 08 R177
says no more than that it does (DESIGN CHOICE, assumption 94; 07 R147, R154-R157, R160, 08 R173, R176, R178, R180, 16 R377). -/
def State.startCommand (s : State) (k : Nat) (c : ECmd) : State :=
  let pid := (s.group c.gid).pid
  let t0 := s.turn
  match c.kind with
  | .mma t m64 sc zero a b cc scr =>
    let sh := mmaSheet t m64 zero a b cc (if sc then some scr else none)
    let d := sh.drain ((s.part pid).tolOf t) false
    let st : Word := BitVec.ofNat 4 d.stat ++ 0#5 ++ 1#1 ++ BitVec.ofNat 7 d.ncol ++ BitVec.ofNat 7 d.nrow ++ 0#8
    ((s.modGroup c.gid (fun g => { g with frag := st })).countDrain pid d.stat).engineResult c
      (t0 + if m64 then 5 else 4) (mmaOut sh m64)
  | .mmab t n sc a b scr => s.modTile k n (fun x => x.mmab t a b (if sc then some scr else none))
  | .mzero n => s.modTile k n (fun t => { t.clear with retry := t.retry })
  | .maccLd n sp a =>
    let r := s.ram sp
    let ws := toWords 4096 (r.nat a 16384)
    let bad := r.poisoned a 16384
    s.modTile k n (fun t => ({ t with words := ws, poison := bad, retries := 0, tolTy := .bf16 } : Tile).open' |>.ofSheet
      ({ t.sheet with words := ws }.seed t.int))
  | .maccSt n _ _ => if (s.tile k n).st == .open_ then s.drainTile pid k n else s
  | .mdrain n =>
    let s := if (s.tile k n).st == .open_ then s.drainTile pid k n else s
    s.engineResult c (t0 + 3) (fun _ => [(s.tile k n).status n])
  | .mchk n frag => s.engineResult c (t0 + 1) (fun _ => [if frag then (s.group c.gid).frag else (s.tile k n).status n])
  | .mloc n => s.engineResult c (t0 + 1) (fun _ => (s.tile k n).location n)
  | .mfix n =>
    let t := s.tile k n
    let t' := t.fix ((s.part pid).tolOf t.tolTy)
    let s := (s.modTile k n (fun _ => t')).countDrain pid (if t.stat = 1 then t'.stat else 0)
    s.engineResult c (t0 + 3) (fun _ => [t'.status n])
  | .mloop m retry =>
    if c.drained then s
    else s.modTile k m.tile (fun t =>
      let t' := if m.acc then t else { t.clear with retries := if retry then Nat.min 3 (t.retries + 1) else 0 }
      (t'.asKind (m.t == .s8)).open')
  | .mtol t v => s.modPart pid (fun p => { p with pend := p.pend ++ [
      { due := t0 + 8, tick := c.tick, core := k, quarter := (s.group c.gid).quarter, write := .tol t (v &&& 0x3FFF#32) }] })
  | .acc bit n row col => s.modTile k n (fun t =>
      let t := { t with words := lmod t.words (64 * row + col) (fun w => w ^^^ (1#32 <<< bit)) }
      if t.st == .drained then t.open' else t)

/-- Turns a command occupies the engine from its start, known then (07 R147). -/
def State.occOf (s : State) (k : Nat) (c : ECmd) : Nat :=
  match c.kind with
  | .maccSt n _ _ => if (s.tile k n).st == .open_ then c.occ + 2 else c.occ
  | _ => c.occ

/-- What is kept of an `mdrain` that starts, until its D lands. -/
def State.drainRun (s : State) (k : Nat) (c : ECmd) : Option DrainRun :=
  match c.kind with
  | .mdrain n => let t := s.tile k n
                 some { cmd := c, start := s.turn, n := n, tile := t
                        counted := t.st == .open_ && drainCounts (t.drainWith ((s.part (s.group c.gid).pid).tolOf t.tolTy)).stat }
  | _ => none

/-- A halt in the turns from S of an `mdrain` to the one before D lands, no later command having started: that the command goes on to its
end (07 R163) and that the tile is saved OPEN and drained after resumption (20 R423) are both outcomes of the spec, and which comes is free
(assumption 34). -/
def State.stopDrain (s : State) (k : Nat) : State :=
  match (s.core k).drain with
  | none => s
  | some r =>
    let (b, s) := s.drawNat 2
    let s := s.modCore k (fun q => { q with drain := none })
    if b = 0 then s
    else
      let s := s.modCore k (fun q => { q with
        eq := { r.cmd with issue := s.turn } :: q.eq.filter (fun c => c.ident != r.cmd.ident)
        tiles := lmod q.tiles r.n (fun _ => r.tile) })
      let s := s.dueRes r.cmd.gid r.cmd.seq (2 ^ 60)
      if r.counted then s.modPart (s.group r.cmd.gid).pid (fun p => { p with scmant := if p.scmant = 0 then 0 else p.scmant - 1 }) else s

/-- ENGINE_COMMAND_START (07 R146): the oldest command starts. An `mloop` that restarts after a stop does not clear
its tile again (07 R164). -/
def execEngineCommandStart (k : Nat) (s : State) : Outcome State Fault Refusal :=
  match (s.core k).eq with
  | [] => .fault .noObject
  | c :: _ =>
    if c.start.isSome then .next s
    else
      let occ := s.occOf k c
      let s' := (s.startCommand k c).modHead k (fun c =>
        { c with start := some s.turn, occ := occ, drained := match c.kind with | .mloop .. => true | _ => c.drained })
      .next (s'.modCore k (fun q => { q with drain := s.drainRun k c }))

/-- A step's data of one source as the engine reads it (07 R159, R161): bytes and poison, or the offending address. -/
def State.readStep (s : State) (gid : Nat) (m : MLoop) (isA : Bool) (step : Nat) : Except Nat StepData :=
  let g := s.group gid
  let n := stepBytes m.t m.sc
  let sg : Int := if m.rl = 0 then step else step % m.rl
  let base := (if isA then m.abase else m.bbase) / 64 * 64
  let adr := (((base : Int) + 64 * sg * (if isA then m.ainc else m.binc)) % 2 ^ 32).toNat
  match s.locate g (if isA then m.adie else m.bdie) adr n with
  | none => .error adr
  | some (sp, o) =>
    let r := s.ram sp
    .ok { step := step, bytes := r.read o n, poisoned := r.poisoned o n }

/-- Sources that the running `mloop` reads in this turn (07 R161). -/
def ECmd.readsNow (c : ECmd) (turn : Nat) : Bool × Bool :=
  match c.kind, c.start with
  | .mloop m _, some st =>
    (c.ra < m.nk && turn == st + (c.ra - c.p0) + c.fill - c.fa, c.rb < m.nk && turn == st + (c.rb - c.p0) + c.fill - c.fb)
  | _, _ => (false, false)

/-- The reads of this turn; an address outside the allocation is an isolation violation of the engine (07 R161). -/
def State.engineRead (s : State) (k : Nat) : State :=
  match (s.core k).eq with
  | [] => s
  | c :: _ =>
    match c.kind with
    | .mloop m _ =>
      let one := fun (s : State) (isA : Bool) =>
        let step := if isA then c.ra else c.rb
        let r := s.readStep c.gid m isA step
        let data := match r with
          | .ok x => x
          | .error _ => { step := step, bytes := [], poisoned := false }
        let s := s.modHead k (fun c => if isA then { c with ra := step + 1, da := c.da ++ [data] }
          else { c with rb := step + 1, db := c.db ++ [data] })
        let g := s.group c.gid
        match r with
        | .ok _ => s
        | .error a => s.raise g.pid { bit := 0, tick := 16 * s.turn, cause := 2, master := 2, core := k, qtr := g.quarter, grp := g.index,
                                      res := g.res, fpc := 0#12 ++ c.pc, adr := BitVec.ofNat 64 a }
      let (a, b) := c.readsNow s.turn
      let s := if a then one s true else s
      if b then one s false else s
    | _ => s

/-- MLOOP_K_STEP (07 R160, R161): the next step multiplies into the tile. -/
def execMloopKStep (k : Nat) (s : State) : Outcome State Fault Refusal :=
  match (s.core k).eq with
  | [] => .fault .noObject
  | c :: _ =>
    match c.kind, c.da, c.db with
    | .mloop m _, a :: da, b :: db =>
      .next ((s.modTile k m.tile (fun t =>
        let t := t.accumulate m.t 0 0 (stepRows m.t m.sc a.bytes) (stepRows m.t m.sc b.bytes) (mmaK m.t)
        { t with poison := t.poison || a.poisoned || b.poisoned })).modHead k (fun c =>
          { c with da := da, db := db, steps := c.steps + 1 }))
    | _, _, _ => .next s

/-- The drain at the end of an `mloop`, in the first of its two turns (07 R160). -/
def State.loopDrain (s : State) (k : Nat) : State :=
  match (s.core k).eq with
  | [] => s
  | c :: _ =>
    match c.kind with
    | .mloop m _ => s.drainTile (s.group c.gid).pid k m.tile
    | _ => s

/-- A running `mloop` stops with its context (07 R163): it will restart at its first unfinished step. -/
def State.stopLoop (s : State) (k : Nat) : State :=
  s.modHead k (fun c => match c.kind with
    | .mloop m _ => { c with start := none, p0 := c.steps, occ := m.occ c.fill c.steps, ra := c.steps, rb := c.steps, da := [], db := [] }
    | _ => c)

/-- MATRIX_COMMAND_END (07 R147, R160, R163, 08 R178): the command leaves the queue, its member completes, the record of an
`mloop` shows it at once, `macc.st` writes under the tick and place of its issue (assumption 39), and a failed retry that leaves RETRY at 2 or more parks the group's live lanes. -/
def execMatrixCommandEnd (k : Nat) (s : State) : Outcome State Fault Refusal :=
  match (s.core k).eq with
  | [] => .fault .noObject
  | c :: rest =>
    let s := s.modCore k (fun q => { q with eq := rest, eEnd := s.turn })
    let s := match c.member with
      | some id => s.modGroup c.gid (fun g => (g.memberDone id).recordDone id)
      | none => s
    .next (match c.kind with
    | .maccSt n sp a =>
      let t := s.tile k n
      { s with bankQ := s.bankQ ++ [{ bank := s.turn, tick := c.tick, core := k, quarter := (s.group c.gid).quarter, gid := c.gid, space := sp
                                      op := .bulk t.poison, lanes := [{ lane := 64, adr := a, b := t.words }], dst := .spec 0, land := 0
                                      seq := c.seq, pc := c.pc }] }
    | .mloop m true =>
      let t := s.tile k m.tile
      let g := s.group c.gid
      if (t.stat = 2 ∨ t.stat = 3 ∨ t.stat = 4) ∧ 2 ≤ t.retries then
        ((lanesOf g.live).foldl (fun s l => s.park c.gid l (g.lane l).pc
          { trap := 9, cause := 1, targ := t.status m.tile, word := s.wordAt g (g.lane l).pc.toNat }) s).modPart g.pid Part.countMantle
      else s
    | _ => s)

end Sys2Proof.Machine
end

