-- ==== Sys2Proof/Machine/Copies.lean ====
section
/-! DEFINITION. The copy engines: ranges, the six copy commands at acceptance, their units and their completion
(10 R209-R228). -/

namespace Sys2Proof.Machine

open Host (Outcome)

/-! SHA3-256 (FIPS 202), named by 10 R226. The sponge's state is held as its five planes, each a row of five lanes. -/

abbrev Plane := List DWord

def Plane.xor (p q : Plane) : Plane := p.zipWith (· ^^^ ·) q

/-- θ: each lane takes in the parity of the column before it and, turned by one bit, that of the column after it. -/
def spongeTheta (a : List Plane) : List Plane :=
  let parity := a.foldl Plane.xor (List.replicate 5 0)
  let effect := Plane.xor (parity.rotateRight 1) ((parity.rotateLeft 1).map (·.rotateLeft 1))
  a.map (·.xor effect)

/-- The walk of the standard's ρ from column 1, row 0; π moves each lane one place along it. -/
def spongeWalk : Nat → Nat × Nat → List (Nat × Nat)
  | 0, _ => []
  | n + 1, (x, y) => (x, y) :: spongeWalk n (y, (2 * x + 3 * y) % 5)

/-- ρ and π: the lane at place t of the walk goes to place t + 1, turned by (t + 1)(t + 2)/2 bits; the lane at the origin stays. -/
def spongeMove (a : List Plane) : List Plane :=
  let path := spongeWalk 25 (1, 0)
  (path.zip (path.drop 1)).zipIdx.foldl (fun out m =>
    let ((x, y), (u, v)) := m.1
    let lane := ((a.getD y []).getD x 0).rotateLeft ((m.2 + 1) * (m.2 + 2) / 2)
    lmod out v (fun row => lmod row u (fun _ => lane))) a

/-- χ along a row. -/
def Plane.chi (p : Plane) : Plane := p.xor (((p.rotateLeft 1).map (~~~ ·)).zipWith (· &&& ·) (p.rotateLeft 2))

/-- The standard's shift register, modulo x^8 + x^6 + x^5 + x^4 + 1. -/
def spongeShift (r : Nat) : Nat := if 128 ≤ r then (2 * r) % 256 ^^^ 0x71 else 2 * r

/-- The constant of a round, from the seven next bits of the register: bit j goes to place 2^j - 1 of the lane. -/
def spongeConst : Nat → Nat → DWord
  | 0, _ => 0
  | n + 1, r => BitVec.ofNat 64 (r % 2 * 2 ^ (2 ^ (6 - n) - 1)) ||| spongeConst n (spongeShift r)

/-- The 24 rounds, ι last in each. -/
def spongeRounds : Nat → Nat → List Plane → List Plane
  | 0, _, a => a
  | n + 1, r, a =>
    let b := (spongeMove (spongeTheta a)).map Plane.chi
    spongeRounds n ((List.range 7).foldl (fun r _ => spongeShift r) r) (lmod b 0 (fun row => lmod row 0 (· ^^^ spongeConst 7 r)))

/-- A block of 136 bytes as the planes it is added to. -/
def spongeBlock (bs : List Byte) : List Plane :=
  (List.range 5).map (fun y => (List.range 5).map (fun x => BitVec.ofNat 64 (leNat ((bs.drop (8 * (x + 5 * y))).take 8))))

/-- The 32 digest bytes of SHA3-256: the suffix 01 and the padding 10*1 follow the data. -/
def sha3 (bs : List Byte) : List Byte :=
  let n := bs.length / 136 + 1
  let fill := List.replicate (136 * n - bs.length) (0 : Byte)
  let data := bs ++ lmod (lmod fill 0 (· ||| 0x06)) (fill.length - 1) (· ||| 0x80)
  let out := (List.range n).foldl (fun a i => spongeRounds 24 1 (a.zipWith Plane.xor (spongeBlock ((data.drop (136 * i)).take 136))))
    (List.replicate 5 (List.replicate 5 0))
  ((out.headD []).take 4).flatMap (fun w => toBytes 8 w.toNat)

/-! Far memory -/

/-- A range's entry of the core's extent table (10 R211). -/
def State.ext (s : State) (g : Group) (rng : Nat) : Option Extent := (s.grid g.grid).exts[rng]?

/-- The stretch that holds an offset, and its physical address (16 R360). -/
def Extent.seg (e : Extent) (ofs : Nat) : Option (Seg × Nat) :=
  (e.segs.find? (fun q => q.ofs ≤ ofs && ofs < q.ofs + q.len)).map (fun q => (q, q.phys + (ofs - q.ofs)))

/-- ACC of 03 R76: 1 read, 2 write, 3 both. -/
def Extent.canRead (e : Extent) : Bool := e.acc % 2 == 1
def Extent.canWrite (e : Extent) : Bool := e.acc / 2 % 2 == 1

/-- Far bytes and their poison. -/
def State.farRead (s : State) (e : Extent) (ofs n : Nat) : List Byte × Bool :=
  match e.seg ofs with
  | some (q, a) => let r := if q.host then s.host else s.hbm; (r.read a n, r.poisoned a n)
  | none => (List.replicate n 0, false)

/-- One unit written to far memory (10 R221, 18 R406), under the name of its writer. -/
def State.farWrite (s : State) (e : Extent) (ofs : Nat) (bs : List Byte) (bad : Bool) (ident : Nat := 0) : State :=
  match e.seg ofs with
  | some (q, a) =>
    if q.host then { s with host := s.host.write a bs bad }
    else
      let s := { s with hbm := s.hbm.write a bs bad }
      if q.mir then s.mirror ident a bs bad else s
  | none => s

/-- The class of a command at far offset `ofs` of a range (10 R209): the page that holds its first far byte. An offset outside the range
takes the class of the range's first page, where its far end is. -/
def Extent.cls (e : Extent) (ofs : Nat) : CClass :=
  match (e.seg ofs).or (e.seg 0) with
  | some (q, _) => if q.host then .X else .H
  | none => .H

/-- Some byte of the far stretch is mirrored (18 R406). -/
def Extent.mirrored (e : Extent) (ofs n : Nat) : Bool :=
  e.segs.any (fun q => q.mir && q.ofs < ofs + n && ofs < q.ofs + q.len)

/-! Queues -/

def Core.queue (k : Core) : CClass → List CCmd
  | .H => k.cqH
  | .P => k.cqP
  | .X => k.cqX
  | .S => k.cqS
def Core.setQueue (k : Core) (cl : CClass) (q : List CCmd) : Core :=
  match cl with
  | .H => { k with cqH := q }
  | .P => { k with cqP := q }
  | .X => { k with cqX := q }
  | .S => { k with cqS := q }
def Core.lastEnd (k : Core) : CClass → Nat
  | .H => k.endH
  | .P => k.endP
  | .X => k.endX
  | .S => k.endS
def Core.setEnd (k : Core) (cl : CClass) (t : Nat) : Core :=
  match cl with
  | .H => { k with endH := t }
  | .P => { k with endP := t }
  | .X => { k with endX := t }
  | .S => { k with endS := t }

/-- Bytes of volume that a unit counts for (10 R210). -/
def CCmd.vol1 (c : CCmd) (cl : CClass) : Nat :=
  match c.kind, cl with
  | .index .., .S => 16
  | _, _ => 64


/-- Effect turn of unit g (10 R220), counted from the last start. -/
def CCmd.unitTurn (c : CCmd) (cl : CClass) (g : Nat) : Nat :=
  match c.kind with
  | .atom .. => c.start.getD 0 + c.drawn
  | _ => c.start.getD 0 + Config.l0 c.h cl + ceilDiv (c.vol1 cl * (g + 1 - c.skip)) (Config.rate cl) + c.late

/-- E(c) (10 R210, R228). -/
def CCmd.endTurn (c : CCmd) (cl : CClass) : Nat :=
  let rem := c.units - c.skip
  let vol := match c.kind with
    | .atom .. => c.vol
    | _ => c.vol1 cl * rem
  let more := match c.kind with
    | .digest .. => ceilDiv (64 * rem) 136 + 8
    | _ => 0
  c.start.getD 0 + Config.l0 c.h cl + ceilDiv vol (Config.rate cl) + more + c.late

/-! Issue -/

/-- The place `o` bytes above the start of a space: past 2^28 bytes of die scratch the address names the other die (09 R182). -/
def Space.at (sp : Space) (o : Nat) : Space × Nat :=
  match sp with
  | .die g d => if 2 ^ 28 ≤ o then (.die g (1 - d), o - 2 ^ 28) else (sp, o)
  | _ => (sp, o)

/-- A scratch space as a command reads it: the bytes that stood at acceptance (10 R220), with the marks that they carried then and those
that have been set since (09 R190, 10 R221). -/
def CCmd.ram (c : CCmd) (s : State) (sp : Space) : Ram :=
  match c.src.find? (fun q => q.1 == sp) with
  | some q => { q.2 with poison := (s.ram sp).poison.foldl insNat q.2.poison }
  | none => s.ram sp

/-- The command's units read the far end. -/
def CCmd.readsFar (c : CCmd) : Bool :=
  match c.kind with
  | .move out .. => !out
  | .index scat far .. => !scat && far.isSome
  | .digest rng .. => rng.isSome
  | .atom .. => false

/-- What a command's checks need (10 R213): far stretches read and written, scratch stretches read and written, all
with their range or space; and its shape breaches. -/
structure CopyShape where
  rng : Option Nat
  farRd : List (Nat × Nat) := []
  farWr : List (Nat × Nat) := []
  scr : List (Bool × Nat × Nat × Bool) := []
  elems : List (Nat × Nat × Bool) := []
  align : Option Word := none
  length : Option Word := none
  busy : List (Bool × Nat × Nat × Bool) := []
  atomic : Bool := false
  deriving DecidableEq, Repr

/-- FPEER of a local access (16 R353). -/
def rngWord (r : Option Nat) : Word := BitVec.ofNat 32 (r.getD 0 * 2 ^ 15)

/-- The first failing part of check 1 of 10 R213: cause and offending offset. A stretch of no bytes has none outside; every far
stretch of an atomic needs the class of its own page (10 R212). -/
def State.copyViolation (s : State) (g : Group) (k : CopyShape) : Option (Nat × Nat) :=
  let blk := (s.block g.block).blockId
  let grid := s.grid g.grid
  let far : Option (Nat × Nat) := match k.rng with
    | none => none
    | some r =>
      match s.ext g r with
      | none => some (1, ((k.farRd ++ k.farWr).headD (0, 0)).1)
      | some e =>
        if (k.farRd ≠ [] ∧ !e.canRead) ∨ (k.farWr ≠ [] ∧ !e.canWrite) then some (1, ((k.farRd ++ k.farWr).headD (0, 0)).1)
        else if k.atomic ∧ !e.canRead then some (1, (k.farWr.headD (0, 0)).1)
        else ((k.farRd ++ k.farWr).find? (fun p => (p.2 != 0 && e.size < p.1 + p.2)
          || (k.atomic && e.atom < (if e.cls p.1 == .X then 3 else 1)))).map (fun p => (1, p.1))
  let scr := (k.scr.find? (fun p => p.2.2.1 != 0 && (s.locate g p.1 p.2.1 p.2.2.1).isNone)).map (fun p => (2, p.2.1))
  let ownF := match k.rng with
    | some r => (k.farWr.find? (fun p => !grid.mayWrite blk false r p.1 p.2)).map (fun p => (3, p.1))
    | none => none
  let ownS := (k.scr.find? (fun p => p.1 && p.2.2.2 &&
    (match s.locate g true p.2.1 p.2.2.1 with
     | some (_, o) => !grid.mayWrite blk true 0 o p.2.2.1
     | none => false))).map (fun p => (3, p.2.1))
  ((far.or scr).or ownF).or ownS

/-- The checks of 10 R213 in order, then `go` (with D's batch number, 10 R222). Stretches in `elems` are indexed
elements, which only the busy check looks at here (10 R224). -/
def copyWord (x : Ctx) (k : CopyShape) (s : State) (go : State → State) : State :=
  if x.sel = 0 then s
  else match s.copyViolation x.g k with
    | some (cause, a) => s.violate x cause (BitVec.ofNat 64 a) (rngWord k.rng)
    | none =>
      match k.align, k.length with
      | some w, _ => s.parkEach x 0x0B accAlign (fun _ => w)
      | none, some w => s.parkEach x 0x0B accLength (fun _ => w)
      | none, none =>
        let hit := fun (die : Bool) (a n : Nat) (wr : Bool) => match s.locate x.g die a n with
          | some (sp, o) => s.busy sp o n wr
          | none => false
        match (k.scr.find? (fun p => hit p.1 p.2.1 p.2.2.1 p.2.2.2)).map (fun p => p.2.1) |>.or
            ((k.elems.find? (fun p => hit true p.1 p.2.1 p.2.2)).map (fun p => p.1)) with
        | some a => s.parkEach x 6 0 (fun _ => BitVec.ofNat 32 a)
        | none => if x.g.memberLimit then s.parkEach x 5 3 (fun _ => 0) else go s

/-- A copy command accepted: queue, batch membership with busy ranges, PROG, D (10 R210, R214, R219, R222, R227). -/
def State.acceptCopy (s : State) (x : Ctx) (cl : CClass) (kind : CKind) (units vol : Nat) (mir : Bool)
    (busy : List (Bool × Nat × Nat × Bool)) (prog : Option Nat) (cls : Bool) (d : Opnd) : State :=
  let (id, s) := s.fresh
  let bs := busy.filterMap (fun p => (s.locate x.g p.1 p.2.1 p.2.2.1).map (fun q =>
    { space := q.1, adr := q.2, len := p.2.2.1, all := p.2.2.2 : Busy }))
  let c : CCmd := {
    ident := id, gid := x.gid, blk := x.g.block, grid := x.g.grid, kind := kind, pc := x.pc, issue := s.turn, units := units, vol := vol
    mir := mir, src := ((bs.filter (fun b => !b.all)).map (fun b => b.space)).eraseDups.map (fun sp => (sp, s.ram sp)) }
  let n := x.g.last + 1
  let s := s.modCore x.g.core (fun q => q.setQueue cl (q.queue cl ++ [c]))
  let s := s.modGroup x.gid (fun g =>
    let g := g.join id bs
    let g := match prog with
      | some kd => { g with prog := BitVec.ofNat 32 (kd * 2 ^ 28), progSrc := some id, progN := units }
      | none => g
    if cls then g.close else g)
  s.put x 1 d 1 (fun _ => n.toNat)

/-- `cpy` (10 R222, R223). -/
def execCpy (c : Ctl) (out : Bool) (rng : BitVec 5) (die cls : Bool) (d a b cc : Opnd) (s : State) : Outcome State Fault Refusal :=
  withIssue (.cpy c out rng die cls d a b cc) s (fun x s =>
    let far := (x.src s 2 x.low a).toNat
    let adr := (x.low32 s b).toNat
    let n := (x.low32 s cc).toNat
    let k : CopyShape :=
      { rng := some rng.toNat, farRd := if out then [] else [(far, n)], farWr := if out then [(far, n)] else []
        scr := [(die, adr, n, !out)], align := if far % 64 ≠ 0 then some (BitVec.ofNat 32 far)
          else if adr % 64 ≠ 0 then some (BitVec.ofNat 32 adr) else none
        length := if n % 64 ≠ 0 ∨ n = 0 ∨ 2 ^ 24 < n then some (BitVec.ofNat 32 adr) else none }
    copyWord x k s (fun s =>
      let e := (s.ext x.g rng.toNat).getD { base := 0, size := 0, acc := 0, atom := 0 }
      let loc := (s.locate x.g die adr n).getD (.blk x.g.block, 0)
      s.acceptCopy x (e.cls far) (.move out rng.toNat far loc.1 loc.2 1 (n / 64) 0 0) (n / 64) n (out && e.mirrored far n)
        [(die, adr, n, !out)] (some 2) cls d))

/-- `cpy2d` (10 R222, R223). -/
def execCpy2d (c : Ctl) (out : Bool) (rng : BitVec 5) (die cls : Bool) (d a b cc : Opnd) (s : State) : Outcome State Fault Refusal :=
  withIssue (.cpy2d c out rng die cls d a b cc) s (fun x s =>
    let far := (x.src s 2 x.low a).toNat
    let adr := (x.low32 s b).toNat
    let sh := x.src s 2 x.low cc
    let rows := (sh.extractLsb' 0 16).toNat
    let rlen := (sh.extractLsb' 16 16).toNat
    let sstr := (sh.extractLsb' 32 16).toNat
    let fstr := (sh.extractLsb' 48 16).toNat
    let rowsF := if rows = 0 then [(far, 0)] else (List.range rows).map (fun r => (far + 64 * fstr * r, 64 * rlen))
    let rowsS := (List.range rows).map (fun r => (die, adr + 64 * sstr * r, 64 * rlen, !out))
    let k : CopyShape :=
      { rng := some rng.toNat, farRd := if out then [] else rowsF, farWr := if out then rowsF else []
        scr := rowsS, align := if far % 64 ≠ 0 then some (BitVec.ofNat 32 far)
          else if adr % 64 ≠ 0 then some (BitVec.ofNat 32 adr) else none
        length := if rows = 0 ∨ rlen = 0 ∨ 2 ^ 24 < rows * rlen * 64 then some (BitVec.ofNat 32 adr) else none }
    copyWord x k s (fun s =>
      let e := (s.ext x.g rng.toNat).getD { base := 0, size := 0, acc := 0, atom := 0 }
      let loc := (s.locate x.g die adr (64 * rlen)).getD (.blk x.g.block, 0)
      s.acceptCopy x (e.cls far) (.move out rng.toNat far loc.1 loc.2 rows rlen fstr sstr) (rows * rlen) (64 * rows * rlen)
        (out && rowsF.any (fun p => e.mirrored p.1 p.2)) rowsS (some 2) cls d))

/-- Where element `i` of an indexed side lies (10 R224). -/
def idxAdr (far : Bool) (base e x : Nat) : Nat := if far then base + x * e else (base + x * e) % 2 ^ 32

/-- `gather` and `scatter` (10 R222, R224): the index list is read as it stands at acceptance (R220). The bytes of a poisoned granule of the
list count as plain indices and the mark reaches nothing: 10 R221 speaks of the data only (DESIGN CHOICE, assumption 87). -/
def indexWord (x : Ctx) (scat : Bool) (far : Option (BitVec 5)) (die : Bool) (esz : BitVec 3) (cls : Bool) (d a b cc : Opnd)
    (s : State) : State :=
  let pair := x.src s 2 x.low a
  let list := (pair.extractLsb' 0 32).toNat
  let base := (pair.extractLsb' 32 32).toNat
  let adr := (x.low32 s b).toNat
  let n := (x.low32 s cc).toNat
  let e := 2 ^ esz.toNat
  let inList := match s.locate x.g false list (4 * n) with
    | some (sp, o) => toWords n ((s.ram sp).nat o (4 * n))
    | none => []
  let idx := inList
  let places := idx.map (fun w => idxAdr far.isSome base e w.toNat)
  let ext := far.bind (fun r => s.ext x.g r.toNat)
  let within := fun (p : Nat) => match ext with
    | some q => p + e ≤ q.size
    | none => far.isNone && (s.locate x.g true p e).isSome
  let ok := places.filter within
  let k : CopyShape :=
    { rng := far.map (·.toNat), farRd := if far.isSome && !scat then ok.map (fun p => (p, e)) else []
      farWr := if far.isSome && scat then ok.map (fun p => (p, e)) else []
      scr := [(false, list, 4 * n, false), (die, adr, e * n, !scat)]
      elems := if far.isNone then ok.map (fun p => (p, e, scat)) else []
      align := if list % 4 ≠ 0 then some (BitVec.ofNat 32 list) else if adr % e ≠ 0 then some (BitVec.ofNat 32 adr)
        else if base % e ≠ 0 then some (BitVec.ofNat 32 base) else none
      length := if n = 0 ∨ 2 ^ 20 < n then some (BitVec.ofNat 32 adr) else none }
  let acc := match ext with
    | some q => if scat then q.canWrite else q.canRead
    | none => far.isNone
  let alien := if scat && far.isNone then ok.find? (fun p => match s.locate x.g true p e with
    | some (_, o) => !(s.grid x.g.grid).mayWrite (s.block x.g.block).blockId true 0 o e
    | none => false) else none
  if x.sel ≠ 0 ∧ !acc then s.violate x 1 (BitVec.ofNat 64 base) (rngWord (far.map (·.toNat)))
  else if x.sel ≠ 0 ∧ (s.copyViolation x.g k).isNone ∧ alien.isSome then s.violate x 3 (BitVec.ofNat 64 (alien.getD 0))
  else copyWord x k s (fun s =>
    let loc := (s.locate x.g die adr (e * n)).getD (.blk x.g.block, 0)
    let cl := match ext with
      | some q => q.cls (ok.headD 0)
      | none => .S
    s.acceptCopy x cl (.index scat (far.map (·.toNat)) base loc.1 loc.2 esz.toNat idx) n ((if cl == .S then 16 else 64) * n)
      (scat && ok.any (fun p => (ext.map (fun q => q.mirrored p e)).getD false))
      ((false, list, 4 * n, false) :: (die, adr, e * n, !scat) :: (if far.isNone then ok.map (fun p => (true, p, e, scat)) else []))
      (some 3) cls d)

def execGather (c : Ctl) (far : Option (BitVec 5)) (die : Bool) (esz : BitVec 3) (cls : Bool) (d a b cc : Opnd) (s : State) :
    Outcome State Fault Refusal :=
  withIssue (.gather c far die esz cls d a b cc) s (fun x s => indexWord x false far die esz cls d a b cc s)

def execScatter (c : Ctl) (far : Option (BitVec 5)) (die : Bool) (esz : BitVec 3) (cls : Bool) (d a b cc : Opnd) (s : State) :
    Outcome State Fault Refusal :=
  withIssue (.scatter c far die esz cls d a b cc) s (fun x s => indexWord x true far die esz cls d a b cc s)

/-- Operand and new value of a far atomic: in `cas` the comparand comes first (10 R225, R230). -/
def Ctx.farOps (s : State) (x : Ctx) (op : AOp) (b : Opnd) (l : Nat) : DWord × DWord :=
  let ws := x.opWords s op op.farRegs l b
  (BitVec.ofNat 64 (ofWords (ws.take op.regs)), BitVec.ofNat 64 (ofWords (ws.drop op.regs)))

/-- `cpy.atom` (10 R222, R225). With RET the busy old-value array is that of all 64 lanes, as far as the block's scratch goes, and not the
slots of `sel` alone: 10 R219 does not say (DESIGN CHOICE, assumption 88). -/
def execCpyAtom (c : Ctl) (op : AOp) (rng : BitVec 5) (wr cls : Bool) (d a b cc : Opnd) (s : State) : Outcome State Fault Refusal :=
  withIssue (.cpyAtom c op rng wr cls d a b cc) s (fun x s =>
    let n := 4 * op.regs
    let ofs := fun l => (x.src s 2 l a).toNat
    let ret := (x.low32 s cc).toNat
    let tgts := x.lanes.map (fun l => (ofs l, n))
    let slots := x.lanes.map (fun l => (false, ret + n * l, n, true))
    let array := (false, ret, Nat.min (64 * n) ((s.grid x.g.grid).desc.bscr - ret), true)
    let k : CopyShape :=
      { rng := some rng.toNat, farWr := tgts, scr := if wr then slots else [], atomic := true
        align := ((x.lanes.find? (fun l => ofs l % n != 0)).map (fun l => BitVec.ofNat 32 (ofs l))).or
          (if wr && ret % 64 != 0 then some (BitVec.ofNat 32 ret) else none) }
    copyWord x k s (fun s =>
      let e := (s.ext x.g rng.toNat).getD { base := 0, size := 0, acc := 0, atom := 0 }
      let lanes := x.lanes.map (fun l => let p := x.farOps s op b l; (l, ({ ofs := ofs l, b := p.1, c := p.2 } : RLane)))
      s.acceptCopy x (e.cls ((tgts.headD (0, 0)).1)) (.atom op rng.toNat lanes (if wr then some ret else none)) 1
        (64 * x.lanes.length) (tgts.any (fun p => e.mirrored p.1 p.2)) (if wr then [array] else []) none cls d))

/-- `cpy.digest` (10 R222, R226). -/
def execCpyDigest (c : Ctl) (src : Option (BitVec 5)) (cls : Bool) (d a b cc : Opnd) (s : State) : Outcome State Fault Refusal :=
  withIssue (.cpyDigest c src cls d a b cc) s (fun x s =>
    let from_ := if src.isSome then (x.src s 2 x.low a).toNat else ((x.src s 2 x.low a).extractLsb' 0 32).toNat
    let adr := (x.low32 s b).toNat
    let n := (x.low32 s cc).toNat
    let k : CopyShape :=
      { rng := src.map (·.toNat), farRd := if src.isSome then [(from_, n)] else []
        scr := (false, adr, 32, true) :: (if src.isNone then [(true, from_, n, false)] else [])
        align := if from_ % 64 ≠ 0 then some (BitVec.ofNat 32 from_) else if adr % 32 ≠ 0 then some (BitVec.ofNat 32 adr) else none
        length := if n % 64 ≠ 0 ∨ n = 0 ∨ 0x3FFFFFC0 < n then some (BitVec.ofNat 32 adr) else none }
    copyWord x k s (fun s =>
      let cl := match src.bind (fun r => s.ext x.g r.toNat) with
        | some e => e.cls from_
        | none => .S
      let dst := (s.locate x.g false adr 32).getD (.blk x.g.block, 0)
      s.acceptCopy x cl (.digest (src.map (·.toNat)) from_ dst.1 dst.2 n) (n / 64) n false
        ((false, adr, 32, true) :: (if src.isNone then [(true, from_, n, false)] else [])) (some 4) cls d))

/-! The engines' own steps -/

/-- The command at the head of a class queue changed. -/
def State.modCopy (s : State) (k : Nat) (cl : CClass) (f : CCmd → CCmd) : State :=
  s.modCore k (fun q => q.setQueue cl (lmod (q.queue cl) 0 f))

/-- COPY_COMMAND_START (10 R210): the oldest command of the class starts. The turn of a `cpy.atom`'s application is free between
S(c) and E(c) (10 R225), the same in replay-identical runs (12 R254). -/
def execCopyCommandStart (k : Nat) (cl : CClass) (s : State) : Outcome State Fault Refusal :=
  match (s.core k).queue cl with
  | [] => .fault .noObject
  | c :: _ =>
    if c.start.isSome then .next s
    else
      let c' := { c with start := some s.turn, ran := true, late := 0, asked := c.skip }
      match c.kind with
      | .atom .. =>
        let g := s.group c.gid
        let (n, s) := s.drawFor g [1, g.prog.toNat, g.last.toNat, (g.members.findIdx (fun m => m.ident == c.ident))] (c'.endTurn cl - s.turn + 1)
        .next (s.modCopy k cl (fun _ => { c' with drawn := n }))
      | _ => .next (s.modCopy k cl (fun _ => c'))

/-- A reply of the host is still to come before the command goes on: that of the next unit where it reads host memory, that of
its last write where it writes (10 R210). -/
def CCmd.asks (c : CCmd) (cl : CClass) : Bool :=
  cl == .X && c.start.isSome && !c.stopped && (if c.readsFar then c.done < c.units && c.asked ≤ c.done else c.done == c.units && c.asked ≤ c.units)

/-- The reply's time beyond 1,800 cycles is free and delays the command (10 R210, assumption 14). -/
def State.hostReply (s : State) (k : Nat) (cl : CClass) : State :=
  let n := Config.freeNat s.free
  ({ s with free := s.free + 1 } : State).modCopy k cl (fun c => { c with late := c.late + n, asked := c.done + 1 })

/-- A violation that an engine finds at run time (10 R224, 16 R353, R365). -/
def State.engineViolation (s : State) (k : Nat) (cl : CClass) (c : CCmd) (cause : Nat) (adr : Nat) (rng : Option Nat) : State :=
  let g := s.group c.gid
  s.raise g.pid { bit := 0, tick := 16 * s.turn, cause := cause, master := 1, core := (if cl == .P || cl == .X then 0xFF else k),
                  qtr := g.quarter, grp := g.index, res := g.res, fpc := 0#12 ++ c.pc, adr := BitVec.ofNat 64 adr, peer := rngWord rng }

/-- A lane of a far atomic at its target (10 R225, R221): the old value, `none` where poison suppressed the write. -/
def State.farAtomic (s : State) (e : Extent) (op : AOp) (l : RLane) (ident : Nat := 0) : State × Option Nat :=
  let n := 4 * op.regs
  let (bs, bad) := s.farRead e l.ofs n
  if bad then (s, none)
  else
    let old := leNat bs
    (s.farWrite e l.ofs (toBytes n (op.new old l.b.toNat l.c.toNat)) false ident, some old)

/-- COPY_UNIT_EFFECT (10 R220, R221, R224-R226): the next unit of the running command takes effect. -/
def execCopyUnitEffect (k : Nat) (cl : CClass) (s : State) : Outcome State Fault Refusal :=
  match (s.core k).queue cl with
  | [] => .fault .noObject
  | c :: _ =>
    let g := s.group c.gid
    let u := c.done
    let e := fun (r : Nat) => (s.ext g r).getD { base := 0, size := 0, acc := 0, atom := 0 }
    let ram := c.ram s
    let bump := fun (s : State) => s.modCopy k cl (fun c => { c with done := c.done + 1 })
    .next (match c.kind with
    | .move out rng far sp adr _ rlen fstr sstr =>
      let r := u / Nat.max rlen 1
      let col := 64 * (u % Nat.max rlen 1)
      let fa := far + 64 * fstr * r + col
      let sa := sp.at (adr + 64 * sstr * r + col)
      if out then bump (s.farWrite (e rng) fa ((ram sa.1).read sa.2 64) ((ram sa.1).poisoned sa.2 64) c.ident)
      else
        let (bs, bad) := s.farRead (e rng) fa 64
        bump (s.scratchWrite sa.1 sa.2 bs bad none)
    | .index scat far base sp adr esz idx =>
      let n := 2 ^ esz
      let at_ := adr + n * u
      let ix := idxAdr far.isSome base n (idx.getD u 0).toNat
      let rd : Option (List Byte × Bool) := match far with
        | some r => if ix + n ≤ (e r).size then some (s.farRead (e r) ix n) else none
        | none => (s.locate g true ix n).map (fun q => ((ram q.1).read q.2 n, (ram q.1).poisoned q.2 n))
      match rd with
      | none => (s.engineViolation k cl c 7 ix far).modCopy k cl (fun c => { c with stopped := true })
      | some (bs, bad) =>
        if !scat then bump (s.scratchWrite sp at_ bs bad none)
        else
          let v := (ram sp).read at_ n
          let vb := (ram sp).poisoned at_ n
          match far, s.locate g true ix n with
          | some r, _ => bump (s.farWrite (e r) ix v vb c.ident)
          | none, some q => bump (s.scratchWrite q.1 q.2 v vb none)
          | none, none => bump s
    | .atom op rng lanes _ =>
      let need := fun (l : RLane) => match (e rng).seg l.ofs with
        | some (q, _) => q.atomOk < (if q.host then 3 else 1)
        | none => false
      match lanes.find? (fun p => need p.2) with
      | some p => (s.engineViolation k cl c 6 p.2.ofs (some rng)).modCopy k cl (fun c => { c with stopped := true })
      | none =>
        let p := lanes.foldl (fun (p : State × List Byte) l =>
          let (s', old) := p.1.farAtomic (e rng) op l.2 c.ident
          (s', p.2 ++ (match old with | some v => 0#8 :: toBytes 8 v | none => 1#8 :: toBytes 8 0))) (s, [])
        bump (p.1.modCopy k cl (fun c => { c with data := p.2 }))
    | .digest rng src _ _ _ =>
      let a := src + 64 * u
      let (bs, bad) := match rng with
        | some r => s.farRead (e r) a 64
        | none => match s.locate g true a 64 with
          | some q => ((ram q.1).read q.2 64, (ram q.1).poisoned q.2 64)
          | none => ([], false)
      bump (s.modCopy k cl (fun c => { c with data := c.data ++ bs, poisoned := c.poisoned || bad })))

/-- What a command leaves at E(c): the digest's result, and a `cpy.atom`'s old values, which one command writes: a granule that
they cover in full with unpoisoned values loses its mark (10 R225, R226, 09 R192). -/
def State.copyEnd (s : State) (c : CCmd) : State :=
  match c.kind with
  | .digest _ _ sp dst _ => s.scratchWrite sp dst (sha3 c.data) c.poisoned none
  | .atom op _ lanes (some ret) =>
    let n := 4 * op.regs
    let sp := Space.blk c.blk
    let slots := mapFrom (fun i (p : Nat × RLane) => (ret + n * p.1, (c.data.drop (9 * i)).take 9)) 0 lanes
    let good := slots.filter (fun q => q.2.headD 0 == 0#8)
    let s := good.foldl (fun s q => s.scratchWrite sp q.1 ((q.2.drop 1).take n) false none) s
    let full := if (s.ram sp).poison.isEmpty then [] else coveredBy (good.flatMap (fun q => (List.range n).map (q.1 + ·)))
    let bad := (slots.filter (fun q => q.2.headD 0 != 0#8)).flatMap (fun q => granules q.1 n)
    s.modRam sp (fun r => (r.unmark full).mark bad)
  | _ => s

/-- The partner's acknowledgement of a mirrored member is here (18 R407). -/
def State.tailDone (s : State) (t : MTail) : Bool := t.due ≤ s.turn && !s.mirOut t.ident

/-- COPY_MEMBER_COMPLETE (10 R210, R215, 18 R407): a command ends, or the partner's acknowledgement of a mirrored one
arrives, planned for E(c) + 152; its member completes. -/
def execCopyMemberComplete (k : Nat) (cl : CClass) (s : State) : Outcome State Fault Refusal :=
  let q := s.core k
  match q.tail.find? s.tailDone with
  | some t => .next ((s.setCore k { q with tail := q.tail.filter (fun u => u.ident != t.ident) }).modGroup t.gid (fun g => g.memberDone t.ident))
  | none =>
    match q.queue cl with
    | [] => .fault .noObject
    | c :: rest =>
      let s := (s.setCore k ((q.setQueue cl rest).setEnd cl s.turn)).copyEnd c
      if c.mir then .next (s.modCore k (fun q => { q with tail := q.tail ++ [{ due := s.turn + 152, plan := ({ c with late := 0 } : CCmd).endTurn cl + 152, gid := c.gid, ident := c.ident }] }))
      else .next (s.modGroup c.gid (fun g => g.memberDone c.ident))

/-- A started command stops with its context (10 R228): it restarts with the units that are left. A `cpy.atom` runs
to its end. -/
def State.stopCopy (s : State) (k : Nat) (cl : CClass) : State :=
  s.modCopy k cl (fun c => match c.kind with
    | .atom .. => c
    | _ => { c with start := none, skip := c.done, late := 0, asked := c.done })

/-- PROG and the `mloop` record as they stand at the start of the next turn (10 R227, 07 R162). -/
def State.refreshProg (s : State) : State :=
  let cmd := fun (k : Core) (id : Nat) => (k.cqH ++ k.cqP ++ k.cqX ++ k.cqS).find? (fun c => c.ident == id)
  { s with groups := s.groups.map (fun p =>
      let g := p.2
      let k := s.core g.core
      let fin := fun (id : Nat) => g.members.all (fun m => m.ident != id || m.done)
      let steps := fun (id n : Nat) => match k.eq.find? (fun c => c.ident == id) with
        | some c => c.steps
        | none => match cmd k id with
          | some c => c.done
          | none => n
      let upd := fun (w : Word) (src : Option Nat) (n : Nat) => match src with
        | none => w
        | some id => (w &&& 0xF7000000#32) ||| (if fin id then 0x08000000#32 else 0) ||| BitVec.ofNat 32 (steps id n)
      (p.1, { g with prog := upd g.prog g.progSrc g.progN, mrec := upd g.mrec g.mrecSrc g.mrecN })) }

end Sys2Proof.Machine
end

