-- ==== Sys2Proof/Machine/Remote.lean ====
section
/-! DEFINITION. Remote access (10 R229-R235, 11 R240, R247, 16 R363): the remote instructions, their executions, and what
a peer's request does here. -/

namespace Sys2Proof.Machine

open Host (Outcome)

/-- PEER and RNG of a peer word, and whether it is valid (10 R229). -/
def peerOf (w : Word) : Nat := (w.extractLsb' 20 12).toNat
def rngOf (w : Word) : Nat := (w.extractLsb' 15 5).toNat
def State.peerOk (s : State) (w : Word) : Bool := peerOf w < s.devCount && w.extractLsb' 0 15 == 0

/-- The lease that a group's grid holds for a peer's range (16 R363). -/
def State.leaseOf (s : State) (g : Group) (w : Word) : Option Lease :=
  (s.grid g.grid).leases.find? (fun l => l.peer == peerOf w && l.rng == rngOf w)

/-- State of the lease for a peer's range (16 R363, R378): the device's own range is valid while it is resident. -/
def State.leaseState (s : State) (g : Group) (w : Word) : Nat :=
  if peerOf w = s.selfDev then (if (s.ext g (rngOf w)).isSome then 1 else 0) else ((s.leaseOf g w).map (·.state)).getD 0

/-- An execution to byte `a` has a lease: VALID, or RECALLING for another page (16 R363). -/
def State.leaseOk (s : State) (g : Group) (w : Word) (a : Nat) : Bool :=
  if peerOf w = s.selfDev then (s.ext g (rngOf w)).isSome
  else match s.leaseOf g w with
    | some l => l.state == 1 || (l.state == 2 && !l.pages.contains (a / 65536))
    | none => false

/-- The peer's page at an offset of a range, as the lease places it; a page that the grant leaves out is taken to stand at its
offset (the layout of a request is internal to the part, 15 R324, assumption 16). -/
def State.leasePage (s : State) (g : Group) (w : Word) (a : Nat) : LPage :=
  ((s.leaseOf g w).bind (fun l => l.place.find? (fun q => q.page == a / 65536))).getD { page := a / 65536, phys := a / 65536 * 65536, mir := false }

/-- The class that an atomic needs at a far end (10 R212): dev for this device's HBM4, sys for its host's memory, pod for a peer. -/
def State.rmtClass (s : State) (e : Extent) (w : Word) (a : Nat) : Nat :=
  if peerOf w = s.selfDev then (if e.cls a == .X then 3 else 1) else 2

/-- Violation of a lane's access under check 1 of 10 R213 and 16 R363, 15 R336, 18 R408. -/
def State.rmtViolation (s : State) (g : Group) (k : RKind) (w : Word) (a n : Nat) : Option Nat :=
  if !s.peerOk w then none
  else
    let rd := match k with | .store => false | _ => true
    let wr := match k with | .load => false | _ => true
    let at_ := match k with | .atom _ => true | _ => false
    match s.ext g (rngOf w) with
    | none => some 1
    | some e =>
      let mir := if peerOf w = s.selfDev then e.mirrored a n else (s.leasePage g w a).mir
      if (rd && !e.canRead) || (wr && !e.canWrite) || (at_ && (!e.canRead || e.atom < s.rmtClass e w a)) || e.size < a + n then some 1
      else if wr && !(s.grid g.grid).mayWrite (s.block g.block).blockId false (rngOf w) a n then some 3
      else if wr && mir then some 1
      else if s.domainOf (peerOf w) ≠ s.domainOf s.selfDev then some 5
      else if !s.leaseOk g w a then some 4
      else none

/-- Distinct peer words in ascending order (10 R231). -/
def distinctWords (ws : List Word) : List Word := (ws.foldl (fun l w => insNat l w.toNat) []).map (BitVec.ofNat 32 ·)

/-- A remote instruction (10 R213, R230, R231, 11 R247): its executions, one for each distinct peer word, go out one a
turn from the later of the issue and the ends of the holds: of a release, and of a word paired behind a wide fence, also the turn after the
group's earlier executions have completed (11 R242, assumption 77). What writes behind a `fence.rel` applies after the accesses in scratch
before that fence. After an acquire the group's next issue waits for the acquire's own executions. -/
def remoteWord (x : Ctx) (k : RKind) (n : Nat) (signed ord : Bool) (adr : Nat → Nat) (b : Nat → DWord × DWord) (pw : Nat → Word)
    (d : Opnd) (nd : Nat) (s : State) : State :=
  if x.sel = 0 then s
  else match firstSome (fun l => (s.rmtViolation x.g k (pw l) (adr l) n).map (fun c => (c, l))) x.lanes with
    | some (cause, l) => s.violate x cause (BitVec.ofNat 64 (adr l)) (pw l)
    | none =>
      if x.lanes.any (fun l => adr l % n != 0) then s.parkEach x 0x0B accAlign (fun l => BitVec.ofNat 32 (adr l))
      else if x.lanes.any (fun l => !s.peerOk (pw l)) then s.parkEach x 0x0B accPeer pw
      else
        let ws := distinctWords (x.lanes.map pw)
        let out := (s.remotes.filter (fun r => r.gid == x.gid)).length + x.g.runq.length
        if 64 < out + ws.length then s.parkEach x 5 3 (fun _ => 0)
        else
          let writes := match k with | .load => false | _ => true
          let reads := match k with | .store => false | _ => true
          let rel := writes && (ord || x.g.relFence)
          let h := Nat.max x.g.hl x.g.hs
          let t0 := if rel then Nat.max s.turn (h + 1) else s.turn
          let t1 := x.g.reqs.foldl (fun t r => if r.acq = 0 then t else Nat.max t (r.acq + 1)) t0
          let floor := if writes then x.g.reqs.foldl (fun t r => Nat.max t (r.above + 1)) 0 else 0
          let mk := fun (i : Nat) (w : Word) =>
            { ident := s.ident + i, first := s.ident, rel := rel || s.rmtHolds x.gid x.g, gid := x.gid, peer := w, kind := k, size := n, signed := signed,
              lanes := (x.lanes.filter (fun l => pw l == w)).map (fun l => (l, { ofs := adr l, b := (b l).1, c := (b l).2 })),
              dst := d, seq := x.seq, pc := x.pc, issue := t1 + i, floor := floor, apply := 0, land := 0, done := 0, acq := ord && reads,
              applied := false, res := [], quench := [] : RExec }
          let s := { s with ident := s.ident + ws.length }
          let s := (s.modGroup x.gid (fun g => { g with
              runq := g.runq ++ mapFrom mk 0 ws })).modIssue
            (fun q => { q with extra := q.extra + (t1 - s.turn) + (ws.length - 1) })
          if reads then s.reserve x (2 ^ 60) d nd .rmt else s

/-- `rmt.ld` (10 R230). -/
def execRmtLd (c : Ctl) (sz : Size) (ord : Option Scope) (d a cc : Opnd) (ofs : BitVec 24) (s : State) : Outcome State Fault Refusal :=
  withIssue (.rmtLd c sz ord d a cc ofs) s (fun x s =>
    remoteWord x .load sz.bytes (sz == .s8 || sz == .s16) ord.isSome (fun l => (x.adr s a ofs l).toNat) (fun _ => (0, 0))
      (fun l => x.src32 s l cc) d sz.regs s)

/-- `rmt.st` (10 R230). -/
def execRmtSt (c : Ctl) (sz : Size) (ord : Option Scope) (a b cc : Opnd) (ofs : BitVec 24) (s : State) : Outcome State Fault Refusal :=
  withIssue (.rmtSt c sz ord a b cc ofs) s (fun x s =>
    remoteWord x .store sz.bytes false ord.isSome (fun l => (x.adr s a ofs l).toNat)
      (fun l => (BitVec.ofNat 64 (ofWords (x.srcWords s sz.regs l b)), 0)) (fun l => x.src32 s l cc) (.spec 0) 0 s)

/-- `rmt.atom` (10 R230). -/
def execRmtAtom (c : Ctl) (op : AOp) (ord : Option Scope) (d a b cc : Opnd) (ofs : BitVec 24) (s : State) : Outcome State Fault Refusal :=
  withIssue (.rmtAtom c op ord d a b cc ofs) s (fun x s =>
    remoteWord x (.atom op) (4 * op.regs) false ord.isSome (fun l => (x.adr s a ofs l).toNat) (x.farOps s op b)
      (fun l => x.src32 s l cc) d op.regs s)

/-- `rmt.wait` (10 R234): the group's next issue waits for its executions so far, whatever `sel` holds. -/
def execRmtWait (c : Ctl) (s : State) : Outcome State Fault Refusal :=
  withIssue (.rmtWait c) s (fun x s => s.modGroup x.gid (fun g => { g with rwait := s.ident }))

/-! Executions -/

/-- Turns that one way between two devices h traversals apart takes at least: 540 ticks a traversal, which covers a burst of
8 flits (15 R325). -/
def wayTurns (h : Nat) : Nat := ceilDiv (540 * h) 16

/-- The head of a group's queue goes out in this turn: its turn has come, of a release's first execution the group's earlier
ones have completed before this turn (10 R231, 11 R247), and open slots carry traffic, unless it is for this device (15 R337). -/
def State.sendDue (s : State) (gid : Nat) (g : Group) : Bool :=
  match g.runq with
  | r :: _ => r.issue ≤ s.turn && (s.pat.st == 1 || peerOf r.peer == s.selfDev) && !(r.rel && r.ident == r.first && (s.turn < g.rnext || s.remotes.any (fun q => q.gid == gid)))
  | [] => false

/-- A group is held by its remote executions (17 R398): by a release or a scratch acquire before its first execution has gone
out, or by `rmt.wait`, an acquire or a wide fence. -/
def State.remoteHeld (s : State) (gid : Nat) (g : Group) : Bool :=
  match g.runq with
  | r :: _ => r.ident == r.first && !s.sendDue gid g
  | [] => s.rmtHolds gid g

/-- The request of an execution as its flits carry it (15 R324): physical addresses at the peer. -/
def State.request (s : State) (g : Group) (r : RExec) : RReq :=
  let far := fun (q : RLane) => let p := s.leasePage g r.peer q.ofs; { q with ofs := p.phys + q.ofs % 65536, host := p.host }
  { peer := s.selfDev, kind := r.kind, size := r.size, base := 0, lanes := r.lanes.map (fun q => far q.2) }

/-- Bytes of data of a lane of a request: its operands. -/
def kindBytes (k : RKind) (size : Nat) : Nat :=
  match k with
  | .load => 0
  | .store => size
  | .atom op => 4 * op.regs

/-- An execution whose application no flit has fixed yet. -/
def RExec.unplanned (r : RExec) : Bool := r.apply == 2 ^ 60

/-- Application and completion of an execution whose flits all have their slots (10 R232, R233, 15 R325, assumption 7): it applies no
earlier than its last flit is there, nor than earlier executions of its group at its target, nor than a fence before it allows (11 R242),
and completes one way later; both turns are free within the bound. -/
def State.planExec (s : State) (r : RExec) : State :=
  let h := s.hops (peerOf r.peer)
  let w := wayTurns h
  let prev := (s.remotes.filter (fun q => q.gid == r.gid && peerOf q.peer == peerOf r.peer && q.ident < r.ident)).foldl (fun m q => Nat.max m q.apply) 0
  let last := (s.pat.acks.flatMap (fun q => q.2.filter (fun f => f.ident == r.ident))).foldl (fun m f => Nat.max m f.tick) 0
  let a := Nat.max (Nat.max prev r.floor) (Nat.max (r.issue + 1) (ceilDiv (last + 540 * h) 16))
  let g := s.group r.gid
  let (d, s) := s.drawFor g [2, r.seq, r.ident - r.first] (r.issue + 40 + 68 * h - (a + w) + 1)
  let (n, s) := s.drawFor g [3, r.seq, r.ident - r.first] (d + 1)
  { s with remotes := s.remotes.map (fun q => if q.ident = r.ident then { q with apply := a + n, land := a + w + d, done := a + w + d } else q) }

/-- Executions are planned in their order, none before one of its group and target whose flits wait for a slot. -/
def State.planExecs (s : State) : State :=
  s.remotes.foldl (fun s r =>
    if r.unplanned && !s.pat.held.any (fun f => f.ident == r.ident)
      && !s.remotes.any (fun q => q.unplanned && q.gid == r.gid && peerOf q.peer == peerOf r.peer && q.ident < r.ident) then s.planExec r else s) s

/-- Flits that wait for a slot take one, in their order, as far as there are slots (15 R323, R329). -/
def State.sendHeld (s : State) : State :=
  (s.pat.held.foldl State.sendData { s with pat := { s.pat with held := [] } }).planExecs

/-- A lane of an atomic execution whose page at the peer, as the lease's translation has it, does not carry class pod (16 R365). -/
def State.atomShort (s : State) (g : Group) (r : RExec) : Option (Nat × RLane) :=
  match r.kind with
  | .atom _ => if peerOf r.peer = s.selfDev then none else r.lanes.find? (fun q => (s.leasePage g r.peer q.2.ofs).atomOk < 2)
  | _ => none

/-- An execution is sent (10 R231, R232): its request goes out in open slots, in as many flits as it needs (15 R322-R325). Without a
valid lease, or as an atomic on a page that does not carry it, it is an isolation violation and is not sent (16 R363, R365). One that
goes later than planned takes those behind it and the group's next issue with it. -/
def State.sendRemote (s : State) (gid : Nat) : State :=
  let g := s.group gid
  match g.runq with
  | [] => s
  | r :: rest =>
    match r.lanes.find? (fun q => !s.leaseOk g r.peer q.2.ofs) with
    | some q => s.violateAt gid r.pc 4 (BitVec.ofNat 64 q.2.ofs) r.peer
    | none =>
      match s.atomShort g r with
      | some q => s.violateAt gid r.pc 6 (BitVec.ofNat 64 q.2.ofs) r.peer
      | none =>
        let peer := peerOf r.peer
        let d := s.turn - r.issue
        let req := s.request g r
        let s := ({ s with remotes := s.remotes ++ [{ r with issue := s.turn, apply := 2 ^ 60, land := 2 ^ 60, done := 2 ^ 60 }] } : State).modGroup gid
          (fun g => { g with runq := rest.map (fun q => { q with issue := q.issue + d }), next := g.next + d })
        let s := if peer = s.selfDev then s
          else (flitGroups (kindBytes r.kind r.size) req.lanes).foldl (fun s ls =>
            s.sendData { ident := r.ident, peer := peer, body := .request { req with lanes := ls } }) s
        s.planExecs

/-- A lane of the execution has since issued a word before which the execution takes effect. -/
def RExec.fronted (r : RExec) (g : Group) : Bool :=
  r.lanes.any (fun q => r.seq ≤ (g.lane q.1).front || (r.kind != .store && r.seq ≤ (g.lane q.1).frontRd))

/-- The turn at which an execution applies: that which was drawn for it; on this device's own memory, once a release, a fence or a barrier
of one of its lanes stands behind it or behind a later one of its group there, the first that it can have (10 R232, 11 R242, R243, R250). -/
def State.applyTurn (s : State) (r : RExec) : Nat :=
  if peerOf r.peer = s.selfDev ∧ (s.remotes.any (fun q => q.gid == r.gid && peerOf q.peer == s.selfDev && r.ident ≤ q.ident && q.fronted (s.group r.gid)))
  then Nat.min r.apply (Nat.max (r.issue + 1) r.floor) else r.apply

/-- The next execution that is due to apply: least application turn, then order of issue. -/
def State.nextApply (s : State) : Option RExec :=
  s.remotes.foldl (fun b r =>
    if r.applied || s.turn < s.applyTurn r then b
    else match b with
      | none => some r
      | some q => if s.applyTurn r < s.applyTurn q || (s.applyTurn r == s.applyTurn q && r.ident < q.ident) then some r else b) none

/-- A loaded far value extended to its registers (04 R77). -/
def rmtExtend (n : Nat) (signed : Bool) (v : Nat) : Nat :=
  if signed && 2 ^ (8 * n - 1) ≤ v then v + 2 ^ 32 - 2 ^ (8 * n) else v

/-- An execution on this device's own memory, lanes ascending (10 R232, R235). -/
def State.applySelf (s : State) (e : Extent) (r : RExec) : State × List LRes × List Nat :=
  let n := r.size
  match r.kind with
  | .load =>
    r.lanes.foldl (fun (p : State × List LRes × List Nat) q =>
      let (bs, bad) := s.farRead e q.2.ofs n
      if bad then (p.1, p.2.1, p.2.2 ++ [q.1])
      else (p.1, p.2.1 ++ [{ lane := q.1, ws := toWords (if n = 8 then 2 else 1) (rmtExtend n r.signed (leNat bs)) }], p.2.2)) (s, [], [])
  | .atom op =>
    r.lanes.foldl (fun (p : State × List LRes × List Nat) q =>
      match p.1.farAtomic e op q.2 with
      | (s', some old) => (s', p.2.1 ++ [{ lane := q.1, ws := toWords op.regs old }], p.2.2)
      | (s', none) => (s', p.2.1, p.2.2 ++ [q.1])) (s, [], [])
  | .store =>
    let s' := r.lanes.foldl (fun s q => s.farWrite e q.2.ofs (toBytes n q.2.b.toNat) false) s
    let full := (coveredBy (r.lanes.flatMap (fun q => (List.range n).map (q.2.ofs + ·)))).filterMap (fun g => e.seg (64 * g))
    (full.foldl (fun s p => if p.1.host then { s with host := s.host.unmark [p.2 / 64] } else { s with hbm := s.hbm.unmark [p.2 / 64] }) s', [], [])

/-- Results of an execution at a peer: the peer's memory is not part of this device, so the values are free, and whether a lane
meets a poisoned granule there, which quenches it (10 R235, assumption 4); the same in replay-identical runs (12 R254). -/
def State.applyPeer (s : State) (r : RExec) : State × List LRes × List Nat :=
  match r.kind with
  | .store => (s, [], [])
  | _ =>
    let nr := match r.kind with
      | .atom op => op.regs
      | _ => if r.size = 8 then 2 else 1
    r.lanes.foldl (fun (p : State × List LRes × List Nat) q =>
      let tags := [r.seq, r.ident - r.first, q.1]
      let (bad, s) := p.1.drawFor (p.1.group r.gid) (4 :: tags) 2
      let (v, s) := s.drawFor (s.group r.gid) (5 :: tags) (2 ^ 64)
      if bad = 1 then (s, p.2.1, p.2.2 ++ [q.1])
      else (s, p.2.1 ++ [{ lane := q.1, ws := toWords nr (rmtExtend r.size r.signed (v % 2 ^ (8 * r.size))) }], p.2.2))
      (s, [], [])

/-- A lease that this device has granted to a device covers an access to its memory (16 R363, R365): the range is translated there
with that access, an atomic needs class pod, and no lease grants a write to a mirrored page (18 R408). -/
def State.grantCovers (s : State) (dev : Nat) (k : RKind) (host : Bool) (a n : Nat) : Bool :=
  s.pat.granted.any (fun g => g.dev == dev && (match k with
    | .load => g.ext.canRead
    | .store => g.ext.canWrite
    | .atom _ => g.ext.canRead && g.ext.canWrite && decide (2 ≤ g.ext.atom)) && g.ext.segs.any (fun q =>
      q.host == host && decide (q.phys ≤ a) && decide (a + n ≤ q.phys + q.len) && (match k with
        | .load => true
        | .store => !q.mir
        | .atom _ => !q.mir && decide (2 ≤ q.atomOk))))

/-- The values of a peer's request go back in open slots, in as many flits as they need (15 R322-R324). -/
def State.sendReply (s : State) (r : RReq) (vals : List (Option DWord)) : State :=
  if r.peer = s.selfDev then s
  else (flitGroups r.size vals).foldl (fun s vs => s.sendData { peer := r.peer, body := .reply vs }) s

/-- This device's memories as one stretch, HBM4 first and its host's memory from 2^64 on. -/
def farSpan : Extent :=
  { base := 0, size := 0, acc := 3, atom := 3,
    segs := [{ ofs := 0, len := Config.hbmBytes, phys := 0, host := false, atomOk := 3, mir := false },
             { ofs := 2 ^ 64, len := 2 ^ 64, phys := 0, host := true, atomOk := 3, mir := false }] }

/-- A request of a peer applies at its target in this device's memory or in its host's (10 R232, R235, 16 R360); loads and atomics send
their values back. A request without a lease for all of it does nothing, nor does a write to a page that is mirrored now (16 R363, 18 R408).
Data that a flit marks as poisoned marks the granules it reaches (15 R324, 10 R221). -/
def State.applyRequest (s : State) (r : RReq) (poison : Bool := false) : State :=
  let x : RExec := { ident := 0, gid := 0, peer := 0, kind := r.kind, size := r.size, signed := false,
                     lanes := mapFrom (fun i l => (i, { l with ofs := r.base + l.ofs + if l.host then 2 ^ 64 else 0 })) 0 r.lanes, dst := .spec 0, seq := 0, pc := 0,
                     issue := 0, apply := 0, land := 0, done := 0, acq := false, applied := false, res := [], quench := [] }
  if !r.lanes.all (fun l => s.grantCovers r.peer r.kind l.host (r.base + l.ofs) r.size) then s
  else if r.kind ≠ .load ∧ r.lanes.any (fun l => !l.host && s.mirroredAt (r.base + l.ofs) r.size) then s
  else
    let (s', res, _) := s.applySelf farSpan x
    let marks := fun (host : Bool) => (r.lanes.filter (fun l => l.host == host)).flatMap (fun l => granules (r.base + l.ofs) r.size)
    let s' : State := if poison && r.kind != .load then { s' with hbm := s'.hbm.mark (marks false), host := s'.host.mark (marks true) } else s'
    match r.kind with
    | .store => s'
    | _ => s'.sendReply r (mapFrom (fun i _ => ((res.find? (fun q => q.lane == i)).map (fun q => BitVec.ofNat 64 (ofWords q.ws)))) 0 r.lanes)

/-- A lane of an atomic on this device's own memory whose page does not allow the class it needs (16 R365). -/
def State.atomDenied (s : State) (e : Extent) (r : RExec) : Option (Nat × RLane) :=
  match r.kind with
  | .atom _ => r.lanes.find? (fun q => match e.seg q.2.ofs with
    | some (y, _) => y.atomOk < s.rmtClass e r.peer q.2.ofs
    | none => false)
  | _ => none

/-- REMOTE_APPLY (10 R232, 15 R337): a peer's request as it reaches this device's memory while open slots carry traffic, or the next execution of this device
that applies at its target. -/
def execRemoteApply (src : Option RReq) (s : State) : Outcome State Fault Refusal :=
  match src with
  | some r => .next (s.served (fun s => if s.pat.st = 1 then s.applyRequest r else s))
  | none =>
    match s.nextApply with
    | none => .fault .noObject
    | some r =>
      let set := fun (s : State) (res : List LRes) (q : List Nat) =>
        { s with remotes := s.remotes.map (fun y => if y.ident == r.ident then { y with applied := true, res := res, quench := q } else y) }
      if peerOf r.peer = s.selfDev then
        match s.ext (s.group r.gid) (rngOf r.peer) with
        | some e =>
          match s.atomDenied e r with
          | some q => .next (set (s.violateAt r.gid r.pc 6 (BitVec.ofNat 64 q.2.ofs) r.peer) [] [])
          | none => let (s, res, q) := s.applySelf e r; .next (set s res q)
        | none => .next (set s [] [])
      else let (s, res, q) := s.applyPeer r; .next (set s res q)

/-- What waits for an execution of its group goes on no earlier than the turn after its completion: the group (10 R234, 11 R247),
and a semaphore access that is a release (14 R313). -/
def State.freeWaiters (s : State) (r : RExec) : State :=
  let u := s.turn + 1
  let sems := s.semq.any (fun q => q.gid == r.gid && r.ident < q.after)
  ({ s with semq := s.semq.map (fun q => if q.gid == r.gid && r.ident < q.after then { q with turn := Nat.max q.turn u } else q) } : State).modGroup r.gid
    (fun g => { g with rnext := u, hold := if r.ident < g.rwait || r.acq || sems then Nat.max g.hold u else g.hold })

/-- REMOTE_COMPLETE (10 R233, R235): the execution's result lands in this turn, or its store is acknowledged. -/
def execRemoteComplete (ident : Nat) (s : State) : Outcome State Fault Refusal :=
  match s.remotes.find? (fun r => r.ident == ident) with
  | none => .fault .noObject
  | some r =>
    let s := ({ s with remotes := s.remotes.filter (fun q => q.ident != ident) } : State).freeWaiters r
    let mine := r.lanes.map (·.1)
    .next (match r.kind with
    | .store => s
    | _ => s.modGroup r.gid (fun g =>
        let rest := g.pend.filterMap (fun p =>
          if p.seq == r.seq && p.due == 2 ^ 60 then
            let q := p.res.filter (fun z => !mine.contains z.lane)
            if q.isEmpty then none else some { p with res := q }
          else some p)
        { g with pend := rest ++ [{ due := s.turn, seq := r.seq, dst := r.dst, res := r.res, pc := r.pc, kind := .rmt, quench := r.quench }] }))

end Sys2Proof.Machine
end

