-- ==== Sys2Proof/Machine/Sync.lean ====
section
/-! DEFINITION. Barriers, byte counters, stage rings, semaphores and `podt` (14 R304-R313, R315), the expiry of `waitc`
(13 R288) and the barrier watchdog (14 R312). -/

namespace Sys2Proof.Machine

open Host (Outcome)

/-- ACCESS, cause INDEX, for every lane in `sel`. -/
def State.badIndex (s : State) (x : Ctx) (v : Word) : State := s.parkEach x 0x0B accIndex (fun _ => v)

/-! Barriers -/

/-- `bar` (14 R308). -/
def execBar (c : Ctl) (s : State) : Outcome State Fault Refusal :=
  withIssue (.bar c) s (fun x s => x.lanes.foldl (fun s l => s.waitLane x l .bar x.tick) s)

/-- `gbar` (14 R310). -/
def execGbar (c : Ctl) (s : State) : Outcome State Fault Refusal :=
  withIssue (.gbar c) s (fun x s => x.lanes.foldl (fun s l => s.waitLane x l .gbar x.tick) s)

/-- A landing counter meets a target (14 R311). -/
def lcMet (lc : List Word) (i : Nat) (target : Word) : Bool := (lc.getD i 0 - target).toNat < 2 ^ 31

/-- `bbar` (14 R304, R311). -/
def execBbar (c : Ctl) (a b : Opnd) (s : State) : Outcome State Fault Refusal :=
  withIssue (.bbar c a b) s (fun x s =>
    let i := x.low32 s a
    let t := x.low32 s b
    if x.sel = 0 then s
    else if 15 < i.toNat then s.badIndex x i
    else if lcMet (s.block x.g.block).lc i.toNat t then s
    else x.lanes.foldl (fun s l => s.waitLane x l (.bbar i.toNat t) x.tick) s)

/-- Every live lane of the group waits, unmet, at a word with this condition (14 R308, R310); a group in a handler never does
(17 R389). -/
def Group.allWait (g : Group) (k : Cond) : Bool :=
  g.hphase == .idle && !g.finished && g.lanes.all (fun l => !l.isLive || (l.trec.isNone && (match l.wait with
    | some w => w.met.isNone && w.cond == k
    | none => false)))

/-- Latest tick at which a waiting lane of the group arrived (21 R425). -/
def Group.since (g : Group) : Nat := g.lanes.foldl (fun m l => match l.wait with
  | some w => Nat.max m w.since
  | none => m) 0

def Group.horizonMax (g : Group) : Nat := Nat.max g.hl g.hs

/-- The next of the groups of a block that have arrived and are not yet entered, in the order of arrival tick and quarter
(14 R308, 21 R425). -/
def State.barArrival (s : State) (b : Nat) : Option Nat :=
  let key := fun (i : Nat) => 4 * (s.group i).since + (s.group i).quarter
  (sortBy (fun i j => key i ≤ key j) ((s.block b).groups.filter (fun i => !(s.group i).arrived && (s.group i).allWait .bar))).head?

/-- A group arrives at the block barrier (14 R308). -/
def State.arriveBar (s : State) (b i : Nat) : State :=
  let g := s.group i
  (s.modGroup i (fun g => { g with arrived := true })).modBlock b (fun x =>
    { x with bar := { x.bar with arrived := x.bar.arrived ++ [i]
                                 first := some (Nat.min (x.bar.first.getD g.since) g.since) } })

/-- The groups of the open generation that have arrived and still stand so: a group whose last lanes have been quenched since, or
of which a lane has parked, has not (14 R308). -/
def State.barHere (s : State) (b : Nat) : List Nat := (s.block b).bar.arrived.filter (fun i => (s.group i).allWait .bar)

/-- The open generation is full: NBAR less the extinguished groups have arrived (14 R308). -/
def State.barFull (s : State) (b : Nat) : Bool :=
  let x := s.block b
  let e := (x.groups.filter (fun i => (s.group i).extinguished)).length
  !x.bar.arrived.isEmpty && (s.grid x.grid).desc.nbar ≤ (s.barHere b).length + e

/-- The largest horizon of some groups: while they stand arrived no word moves it (14 R309). -/
def State.horizonOf (s : State) (gs : List Nat) : Nat := gs.foldl (fun m i => Nat.max m (s.group i).horizonMax) 0

/-- The open generation closes at turn a, with H of the groups that stand arrived; with DET set its release waits for the BAR flush (14
R309). -/
def State.closeBar (s : State) (b : Nat) : State :=
  let x := s.block b
  let det := (s.grid x.grid).desc.det
  let h := s.horizonOf (s.barHere b)
  let n : BarGen := { at_ := s.turn, first := x.bar.first.getD 0, hold := h,
                      release := if det then none else some (Nat.max (s.turn + 1) (h + 1)), parts := s.barHere b }
  let s := x.bar.arrived.foldl (fun s i => s.modGroup i (fun g => { g with arrived := g.allWait .bar })) s
  s.modBlock b (fun x => { x with bar := { gen := x.bar.gen + 1, closed := x.bar.closed ++ [n] } })

/-- The BAR flush at the first tick of turn a + 1, for the generations that closed before (12 R265, 14 R309). -/
def State.barFlush (s : State) (b : Nat) : State :=
  let x := s.block b
  let (s, n, last) := s.flush x.core s.turn (16 * s.turn)
  s.modBlock b (fun x => { x with bar := { x.bar with closed := x.bar.closed.map (fun q =>
    if q.release.isNone && q.at_ < s.turn then { q with release := some (Nat.max (Nat.max (q.at_ + 1) (q.hold + 1)) (if n = 0 then 0 else last + 1)) }
    else q) } })

/-- BARRIER_RELEASE (14 R309): the condition is met at tick 16r for the waiting lanes of the arrived groups. -/
def execBarrierRelease (b : Nat) (s : State) : Outcome State Fault Refusal :=
  match tget s.blocks b with
  | none => .fault .noObject
  | some x =>
    let due := fun (q : BarGen) => match q.release with
      | some r => r ≤ s.turn
      | none => false
    let gs := (x.bar.closed.filter due).flatMap (·.parts)
    let s' := s.modBlock b (fun x => { x with bar := { x.bar with closed := x.bar.closed.filter (fun q => !due q) } })
    .next (gs.foldl (fun s i => s.modGroup i (fun g =>
      { g.meet (fun c => c == .bar) (16 * s.turn) with arrived := false })) s')

/-- The gang of a block, as a key of the grid's gang barriers: without gangs each block is its own (14 R310). -/
def State.gangKey (s : State) (b : Nat) : Nat :=
  let x := s.block b
  if (s.grid x.grid).desc.nblkg = 0 then x.blockId else x.gang

/-- The blocks of a gang, those that have been released among them. -/
def State.gangBlocks (s : State) (gr gang : Nat) : List Nat :=
  (s.blocks.filter (fun p => p.2.grid == gr && s.gangKey p.1 == gang)).map (·.1)

/-- Every group of the block is finished or extinguished. -/
def State.blockGone (s : State) (b : Nat) : Bool := (s.block b).groups.all (fun i => (s.group i).finished)

/-- The block has arrived at its gang's barrier (14 R310). -/
def State.gangWaits (s : State) (b : Nat) : Bool :=
  !s.blockGone b && (s.block b).groups.all (fun i => (s.group i).finished || (s.group i).allWait .gbar)

def State.gangBar (s : State) (gr gang : Nat) : Barrier := (tget (s.grid gr).gbars gang).getD {}
def State.modGang (s : State) (gr gang : Nat) (f : Barrier → Barrier) : State :=
  s.modGrid gr (fun r => { r with gbars := tset r.gbars gang (f ((tget r.gbars gang).getD {})) })

/-- The block is in the open generation or in one that has closed and not released. -/
def Barrier.holds (k : Barrier) (b : Nat) : Bool := k.arrived.contains b || k.closed.any (fun q => q.parts.contains b)

/-- A block arrives at the gang barrier (14 R310). -/
def State.arriveGang (s : State) (b : Nat) : State :=
  let x := s.block b
  let gs := x.groups.map s.group
  let ticks := (gs.filter (fun g => !g.finished)).map Group.since ++ (s.gangBar x.grid (s.gangKey b)).first.toList
  s.modGang x.grid (s.gangKey b) (fun k => { k with
    arrived := k.arrived ++ [b]
    first := ticks.head?.map (fun t => ticks.foldl Nat.min t) })

/-- The blocks of the open generation that have arrived and still stand so (14 R310). -/
def State.gangHere (s : State) (gr gang : Nat) : List Nat := (s.gangBar gr gang).arrived.filter s.gangWaits

/-- The blocks of the gang with no live group, which count as arrived (14 R310). -/
def State.gangGone (s : State) (gr gang : Nat) : List Nat := (s.gangBlocks gr gang).filter s.blockGone

/-- The open generation of the gang barrier is full: NGBAR blocks have arrived, blocks with no live group counting, each block
once (14 R310). -/
def State.gangFull (s : State) (gr gang : Nat) : Bool :=
  let d := (s.grid gr).desc
  !(s.gangBar gr gang).arrived.isEmpty && (if d.nblkg = 0 then 1 else d.ngbar) ≤ (s.gangHere gr gang).length + (s.gangGone gr gang).length

/-- The gang's blocks stand on both dies (14 R302). -/
def State.gangSpans (s : State) (gr gang : Nat) : Bool :=
  let ds := (s.gangBlocks gr gang).map (fun b => dieOf (s.block b).core)
  ds.contains 0 && ds.contains 1

/-- The open generation closes (14 R310): H is taken over the groups of all its arrived blocks, those with no live group among
them. -/
def State.closeGang (s : State) (gr gang : Nat) : State :=
  let parts := s.gangHere gr gang
  let h := s.horizonOf ((parts ++ s.gangGone gr gang).flatMap (fun b => (s.block b).groups))
  let r := Nat.max (h + 1) (s.turn + if s.gangSpans gr gang then 8 else 2)
  s.modGang gr gang (fun k => { gen := k.gen + 1, closed := k.closed ++ [{ at_ := s.turn, first := k.first.getD 0, hold := h, release := some r, parts := parts }] })

/-- GANG_BARRIER_RELEASE (14 R310). -/
def execGangBarrierRelease (gr gang : Nat) (s : State) : Outcome State Fault Refusal :=
  match (tget s.grids gr).bind (fun r => tget r.gbars gang) with
  | none => .fault .noObject
  | some k =>
    let due := fun (q : BarGen) => match q.release with
      | some r => r ≤ s.turn
      | none => false
    let bs := (k.closed.filter due).flatMap (·.parts)
    let s' := s.modGang gr gang (fun k => { k with closed := k.closed.filter (fun q => !due q) })
    .next (bs.foldl (fun s b => (s.block b).groups.foldl (fun s i => s.modGroup i (fun g =>
      g.meet (fun c => c == .gbar) (16 * s.turn))) s) s')

/-! Waits for a tick, and the watchdog -/

/-- WAITC_EXPIRE (13 R288): lanes whose target tick falls by the end of this turn have met it at that tick. -/
def execWaitcExpire (g : Nat) (s : State) : Outcome State Fault Refusal :=
  match tget s.groups g with
  | none => .fault .noObject
  | some x => .next (s.setGroup g { x with lanes := x.lanes.map (fun l =>
      match l.wait with
      | some w =>
        match w.cond with
        | .tick t => if w.met.isNone && t ≤ 16 * s.turn + 15 then { l with wait := some { w with met := some t } } else l
        | _ => l
      | none => l) })

/-- The ticks from which the watches of the partition count (14 R312): the watch of a barrier counts from its first group's
arrival, at `gbar` also before the group's block has arrived (21 R425, 17 R389), that of a lane at `bbar` from its issue. -/
def State.watchStarts (s : State) (p : Nat) : List Nat :=
  (s.blocks.filter (fun b => (s.grid b.2.grid).pid == p && !b.2.released)).flatMap (fun b =>
    b.2.bar.first.toList ++ b.2.bar.closed.map (·.first))
    ++ (s.grids.filter (fun r => r.2.pid == p)).flatMap (fun r => r.2.gbars.flatMap (fun k => k.2.first.toList ++ k.2.closed.map (·.first)))
    ++ ((s.groups.filter (fun g => g.2.pid == p && g.2.allWait .gbar)).map (fun g => g.2.since))
    ++ (s.groups.filter (fun g => g.2.pid == p)).flatMap (fun g => g.2.lanes.filterMap (fun l => match l.wait with
      | some q => (match q.cond, q.met with
        | .bbar _ _, none => some q.since
        | _, _ => none)
      | none => none))

/-- The first tick at which a watch of the partition reaches BWDOG (14 R312): a BWDOG that a write has lowered below the time
already waited is reached at the tick of that write. -/
def State.watchTick (s : State) (p : Nat) : Option Nat :=
  match s.watchStarts p with
  | [] => none
  | a :: t => some (Nat.max (t.foldl Nat.min a + (s.part p).bwdog.toNat) (s.part p).bwdogAt)

/-- The watch of the partition is on (14 R312, 17 R395): it runs, it is on its way to a halt, or it is within the skid of another
context fault and WATCHDOG is not yet among its faults. -/
def State.watching (s : State) (p : Nat) (t : Nat) : Bool :=
  let q := s.part p
  q.st == .running || (q.st == .stopping && (q.haltBy || (t ≤ q.haltTick.getD 0 + 2048 && !q.fsum.getLsbD 2 && q.faults.all (fun f => f.bit != 2))))

/-- WATCHDOG (14 R312): the partition takes context fault WATCHDOG, at the tick at which the watch reaches BWDOG; a watch that a
restored or resumed context finds already past it fires now. -/
def execWatchdog (p : Nat) (s : State) : Outcome State Fault Refusal :=
  if p < 8 then
    let t := (s.watchTick p).getD s.now
    .next (s.raise p { bit := 2, tick := if t < 16 * s.turn then s.now else t })
  else .fault .noObject

/-! Stage rings -/

/-- Header words of a ring (14 R305). -/
def ringWord (r : Ram) (h i : Nat) : Nat := r.nat (h + 4 * i) 4

/-- NENT, HEAD or TAIL out of range (14 R306 check 3). -/
def ringBad (r : Ram) (h : Nat) : Bool :=
  let n := ringWord r h 0
  n = 0 || 1024 < n || 2 * n ≤ ringWord r h 1 || 2 * n ≤ ringWord r h 2

/-- What a ring operation finds: its condition unmet, a bad count, entries outside the allocation, or its effect: bytes
written and the values for D (14 R306). -/
inductive RingRes where
  | unmet | bad | outside | done (ws : List (Nat × Word)) (d : List Word)
  deriving DecidableEq, Repr

/-- A ring operation on the bytes as they stand (14 R306): `op` 0 put, 1 get, 2 peek. -/
def ringTry (r : Ram) (size h op : Nat) (v : Word) : RingRes :=
  let n := ringWord r h 0
  let hd := ringWord r h 1
  let tl := ringWord r h 2
  if ringBad r h then .bad
  else if size < h + 0x40 + 8 * n then .outside
  else
    let ent := fun (c : Nat) => h + 0x40 + 8 * (c % n)
    let lap := fun (c : Nat) => c / n
    if op = 0 then
      if n ≤ (hd + 2 * n - tl) % (2 * n) then .unmet
      else
        let ph := r.nat (ent hd + 4) 4 / 2 * 2 + (1 - lap hd)
        .done [(ent hd, v), (ent hd + 4, BitVec.ofNat 32 ph), (h + 4, BitVec.ofNat 32 ((hd + 1) % (2 * n)))] []
    else
      let full := r.nat (ent tl + 4) 4 % 2 = 1 - lap tl
      let val := BitVec.ofNat 32 (r.nat (ent tl) 4)
      if op = 1 then (if full then .done [(h + 8, BitVec.ofNat 32 ((tl + 1) % (2 * n)))] [val] else .unmet)
      else .done [] (if full then [val, 1] else [0, 0])

/-- The checks of 14 R306 at issue, then the access waits for its bank turn. -/
def ringIssue (x : Ctx) (op : Nat) (a : Opnd) (v : Word) (d : Opnd) (nd : Nat) (s : State) : State :=
  if x.sel = 0 then s
  else
    let hw := x.low32 s a
    let h := hw.toNat
    let size := (s.grid x.g.grid).desc.bscr
    let sp := Space.blk x.g.block
    let r := s.ram sp
    let k : AccShape := { die := false, n := 64, reads := op != 0, writes := op == 0, rel := op == 0 }
    let bank := s.turn + 1
    if size < h + 64 then s.violate x 2 (hw.setWidth 64)
    else if h % 64 ≠ 0 then s.parkEach x 0x0B accAlign (fun _ => hw)
    else if ringBad r h then s.badIndex x hw
    else
      let n := ringWord r h 0
      if size < h + 0x40 + 8 * n then s.violate x 2 (BitVec.ofNat 64 (h + 0x40))
      else
        let c := if op = 0 then ringWord r h 1 else ringWord r h 2
        let wr := op != 2
        if s.busy sp h 12 wr || s.busy sp (h + 0x40 + 8 * (c % n)) 8 wr then s.parkEach x 6 0 (fun _ => hw)
        else if !orderOk x.g k bank then s.parkEach x 5 2 (fun _ => 0)
        else
          let op' := if op = 0 then AccOp.put else if op = 1 then .get else .peek
          let s := s.enqueue x sp bank op' (x.lanes.map (fun l => { lane := l, adr := h, b := [v], sig := (x.g.lane l).sig })) d
          let s := s.modGroup x.gid (fun g => g.horizon k bank s.turn)
          if nd = 0 then s else s.reserve x (if op = 1 then s.turn + 2 else s.turn + 2) d nd

def execRingPut (c : Ctl) (a b : Opnd) (s : State) : Outcome State Fault Refusal :=
  withIssue (.ringPut c a b) s (fun x s => ringIssue x 0 a (x.low32 s b) (.spec 0) 0 s)

def execRingGet (c : Ctl) (d a : Opnd) (s : State) : Outcome State Fault Refusal :=
  withIssue (.ringGet c d a) s (fun x s => ringIssue x 1 a 0 d 1 s)

def execRingPeek (c : Ctl) (d a : Opnd) (s : State) : Outcome State Fault Refusal :=
  withIssue (.ringPeek c d a) s (fun x s => ringIssue x 2 a 0 d 2 s)

/-- The words that a ring operation writes, as one access of the group. -/
def State.ringWrite (s : State) (sp : Space) (gid lane : Nat) (ws : List (Nat × Word)) : State :=
  ws.foldl (fun s w => s.scratchWrite sp w.1 (toBytes 4 w.2.toNat) false (some (gid, lane))) s

/-- A get or peek that returned a full entry is an acquire (14 R306, 09 R202). -/
def Group.ringAcquire (g : Group) (bank : Nat) : Group :=
  { g with hl := Nat.max g.hl bank, reqs := g.reqs ++ [{ writesOnly := false, above := bank, acq := bank }] }

/-- A ring access at its first bank turn (14 R307): it applies, or its lanes wait. -/
def State.applyRing (s : State) (x : Access) (op : Nat) : State :=
  match x.lanes with
  | [] => s
  | l0 :: _ =>
    let lanes := x.lanes.map (·.lane)
    let v := l0.b.headD 0
    let drop := fun (g : Group) => { g with pend := g.pend.filter (fun p => p.seq != x.seq) }
    match ringTry (s.ram x.space) (s.spaceSize x.space) l0.adr op v with
    | .done ws d =>
      let s := (s.ringWrite x.space x.gid l0.lane ws).fillRes x.gid x.seq (lanes.map (fun l => { lane := l, ws := d }))
      if op = 1 || (op = 2 && d.getD 1 0 = 1) then s.modGroup x.gid (fun g => g.ringAcquire x.bank) else s
    | .bad =>
      (s.modGroup x.gid drop).parkBack x.gid (x.lanes.map (fun l => (l.lane, l.sig))) x.pc
        { trap := 0x0B, cause := accIndex, targ := BitVec.ofNat 32 l0.adr, word := s.wordAt (s.group x.gid) x.pc.toNat }
    | .outside => (s.modGroup x.gid drop).violateAt x.gid x.pc 2 (BitVec.ofNat 64 (l0.adr + 0x40))
    | .unmet =>
      let (id, s) := s.fresh
      s.modGroup x.gid (fun g =>
        let g := drop g
        let g := g.modLanes (maskOfList lanes) (fun l => if l.isLive && l.trec.isNone then
          { l with wait := some { cond := .ring id, since := x.tick }, w := 0 } else l)
        { g with rings := g.rings ++ [{ ident := id, put := op == 0, hdr := l0.adr, val := v, lanes := maskOfList lanes,
                                        sigs := x.lanes.map (fun l => (l.lane, l.sig)),
                                        dst := x.dst, pc := x.pc, tick := x.tick, seq := x.seq }] })

/-- Pending ring operations whose lanes still wait, of the groups of a core, in the order of their issue
(14 R307). -/
def State.ringQueue (s : State) (core : Nat) : List (Nat × RingOp) :=
  sortBy (fun a b => a.2.tick < b.2.tick || (a.2.tick == b.2.tick && ((s.group a.1).quarter < (s.group b.1).quarter
      || ((s.group a.1).quarter == (s.group b.1).quarter && a.2.seq ≤ b.2.seq))))
    ((s.groups.filter (fun p => p.2.core == core)).flatMap (fun p => p.2.rings.map (fun r => (p.1, r))))

/-- A ring operation leaves the pending ones; its lanes go on at the end of the frame, or park. -/
def Group.dropRing (g : Group) (id : Nat) : Group := { g with rings := g.rings.filter (fun r => r.ident != id) }

/-- One retry of a pending ring operation at this bank turn (14 R307). -/
def State.ringRetry (s : State) (gid : Nat) (r : RingOp) : State :=
  let g := s.group gid
  let sp := Space.blk g.block
  let lanes := (lanesOf r.lanes).filter (fun i => match (g.lane i).wait with
    | some w => w.cond == .ring r.ident
    | none => false)
  let op := if r.put then 0 else 1
  if lanes.isEmpty then s.modGroup gid (fun g => g.dropRing r.ident)
  else match ringTry (s.ram sp) (s.spaceSize sp) r.hdr op r.val with
    | .unmet => s.modGroup gid (fun g => { g with rings := g.rings.map (fun q => if q.ident == r.ident then { q with tried := s.turn } else q) })
    | .bad => (s.modGroup gid (fun g => (g.dropRing r.ident).modLanes (maskOfList lanes) (fun l => { l with wait := none }))).parkBack gid
        (r.sigs.filter (fun q => lanes.contains q.1)) r.pc { trap := 0x0B, cause := accIndex, targ := BitVec.ofNat 32 r.hdr, word := s.wordAt g r.pc.toNat }
    | .outside => (s.modGroup gid (fun g => g.dropRing r.ident)).violateAt gid r.pc 2 (BitVec.ofNat 64 (r.hdr + 0x40))
    | .done ws d =>
      let s := s.ringWrite sp gid (lanes.headD 0) ws
      s.modGroup gid (fun g =>
        let g := (g.dropRing r.ident).meet (fun c => c == .ring r.ident) (16 * s.turn)
        if r.put then { g with hs := Nat.max g.hs s.turn }
        else { g.ringAcquire s.turn with pend := g.pend ++ [{ due := s.turn + 1, seq := r.seq, dst := r.dst
                                                              res := lanes.map (fun l => { lane := l, ws := d }), pc := r.pc }] })

/-- The next pending ring operation of a core to try in this turn: at a bank turn after its first one, each once, in the
order of their issue (14 R307). -/
def State.ringNext (s : State) (core : Nat) : Option (Nat × RingOp) :=
  (s.ringQueue core).find? (fun q => q.2.tick / 16 + 1 < s.turn && q.2.tried != s.turn)

/-- RING_RETRY (14 R307): the group's next pending operation is tried at this bank turn. -/
def execRingRetry (g : Nat) (s : State) : Outcome State Fault Refusal :=
  match tget s.groups g with
  | none => .fault .noObject
  | some x =>
    match s.ringNext x.core with
    | some q => .next (if q.1 = g then s.ringRetry g q.2 else s)
    | none => .next s

/-! Semaphores -/

/-- `sem.post`, `signal` and `sem.wait` (14 R313): the access applies at its semaphore turn, for the first two after the
group's earlier remote executions, and the group is held. -/
def semWord (x : Ctx) (kind : Nat) (intr : Bool) (a b d : Opnd) (s : State) : State :=
  if x.sel = 0 then s
  else
    let i := x.low32 s a
    if 1023 < i.toNat then s.badIndex x i
    else
      let t := if kind = 2 then s.turn + 10 else Nat.max (Nat.max (s.turn + 10) x.g.rnext) (x.g.horizonMax + 1)
      let after := if kind = 2 then 0 else s.ident
      let (id, s) := s.fresh
      let q : SemAcc := { ident := id, pid := x.g.pid, turn := t, tick := x.tick, core := x.g.core, quarter := x.g.quarter,
                          gid := x.gid, sem := i.toNat, kind := kind, val := x.low32 s b, intr := intr, dst := d, sel := x.sel,
                          seq := x.seq, pc := x.pc, after := after }
      let s := { s with semq := s.semq ++ [q] }
      let s := s.modGroup x.gid (fun g => { g with hold := Nat.max g.hold (if kind = 2 then s.turn + 20 else t), rwait := Nat.max g.rwait after })
      if kind = 2 then s.reserve x (s.turn + 20) d 1 else s

def execSignal (c : Ctl) (intr : Bool) (a b : Opnd) (s : State) : Outcome State Fault Refusal :=
  withIssue (.signal c intr a b) s (fun x s => semWord x 1 intr a b (.spec 0) s)

def execSemWait (c : Ctl) (d a b : Opnd) (s : State) : Outcome State Fault Refusal :=
  withIssue (.semWait c d a b) s (fun x s => semWord x 2 false a b d s)

def execSemPost (c : Ctl) (a b : Opnd) (s : State) : Outcome State Fault Refusal :=
  withIssue (.semPost c a b) s (fun x s => semWord x 0 false a b (.spec 0) s)

/-- A semaphore with value v meets a target (14 R292). -/
def semMet (v w : Word) : Bool := (v - w).toNat < 2 ^ 31

def Part.sem (p : Part) (i : Nat) : Word := (tget p.sems i).getD 0
/-- An add to a semaphore; a zero is not listed (14 R292). -/
def Part.addSem (p : Part) (i : Nat) (v : Word) : Part :=
  let n := p.sem i + v
  { p with sems := if n = 0 then tdel p.sems i else tset p.sems i n }

/-- `podt` (14 R315). -/
def execPodt (c : Ctl) (d : Opnd) (s : State) : Outcome State Fault Refusal :=
  withIssue (.podt c d) s (fun x s => s.put x 1 d 2 (fun _ => x.tick))

end Sys2Proof.Machine
end

