-- ==== Sys2Proof/Machine/Place.lean ====
section
/-! DEFINITION. The traversal of a grid's units (14 R298, R299), the resources of a block (R301) and the places that
the scheduler finds for units (R300, R302, 12 R256). -/

namespace Sys2Proof.Machine

/-! Traversal -/

/-- Bits 0, 2, 4, … of a Morton code. -/
def evenBits : Nat → Nat → Nat
  | 0, _ => 0
  | n + 1, d => d % 2 + 2 * evenBits n (d / 4)

/-- The loop of the Hilbert order (14 R298). -/
def hilbertGo : Nat → Nat → Nat → Nat → Nat → Nat × Nat
  | 0, _, x, y, _ => (x, y)
  | n + 1, q, x, y, t =>
    let rx := t / 2 % 2
    let ry := (t + rx) % 2
    let x1 := if ry = 0 ∧ rx = 1 then q - 1 - x else x
    let y1 := if ry = 0 ∧ rx = 1 then q - 1 - y else y
    let x2 := if ry = 0 then y1 else x1
    let y2 := if ry = 0 then x1 else y1
    hilbertGo n (2 * q) (x2 + q * rx) (y2 + q * ry) (t / 4)

/-- Exponent of the side s of the square (14 R298). -/
def sideLog (w h : Nat) : Nat := if Nat.max w h ≤ 1 then 0 else Nat.log2 (Nat.max w h - 1) + 1

/-- Place (x, y) of code `c` in a `w` by `h` grid. -/
def codeXY (order w h c : Nat) : Nat × Nat :=
  match order with
  | 0 => (c % w, c / w)
  | 1 => (c / h, c % h)
  | 2 => (evenBits (sideLog w h) c, evenBits (sideLog w h) (c / 2))
  | _ => hilbertGo (sideLog w h) 1 0 0 c

/-- The first code from `c` on whose place lies inside; `fuel` bounds the search. -/
def nextCode (order w h : Nat) : Nat → Nat → Nat
  | 0, c => c
  | fuel + 1, c =>
    let p := codeXY order w h c
    if p.1 < w && p.2 < h then c else nextCode order w h fuel (c + 1)

/-- Units of a grid, and blocks. -/
def Desc.units (d : Desc) : Nat := d.gridx * d.gridy
def Desc.blocks (d : Desc) : Nat := d.units * Nat.max d.nblkg 1

/-- First column and width of the strip that unit `n` of the sequence lies in (14 R299). -/
def Desc.strip (d : Desc) (n : Nat) : Nat × Nat :=
  let w := if d.swz = 0 then d.gridx else 2 ^ d.swz
  let i := n / (w * d.gridy)
  (w * i, Nat.min w (d.gridx - w * i))

/-- Unit `n` of the sequence, found at or after code `c` of its strip, and the code it has (14 R298, R299). -/
def Desc.unitAt (d : Desc) (n c : Nat) : Nat × Nat :=
  let (x0, w) := d.strip n
  let k := nextCode d.order w d.gridy (4 ^ sideLog w d.gridy) c
  let p := codeXY d.order w d.gridy k
  (x0 + p.1 + d.gridx * p.2, k)

/-- The code from which the next unit is sought: 0 in a new strip. -/
def Desc.nextFrom (d : Desc) (n k : Nat) : Nat := if (d.strip (n + 1)).1 = (d.strip n).1 then k + 1 else 0

/-! Resources -/

/-- What a block takes on a core (14 R301). -/
structure Load where
  core : Nat
  q0 : Nat
  ngrp : Nat
  nregs : Nat
  bytes : Nat
  matrix : Bool
  det : Bool
  deriving DecidableEq, Repr

/-- The role code of a group (03 R75). -/
def Desc.role (d : Desc) (g : Nat) : Nat := d.roles / 16 ^ g % 16
def Desc.hasMatrix (d : Desc) : Bool := (List.range d.ngrp).any (fun g => d.role g == 2)
def Desc.load (d : Desc) (core q0 : Nat) : Load :=
  { core := core, q0 := q0, ngrp := d.ngrp, nregs := d.nregs, bytes := d.bscr + d.ngrp * d.spill, matrix := d.hasMatrix, det := d.det }

/-- Groups of a block in a quarter (01 R15). -/
def Load.groupsIn (l : Load) (q : Nat) : Nat := ((List.range l.ngrp).filter (fun j => (l.q0 + j) % 4 == q)).length

/-- A block fits beside the blocks resident on its core (01 R32, 09 R182, 07 R144, 12 R256). -/
def fits (ls : List Load) (n : Load) : Bool :=
  let same := ls.filter (fun l => l.core == n.core)
  let sum := fun (f : Load → Nat) => (same.map f).foldl (· + ·) (f n)
  (List.range 4).all (fun q => sum (fun l => l.groupsIn q) ≤ 64 && sum (fun l => l.groupsIn q * (256 * l.nregs)) ≤ 524288)
    && sum Load.bytes ≤ Config.blockScratch && !(n.matrix && same.any Load.matrix) && !(n.det && same.any Load.det)

/-- The lowest quarter for group 0 at which a block fits on a core (14 R300). -/
def firstQ (ls : List Load) (d : Desc) (core : Nat) : Option Load :=
  ((List.range 4).map (fun q => d.load core q)).find? (fits ls)

/-- Blocks placed one after another, block `j` on the dies that `die j` allows (14 R300, R302). -/
def placeAll (ls : List Load) (d : Desc) (order : List Nat) (die : Nat → Option Nat) : Nat → List Load → Option (List Load)
  | 0, acc => some acc
  | n + 1, acc =>
    let j := acc.length
    let ok := order.filter (fun c => match die j with
      | some x => dieOf c == x
      | none => true)
    match firstSome (fun c => firstQ (ls ++ acc) d c) ok with
    | some l => placeAll ls d order die n (acc ++ [l])
    | none => none

/-- Dies of a gang's blocks when block 0's part stands on die `x` (14 R302). -/
def gangDie (n x j : Nat) : Option Nat := some (if 8 < n ∧ (n + 1) / 2 ≤ j then 1 - x else x)

/-- The places of a unit's blocks (14 R300, R302). -/
def planUnit (ls : List Load) (d : Desc) (order : List Nat) : Option (List Load) :=
  if d.nblkg = 0 then placeAll ls d order (fun _ => none) 1 []
  else firstSome (fun c => if (firstQ ls d c).isSome then placeAll ls d order (gangDie d.nblkg (dieOf c)) d.nblkg [] else none) order

/-! The partition's cores -/

/-- Cores of a partition in ascending COREID (16 R349). -/
def State.coresOf (s : State) (p : Nat) : List Nat :=
  (List.range Config.cores).filter (fun c => (s.dev.play.extractLsb' (4 * (c / 24)) 4).toNat == p)
def State.diesOf (s : State) (p : Nat) : List Nat := (List.range 2).filter (fun d => (s.coresOf p).any (fun c => dieOf c == d))
/-- Units of a partition as a mask (16 R373). -/
def State.unitMask (s : State) (p : Nat) : Nat :=
  (List.range 8).foldl (fun m u => m + if (s.dev.play.extractLsb' (4 * u) 4).toNat = p then 2 ^ u else 0) 0
/-- Cores that the scheduler may use: the pattern may exclude some (18 R418). -/
def State.usableCores (s : State) (p : Nat) : List Nat :=
  (s.coresOf p).filter (fun c => !((s.pat.cur.map (·.excluded)).getD []).contains c)

/-- What the resident blocks take. -/
def State.loads (s : State) : List Load :=
  (s.blocks.filter (fun p => !p.2.released)).map (fun p => (s.grid p.2.grid).desc.load p.2.core p.2.q0)

/-- The partition's cores from a grid's cursor on, wrapping (14 R300). -/
def fromCursor (cores : List Nat) (cur : Nat) : List Nat := cores.filter (fun c => cur ≤ c) ++ cores.filter (fun c => c < cur)

end Sys2Proof.Machine
end

