-- ==== Sys2Proof/Machine/Records.lean ====
section
/-! DEFINITION. Event rings, completion records and stream interrupts (14 R316, R318, 16 R354), and the walk of the
page tables with its cached translations (16 R360-R362). -/

namespace Sys2Proof.Machine

/-! Translation -/

/-- What a walk finds at a page (16 R360, R361). -/
inductive WalkRes where
  | miss | bad | page (e : TEntry)
  deriving DecidableEq, Repr

/-- The walk for one virtual address (16 R360, R361, 18 R406), from the table at `tab` in host memory or in HBM4: TGT of an entry says where
the next table lies as it says where a page does. A FRAME at or beyond the 384 GiB of local HBM4 (00 R1) is no error here, and
the accesses through it read and write bytes there as in any memory; so do the engines and the scheduler at any other physical address
there: the spec gives no outcome (DESIGN CHOICE, assumption 82). -/
def walkFrom (hbm host : Ram) (asid gen va : Nat) : List (Nat × Nat) → Bool → Nat → WalkRes
  | [], _, _ => .bad
  | (sh, n) :: rest, out, tab =>
    let e := (if out then host else hbm).nat (tab + 8 * (va / 2 ^ sh % n)) 8
    let frame := e / 2 ^ 12 % 2 ^ 36 * 2 ^ 12
    let leaf := e / 8 % 2 == 1
    let tgt := e / 2 ^ 8 % 2 == 1
    let mir := e / 2 ^ 9 % 2 == 1
    if e % 2 = 0 then .miss
    else if e / 16 % 16 ≠ 0 ∨ e / 2 ^ 48 ≠ 0 ∨ (mir && tgt) = true then .bad
    else if leaf then
      if sh = 39 ∨ frame % 2 ^ sh ≠ 0 then .bad
      else .page { asid := asid, gen := gen, base := va / 2 ^ sh * 2 ^ sh, size := 2 ^ sh, phys := frame, host := tgt,
                   atomOk := e / 2 ^ 10 % 4, mir := mir, w := e / 4 % 2 == 1, rd := e / 2 % 2 == 1 }
    else if rest.isEmpty then .bad
    else walkFrom hbm host asid gen va rest tgt frame

/-- The translation of one page: a cached entry of this (ASID, GEN) serves unless it has been evicted, which is free;
otherwise the walk finds it and caches it (16 R362). -/
def State.lookup (s : State) (p va : Nat) : State × WalkRes :=
  let q := s.part p
  let walk := fun (s : State) =>
    match walkFrom s.hbm s.host q.asid q.gen va walkLevels false q.ptbase.toNat with
    | .page e => (s.modPart p (fun q => { q with tcache := q.tcache ++ [e] }), WalkRes.page e)
    | r => (s, r)
  match q.tcache.find? (fun e => e.asid == q.asid && e.gen == q.gen && e.base ≤ va && va < e.base + e.size) with
  | some e =>
    let (n, s) := s.drawNat 2
    if n = 0 then (s, .page e)
    else walk (s.modPart p (fun q => { q with tcache := q.tcache.filter (fun x => x != e) }))
  | none => walk s

/-- What the translation of a stretch gives (16 R361). -/
inductive TransRes where
  | ok (segs : List Seg) | miss (va : Nat) | bad
  deriving DecidableEq, Repr

/-- The pages of [va, e), from the virtual base `b`; `fuel` bounds their number. -/
def State.transFrom (s : State) (p b e acc atom : Nat) : Nat → Nat → List Seg → State × TransRes
  | 0, _, segs => (s, .ok segs)
  | fuel + 1, va, segs =>
    if e ≤ va then (s, .ok segs)
    else match s.lookup p va with
      | (s, .miss) => (s, .miss va)
      | (s, .bad) => (s, .bad)
      | (s, .page t) =>
        if (acc % 2 = 1 ∧ !t.rd) ∨ (acc / 2 % 2 = 1 ∧ !t.w) ∨ t.atomOk < atom then (s, .bad)
        else
          let stop := Nat.min e (t.base + t.size)
          let q : Seg := { ofs := va - b, len := stop - va, phys := t.phys + (va - t.base), host := t.host, atomOk := t.atomOk, mir := t.mir, size := t.size }
          s.transFrom p b e acc atom fuel stop (segs ++ [q])

/-- Translation of a stretch for read (1), write (2) or both (3) and an atomic class (16 R360, R361). -/
def State.translate (s : State) (p va size acc atom : Nat) : State × TransRes :=
  if 2 ^ 48 < va + size then (s, .bad) else s.transFrom p va (va + size) acc atom (size / 65536 + 2) va []

/-- A residency miss: PGVA keeps the oldest, and IVEC is raised (16 R361). -/
def State.pageMiss (s : State) (p va : Nat) : State :=
  let q := s.part p
  (s.modPart p (fun q => if q.pgv then q else { q with pgv := true, pgva := va / 65536 * 65536 })).emit (.msix q.ivec)

/-- Bytes through a translated stretch (16 R360). -/
def State.segRead (s : State) (segs : List Seg) (ofs n : Nat) : List Byte :=
  (s.farRead { base := 0, size := 0, acc := 3, atom := 0, segs := segs } ofs n).1

/-! Records -/

/-- A completion record (14 R316), TIME apart. -/
structure Rec where
  kind : Nat
  status : Nat := 0
  tag : Word := 0
  start : Nat := 0
  fsum : Nat := 0
  nlate : Nat := 0
  diverge : Bool := false
  slip : Bool := false
  nquench : Nat := 0
  ntrap : Nat := 0
  lstat : Word := 0
  amount : Word := 0
  nforced : Nat := 0
  gseq : Nat := 0
  deriving DecidableEq, Repr

/-- The 64 bytes of a record of stream `i` written at a tick (14 R316). -/
def Rec.bytes (r : Rec) (i time : Nat) : List Byte :=
  toBytes 4 (r.kind * 2 ^ 24 + r.status * 2 ^ 20 + i) ++ toBytes 4 r.tag.toNat ++ toBytes 8 time ++ toBytes 8 r.start
    ++ toBytes 4 r.fsum ++ toBytes 4 (r.nlate % 2 ^ 16 * 2 ^ 16 + (if r.diverge then 2 else 0) + (if r.slip then 1 else 0))
    ++ toBytes 4 r.nquench ++ toBytes 4 r.ntrap ++ toBytes 4 r.lstat.toNat ++ toBytes 4 r.amount.toNat ++ toBytes 4 r.nforced
    ++ toBytes 4 r.gseq ++ List.replicate 8 0

/-- The stream raises its interrupt and marks its records as signalled (14 R318). -/
def State.interrupt (s : State) (p i : Nat) : State :=
  (s.modStream p i (fun x => { x with unsig := 0, oldest := none })).emit (.msix (s.stream p i).svec)

/-- The event ring takes no record now: it is full, or it has no translation (16 R354, R360). -/
def Stream.full (x : Stream) : Bool := x.ewr - x.erd == x.esize || x.esegs.isEmpty

/-- One record written to the event ring, and the interrupt it may raise (14 R316, R318). -/
def State.writeRec (s : State) (p i : Nat) (bs : List Byte) (urgent : Bool) : State :=
  let x := s.stream p i
  let ofs := 64 * (x.ewr.toNat % Nat.max x.esize.toNat 1)
  let data := bs.take 8 ++ toBytes 8 s.now ++ bs.drop 16
  let s := match x.esegs.find? (fun q => q.ofs ≤ ofs && ofs < q.ofs + q.len) with
    | some q =>
      let a := q.phys + (ofs - q.ofs)
      if q.host then { s with host := s.host.write a data } else { s with hbm := s.hbm.write a data }
    | none => s
  let n := x.unsig + 1
  let s := s.modStream p i (fun x => { x with ewr := x.ewr + 1, unsig := n, oldest := x.oldest.or (some s.now) })
  if urgent || (x.ccount != 0 && x.ccount ≤ n) then s.interrupt p i else s

/-- Held records written in their order while the ring has room; `fuel` bounds their number (14 R318). -/
def State.flushRecs (s : State) (p i : Nat) : Nat → State
  | 0 => s
  | fuel + 1 =>
    let x := s.stream p i
    match x.held with
    | [] => s
    | h :: t => if x.full then s else ((s.modStream p i (fun x => { x with held := t })).writeRec p i h.1 h.2).flushRecs p i fuel

/-- A record goes to a stream's event ring, or waits (14 R318). -/
def State.putRec (s : State) (p i : Nat) (r : Rec) (intr : Bool) : State :=
  let urgent := intr || r.kind == 4 || (r.kind == 1 && r.status != 0)
  let s := s.modStream p i (fun x => { x with held := x.held ++ [(r.bytes i 0, urgent)] })
  s.flushRecs p i (s.stream p i).held.length

/-- A step of stream `i` on the semaphore table of this turn is noted (14 R292); 64 stands for the steps of completions, which
come after those of the streams (assumption 71). -/
def State.semStep (s : State) (p i : Nat) : State := s.modPart p (fun q => { q with semTurn := s.turn, semStream := i })

/-- CTIME_EXPIRE (14 R318): CTIME ticks have passed since the oldest unsignalled record. -/
def execCtimeExpire (p i : Nat) (s : State) : Host.Outcome State Fault Refusal :=
  if p < 8 then .next (s.interrupt p i) else .fault .noObject

/-- SEMAPHORE_TURN (14 R292, R313, R316): an access of a group to the semaphore table applies; a `signal` writes its
record; a `sem.wait` fixes its result. -/
def execSemaphoreTurn (ident : Nat) (s : State) : Host.Outcome State Fault Refusal :=
  match s.semq.find? (fun q => q.ident == ident) with
  | none => .fault .noObject
  | some q =>
    let s := { s with semq := s.semq.filter (fun y => y.ident != ident) }
    let g := s.group q.gid
    let r := s.grid g.grid
    .next (match q.kind with
    | 2 =>
      let v : Word := if semMet ((s.part q.pid).sem q.sem) q.val then 1 else 0
      s.fillRes q.gid q.seq ((lanesOf q.sel).map (fun l => { lane := l, ws := [v] }))
    | k =>
      let s := s.modPart q.pid (fun p => p.addSem q.sem q.val)
      if k = 1 then s.putRec q.pid r.stream
        { kind := 2, tag := q.val, start := (s.block g.block).blockId + 2 ^ 32 * g.index, lstat := BitVec.ofNat 32 q.sem,
          amount := (s.part q.pid).sem q.sem, gseq := r.gseq } q.intr
      else s)

end Sys2Proof.Machine
end

