-- ==== Sys2Proof/Machine/Launch.lean ====
section
/-! DEFINITION. Launch requests and descriptors, and the launch decode (14 R293-R295, R314, R435, 03 R74-R76, 12 R257-R262,
15 R341, R342). Addresses in descriptors are HBM4 addresses (assumption 22). -/

namespace Sys2Proof.Machine

open Host (Outcome)

/-! Parsing -/

/-- `n` bytes at an offset of a byte string, as a number (00 R7). -/
def field (bs : List Byte) (ofs n : Nat) : Nat := leNat ((bs.drop ofs).take n)

/-- A launch request from its 64 bytes (14 R293). -/
def LReq.ofBytes (stream : Nat) (bs : List Byte) : LReq where
  stream := stream
  hdr := BitVec.ofNat 32 (field bs 0 4)
  tag := BitVec.ofNat 32 (field bs 4 4)
  desc := field bs 0x08 8
  start := field bs 0x10 8
  trace := field bs 0x18 8
  own := field bs 0x20 8
  nown := field bs 0x2A 2
  tmode := field bs 0x28 4 % 4
  wen := field bs 0x2C 4 / 2 ^ 31 == 1
  wsem := field bs 0x2C 4 % 1024
  wval := BitVec.ofNat 32 (field bs 0x30 4)
  sen := field bs 0x34 4 / 2 ^ 31 == 1
  ssem := field bs 0x34 4 % 1024
  sval := BitVec.ofNat 32 (field bs 0x38 4)

/-- A launch descriptor from its 128 bytes (03 R75). -/
def Desc.ofBytes (bs : List Byte) : Desc where
  dver := field bs 0x00 4
  nlines := field bs 0x04 4
  imgadr := field bs 0x08 8
  trapofs := BitVec.ofNat 32 (field bs 0x10 4)
  nregs := field bs 0x18 2
  ngrp := field bs 0x1A 1
  nblkg := field bs 0x1B 1
  swz := field bs 0x1C 4 / 32 % 16
  order := field bs 0x1C 4 / 4 % 8
  det := field bs 0x1C 4 % 2 == 1
  bscr := field bs 0x20 4
  spill := field bs 0x24 4
  dscr := field bs 0x28 8
  roles := field bs 0x30 8
  nbar := field bs 0x38 2
  ngbar := field bs 0x3A 2
  gridx := field bs 0x3C 4
  gridy := field bs 0x40 4
  nreloc := field bs 0x44 4
  reloc := field bs 0x48 8
  bdat := field bs 0x50 8
  bdatsz := field bs 0x58 4
  ddatsz := field bs 0x5C 4
  ddat := field bs 0x60 8
  coll := field bs 0x68 8
  ranges := field bs 0x70 8
  nrange := field bs 0x78 4

/-- Byte of the lowest nonzero bit of bits `lo` up to `hi` of the 32-bit word at an offset; `none` when they are 0
(14 R435). -/
def resAt (bs : List Byte) (ofs lo hi : Nat) : Option Nat :=
  ((List.range (hi + 1 - lo)).find? (fun i => field bs ofs 4 / 2 ^ (lo + i) % 2 == 1)).map (fun i => ofs + (lo + i) / 8)

/-! The code image and its relocations (03 R74) -/

/-- A fetch line from its 64 bytes (02 R39, R40). -/
def Line.ofBytes (bs : List Byte) : Line where
  slots := (List.range 5).map (fun k => BitVec.ofNat 96 (field bs (12 * k) 12))
  lw := BitVec.ofNat 32 (field bs 60 4)

/-- Opcodes of format I (02 R59). -/
def isImmOp (opc : Nat) : Bool := opc == 0x0A || (0x30 ≤ opc && opc ≤ 0x36) || opc == 0xC7

/-- The word of slot number `n` of the image at `a`. -/
def slotWord (hbm : Ram) (a n : Nat) : IWord := BitVec.ofNat 96 (hbm.nat (a + 64 * (n / 5) + 12 * (n % 5)) 12)

/-- A relocation entry that rejects the launch (03 R74). -/
def badReloc (hbm : Ram) (d : Desc) (e : Nat) : Bool :=
  let pos := e % 2 ^ 30
  match e / 2 ^ 30 with
  | 0 => 5 * d.nlines ≤ pos || !isImmOp ((slotWord hbm d.imgadr pos).extractLsb' 88 8).toNat
  | 1 => d.bdatsz < pos + 4
  | 2 => d.ddatsz < pos + 4
  | _ => 5 * d.nlines ≤ pos / 4 || pos % 4 == 3

/-- The word of a slot with B added at a place of 32 bits. -/
def addAt (w : IWord) (lo : Nat) (b : Nat) : IWord :=
  let v := w.extractLsb' lo 32 + BitVec.ofNat 32 b
  (w &&& ~~~((0xFFFFFFFF#96) <<< lo)) ||| (v.setWidth 96 <<< lo)

/-- The relocations of one line: its words change, and its parity by the bits that change (03 R74). -/
def relocLine (relocs : List Word) (base idx : Nat) (l : Line) : Line :=
  relocs.foldl (fun l e =>
    let e := e.toNat
    let pos := e % 2 ^ 30
    let place : Option (Nat × Nat) := match e / 2 ^ 30 with
      | 0 => if pos / 5 = idx then some (pos % 5, 46) else none
      | 3 => if pos / 4 / 5 = idx then some (pos / 4 % 5, 32 * (pos % 4)) else none
      | _ => none
    match place with
    | none => l
    | some (k, lo) =>
      let w := l.slots.getD k 0
      let w' := addAt w lo base
      let odd := parity 96 (w ^^^ w').toNat
      { slots := lmod l.slots k (fun _ => w')
        lw := if odd then l.lw ^^^ (1#32 <<< (24 + k)) ^^^ (1#32 <<< 29) else l.lw }) l

/-- Line `idx` of a grid's image as it is loaded (14 R297). -/
def imageLine (hbm : Ram) (r : Grid) (idx : Nat) : Line :=
  relocLine r.relocs r.base idx (Line.ofBytes (hbm.read (r.desc.imgadr + 64 * idx) 64))

/-- A data image with the relocations of its class applied (03 R68, R74): B is added at RPOS also where RPOS is no multiple
of 4, and the list is the one the launch decode accepted (assumption 69). -/
def dataImage (hbm : Ram) (r : Grid) (cls a n : Nat) : Mem :=
  r.relocs.foldl (fun m e =>
    let e := e.toNat
    let pos := e % 2 ^ 30
    if e / 2 ^ 30 = cls then memWrite m pos (toBytes 4 ((leNat (memRead m pos 4) + r.base) % 2 ^ 32)) else m)
    (memWrite [] 0 (hbm.read a n))

/-- A data image in scratch. A granule that a marked granule of memory is written into is marked (09 R192, 10 R221;
assumption 69). -/
def dataRam (hbm : Ram) (r : Grid) (cls a n : Nat) : Ram :=
  { cells := dataImage hbm r cls a n
    poison := (granules 0 n).filter (fun g => hbm.poisoned (a + 64 * g) (Nat.min 64 (n - 64 * g))) }

/-! Decode -/

/-- A rejection: RES, amount, CAUSE (14 R294, R295). -/
abbrev Reject := Nat × Nat × Nat

def check (bad : Bool) (res amount : Nat) (cause : Nat := 0) : Except Reject Unit :=
  if bad then .error (res, amount, cause) else .ok ()

/-- The offset that check 1 gives for a request (14 R294, R435). -/
def badRequest (bs : List Byte) : Option Nat :=
  (((((((resAt bs 0 0 15).or (resAt bs 0 18 23)).or (if field bs 3 1 ≠ 1 then some 3 else none)).or
    (if field bs 8 8 % 64 ≠ 0 then some 8 else none)).or (resAt bs 0x28 2 15)).or (resAt bs 0x2C 10 30)).or
    (resAt bs 0x34 10 30)).or (resAt bs 0x3C 0 31)

/-- The offset that check 1 gives for a descriptor (14 R294, R435). -/
def badDescriptor (hbm : Ram) (bs : List Byte) (d : Desc) : Option Nat :=
  if d.dver ≠ 1 then some 0
  else if d.nlines = 0 ∨ 8192 < d.nlines then some 4
  else if d.trapofs ≠ 0xFFFFFFFF ∧ !(slotPc 0 d.trapofs.toNat && d.trapofs.toNat < 64 * d.nlines) then some 0x10
  else match ((resAt bs 0x14 0 31).or (resAt bs 0x1C 1 1)).or (resAt bs 0x1C 9 31) with
    | some o => some o
    | none =>
      if (List.range d.nreloc).any (fun i => badReloc hbm d (hbm.nat (d.reloc + 4 * i) 4)) then some 0x48
      else resAt bs 0x7C 0 31

/-- A range entry (03 R76): `none` when it is rejected. -/
def rangeOf (bs : List Byte) : Option Extent :=
  let w := field bs 0x10 4
  let e : Extent := { base := field bs 0 8, size := field bs 8 8, acc := w % 4, atom := w / 4 % 8 }
  if e.acc = 0 ∨ 3 < e.atom ∨ w / 32 ≠ 0 ∨ field bs 0x14 12 ≠ 0 ∨ e.size = 0 ∨ e.base % 65536 ≠ 0 ∨ e.size % 65536 ≠ 0 then none
  else some e

/-- Z of 15 R342. -/
def collSize (op len ndev : Nat) : Nat :=
  match op with
  | 1 => len / Nat.max ndev 1
  | 2 => len * ndev
  | _ => len

/-- The attached collective, or the cause of 15 R342. A die-scratch address may name the other die where the partition holds both
(09 R182, R183); SRNG is not read with SSP = 1 (assumption 48). -/
def State.collOf (s : State) (p : Nat) (d : Desc) (exts : List Extent) : Except Nat (Option Coll) :=
  if d.coll = 0 then .ok none
  else
    let bs := s.hbm.read d.coll 64
    let w := field bs 4 4
    let c : Coll := { op := w / 2 ^ 29, dt := w / 2 ^ 26 % 8, rop := w / 2 ^ 24 % 4, ssp := w / 2 ^ 23 % 2 == 1, dsp := w / 2 ^ 22 % 2 == 1,
                      vchk := w / 2 ^ 21 % 2 == 1, lci := w / 2 ^ 16 % 16, pent := w % 2 ^ 16, gid := field bs 8 4 / 256 % 4096,
                      gen := field bs 8 1, srng := field bs 0xC 1 % 32, src := field bs 0x10 8, len := field bs 0x18 4,
                      tblk := field bs 0x1C 4, dofs := field bs 0x20 4, ver := BitVec.ofNat 64 (field bs 0x28 8) }
    let res := (resAt bs 4 20 20).isSome || (resAt bs 8 20 31).isSome || (resAt bs 0xC 5 31).isSome || (resAt bs 0x24 0 31).isSome
      || field bs 0x30 16 ≠ 0
    if field bs 0 4 ≠ 1 ∨ d.coll % 64 ≠ 0 ∨ res = true then .error 1
    else if 4 < c.op ∨ 4 < c.dt ∨ c.rop = 3 ∨ (2 ≤ c.op ∧ (c.dt ≠ 0 ∨ c.rop ≠ 0)) ∨ (c.vchk = true ∧ c.op ≠ 2) then .error 2
    else match ((s.pat.cur.map (·.colls)).getD []).find? (fun e => e.ident == c.pent) with
      | none => .error 3
      | some e =>
        let z := collSize c.op c.len e.ndev
        let inDie := fun (a n : Nat) => a / 2 ^ 29 == 0 && (a / 2 ^ 28 == 0 || (s.diesOf p).length == 2) && a % 2 ^ 28 + n ≤ d.dscr
        let srcOk : Bool := if c.ssp then inDie (c.src % 2 ^ 32) c.len
          else match exts[c.srng]? with
            | some x => x.canRead && c.src + c.len ≤ x.size
            | none => false
        if e.gid ≠ c.gid ∨ e.gen ≠ c.gen ∨ e.op ≠ c.op ∨ e.len ≠ c.len then .error 3
        else if c.len % 64 ≠ 0 ∨ c.len = 0 ∨ 2 ^ 30 < c.len ∨ ((c.op = 1 ∨ c.op = 4) ∧ c.len % (64 * e.ndev) ≠ 0) then .error 4
        else if !srcOk then .error 5
        else if d.blocks ≤ c.tblk ∨ c.dofs % 64 ≠ 0 ∨ (if c.dsp then !inDie c.dofs z else d.bscr < c.dofs + z) then .error 6
        else if s.grids.any (fun r => match r.2.coll with
          | some q => q.pent == c.pent && q.armed.isSome && !q.retired
          | none => false) then .error 7
        else .ok (some c)

/-- A trace record (12 R258). -/
def TRec.ofBytes (bs : List Byte) : TRec :=
  let w := field bs 4 4
  { block := field bs 0 4, forced := w / 2 ^ 31 == 1, nent := w / 2 ^ 18 % 2 ^ 13, q0 := w / 2 ^ 16 % 4, core := w % 2 ^ 16, cyc := field bs 8 8 }
def TRec.bytes (r : TRec) : List Byte :=
  toBytes 4 r.block ++ toBytes 4 ((if r.forced then 2 ^ 31 else 0) + r.nent * 2 ^ 18 + r.q0 * 2 ^ 16 + r.core) ++ toBytes 8 r.cyc

/-- The descriptor digest of a trace header (12 R257). -/
def descDigest (bs : List Byte) : List Byte :=
  sha3 (mapFrom (fun i b => if [0x08, 0x48, 0x50, 0x60, 0x68, 0x70].any (fun a => a ≤ i && i < a + 8) then 0 else b) 0 bs)

/-- Units presented to a partition (12 R257 NCORE). -/
def State.ncore (s : State) (p : Nat) : Nat := (s.coresOf p).length / 24

/-- The records of a trace to bind, or the cause of 12 R260. TRACE is used as it stands: 12 R257 has it a multiple of 64 and gives no outcome
for another address (DESIGN CHOICE, assumption 96). -/
def State.bindTrace (s : State) (p : Nat) (r : LReq) (d : Desc) (dbytes : List Byte) : Except Nat (List TRec) :=
  let h := s.hbm.read r.trace 64
  let nrec := field h 4 4
  let recs := (List.range nrec).map (fun i => TRec.ofBytes (s.hbm.read (r.trace + 64 + 16 * i) 16))
  let disp := recs.filter (fun t => !t.forced)
  let n := Nat.max d.nblkg 1
  if field h 0 4 ≠ 1 ∨ field h 0x10 1 % 2 = 0 ∨ (resAt h 0xC 8 31).isSome ∨ (resAt h 0x10 1 31).isSome ∨ field h 0x18 8 ≠ 0 then .error 1
  else if h.drop 0x20 ≠ descDigest dbytes then .error 2
  else if field h 0xC 1 ≠ s.ncore p ∨ disp.any (fun t => !(s.usableCores p).contains t.core) then .error 3
  else if field h 0x14 4 ≠ d.blocks ∨ disp.length ≠ d.blocks ∨ (disp.foldl (fun l t => insNat l t.block) []).length ≠ d.blocks
      ∨ disp.any (fun t => d.blocks ≤ t.block) ∨ recs.any (fun t => t.forced && d.blocks ≤ t.block) then .error 4
  else if 1 < n ∧ disp.any (fun t => disp.any (fun u => u.block / n == t.block / n && u.cyc != t.cyc)) then .error 5
  else .ok recs

/-- An ownership entry, `none` when it is invalid (12 R262). -/
def ownOf (exts : List Extent) (d : Desc) (bs : List Byte) : Option Own :=
  let w := field bs 4 4
  let o : Own := { block := field bs 0 4, die := w / 256 % 2 == 1, rng := w % 32, ofs := field bs 8 4, len := field bs 0xC 4 }
  let stop := 64 * (o.ofs + o.len)
  let ok : Bool := if o.die then o.rng == 0 && stop ≤ d.dscr
    else match exts[o.rng]? with
      | some x => stop ≤ x.size
      | none => false
  if (resAt bs 4 9 31).isSome || (resAt bs 4 5 7).isSome || o.len == 0 || !ok then none else some o

/-- Accepted grids of a partition that have not started (14 R294 check 15). -/
def State.unstarted (s : State) (p : Nat) : Nat :=
  (s.grids.filter (fun r => r.2.pid == p && (match r.2.phase with
    | .accepted | .ready | .serving _ => true
    | .started | .done => false))).length

/-- The launch decode of 14 R294: a grid, or the first failing check. -/
def State.launchDecode (s : State) (p stream : Nat) (priv : Bool) (bs : List Byte) : Except Reject Grid := do
  let r := LReq.ofBytes stream bs
  match badRequest bs with
  | some o => check true 1 (0x10000 + o)
  | none => pure ()
  let db := s.hbm.read r.desc 128
  let d := Desc.ofBytes db
  match badDescriptor s.hbm db d with
  | some o => check true 1 o
  | none => pure ()
  check (d.ngrp == 0 || 16 < d.ngrp) 2 d.ngrp
  check (d.nregs % 8 != 0 || d.nregs == 0 || 256 < d.nregs) 3 d.nregs
  let total := d.bscr + d.ngrp * d.spill
  check (d.bscr % 64 != 0 || d.spill % 64 != 0 || Config.blockScratch < total) 4 total
  let share := fun die => (if die = 0 then (s.part p).dsh0 else (s.part p).dsh1) * 2 ^ 20
  check (d.dscr % 256 != 0 || (s.diesOf p).any (fun die => share die < d.dscr)) 5 (d.dscr % 2 ^ 32)
  check (16 < d.nblkg || (d.nblkg != 0 && (planUnit [] d (s.usableCores p)).isNone)) 6 d.nblkg
  check (d.nbar == 0 || d.ngrp < d.nbar) 7 d.nbar
  check (if d.nblkg = 0 then d.ngbar != 0 else d.ngbar == 0 || d.nblkg < d.ngbar) 7 d.ngbar
  match (List.range 16).find? (fun g => if g < d.ngrp then 3 < d.role g else d.role g != 0) with
  | some g => check true 8 g
  | none => pure ()
  check (3 < d.order || 8 < d.swz) 9 (field db 0x1C 4 / 4 % 128)
  check (d.gridx == 0 || 2 ^ 24 < d.gridx) 10 d.gridx
  check (d.gridy == 0 || 2 ^ 24 < d.gridy) 10 d.gridy
  check (32 < d.nrange) 11 d.nrange
  let rs := (List.range d.nrange).map (fun i => rangeOf (s.hbm.read (d.ranges + 32 * i) 32))
  match (List.range d.nrange).find? (fun i => (rs.getD i none).isNone) with
  | some i => check true 11 i
  | none => pure ()
  let exts := rs.filterMap id
  let coll ← match s.collOf p d exts with
    | .ok c => pure c
    | .error cause => .error (12, cause, 0)
  check (d.det && r.tmode == 3) 13 0
  let trace ← if d.det && r.tmode == 2 then
      match s.bindTrace p r d db with
      | .ok t => pure t
      | .error cause => .error (13, cause, cause)
    else pure []
  check (d.det && 256 < r.nown) 14 256
  let os := if d.det then (List.range r.nown).map (fun i => ownOf exts d (s.hbm.read (r.own + 16 * i) 16)) else []
  match (List.range os.length).find? (fun i => (os.getD i none).isNone) with
  | some i => check true 14 i
  | none => pure ()
  check (64 ≤ s.unstarted p) 15 64
  pure { pid := p, stream := stream, priv := priv, req := r, desc := d, exts := exts, owns := os.filterMap id, trace := trace,
         ddig := if d.det then descDigest db else [],
         relocs := (List.range d.nreloc).map (fun i => BitVec.ofNat 32 (s.hbm.nat (d.reloc + 4 * i) 4)), coll := coll }

/-- Launch status words: REJECTED and ACCEPTED (14 R295). -/
def statusRejected (res cause : Nat) : Word := BitVec.ofNat 32 (2 ^ 28 + cause * 2 ^ 24 + res * 2 ^ 16)

/-- A rejected launch writes its KIND 4 record (14 R295, R314, R316). -/
def State.putReject (s : State) (p : Nat) (r : LateReject) : State :=
  s.putRec p r.stream { kind := 4, tag := r.tag, lstat := r.lstat, amount := r.amount } r.intr

/-- The records of rejected `launch` words whose turn has come (14 R314). -/
def State.rejectsDue (s : State) (p : Nat) : Bool := (s.part p).rejects.any (fun r => r.due ≤ s.turn)
def State.writeRejects (s : State) (p : Nat) : State :=
  let rs := (s.part p).rejects
  (rs.filter (fun r => r.due ≤ s.turn)).foldl (fun s r => s.putReject p r)
    (s.modPart p (fun q => { q with rejects := rs.filter (fun r => !(decide (r.due ≤ s.turn))) }))

/-- A launch: acceptance with the next GSEQ, or a KIND 4 record, at once for a packet and in turn `due` for a word; the status word and the
amount (14 R294, R295, R296, R314). Residency completes within 512 + 64 × NRANGE turns, at a free turn (assumption 8). -/
def State.launch (s : State) (p stream : Nat) (priv : Bool) (bs : List Byte) (due : Nat := 0) : State × Word × Word :=
  match s.launchDecode p stream priv bs with
  | .error (res, amount, cause) =>
    let st := statusRejected res cause
    let r := LReq.ofBytes stream bs
    let j : LateReject := { due := due, stream := stream, tag := r.tag, lstat := st, amount := BitVec.ofNat 32 amount, intr := r.hdr.getLsbD 16 }
    (if due = 0 then s.putReject p j else s.modPart p (fun q => { q with rejects := q.rejects ++ [j] }), st, BitVec.ofNat 32 amount)
  | .ok g =>
    let n := (s.part p).gctr % 65535 + 1
    let (dt, s) := s.drawNat (513 + 64 * g.desc.nrange)
    let (id, s) := s.fresh
    let s := s.modPart p (fun q => { q with gctr := n })
    ({ s with grids := tset s.grids id { g with gseq := n, acceptAt := s.turn, residentAt := some (s.turn + dt) } },
     BitVec.ofNat 32 n, 0)

/-- `launch` (14 R314): the request is read at bank turn t + 1. -/
def execLaunch (c : Ctl) (d a : Opnd) (s : State) : Outcome State Fault Refusal :=
  withIssue (.launch c d a) s (fun x s =>
    scratchWord x { die := false, n := 64, reads := true, writes := false } (fun _ => x.low32 s a) s
      (fun sp bank at_ s => (s.enqueue x sp bank .launch (x.lanes.map (fun l => { lane := l, adr := at_ x.low })) d).reserve
        x (s.turn + 96) d 2))

/-- The launch at its bank turn (14 R314, 09 R191); the record of a rejection is written with the status words, 96 turns after the issue. -/
def State.applyLaunch (s : State) (x : Access) : State :=
  match x.lanes with
  | [] => s
  | l0 :: _ =>
    let r := s.ram x.space
    let g := s.group x.gid
    let grid := s.grid g.grid
    if r.poisoned l0.adr 64 then (s.fillRes x.gid x.seq []).quenchAll x.gid (x.lanes.map (·.lane)) 1
    else
      let (s, st, am) := s.launch g.pid grid.stream grid.priv (r.read l0.adr 64) (x.bank + 95)
      s.fillRes x.gid x.seq (x.lanes.map (fun l => { lane := l.lane, ws := [st, am] }))

end Sys2Proof.Machine
end

