-- ==== Sys2Proof/Machine/Streams.lean ====
section
/-! DEFINITION. The front ends of the command streams (14 R289-R292, 16 R354): fetch, the packet types, and what they
wait for. A front end acts while its partition runs; its packets take no time but what their rules give
(assumption 27). -/

namespace Sys2Proof.Machine

open Host (Outcome)

/-- Header of the packet in execution (14 R290). -/
def Stream.hdr (x : Stream) : Nat := field (x.pkt.getD []) 0 4
def Stream.body (x : Stream) : List Byte := x.pkt.getD []
def Stream.intr (x : Stream) : Bool := x.curHdr.getLsbD 16

/-- A packet that stops its stream: an undefined TYPE, a reserved bit, or a COPY length that is none (14 R290, R291). -/
def badPacket (bs : List Byte) : Bool :=
  let ty := field bs 3 1
  4 < ty || (resAt bs 0 0 15).isSome || (resAt bs 0 18 23).isSome || (ty == 0 && field bs 8 56 != 0)
    || (ty == 4 && (let n := field bs 0x18 4; n % 64 != 0 || n == 0 || 2 ^ 30 < n))

/-- A grid that has its completion record or never started (14 R317, 16 R361). -/
def Grid.closed (r : Grid) : Bool := r.recorded || r.phase == .done

/-- The grids of a stream have all written their completion records (14 R290 SERIAL). -/
def State.streamIdle (s : State) (p i : Nat) : Bool := s.grids.all (fun r => r.2.pid != p || r.2.stream != i || r.2.closed)

/-- The semaphore of a SEMWAIT packet meets its target (14 R291, R292). -/
def State.packetMet (s : State) (p : Nat) (bs : List Byte) : Bool :=
  semMet ((s.part p).sem (field bs 8 4 % 1024)) (BitVec.ofNat 32 (field bs 0xC 4))

/-- A step of stream `i` on the semaphore table keeps the order of 14 R292: no later stream has stepped on it in this turn. -/
def State.semOrder (s : State) (p i : Nat) : Bool := (s.part p).semTurn != s.turn || (s.part p).semStream ≤ i

/-- What a front end does next (14 R289-R291): `some none` fetches, `some (some e)` is the step of its packet. -/
def State.streamNext (s : State) (p i : Nat) : Option (Option Instr) :=
  let x := s.stream p i
  if (s.part p).st != .running || !x.en || x.stopped then none
  else match x.pkt with
    | none => if x.held.isEmpty && !x.full && x.srd != x.swr && !x.segs.isEmpty then some none else none
    | some bs =>
      if x.hdr / 2 ^ 17 % 2 = 1 then (if s.streamIdle p i then some (some (.serialRelease p i)) else none)
      else if badPacket bs then some (some (.invalidPacket p i))
      else match field bs 3 1 with
        | 0 => some (some (.nopPacket p i))
        | 1 => some (some (.launchPacket p i))
        | 2 => if !s.semOrder p i then none else if !x.semw then some (some (.semwaitPacket p i))
               else if s.packetMet p bs then some (some (.semwaitMet p i)) else none
        | 3 => if s.semOrder p i then some (some (.semsigPacket p i)) else none
        | _ =>
          match x.copyAt with
          | none => if x.missed then none else some (some (.copyPacket p i))
          | some t => if t ≤ s.turn && (x.copyBy == 0 || !s.mirOut x.copyBy) then some (some (.copyPacketDone p i)) else none

/-- The front end fetches its next packet (14 R289, 16 R354). -/
def State.fetchPacket (s : State) (p i : Nat) : State :=
  let x := s.stream p i
  let bs := s.segRead x.segs (64 * (x.srd.toNat % Nat.max x.ssize.toNat 1)) 64
  s.modStream p i (fun x => { x with pkt := some bs, curHdr := BitVec.ofNat 32 (field bs 0 4), curTag := BitVec.ofNat 32 (field bs 4 4),
                                     semw := false, missed := false, copyAt := none, copyBy := 0 })

/-- The packet retires. -/
def State.retirePacket (s : State) (p i : Nat) : State :=
  s.modStream p i (fun x => { x with srd := x.srd + 1, pkt := none, semw := false, copyAt := none, copySegs := ([], []), copyBy := 0, curHdr := 0, curTag := 0 })

/-- A step of a front end on the packet in execution. -/
def packetStep (p i : Nat) (s : State) (f : Stream → List Byte → State → State) : Outcome State Fault Refusal :=
  match (s.stream p i).pkt with
  | some bs => .next (f (s.stream p i) bs s)
  | none => .fault .noObject

/-- The stream stops: a record of KIND 3 with STATUS 1, and no further fetch until RESTART (14 R290). -/
def State.stopStream (s : State) (p i : Nat) : State :=
  let x := s.stream p i
  (s.putRec p i { kind := 3, status := 1, tag := x.curTag } x.intr).modStream p i (fun x => { x with stopped := true, pkt := none })

/-- LAUNCH_PACKET (14 R291). -/
def execLaunchPacket (p i : Nat) (s : State) : Outcome State Fault Refusal :=
  packetStep p i s (fun x bs s => (s.launch p i x.spriv bs).1.retirePacket p i)

/-- NOP_PACKET (14 R291). -/
def execNopPacket (p i : Nat) (s : State) : Outcome State Fault Refusal :=
  packetStep p i s (fun _ _ s => s.retirePacket p i)

/-- SEMWAIT_PACKET (14 R291): the stream goes on at once when the semaphore is met, and is held otherwise. -/
def execSemwaitPacket (p i : Nat) (s : State) : Outcome State Fault Refusal :=
  packetStep p i s (fun _ bs s => if s.packetMet p bs then (s.semStep p i).retirePacket p i else s.modStream p i (fun x => { x with semw := true }))

/-- SEMWAIT_MET (14 R291, R292). -/
def execSemwaitMet (p i : Nat) (s : State) : Outcome State Fault Refusal :=
  packetStep p i s (fun _ bs s => if s.packetMet p bs then (s.semStep p i).retirePacket p i else s)

/-- SEMSIG_PACKET (14 R291, R292). -/
def execSemsigPacket (p i : Nat) (s : State) : Outcome State Fault Refusal :=
  packetStep p i s (fun x bs s =>
    ((s.modPart p (fun q => q.addSem (field bs 8 4 % 1024) (BitVec.ofNat 32 (field bs 0xC 4)))).putRec p i
      { kind := 3, tag := x.curTag } x.intr).semStep p i |>.retirePacket p i)

/-- INVALID_PACKET (14 R290). -/
def execInvalidPacket (p i : Nat) (s : State) : Outcome State Fault Refusal :=
  packetStep p i s (fun _ _ s => s.stopStream p i)

/-- SERIAL_RELEASE (14 R290): the packet is held no longer. -/
def execSerialRelease (p i : Nat) (s : State) : Outcome State Fault Refusal :=
  packetStep p i s (fun _ bs s => s.modStream p i (fun x => { x with pkt := some (lmod bs 2 (fun b => b &&& 0xFD#8)) }))

/-- COPY_PACKET (14 R291, 16 R360, R361): both addresses are translated at the fetch; a miss waits for PGACK, and a
failed walk stops the stream. The copy then takes the time of its class, X when a side is host memory (10 R209, R210);
the excess of the host's replies is free (assumption 14). -/
def execCopyPacket (p i : Nat) (s : State) : Outcome State Fault Refusal :=
  packetStep p i s (fun _ bs s =>
    let n := field bs 0x18 4
    let (s, a) := s.translate p (field bs 8 8) n 1 0
    match a with
    | .miss va => (s.pageMiss p va).modStream p i (fun x => { x with missed := true })
    | .bad => s.stopStream p i
    | .ok src =>
      let (s, b) := s.translate p (field bs 0x10 8) n 2 0
      match b with
      | .miss va => (s.pageMiss p va).modStream p i (fun x => { x with missed := true })
      | .bad => s.stopStream p i
      | .ok dst =>
        let host := (src ++ dst).any (·.host)
        let cl : CClass := if host then .X else .H
        let late := if host then Config.freeNat s.free else 0
        let s := if host then { s with free := s.free + 1 } else s
        let t := s.turn + Config.l0 0 cl + ceilDiv n (Config.rate cl) + late
        s.modStream p i (fun x => { x with copyAt := some t, copySegs := (src, dst) }))

/-- Units of 64 bytes from one translated stretch to another (10 R221). -/
def State.copyUnits (s : State) (src dst : Extent) (ident : Nat) : Nat → Nat → State
  | 0, _ => s
  | n + 1, a =>
    let whole := fun (e : Extent) => e.segs.any (fun q => q.ofs ≤ a && a + 64 ≤ q.ofs + q.len)
    let rd := if whole src then s.farRead src a 64
      else ((List.range 64).flatMap (fun j => (s.farRead src (a + j) 1).1), (List.range 64).any (fun j => (s.farRead src (a + j) 1).2))
    let s := if whole dst then s.farWrite dst a rd.1 rd.2 ident
      else (List.range 64).foldl (fun s j => s.farWrite dst (a + j) [rd.1.getD j 0] rd.2 ident) s
    s.copyUnits src dst ident n (a + 64)

/-- COPY_PACKET_DONE (14 R291): the last write is done, and the packet retires once it is acknowledged: where the destination is mirrored that
is a second such event, 152 turns later at the earliest, when the partner has acknowledged the duplicates (18 R407). -/
def execCopyPacketDone (p i : Nat) (s : State) : Outcome State Fault Refusal :=
  packetStep p i s (fun x bs s =>
    let e := fun (q : List Seg) => ({ base := 0, size := 0, acc := 3, atom := 0, segs := q } : Extent)
    let move := fun (s : State) (ident : Nat) => s.copyUnits (e x.copySegs.1) (e x.copySegs.2) ident (field bs 0x18 4 / 64) 0
    let retire := fun (s : State) => (s.putRec p i { kind := 3, tag := x.curTag } x.intr).retirePacket p i
    if x.copyBy != 0 then retire s
    else if x.copySegs.2.any (·.mir) then
      (move { s with ident := s.ident + 1 } s.ident).modStream p i (fun x => { x with copyAt := some (s.turn + 152), copyBy := s.ident })
    else retire (move s 0))

end Sys2Proof.Machine
end

