-- ==== Sys2Proof/Machine/Sched.lean ====
section
/-! DEFINITION. The task scheduler: residency and start of grids (14 R296, R297, 16 R361), dispatch of units (R300-R302,
12 R256, R259, R261), release of blocks and completion of grids (14 R317, 12 R259). -/

namespace Sys2Proof.Machine

open Host (Outcome)

/-! Residency -/

/-- Ranges translated one after another: the extents, whether a walk missed, and the first range whose walk failed
(16 R361). A range that has its translation is not walked again. -/
def State.resideFrom (s : State) (p : Nat) : Nat → List Extent → State × List Extent × Bool × Option Nat
  | _, [] => (s, [], false, none)
  | i, e :: rest =>
    let (s, e', miss, bad) := if e.segs.isEmpty then
        match s.translate p e.base e.size e.acc e.atom with
        | (s, .ok q) => (s, { e with segs := q }, false, false)
        | (s, .miss va) => (s.pageMiss p va, e, true, false)
        | (s, .bad) => (s, e, false, true)
      else (s, e, false, false)
    let (s, es, m, b) := s.resideFrom p (i + 1) rest
    (s, e' :: es, miss || m, if bad then some i else b)

/-- A resident grid grants every other device of its fault domain a lease on each range, on the translation held here, that the device
does not have yet (15 R336, 16 R363, assumption 81). -/
def State.grantLeases (s : State) (gr : Nat) (r : Grid) : State :=
  let devs := (List.range s.devCount).filter (fun d => d != s.selfDev && s.domainOf d == s.domainOf s.selfDev)
  let new := devs.flatMap (fun d => mapFrom (fun i e => ({ dev := d, pid := r.pid, grid := gr, rng := i, ext := e } : Grant)) 0 r.exts)
  (new.filter (fun g => !s.pat.granted.any (fun x => x.dev == g.dev && x.grid == g.grid && x.rng == g.rng))).foldl
    (fun s g => ({ s with pat := { s.pat with granted := s.pat.granted ++ [g] } } : State).emit (.grant g.dev g.grid g.rng g.ext)) s

/-- Every range has its translation. -/
def Grid.resident (r : Grid) : Bool := r.exts.all (fun e => !e.segs.isEmpty)

/-- The grids that are resident grant their leases. -/
def State.grantAll (s : State) : State :=
  s.grids.foldl (fun s r => if r.2.resident && !r.2.recorded && r.2.phase != .accepted then s.grantLeases r.1 r.2 else s) s

/-- One attempt at a grid's residency: the extent tables and the leases on them, a wait for PGACK, or the end of the grid with its leases and a
KIND 4 record (14 R296, 16 R361, R363). -/
def State.reside (s : State) (gr : Nat) : State :=
  let r := s.grid gr
  let (s, es, miss, bad) := s.resideFrom r.pid 0 r.exts
  match bad with
  | some i =>
    (s.modGrid gr (fun r => { r with phase := .done, leases := [], exts := r.exts.map (fun e => { e with segs := [] }) })).putRec r.pid r.stream
      { kind := 4, tag := r.req.tag, lstat := statusRejected 11 0, amount := BitVec.ofNat 32 i } false
  | none =>
    let s := s.modGrid gr (fun r => { r with exts := es, missed := miss })
    if (s.grid gr).resident && !miss then s.grantLeases gr (s.grid gr) else s

/-- PODTIME is at or above START and WSEM is met (14 R296). -/
def State.mayStart (s : State) (r : Grid) : Bool :=
  r.req.start ≤ s.now && (!r.req.wen || semMet ((s.part r.pid).sem r.req.wsem) r.req.wval)

/-- GRID_READY is due: residency is to be tried, or all conditions of 14 R296 hold. -/
def State.readyDue (s : State) (r : Grid) : Bool :=
  r.phase == .accepted && !r.missed && (match r.residentAt with
    | some t => t ≤ s.turn
    | none => false) && (!r.resident || s.mayStart r)

/-- GRID_READY (14 R296, 16 R361): residency completes, and the grid is ready when START and WSEM allow it. -/
def execGridReady (gr : Nat) (s : State) : Outcome State Fault Refusal :=
  match tget s.grids gr with
  | none => .fault .noObject
  | some r =>
    let s := if r.resident then s else s.reside gr
    let r := s.grid gr
    .next (if r.phase == .accepted && !r.missed && r.resident && s.mayStart r then s.modGrid gr (fun r => { r with phase := .ready }) else s)

/-! Service and start -/

/-- Grids that hold instruction scratch and die scratch (14 R296, R297). -/
def Grid.holds (r : Grid) : Bool :=
  match r.phase with
  | .serving _ | .started => !r.recorded
  | _ => false

/-- The lowest base at which an image of `n` bytes is free on every core of the partition (14 R297). -/
def State.freeBase (s : State) (p n : Nat) : Option Nat :=
  let used := (s.grids.filter (fun r => r.2.pid == p && r.2.holds)).map (fun r => (r.2.base, r.2.base + 64 * r.2.desc.nlines))
  let ok := fun (b : Nat) => b + n ≤ Config.instrScratch && used.all (fun u => b + n ≤ u.1 || u.2 ≤ b)
  (0 :: used.map (·.2)).foldl (fun m b => if ok b && (match m with | some x => b < x | none => true) then some b else m) none

/-- Die scratch of the partition's share that grids hold on a die (14 R296). -/
def State.dieUsed (s : State) (p : Nat) : Nat :=
  ((s.grids.filter (fun r => r.2.pid == p && r.2.holds)).map (fun r => r.2.desc.dscr)).foldl (· + ·) 0

/-- The grid that the scheduler serves next: the first ready one, when it fits (14 R296). -/
def State.serveNext (s : State) (p : Nat) : Option (Nat × Nat) :=
  match s.grids.find? (fun r => r.2.pid == p && r.2.phase == .ready) with
  | none => none
  | some (k, r) =>
    let share := fun die => (if die = 0 then (s.part p).dsh0 else (s.part p).dsh1) * 2 ^ 20
    if (s.diesOf p).all (fun die => s.dieUsed p + r.desc.dscr ≤ share die) then (s.freeBase p (64 * r.desc.nlines)).map (fun b => (k, b))
    else none

/-- A ready grid is served: it gets its base, and its image stands on every core within ceil(64 × NLINES / 512) + 64
turns, at a free turn; at once when START is late enough to fix the start tick (14 R296; assumption 8). -/
def State.serve (s : State) (gr base : Nat) : State :=
  let r := s.grid gr
  let load := ceilDiv (64 * r.desc.nlines) 512
  if r.acceptAt + 576 + 64 * r.desc.nrange + load ≤ r.req.start / 16 then
    s.modGrid gr (fun r => { r with base := base, phase := .serving s.turn })
  else
    let (n, s) := s.drawNat (load + 65)
    s.modGrid gr (fun r => { r with base := base, phase := .serving (s.turn + n) })

/-- Lines `[lo, lo + n)` of a core replaced. -/
def replaceLines (old : Tbl Line) (lo : Nat) (new : List Line) : Tbl Line :=
  old.filter (fun q => q.1 < lo) ++ mapFrom (fun i l => (i, l)) lo new ++ old.filter (fun q => lo + new.length ≤ q.1)

/-- The bytes of a line as memory holds them (02 R39). -/
def Line.bytes (l : Line) : List Byte := l.slots.flatMap (fun w => toBytes 12 w.toNat) ++ toBytes 4 l.lw.toNat

/-- GRID_START (14 R296, R297, 03 R68, R74): the image stands in every core of the partition, and the die data image in
the grid's die scratch on each die. The die data image is read from memory here: 03 R68 gives only the end of that time, the first
dispatch (DESIGN CHOICE, assumption 8). -/
def execGridStart (gr : Nat) (s : State) : Outcome State Fault Refusal :=
  match tget s.grids gr with
  | none => .fault .noObject
  | some r =>
    let lines := (List.range r.desc.nlines).map (imageLine s.hbm r)
    let cores := s.coresOf r.pid
    let die := dataRam s.hbm r 2 r.desc.ddat r.desc.ddatsz
    let dies := s.diesOf r.pid
    let s := cores.foldl (fun s c => s.modCore c (fun k => { k with lines := replaceLines k.lines (r.base / 64) lines })) s
    .next (s.modGrid gr (fun r => { r with
      phase := .started, start := s.now, cursor := cores.headD 0, code := crc32c (lines.flatMap Line.bytes)
      scr0 := if dies.contains 0 then die else {}, scr1 := if dies.contains 1 then die else {} }))

/-! Dispatch -/

/-- Units of a unit's blocks (14 R298). -/
def Desc.blockIds (d : Desc) (u : Nat) : List Nat := if d.nblkg = 0 then [u] else (List.range d.nblkg).map (fun j => u * d.nblkg + j)

/-- A dispatch to be made: unit, the code it had in the traversal, and the place of each of its blocks. -/
structure Plan where
  unit : Nat
  code : Nat
  places : List (Nat × Load)
  deriving DecidableEq, Repr

/-- Dies on which a block of the partition has been dispatched in this turn (14 R300). -/
def State.diesTaken (s : State) (p : Nat) : List Nat :=
  (s.blocks.filter (fun b => b.2.disp == s.turn && (s.grid b.2.grid).pid == p)).map (fun b => dieOf b.2.core)

/-- A dispatch keeps the per-die limit (14 R300). -/
def State.diesFree (s : State) (p : Nat) (q : Plan) : Bool := q.places.all (fun pl => !(s.diesTaken p).contains (dieOf pl.2.core))

/-- In BIND mode, the first unit in recorded order that may dispatch now: its cores' earlier blocks have been dispatched, its
CYC has come, its places are free, on cores that the pattern does not exclude, and its dies have had no dispatch in this turn
(12 R261, 14 R300, 18 R418). -/
def State.bindPlan (s : State) (r : Grid) : Option Plan :=
  let d := r.desc
  let n := Nat.max d.nblkg 1
  let disp := r.trace.filter (fun t => !t.forced && !t.used)
  let mine := fun (u : Nat) => disp.filter (fun t => t.block / n == u)
  let ok := fun (t : TRec) =>
    let u := t.block / n
    let ms := sortBy (fun a b => a.block ≤ b.block) (mine u)
    let first := ms.all (fun m => (disp.find? (fun x => x.core == m.core && x.block / n != u)).all (fun x =>
      match disp.findIdx? (fun y => y == x), disp.findIdx? (fun y => y == m) with
      | some i, some j => j < i
      | _, _ => true))
    let places := ms.foldl (fun (acc : Option (List (Nat × Load))) m => acc.bind (fun l =>
      let q := d.load m.core m.q0
      if fits (s.loads ++ l.map (·.2)) q then some (l ++ [(m.block, q)]) else none)) (some [])
    if first && r.start + t.cyc ≤ s.now && ms.all (fun m => (s.usableCores r.pid).contains m.core) then
      (places.map (fun l => ({ unit := u, code := 0, places := l } : Plan))).filter (s.diesFree r.pid)
    else none
  firstSome ok disp

/-- The next unit of a grid and its places (14 R300, 12 R261). -/
def State.nextPlan (s : State) (r : Grid) : Option Plan :=
  if r.desc.det && r.req.tmode == 2 then s.bindPlan r
  else
    let (u, k) := r.desc.unitAt r.nextUnit r.order
    (planUnit s.loads r.desc (fromCursor (s.usableCores r.pid) r.cursor)).map (fun ls =>
      { unit := u, code := k, places := (r.desc.blockIds u).zip ls })

/-- A unit of the grid dispatches in this turn (14 R300). -/
def State.dispatchDue (s : State) (r : Grid) : Option Plan :=
  if r.phase == .started && !r.recorded && r.nextUnit < r.desc.units then (s.nextPlan r).filter (s.diesFree r.pid) else none

/-- The lowest resident index of a quarter that no resident group holds (01 R19). -/
def State.freeIndex (s : State) (core quarter : Nat) : Nat :=
  let held := (s.groups.filter (fun g => g.2.core == core && g.2.quarter == quarter && !(s.block g.2.block).released)).map (·.2.res)
  ((List.range 64).find? (fun i => !held.contains i)).getD 63

def roleOf (code : Nat) : Role :=
  match code with
  | 1 => .stoker
  | 2 => .matrix
  | 3 => .vector
  | _ => .general

/-- A lane at dispatch (13 R268, 18 R402): its register files and latch hold 0 where nothing has run since CLEARING and in
deterministic mode (12 R254), and otherwise free values drawn from `k` on (assumption 6). -/
def Lane.fresh (used : Bool) (k n base : Nat) : Lane :=
  let w := fun (j : Nat) => if used then Config.freeWord (k + j) else 0
  { pc := BitVec.ofNat 20 base, v := (List.range n).map w, o := (List.range 8).map (fun j => w (n + j)), lat := w (n + 8) ++ w (n + 9) }

/-- A group is placed at dispatch (01 R15, R19, 14 R300). -/
def State.placeGroup (s : State) (gr b core q0 j : Nat) : State :=
  let r := s.grid gr
  let d := r.desc
  let q := (q0 + j) % 4
  let used := (s.core core).used.contains q && !d.det
  let (id, s) := s.fresh
  let lanes := (List.range 64).map (fun i => Lane.fresh used (s.free + (d.nregs + 10) * i) d.nregs r.base)
  let g : Group := { pid := r.pid, grid := gr, block := b, index := j, core := core, quarter := q, res := s.freeIndex core q,
                     role := roleOf (d.role j), nregs := d.nregs, readyAt := s.turn + 8 + ceilDiv d.bdatsz 512, lanes := lanes,
                     live2 := BitVec.allOnes 64 }
  let s := { s with free := if used then s.free + 64 * (d.nregs + 10) else s.free, groups := tset s.groups id g }
  s.modBlock b (fun x => { x with groups := x.groups ++ [id] })

/-- A dispatch-trace record is appended in RECORD mode (12 R259). -/
def State.traceRec (s : State) (gr : Nat) (t : TRec) : State :=
  let r := s.grid gr
  if r.desc.det && r.req.tmode == 1 then
    if r.nwritten < s.hbm.nat (r.req.trace + 8) 4 then
      ({ s with hbm := s.hbm.write (r.req.trace + 64 + 16 * r.nwritten) t.bytes }).modGrid gr (fun r => { r with nwritten := r.nwritten + 1 })
    else s.modGrid gr (fun r => { r with lostRec := true })
  else s

/-- A block is dispatched (14 R300, 03 R68, 07 R144, R166). Bytes of its data image beyond BSCR are out of its reach
(assumption 69). -/
def State.dispatchBlock (s : State) (gr bid : Nat) (pl : Load) : State :=
  let r := s.grid gr
  let d := r.desc
  let (id, s) := s.fresh
  let b : Block := { grid := gr, blockId := bid, gang := if d.nblkg = 0 then 0 else bid / d.nblkg, core := pl.core, q0 := pl.q0,
                     disp := s.turn, dispTick := s.now, loadAt := s.turn + 8 + ceilDiv d.bdatsz 512, scr := dataRam s.hbm r 1 d.bdat d.bdatsz }
  let s := { s with blocks := tset s.blocks id b }
  let s := (List.range d.ngrp).foldl (fun s j => s.placeGroup gr id pl.core pl.q0 j) s
  let s := s.modCore pl.core (fun k => { k with
    used := (List.range d.ngrp).foldl (fun l j => insNat l ((pl.q0 + j) % 4)) k.used
    tiles := if d.hasMatrix then List.replicate 8 {} else k.tiles })
  let cyc := s.now - r.start
  let rec_ := r.trace.find? (fun t => !t.forced && t.block == bid)
  let late := d.det && r.req.tmode == 2 && (match rec_ with | some t => decide (t.cyc < cyc) | none => false)
  (s.modGrid gr (fun r => { r with
    trace := r.trace.map (fun t => if !t.forced && t.block == bid then { t with used := true } else t)
    slip := r.slip || late, nlate := if late then r.nlate + 1 else r.nlate })).traceRec gr
      { block := bid, forced := false, nent := 0, q0 := pl.q0, core := pl.core, cyc := cyc }

/-- BLOCK_DISPATCH (14 R300, R302): the grid's next unit is placed, a gang whole; the collective is armed at the first
(15 R343). -/
def execBlockDispatch (gr : Nat) (s : State) : Outcome State Fault Refusal :=
  match tget s.grids gr with
  | none => .fault .noObject
  | some r =>
    match s.dispatchDue r with
    | none => .next s
    | some q =>
      let s := q.places.foldl (fun s pl => s.dispatchBlock gr pl.1 pl.2) s
      let cores := s.usableCores r.pid
      let after := ((q.places.head?).map (fun pl => pl.2.core + 1)).getD 0
      .next (s.modGrid gr (fun r => { r with
        nextUnit := r.nextUnit + 1, order := r.desc.nextFrom r.nextUnit q.code
        cursor := if cores.any (fun c => after ≤ c) then after else cores.headD 0
        coll := r.coll.map (fun c => { c with armed := c.armed.or (some s.now) }) }))

/-- BLOCK_DATA_LOADED (14 R300): the block's groups become pending-ready. -/
def execBlockDataLoaded (b : Nat) (s : State) : Outcome State Fault Refusal :=
  match tget s.blocks b with
  | none => .fault .noObject
  | some x =>
    let s := s.modBlock b (fun x => { x with loaded := true })
    .next (x.groups.foldl (fun s i => s.modGroup i (fun g => { g with readySince := some (16 * s.turn) })) s)

/-! Release and completion -/

/-- A block releases its resources: its groups are finished, their commands and batches have ended, and its END flush
has applied (01 R14, 07 R165, 10 R216, 12 R266). -/
def State.releaseDue (s : State) (b : Nat) (x : Block) : Bool :=
  let k := s.core x.core
  !x.released && x.loaded && s.blockGone b
    && x.groups.all (fun i => (s.group i).members.isEmpty && !k.eq.any (fun c => c.gid == i))
    && (!(s.grid x.grid).desc.det || (x.endDone && k.rflush.isEmpty))

/-- Every block of the grid has been dispatched and released, and its collective has retired (14 R317). -/
def State.gridEnds (s : State) (gr : Nat) : Bool :=
  let r := s.grid gr
  r.phase == .started && r.nextUnit == r.desc.units && s.blocks.all (fun b => b.2.grid != gr || b.2.released)
    && (match r.coll with
        | some c => c.retired
        | none => true)

/-- The turn at which a grid's last condition was met is noted. -/
def State.noteEnd (s : State) (gr : Nat) : State :=
  if s.gridEnds gr then s.modGrid gr (fun r => { r with lastDone := r.lastDone.or (some s.turn) }) else s

/-- BLOCK_RELEASE (01 R14). -/
def execBlockRelease (b : Nat) (s : State) : Outcome State Fault Refusal :=
  match tget s.blocks b with
  | none => .fault .noObject
  | some x =>
    if s.releaseDue b x then .next ((s.modBlock b (fun x => { x with released := true })).noteEnd x.grid) else .next s

/-- Tick of the grid's first dispatch, 0 when there was none (14 R316). -/
def State.firstDispatch (s : State) (gr : Nat) : Nat :=
  match (s.blocks.filter (fun b => b.2.grid == gr)).map (fun b => b.2.dispTick) with
  | [] => 0
  | a :: t => t.foldl Nat.min a

/-- The grid record (14 R316, R317). -/
def State.gridRec (s : State) (gr status fsum : Nat) : Rec :=
  let r := s.grid gr
  { kind := 1, status := status, tag := r.req.tag, start := s.firstDispatch gr, fsum := fsum, nlate := r.nlate, diverge := r.diverge,
    slip := r.slip, nquench := r.nquench, ntrap := r.ntrap, lstat := BitVec.ofNat 32 r.gseq, nforced := r.nforced, gseq := r.gseq }

/-- The trace header at completion (12 R257, R259). -/
def State.traceHeader (s : State) (gr : Nat) : State :=
  let r := s.grid gr
  if r.desc.det && r.req.tmode == 1 then
    let a := r.req.trace
    let bs := toBytes 4 1 ++ toBytes 4 r.nwritten ++ s.hbm.read (a + 8) 4 ++ toBytes 4 (s.ncore r.pid) ++ toBytes 4 (if r.lostRec then 0 else 1)
      ++ toBytes 4 r.desc.blocks ++ List.replicate 8 0 ++ r.ddig
    { s with hbm := s.hbm.write a bs }
  else s

/-- A grid's image leaves instruction scratch (14 R297). -/
def State.freeImage (s : State) (gr : Nat) : State :=
  let r := s.grid gr
  (s.coresOf r.pid).foldl (fun s c => s.modCore c (fun k => { k with
    lines := k.lines.filter (fun q => q.1 < r.base / 64 || r.base / 64 + r.desc.nlines ≤ q.1) })) s

/-- The completion record is due: the turn after the last condition, with no remote execution outstanding (the record is
a release of every access) and room in the event ring (14 R317, R318). -/
def State.completeDue (s : State) (gr : Nat) (r : Grid) : Bool :=
  !r.recorded && (match r.lastDone with
    | some t => t < s.turn
    | none => false)
    && s.remotes.all (fun q => (s.group q.gid).grid != gr) && s.groups.all (fun g => g.2.grid != gr || g.2.runq.isEmpty)
    && (s.stream r.pid r.stream).held.isEmpty && !(s.stream r.pid r.stream).full

/-- The last completion record of each planned (stream, TAG) is noted, for the LATE check (15 R334). -/
def State.noteRecord (s : State) (stream : Nat) (tag : Word) : State :=
  if s.pat.cur.isSome then
    { s with pat := { s.pat with recs := s.pat.recs.filter (fun q => !(q.1 == stream && q.2.1 == tag)) ++ [(stream, tag, s.now)] } }
  else s

/-- GRID_COMPLETE (14 R317, 16 R362): record, trace header, then SSEM; the grid's leases end. -/
def execGridComplete (gr : Nat) (s : State) : Outcome State Fault Refusal :=
  match tget s.grids gr with
  | none => .fault .noObject
  | some r =>
    let s := (s.putRec r.pid r.stream (s.gridRec gr 0 0) (r.req.hdr.getLsbD 16)).traceHeader gr
    let s := if r.req.sen then (s.modPart r.pid (fun p => p.addSem r.req.ssem r.req.sval)).semStep r.pid 64 else s
    let s := s.noteRecord r.stream r.req.tag
    .next ((s.freeImage gr).modGrid gr (fun r => { r with
      recorded := true, phase := .done, leases := [], exts := r.exts.map (fun e => { e with segs := [] }) }))

end Sys2Proof.Machine
end

