-- ==== Sys2Proof/Machine/Collectives.lean ====
section
/-! DEFINITION. Attached collectives (15 R341-R346): the reading of this device's contribution, the landing of chunks and
the retirement. -/

namespace Sys2Proof.Machine

open Host (Outcome)

/-- The pattern entry of a collective (15 R341). -/
def State.collEntry (s : State) (c : Coll) : Option CollEntry := ((s.pat.cur.map (·.colls)).getD []).find? (fun e => e.ident == c.pent)

/-- Bytes of an element (15 R341 DT). -/
def collBytes (dt : Nat) : Nat := if dt = 1 ∨ dt = 2 then 2 else 4

/-- A contribution widened for the reduction (15 R344). -/
def collWiden (dt v : Nat) : Nat :=
  match dt with
  | 1 => (Fmt.f32.round (.mode .rn) (Fmt.bf16.decode v)).1
  | 2 => (Fmt.f32.round (.mode .rn) (Fmt.f16.decode v)).1
  | _ => v

/-- The root rounded to the element type (15 R344). -/
def collNarrow (dt v : Nat) : Nat :=
  match dt with
  | 0 => (Fmt.f32.round (.mode .rn) (Fmt.f32.decode v)).1
  | 1 => (Fmt.bf16.round (.mode .rn) (Fmt.f32.decode v)).1
  | 2 => (Fmt.f16.round (.mode .rn) (Fmt.f32.decode v)).1
  | _ => v

/-- One combination of the tree (15 R344). -/
def collCombine (dt rop a b : Nat) : Nat :=
  if dt ≤ 2 then
    match rop with
    | 0 => (Fmt.f32.sum .rn [] [Fmt.f32.decode a, Fmt.f32.decode b]).1
    | 1 => (pickMin Fmt.f32 true false a b).1
    | _ => (pickMin Fmt.f32 true true a b).1
  else
    let v := fun (n : Nat) => if dt = 3 then (BitVec.ofNat 32 n).toInt else (n : Int)
    match rop with
    | 0 => (a + b) % 2 ^ 32
    | 1 => if v b < v a then b else a
    | _ => if v a < v b then b else a

/-- The reduction of one element over the tree, left child first (15 R344). -/
def collFold (dt rop : Nat) (f : Nat → Nat) : RTree → Nat
  | .leaf q => collWiden dt (f q)
  | .node l r => collCombine dt rop (collFold dt rop f l) (collFold dt rop f r)

/-- The ranks of a tree. -/
def collRanks : RTree → List Nat
  | .leaf q => [q]
  | .node l r => collRanks l ++ collRanks r

/-- Byte `o` of rank q's contribution as this device has it; `free` gives a byte that no flit brought. -/
def Coll.src1 (c : Coll) (rank : Nat) (free : Nat → Nat → Byte) (q o : Nat) : Byte :=
  (if q = rank then tget c.own o else (tget c.peers q).bind (fun t => tget t o)).getD (free q o)
def Coll.srcBad (c : Coll) (rank q o : Nat) : Bool :=
  if q = rank then c.ownPoison.contains (o / 64) else ((tget c.peerPoison q).getD []).contains (o / 64)

/-- Ranks and offsets that feed byte `j` of this rank's result (15 R343). -/
def Coll.feeds (c : Coll) (e : CollEntry) (j : Nat) : List (Nat × Nat) :=
  let part := c.len / Nat.max e.ndev 1
  match c.op with
  | 0 => (collRanks e.tree).map (fun q => (q, j))
  | 1 => (collRanks e.tree).map (fun q => (q, e.rank * part + j))
  | 2 => [(j / c.len, j % c.len)]
  | 3 => [(e.root, j)]
  | _ => [(j / part, e.rank * part + j % part)]

/-- Byte `j` of the result, and whether a poisoned granule feeds it (15 R343, R344). -/
def Coll.byteAt (c : Coll) (e : CollEntry) (free : Nat → Nat → Byte) (j : Nat) : Byte × Bool :=
  let bad := (c.feeds e j).any (fun p => c.srcBad e.rank p.1 p.2)
  if c.op ≤ 1 then
    let n := collBytes c.dt
    let o := (if c.op = 1 then e.rank * (c.len / Nat.max e.ndev 1) else 0) + j / n * n
    let v := collNarrow c.dt (collFold c.dt c.rop (fun q => leNat ((List.range n).map (fun i => c.src1 e.rank free q (o + i)))) e.tree)
    ((toBytes n v).getD (j % n) 0, bad)
  else
    match (c.feeds e j).head? with
    | some p => (c.src1 e.rank free p.1 p.2, bad)
    | none => (0, bad)

/-- Ticks of the pattern's period (15 R348). -/
def State.period (s : State) : Nat := 65536 * Nat.max ((s.pat.cur.map (·.nf)).getD 1) 1

/-- The first planned tick of an entry: its first read (15 R343). -/
def collBegins (e : CollEntry) : Nat := ((e.reads.head?).map (·.tick)).getD e.send

/-- The tick of pod time of a planned tick of a grid's collective (15 R338, R343): in the first period of the pattern whose
first read comes at or after the grid's acceptance (assumption 48). -/
def State.collTick (s : State) (r : Grid) (e : CollEntry) (t : Nat) : Nat :=
  let first := 65536 * s.pat.pshift + collBegins e
  65536 * s.pat.pshift + t + (if 16 * r.acceptAt ≤ first then 0 else s.period * ceilDiv (16 * r.acceptAt - first) s.period)

/-- Every rank's shard version is here, this rank's among them (15 R346). -/
def Coll.known (c : Coll) (e : CollEntry) : Bool := (List.range e.ndev).all (fun q => q == e.rank || (tget c.vers q).isSome)

/-- The lowest rank whose version differs from this rank's, once all are here (15 R346). -/
def Coll.differs (c : Coll) (e : CollEntry) : Option Nat :=
  if c.known e then (List.range e.ndev).find? (fun q => q != e.rank && (tget c.vers q).getD c.ver != c.ver) else none

/-- The versions are to be compared now. -/
def Coll.compareDue (c : Coll) (e : CollEntry) : Bool := c.vchk && !c.versOk && c.known e

/-- The next read of the source, or the comparison of the versions, is due. Versions that differ wait for a context that takes faults: the
entry's slots stay idle meanwhile (15 R346, assumption 48). -/
def State.collReadDue (s : State) (r : Grid) : Bool :=
  match r.coll with
  | some c => s.pat.st == 1 && c.armed.isSome && !c.retired && (match s.collEntry c with
    | some e =>
      if c.compareDue e then (c.differs e).isNone || s.going r.pid
      else (match e.reads[c.step]? with
        | some q => s.collTick r e q.tick / 16 ≤ s.turn
        | none => false)
    | none => false)
  | none => false

/-- The die on which a die-scratch address of the record lies: bit 28 names the other die than that of block TBLK (09 R182, R183,
15 R341; assumption 48). -/
def State.collDie (s : State) (gr : Nat) (c : Coll) (a : Nat) : Nat :=
  let d := match s.blocks.find? (fun b => b.2.grid == gr && b.2.blockId == c.tblk) with
    | some b => dieOf b.2.core
    | none => (s.diesOf (s.grid gr).pid).headD 0
  if a / 2 ^ 28 % 2 = 1 then 1 - d else d

/-- Bytes of the source at an offset, and their poison (15 R343). -/
def State.collSource (s : State) (gr : Nat) (c : Coll) (o n : Nat) : List Byte × Bool :=
  let r := s.grid gr
  if c.ssp then
    let m := s.ram (.die gr (s.collDie gr c c.src))
    (m.read (c.src % 2 ^ 28 + o) n, m.poisoned (c.src % 2 ^ 28 + o) n)
  else match r.exts[c.srng]? with
    | some e => s.farRead e (c.src + o) n
    | none => (List.replicate n 0, false)

/-- The ranks that need a byte of this rank's contribution (15 R343). -/
def Coll.needs (c : Coll) (e : CollEntry) (o q : Nat) : Bool :=
  match c.op with
  | 1 | 4 => o / (c.len / Nat.max e.ndev 1) == q
  | 3 => e.rank == e.root
  | _ => true

/-- This rank's shard version goes out in the entry's first control flit, to every other rank (15 R346). -/
def State.tellVersion (s : State) (gr : Nat) (c : Coll) (e : CollEntry) : State :=
  if c.vchk && !c.told then
    (e.devs.filter (· != s.selfDev)).foldl
      (fun s d => s.sendControl s.anyPort (fun p => .flit d p.frame p.slot p.port false (.version e.ident e.rank c.ver)))
      (s.modGrid gr (fun r => { r with coll := r.coll.map (fun c => { c with told := true }) }))
  else s

/-- The bytes read go to the ranks that need them, with each granule's mark: those of a planned grid a granule in each slot that the
pattern plans for one, those of another in open slots (15 R323, R324, R333, R343). -/
def State.contribute (s : State) (planned : Bool) (c : Coll) (e : CollEntry) (pieces : List (Nat × List Byte × Bool)) : State :=
  pieces.foldl (fun s p => (mapFrom (fun q d => (q, d)) 0 e.devs).foldl (fun s d =>
    if c.needs e p.1 d.1 then
      s.sendPiece 0 d.2 p.2.2 planned (.coll e.ident e.rank) p.1 p.2.1 p.2.1 (fun o bs => .contribution e.ident e.rank (p.1 + o) bs)
    else s) s) s

/-- The pieces of an entry that have not gone out are not sent: its slots stay idle (15 R346). -/
def State.silence (s : State) (ident : Nat) : State :=
  let mine := fun (f : HeldFlit) => match f.op with
    | .coll k _ => k == ident
    | _ => false
  { s with pat := { s.pat with
      held := s.pat.held.filter (fun f => !mine f)
      acks := s.pat.acks.map (fun q => (q.1, q.2.filter (fun f => f.gone || f.again != 0 || !mine f.copy))) } }

/-- COLLECTIVE_STEP (15 R343, R346): with VCHK the versions are compared once all are here, and a difference stops the
collective with SHARD_VERSION, this rank's version told all the same; else the next stretch of the source is read, and goes out to the
other ranks. -/
def execCollectiveStep (gr : Nat) (s : State) : Outcome State Fault Refusal :=
  match tget s.grids gr with
  | none => .fault .noObject
  | some r =>
    match r.coll with
    | none => .next s
    | some c =>
      match s.collEntry c with
      | none => .next s
      | some e =>
        let set := fun (s : State) (c : Coll) => s.modGrid gr (fun r => { r with coll := some c })
        if c.compareDue e then
          let s := s.tellVersion gr c e
          let c := { c with told := c.told || c.vchk }
          match c.differs e with
          | some q => .next (((set s { c with retired := true }).silence e.ident).raise r.pid
              { bit := 1, tick := s.now, cause := 6, master := r.stream, adr := BitVec.ofNat 64 q })
          | none => .next (set s { c with versOk := true })
        else
          match e.reads[c.step]? with
          | none => .next s
          | some st =>
            let n := Nat.min st.len (c.len - st.ofs)
            let pieces := (List.range (n / 64)).map (fun i => (st.ofs + 64 * i, s.collSource gr c (st.ofs + 64 * i) 64))
            let own := pieces.foldl (fun t p => (mapFrom (fun i b => (i, b)) p.1 p.2.1).foldl (fun t b => tset t b.1 b.2) t) c.own
            let bad := (pieces.filter (fun p => p.2.2)).map (fun p => p.1 / 64)
            let c' := { c with step := c.step + 1, own := own, ownPoison := bad.foldl insNat c.ownPoison }
            .next (((set s c').tellVersion gr c' e).contribute (s.plannedOf r).isSome c' e pieces)

/-- A chunk lands in this turn (15 R343, R346). -/
def State.chunkDue (s : State) (r : Grid) : Bool :=
  match r.coll with
  | some c => s.pat.st == 1 && c.armed.isSome && !c.retired && (!c.vchk || c.versOk)
      && (match s.collEntry c with
        | some e => (match e.lands[c.landed]? with
          | some t => s.collTick r e t / 16 ≤ s.turn
          | none => false)
        | none => false)
  | none => false

/-- The block that receives a collective, while it is resident. -/
def State.collBlock (s : State) (gr : Nat) (c : Coll) : Option Nat :=
  (s.blocks.find? (fun b => b.2.grid == gr && b.2.blockId == c.tblk && !b.2.released)).map (·.1)

/-- A byte of a contribution that no flit brought: free, and in deterministic mode the same in replay-identical runs (12 R254, assumptions 4
and 70). -/
def State.collFree (s : State) (r : Grid) (q o : Nat) : Byte :=
  if r.desc.det then BitVec.ofNat 8 (Config.freeDet (r.ddig.map BitVec.toNat ++ [r.code.toNat, 6, q, o]))
  else Config.freeByte (s.free + 2 ^ 32 * q + o)

/-- CHUNK_LAND (14 R311, 15 R343, 01 R22): the next CH bytes of the result take effect, the landing counter rises by their number, and
the lanes whose `bbar` it meets have met it at the landing tick. -/
def execChunkLand (gr : Nat) (s : State) : Outcome State Fault Refusal :=
  match tget s.grids gr with
  | none => .fault .noObject
  | some r =>
    match r.coll with
    | none => .next s
    | some c =>
      match s.collEntry c with
      | none => .next s
      | some e =>
        match e.lands[c.landed]? with
        | none => .next s
        | some at_ =>
          let from_ := c.landed * e.chunk
          let n := Nat.min e.chunk (collSize c.op c.len e.ndev - from_)
          let b := s.collBlock gr c
          let sp : Option Space := if c.dsp then some (.die gr (s.collDie gr c c.dofs)) else b.map Space.blk
          let free := s.collFree r
          let s := { s with free := s.free + 2 ^ 44 }
          let s := match sp with
            | none => s
            | some sp => (List.range (n / 64)).foldl (fun s i =>
                let o := from_ + 64 * i
                let bs := (List.range 64).map (fun j => c.byteAt e free (o + j))
                s.scratchWrite sp ((if c.dsp then c.dofs % 2 ^ 28 else c.dofs) + o) (bs.map Prod.fst) (bs.any Prod.snd) none) s
          let s := s.modGrid gr (fun r => { r with coll := some { c with landed := c.landed + 1 } })
          .next (match b with
          | none => s
          | some b =>
            let s := s.modBlock b (fun x => { x with lc := lmod x.lc c.lci (fun v => v + BitVec.ofNat 32 n) })
            let lc := (s.block b).lc
            (s.block b).groups.foldl (fun s i => s.modGroup i (fun g => g.meet (fun w => match w with
              | .bbar i t => lcMet lc i t
              | _ => false) (s.collTick r e at_))) s)

/-- The last step has landed and the last block has released (15 R343). -/
def State.retireDue (s : State) (gr : Nat) (r : Grid) : Bool :=
  match r.coll with
  | some c => !c.retired && c.armed.isSome && (match s.collEntry c with
      | some e => c.landed == e.lands.length
      | none => true)
    && r.nextUnit == r.desc.units && s.blocks.all (fun b => b.2.grid != gr || b.2.released)
  | none => false

/-- COLLECTIVE_RETIRE (15 R343). -/
def execCollectiveRetire (gr : Nat) (s : State) : Outcome State Fault Refusal :=
  match tget s.grids gr with
  | none => .fault .noObject
  | some _ => .next ((s.modGrid gr (fun r => { r with coll := r.coll.map (fun c => { c with retired := true }) })).noteEnd gr)

end Sys2Proof.Machine
end

