-- ==== Sys2Proof/Machine/Control.lean ====
section
/-! DEFINITION. The control instructions of 13 R280-R288. -/

namespace Sys2Proof.Machine

open Host (Outcome)

/-- A taken transfer of a lane (13 R271, R273): the target becomes the lane's PC, the call depth changes by the
entry's rule, and a target key that is not above the word's own is a backward transfer. -/
def State.take (s : State) (c : Ctx) (lane target depth : Nat) : State :=
  let l := (s.group c.gid).lane lane
  let l' : Lane := { l with pc := BitVec.ofNat 20 target, depth := BitVec.ofNat 8 depth }
  (s.modGroup c.gid (fun g => g.modLane lane (fun _ => l'))).modIssue
    (fun x => { x with moved := x.moved ||| (1#64 <<< lane)
                       backward := x.backward || l'.key ≤ ({ l with pc := c.pc } : Lane).key })

/-- PC of the slot `s + SOFS` for a B-format word at slot `s`, `none` below slot 0 (02 R49, 13 R281). -/
def Ctx.branchTarget (c : Ctx) (sofs : Word) : Option Nat :=
  let n : Int := 5 * ((c.pc.toNat - c.base) / 64 : Nat) + slotOf c.base c.pc.toNat + sofs.toInt
  if n < 0 then none else some (c.base + 64 * (n.toNat / 5) + 12 * (n.toNat % 5))

/-- The PC a failing branch reports in TARG: the target's slot PC taken modulo 2^32 (17 R385). -/
def Ctx.branchTarg (c : Ctx) (sofs : Word) : Word :=
  let n : Int := 5 * ((c.pc.toNat - c.base) / 64 : Nat) + slotOf c.base c.pc.toNat + sofs.toInt
  BitVec.ofInt 32 (c.base + 64 * (n / 5) + 12 * (n % 5))

/-- A lane parks with BRANCH_TARGET (02 R43, 13 R281). -/
def State.badTarget (s : State) (c : Ctx) (lane : Nat) (t : Word) : State :=
  s.parkLane c lane { trap := 3, cause := 0, targ := t }

/-- A branch of the lanes that `cond` selects (13 R282). -/
def branch (c : Ctx) (sofs : Word) (cond : Nat → Bool) (s : State) : State :=
  c.lanes.foldl (fun s l =>
    if !cond l then s
    else match c.branchTarget sofs with
      | some t => if s.validTarget c.g t then s.take c l t (c.g.lane l).depth.toNat else s.badTarget c l (c.branchTarg sofs)
      | none => s.badTarget c l (c.branchTarg sofs)) s

/-- A call of each lane in `sel` to the target `tgt` gives, `none` when the target names no slot, with the link
written after 1 turn (13 R283, R284). -/
def callTo (c : Ctx) (d : Opnd) (tgt : Nat → Option Nat) (targ : Nat → Word) (s : State) : State :=
  let ok := fun l => (c.g.lane l).depth.toNat != 255 && (match tgt l with
    | some t => s.validTarget c.g t
    | none => false)
  let s1 := c.lanes.foldl (fun s l =>
    if (c.g.lane l).depth.toNat = 255 then s.parkLane c l { trap := 4, cause := 1 }
    else if ok l then s.take c l ((tgt l).getD 0) ((c.g.lane l).depth.toNat + 1)
    else s.badTarget c l (targ l)) s
  s1.result c 1 d ((c.lanes.filter ok).map (fun l => { lane := l, ws := [0#12 ++ succPc c.base c.pc] }))

/-- `nop` (13 R285). -/
def execNop (c : Ctl) (s : State) : Outcome State Fault Refusal :=
  withIssue (.nop c) s (fun _ s => s)

/-- `bra` (13 R282). -/
def execBra (c : Ctl) (sofs : Word) (s : State) : Outcome State Fault Refusal :=
  withIssue (.bra c sofs) s (fun x s => branch x sofs (fun _ => true) s)

/-- `brz` (13 R282). -/
def execBrz (c : Ctl) (a : Opnd) (sofs : Word) (s : State) : Outcome State Fault Refusal :=
  withIssue (.brz c a sofs) s (fun x s => branch x sofs (fun l => x.src32 s l a == 0) s)

/-- `brnz` (13 R282). -/
def execBrnz (c : Ctl) (a : Opnd) (sofs : Word) (s : State) : Outcome State Fault Refusal :=
  withIssue (.brnz c a sofs) s (fun x s => branch x sofs (fun l => x.src32 s l a != 0) s)

/-- `call` (13 R283). -/
def execCall (c : Ctl) (d : Opnd) (sofs : Word) (s : State) : Outcome State Fault Refusal :=
  withIssue (.call c d sofs) s (fun x s => callTo x d (fun _ => x.branchTarget sofs) (fun _ => x.branchTarg sofs) s)

/-- `ret` (13 R283). -/
def execRet (c : Ctl) (a : Opnd) (s : State) : Outcome State Fault Refusal :=
  withIssue (.ret c a) s (fun x s =>
    x.lanes.foldl (fun s l =>
      let t := x.src32 s l a
      if (x.g.lane l).depth.toNat = 0 then s.parkLane x l { trap := 4, cause := 2 }
      else if s.validTarget x.g t.toNat then s.take x l t.toNat ((x.g.lane l).depth.toNat - 1)
      else s.badTarget x l t) s)

/-- `jmp` (13 R284). -/
def execJmp (c : Ctl) (a : Opnd) (s : State) : Outcome State Fault Refusal :=
  withIssue (.jmp c a) s (fun x s =>
    x.lanes.foldl (fun s l =>
      let t := x.src32 s l a
      if s.validTarget x.g t.toNat then s.take x l t.toNat (x.g.lane l).depth.toNat
      else s.badTarget x l t) s)

/-- `jcall` (13 R284). -/
def execJcall (c : Ctl) (d a : Opnd) (s : State) : Outcome State Fault Refusal :=
  withIssue (.jcall c d a) s (fun x s =>
    callTo x d (fun l => some (x.src32 s l a).toNat) (fun l => x.src32 s l a) s)

/-- `exit` (13 R285): both copies of the live mask lose the lanes (18 R404). -/
def execExit (c : Ctl) (s : State) : Outcome State Fault Refusal :=
  withIssue (.exit c) s (fun x s => s.modGroup x.gid (fun g =>
    { g.modLanes x.sel (fun l => l.gone .retired) with live2 := g.live2 &&& ~~~x.sel, emask := g.emask &&& ~~~x.sel }))

/-- `yield` (13 R285); YLD is not set while a handler runs (13 R279). -/
def execYield (c : Ctl) (s : State) : Outcome State Fault Refusal :=
  withIssue (.yield c) s (fun x s =>
    if x.sel != 0 && x.g.hphase == .idle then s.modGroup x.gid (fun g => { g with yld := true }) else s)

/-- `sigchk` (13 R287, 18 R403): a differing lane raises context fault SIGNATURE with cause SIGCHK. The issue has begun, so
it completes (17 R395): its lanes move on with empty signatures (18 R402). -/
def execSigchk (c : Ctl) (imm : Word) (s : State) : Outcome State Fault Refusal :=
  withIssue (.sigchk c imm) s (fun x s =>
    match x.lanes.find? (fun l => (x.g.lane l).sig != imm) with
    | none => s
    | some l => s.raise x.g.pid
        { bit := 4, tick := x.tick, cause := 1, core := x.g.core, qtr := x.g.quarter,
          res := x.g.res, fpc := 0#12 ++ x.pc, exp := imm, got := (x.g.lane l).sig })

/-- `stopmark` (13 R286): the hold until the group's results have landed comes before the issue; the word itself has
no effect. -/
def execStopmark (c : Ctl) (s : State) : Outcome State Fault Refusal :=
  withIssue (.stopmark c) s (fun _ s => s)

/-- `waitc` (13 R288). -/
def execWaitc (c : Ctl) (a : Opnd) (s : State) : Outcome State Fault Refusal :=
  withIssue (.waitc c a) s (fun x s => x.lanes.foldl (fun s l =>
    let t := (x.src s 2 l a).toNat
    if x.tick < t then s.waitLane x l (.tick t) x.tick else s) s)

end Sys2Proof.Machine
end

