-- ==== Sys2Proof/Machine/Convert.lean ====
section
/-! DEFINITION. Conversions (06 R135-R138, 04 R92) and the wide accumulator (06 R139-R142). -/

namespace Sys2Proof.Machine

open Host (Outcome)

/-- `cvt` of the bits of a source (04 R92, 06 R135): integers, floats, the e8m0 scale, and bit copies. -/
def cvtRes (t ts : Ty) (sat : Bool) (rm : Rm) (a : DWord) : FRes :=
  if t = .b32 ∨ t = .b64 then (a.toNat, 0)
  else if ts = .e8m0 then
    match e8m0 a.toNat with
    | none => (t.fmt.nanBits, 0)
    | some e => t.fmt.roundTo (.mode .rn) false 1 e
  else if t.isInt then
    if ts.isInt then
      let v := ts.val a
      if sat then (t.out (t.sat v), if t.sat v ≠ v then 0x10#8 else 0) else (t.out (t.wrap v), 0)
    else
      let (v, fl) := t.ofFloat rm (ts.fmt.decode a.toNat)
      (t.out v, fl)
  else if ts.isInt then
    let v := ts.val a
    t.fmt.convert sat (.mode rm) (.num (v < 0) v.natAbs 0)
  else t.fmt.convert sat (.mode rm) (ts.fmt.decode a.toNat)

def execCvt (c : Ctl) (t ts : Ty) (sat : Bool) (rm : Rm) (d a : Opnd) (s : State) : Outcome State Fault Refusal :=
  withIssue (.cvt c t ts sat rm d a) s (fun x s => s.putF x 2 d t.regs (fun l =>
    cvtRes t ts sat rm (x.srcT s ts ts.regs l a)))

/-- `cvt` with `.sr` (06 R136). -/
def execCvtSr (c : Ctl) (t ts : Ty) (sat : Bool) (d a b : Opnd) (s : State) : Outcome State Fault Refusal :=
  withIssue (.cvtSr c t ts sat d a b) s (fun x s => s.putF x 2 d 1 (fun l =>
    t.fmt.convert sat (.sr (srRnd (x.src32 s l b) x.g.index l 0)) (ts.fmt.decode (x.fbits s ts l a))))

/-- Largest exponent of a small type (06 R137). -/
def bpackEmax : Ty → Int
  | .e4m3 => 8
  | .e5m2 => 15
  | .e3m2 => 4
  | _ => 2

/-- The scale of a block of f32 values: 255 when some value is NaN or infinite (06 R137). -/
def bpackScale (t : Ty) (vs : List FV) : Nat :=
  if vs.any (fun v => v.isNan || v.isInf) then 255
  else
    let top : Option Int := vs.foldl (fun b v =>
      match v with
      | .num _ m e => if m = 0 then b else
          (match b with
           | none => some (Nat.log2 m + e)
           | some x => some (if x < Nat.log2 m + e then Nat.log2 m + e else x))
      | _ => b) none
    match top with
    | none => 127
    | some e => let x := e - bpackEmax t + 127
                if x < 0 then 0 else if 254 < x then 254 else x.toNat

/-- One lane's packed element and scale (06 R137): in a block whose scale is 0xFF every element is 0 and NV alone is raised
(assumption 33). -/
def bpackRes (t : Ty) (sc : Nat) (v : FV) : FRes :=
  if sc = 255 then (255 * 2 ^ 8, 0x10#8)
  else
    match v with
    | .num s m e =>
      let (b, fl) := t.fmt.convert true (.mode .rn) (.num s m (e - (sc - 127)))
      (sc * 2 ^ 8 + b, fl &&& 0x01#8)
    | _ => (sc * 2 ^ 8, 0)

/-- `bpack` (06 R137). -/
def execBpack (c : Ctl) (t : Ty) (d a : Opnd) (s : State) : Outcome State Fault Refusal :=
  withIssue (.bpack c t d a) s (fun x s => s.putF x 2 d 1 (fun l =>
    let val := fun l => Fmt.f32.decode (x.fbits s .f32 l a)
    bpackRes t (bpackScale t ((x.lanes.filter (fun j => j / 32 == l / 32)).map val)) (val l)))

/-- `bunpack` (06 R138). -/
def execBunpack (c : Ctl) (t : Ty) (d a : Opnd) (s : State) : Outcome State Fault Refusal :=
  withIssue (.bunpack c t d a) s (fun x s => s.putF x 2 d 1 (fun l =>
    let w := (x.src32 s l a).toNat
    match e8m0 (w / 2 ^ 8), t.fmt.decode w with
    | none, _ => (Fmt.f32.nanBits, 0)
    | some sc, .num n m e => Fmt.f32.roundTo (.mode .rn) n m (e + sc)
    | some _, .inf n => (Fmt.f32.infBits n, 0)
    | some _, .nan _ => (Fmt.f32.nanBits, 0)))

/-! Wide accumulator -/

/-- The window's integer (06 R139). -/
def windowVal (ws : List Word) : Int :=
  let n := ofWords ws
  if 2 ^ 511 ≤ n then (n : Int) - 2 ^ 512 else n

/-- The number of window units in (−1)^s m 2^e under base `b`, rounded down, and whether bits were dropped. A shift far
above the window leaves nothing of it modulo 2^512 and is out of range, and one far below leaves the sign. -/
def windowUnits (s : Bool) (m : Nat) (e b : Int) : Int × Bool :=
  let sh := e - b + 256
  let sh := if sh < -5000 then -5000 else if 1200 < sh then 1200 else sh
  let v : Int := if s then -(m : Int) else m
  if 0 ≤ sh then (v * 2 ^ sh.toNat, false) else (v / 2 ^ (-sh).toNat, v % 2 ^ (-sh).toNat != 0)

/-- The window after one contribution, with NV and WOVF (06 R141). -/
def windowAdd (ws : List Word) (neg : Bool) (b : Int) (t : FV) : Nat × BitVec 8 :=
  match t with
  | .num s m e =>
    let (k, lost) := windowUnits (s != neg) m e b
    let v := windowVal ws + k
    ((v % 2 ^ 512).toNat, if lost || v < -2 ^ 511 || 2 ^ 511 ≤ v then 0x20#8 else 0)
  | _ => (ofWords ws, 0x30#8)

def execWclr (c : Ctl) (d : Opnd) (s : State) : Outcome State Fault Refusal :=
  withIssue (.wclr c d) s (fun x s => s.put x 1 d 16 (fun _ => 0))

/-- `wbase` (06 R140). -/
def wbaseRes (a : FV) (b : Nat) : Nat :=
  match a with
  | .num _ m e =>
    let ex : Int := if m = 0 then -1075 else Nat.log2 m + e
    ((ex + 1 + (Nat.min b 255 : Nat) - 255) % 2 ^ 32).toNat
  | _ => 0x7FFFFFFF

def execWbase (c : Ctl) (d a b : Opnd) (s : State) : Outcome State Fault Refusal :=
  withIssue (.wbase c d a b) s (fun x s => s.put x 1 d 1 (fun l =>
    wbaseRes (Fmt.f64.decode (x.fbits s .f64 l a)) (x.src32 s l b).toNat))

def execWfma (c : Ctl) (neg : Bool) (d a b cc : Opnd) (s : State) : Outcome State Fault Refusal :=
  withIssue (.wfma c neg d a b cc) s (fun x s => s.putF x 2 d 16 (fun l =>
    let u := Fmt.f64.decode (x.fbits s .f64 l a)
    let v := Fmt.f64.decode (x.fbits s .f64 l b)
    windowAdd (x.srcWords s 16 l d) neg (x.src32 s l cc).toInt
      (if u.isNan || u.isInf || v.isNan || v.isInf then .nan false else u.mul v)))

def execWadd (c : Ctl) (neg : Bool) (d a cc : Opnd) (s : State) : Outcome State Fault Refusal :=
  withIssue (.wadd c neg d a cc) s (fun x s => s.putF x 2 d 16 (fun l =>
    windowAdd (x.srcWords s 16 l d) neg (x.src32 s l cc).toInt (Fmt.f64.decode (x.fbits s .f64 l a))))

/-- `wsign` (06 R142). -/
def execWsign (c : Ctl) (d a : Opnd) (s : State) : Outcome State Fault Refusal :=
  withIssue (.wsign c d a) s (fun x s => s.put x 2 d 1 (fun l =>
    let v := windowVal (x.srcWords s 16 l a)
    if v < 0 then 0xFFFFFFFF else if v = 0 then 0 else 1))

/-- `wrnd` (06 R142). -/
def execWrnd (c : Ctl) (rm : Rm) (d a cc : Opnd) (s : State) : Outcome State Fault Refusal :=
  withIssue (.wrnd c rm d a cc) s (fun x s => s.putF x 3 d 2 (fun l =>
    let v := windowVal (x.srcWords s 16 l a)
    Fmt.f64.roundTo (.mode rm) (v < 0) v.natAbs ((x.src32 s l cc).toInt - 256)))

end Sys2Proof.Machine
end

