-- ==== Sys2Proof/Machine/System.lean ====
section
/-! DEFINITION. The system instructions (16 R372-R379), `trap` and `rti` (17 R392, R393), the emulation class and the fill
word (02 R60, R61), and what they leave to later ticks: pending register writes (16 R374), snapshots (18 R414, R415) and
correctable events (18 R405, R416). -/

namespace Sys2Proof.Machine

open Host (Outcome)

/-! Recovery counters -/

/-- The partition of a core (16 R349). -/
def State.partOf (s : State) (core : Nat) : Nat := (s.dev.play.extractLsb' (4 * (core / 24)) 4).toNat

/-- A counter of 18 R405 saturates. -/
def satInc (w : Word) : Word := if w = 0xFFFFFFFF#32 then w else w + 1

/-- Standby cores left on a die (18 R420). -/
def Dev.standby (d : Dev) (die : Nat) : Nat := if die = 0 then d.sb0 else d.sb1

/-- A core is marked for retirement: REPLACE_REQUEST, and DEF when its die has no standby core for it (18 R416, R418). -/
def State.markCore (s : State) (k : Nat) : State :=
  if (s.core k).marked then s
  else
    let taken := (s.cores.filter (fun c => c.2.marked && dieOf c.1 == dieOf k)).length
    let s := s.modCore k (fun c => { c with marked := true })
    { s with dev := { s.dev with rq := true, deff := if s.dev.standby (dieOf k) ≤ taken then s.dev.deff + 1 else s.dev.deff } }

/-- One correctable event of a core (16 R377, 18 R405, R416). -/
def State.correctable (s : State) (k : Nat) : State :=
  let s := s.modCore k (fun c => { c with cecnt := c.cecnt + 1, ceWin := c.ceWin + 1 })
  let s := s.modPart (s.partOf k) (fun p => { p with scce := satInc p.scce })
  if s.dev.cethr ≤ (s.core k).ceWin then s.markCore k else s

/-! Snapshots -/

/-- KD and KPC of a key as 17 R396 holds them. -/
def keyWord (k : Nat) : Nat := k % 2 ^ 28

/-- Distinct keys of the live lanes, ascending. -/
def Group.keys (g : Group) : List Nat := (g.lanes.filter Lane.isLive).foldl (fun l x => insNat l x.key) []

/-- Groups arrived at the open `bar` generation, a bit per GROUPID (17 R396). -/
def State.barMask (s : State) (b : Nat) : Nat := (s.barHere b).foldl (fun m i => m + 2 ^ (s.group i).index) 0

/-- The 288 bytes of a block's snapshot (18 R415). -/
def State.blockSnap (s : State) (b trig tick : Nat) : List Byte :=
  let x := s.block b
  toBytes 8 tick ++ toBytes 4 x.blockId ++ toBytes 4 (x.core * 2 ^ 24 + x.groups.length * 2 ^ 16 + trig)
    ++ toBytes 4 (x.bar.gen % 2 ^ 16 * 2 ^ 16 + s.barMask b) ++ List.replicate 12 (0#8)
    ++ (List.range 16).flatMap (fun j => match x.groups[j]? with
      | some i =>
        let g := s.group i
        toBytes 4 ((g.keys.head?.map keyWord).getD 0xFFFFFFFF) ++ toBytes 4 g.sigReg.toNat ++ toBytes 8 g.live.toNat
      | none => List.replicate 16 (0#8))

/-- A trigger of the partition's snapshot: every resident block latches, and what an earlier latch left is gone, or SNMISS rises;
triggers of one tick make one latch (18 R414, R415). -/
def State.snapshot (s : State) (p trig tick : Nat) : State :=
  let q := s.part p
  let mine := s.blocks.filter (fun b => !b.2.released && (s.grid b.2.grid).pid == p)
  if q.snheld && q.snTrig == tick then
    mine.foldl (fun s b => s.modBlock b.1 (fun x => { x with snap := lmod x.snap 0xC (fun v => v ||| BitVec.ofNat 8 trig) })) s
  else if q.snheld then s.modPart p (fun q => { q with snmiss := Nat.min (q.snmiss + 1) 65535 })
  else
    let old := s.blocks.filter (fun b => b.2.released && (s.grid b.2.grid).pid == p)
    let s := old.foldl (fun s b => s.modBlock b.1 (fun x => { x with snap := [] })) s
    (mine.foldl (fun s b => s.modBlock b.1 (fun x => { x with snap := s.blockSnap b.1 trig tick })) s).modPart p (fun q =>
      { q with snheld := true, snTrig := tick })

/-- SNAPT_MATCH (18 R414): PODTIME equals SNAPT, which then reads 0. -/
def execSnaptMatch (p : Nat) (s : State) : Outcome State Fault Refusal :=
  if p < 8 then .next ((s.snapshot p 2 (s.part p).snapt.toNat).modPart p (fun q => { q with snapt := 0 })) else .fault .noObject

/-! Register numbers (16 R373) -/

/-- PCTL, the layout of offset 0x14 of 16 R353. -/
def Part.pctl (p : Part) : Nat := p.ivec * 2 ^ 8 + (if p.test then 2 else 0) + (if p.sbchk then 1 else 0)

/-- Registers 0x100 and above as `sysrd` returns them (16 R373). -/
def Ctx.sysReg (s : State) (x : Ctx) (num : Nat) : Nat :=
  let p := s.part x.g.pid
  match num with
  | 0x100 => x.g.pid * 2 ^ 8 + s.unitMask x.g.pid
  | 0x101 => p.pctl
  | 0x102 => p.bwdog.toNat
  | 0x103 => p.gen * 2 ^ 16 + p.asid
  | 0x104 => (s.core x.g.core).cecnt.toNat
  | 0x105 => p.snapt.toNat
  | _ => 0

/-- Registers of two words (05 R115, 16 R373). -/
def sysWide (num : Nat) : Bool := num == 0x007 || num == 0x008 || num == 0x105

/-- `sysrd` (16 R372-R374). -/
def execSysrd (c : Ctl) (num : BitVec 12) (d : Opnd) (s : State) : Outcome State Fault Refusal :=
  withIssue (.sysrd c num d) s (fun x s =>
    let n := num.toNat
    if n < 0x100 then s.put x 1 d (if sysWide n then 2 else 1) (fun l => x.sreg s l n none)
    else s.put x 4 d (if sysWide n then 2 else 1) (fun _ => x.sysReg s n))

/-- A write that takes effect later. -/
def State.defer (s : State) (x : Ctx) (due : Nat) (w : PWrite) : State :=
  s.modPart x.g.pid (fun p => { p with pend := p.pend ++ [{ due := due, tick := x.tick, core := x.g.core, quarter := x.g.quarter, write := w }] })

/-- `syswr` (16 R372-R374): FLAGS from the start of turn t + 1, a register of the partition at tick 16(t + 8). -/
def execSyswr (c : Ctl) (num : BitVec 12) (a : Opnd) (s : State) : Outcome State Fault Refusal :=
  withIssue (.syswr c num a) s (fun x s =>
    if x.sel = 0 then s
    else if num.toNat = 0x009 then s.defer x (s.turn + 1) (.flags x.gid (x.lanes.map (fun l => (l, x.src32 s l a))))
    else s.defer x (s.turn + 8) (.reg num.toNat (x.src s (if sysWide num.toNat then 2 else 1) x.low a)))

/-- `quench` (16 R375). -/
def execQuench (c : Ctl) (s : State) : Outcome State Fault Refusal :=
  withIssue (.quench c) s (fun x s => s.quenchAll x.gid x.lanes 4)

/-- `snap` (16 R376). -/
def execSnap (c : Ctl) (s : State) : Outcome State Fault Refusal :=
  withIssue (.snap c) s (fun x s => if x.sel = 0 then s else s.defer x (s.turn + 8) .snap)

/-- `finj` (16 R377). Four commands outstanding are found before what the injection word holds (07 R148). -/
def execFinj (c : Ctl) (k : InjKind) (die : Bool) (a : Opnd) (s : State) : Outcome State Fault Refusal :=
  withIssue (.finj c k die a) s (fun x s =>
    let w := x.low32 s a
    if x.sel = 0 then s
    else match k with
    | .acc =>
      engineWord x s (fun s =>
        if w.extractLsb' 0 12 != 0 || !(s.grid x.g.grid).desc.hasMatrix then s.badIndex x w
        else s.accept x
          (.acc (w.extractLsb' 27 5).toNat (w.extractLsb' 24 3).toNat (w.extractLsb' 18 6).toNat (w.extractLsb' 12 6).toNat) 1)
    | .poison =>
      (match s.locate x.g die w.toNat 1 with
      | none => s.violate x 2 (w.setWidth 64)
      | some (sp, o) => s.enqueue x sp (s.turn + bankDelay x.g sp) .poison [{ lane := x.low, adr := o }])
    | .parity =>
      let r := s.grid x.g.grid
      if w.toNat < 64 * r.desc.nlines && slotPc 0 w.toNat then
        s.defer x (s.turn + 1) (.parity x.g.core ((r.base + w.toNat) / 64) (w.toNat % 64 / 12))
      else s.badIndex x w
    | .cevt => if w = 0 then s.correctable x.g.core else s.badIndex x w)

/-- `lease.chk` (16 R378). -/
def execLeaseChk (c : Ctl) (d a : Opnd) (s : State) : Outcome State Fault Refusal :=
  withIssue (.leaseChk c d a) s (fun x s =>
    if x.lanes.any (fun l => !s.peerOk (x.src32 s l a)) then s.parkEach x 0x0B accPeer (fun l => x.src32 s l a)
    else s.put x 1 d 1 (fun l => s.leaseState x.g (x.src32 s l a) * 2 ^ 30))

/-- `evt` (16 R379). -/
def execEvt (c : Ctl) (a b : Opnd) (s : State) : Outcome State Fault Refusal :=
  withIssue (.evt c a b) s (fun x s =>
    if x.sel = 0 then s
    else s.defer x (s.turn + 1) (.evt (toBytes 8 x.tick ++ toBytes 4 (s.block x.g.block).blockId
      ++ toBytes 4 ((s.grid x.g.grid).gseq * 2 ^ 16 + x.g.index * 2 ^ 12) ++ toBytes 4 (x.low32 s a).toNat ++ toBytes 4 (x.low32 s b).toNat
      ++ toBytes 4 x.pc.toNat ++ List.replicate 4 0)))

/-- `trap` (17 R393). -/
def execTrap (c : Ctl) (code : BitVec 16) (s : State) : Outcome State Fault Refusal :=
  withIssue (.trap c code) s (fun x s => s.parkSel x { trap := 0x0C, cause := 0, info := code.toNat })

/-- `rti` (17 R392, R393): a handler lane waits until the handler ends; outside a handler the lanes park. -/
def execRti (c : Ctl) (s : State) : Outcome State Fault Refusal :=
  withIssue (.rti c) s (fun x s =>
    if x.sel = 0 then s
    else
      let s := s.modIssue (fun q => { q with rtiDone := true })
      if x.g.hphase == .running then
        x.lanes.foldl (fun s l => (s.waitLane x l .rti x.tick).modGroup x.gid (fun g => g.modLane l (fun k => { k with hand := .reached }))) s
      else s.parkSel x (illegal 7))

/-! Words that are not instructions -/

/-- A word that parks every lane that reaches it, its predicate and its STOP and STALL fields unused (02 R61, R62). -/
def parkWord (r : TrapRec) (s : State) : Outcome State Fault Refusal :=
  match s.issue with
  | none => .fault .noIssue
  | some x =>
    .next { s.parkMask x.gid x.iset x.pc { r with word := x.word } with issue := some { x with rejected := true, stall := 0 } }

/-- `div`: the emulation class parks its lanes (02 R60, R61, 22 R429). -/
def execDiv (_ : Ty) (_ : BitVec 80) (s : State) : Outcome State Fault Refusal := parkWord (illegal 3) s
/-- `rem`: the emulation class parks its lanes (02 R60, R61, 22 R429). -/
def execRem (_ : Ty) (_ : BitVec 80) (s : State) : Outcome State Fault Refusal := parkWord (illegal 3) s
/-- The fill word (02 R61). -/
def execFillWord (s : State) : Outcome State Fault Refusal := parkWord { trap := 2, cause := 1 } s

/-! Pending writes -/

/-- FAIRLIM written: LIM 0 leaves it unchanged (13 R277). -/
def Part.setFairlim (p : Part) (v : Nat) : Part := if v % 2 ^ 15 = 0 then p else { p with fairlim := v % 2 ^ 15 }
/-- BWDOG written at tick `t`: 0 leaves it unchanged (14 R312). -/
def Part.setBwdog (p : Part) (v : Word) (t : Nat) : Part := if v = 0 then p else { p with bwdog := v, bwdogAt := t }

/-- An event-log record, dropped when the log is full (16 R379). -/
def State.logEvent (s : State) (p : Nat) (bs : List Byte) : State :=
  let q := s.part p
  if q.elogwp - q.elogrd == q.elogsz then s.modPart p (fun q => { q with elogdrop := q.elogdrop + 1 })
  else
    let a := q.elogbase.toNat + 32 * (q.elogwp.toNat % Nat.max q.elogsz.toNat 1)
    ({ s with hbm := s.hbm.write a bs }).modPart p (fun q => { q with elogwp := q.elogwp + 1 })

/-- A pending write takes effect (16 R373, R374, R379, R377, 08 R176, 04 R90). -/
def State.applyWrite (s : State) (p : Nat) (w : PWrite) : State :=
  match w with
  | .reg n v => s.modPart p (fun q => match n with
      | 0x00C => q.setFairlim v.toNat
      | 0x101 => { q with sbchk := v.getLsbD 0 }
      | 0x102 => q.setBwdog (v.setWidth 32) (16 * s.turn)
      | 0x105 => { q with snapt := v }
      | _ => q)
  | .tol t v => s.modPart p (fun q => { q with tol := q.tol.map (fun e => if e.1 == t then (t, v) else e) })
  | .flags g vals => s.modGroup g (fun x => x.writeFlags vals)
  | .snap => s.snapshot p 1 (16 * s.turn)
  | .evt bs => s.logEvent p bs
  | .parity core line slot => s.modCore core (fun k =>
      { k with lines := tmod k.lines line (fun l => { l with lw := l.lw ^^^ (1#32 <<< (24 + slot)) }) })

/-- The order of writes of one tick (16 R374): issue tick, die, core, quarter. -/
def Pending.key (q : Pending) : Nat := (q.tick * 256 + q.core) * 4 + q.quarter

/-- Whether a pending write waits for the results of its turn (18 R414). -/
def PWrite.late : PWrite → Bool
  | .snap => true
  | _ => false

/-- Every pending write of this turn takes effect in order, snapshot triggers after the results of the turn. -/
def State.applyWrites (s : State) (p : Nat) (late : Bool) : State :=
  let due := fun (q : Pending) => q.due ≤ s.turn && q.write.late == late
  let now := sortBy (fun a b => a.key ≤ b.key) ((s.part p).pend.filter due)
  now.foldl (fun s q => s.applyWrite p q.write) (s.modPart p (fun x => { x with pend := x.pend.filter (fun q => !due q) }))

end Sys2Proof.Machine
end

