-- ==== Sys2Proof/Machine/CoreEvents.lean ====
section
/-! DEFINITION. The events inside a core (01 R19-R23, 02 R41, R54, R58, 12 R265, R266, 13 R276, 17 R386-R391): landing of
results, refetch of lines, the rotation boundary, fairness excursions, flushes of the reduction buffer, and the steps of a
group trap. -/

namespace Sys2Proof.Machine

open Host (Outcome)

/-- An event of a group that exists. -/
def onGroup (g : Nat) (s : State) (f : Group → State → State) : Outcome State Fault Refusal :=
  match tget s.groups g with
  | none => .fault .noObject
  | some x => .next (f x s)

/-- RESULT_LAND (02 R53, R54, 01 R36, R37, 04 R91, 17 R390): every result of the group that is due lands. -/
def execResultLand (g : Nat) (s : State) : Outcome State Fault Refusal := onGroup g s (fun _ s => s.land g)

/-! Fetch -/

/-- A group's fetch waits until a turn (02 R41). -/
def State.holdFetch (s : State) (g turn : Nat) : State := s.modGroup g (fun x => { x with fetchHold := Nat.max x.fetchHold turn })

/-- A context fault that a group's issue raises at its own tick; the group issues nothing more in this turn. -/
def State.issueFault (s : State) (g bit cause : Nat) (fpc got exp : Word) : State :=
  let x := s.group g
  (s.holdFetch g (s.turn + 1)).raise x.pid
    { bit := bit, tick := 16 * s.turn + 2 * x.slot.getD 0, cause := cause, core := x.core, qtr := x.quarter, grp := x.index,
      res := x.res, fpc := fpc, exp := exp, got := got }

/-- LINE_REFETCH (02 R41, 03 R74): the line of core `k` whose parity failed is written again from the image, and the
group whose turn it is waits 32 turns; a line of the image that has failed before in this grid raises LINE_PARITY. The spec
has the replacement complete at the end of the 32 turns and leaves open when in them the image is read and the line
replaced: the model does both at the turn of the failed fetch (assumption 67). -/
def execLineRefetch (k line : Nat) (s : State) : Outcome State Fault Refusal :=
  match s.groupAt s.pos with
  | none => .fault .noObject
  | some i =>
    let g := s.group i
    let r := s.grid g.grid
    let idx := line - r.base / 64
    if r.parFails.contains idx then .next (s.issueFault i 5 0 (BitVec.ofNat 32 (64 * line)) 0 0)
    else
      let s := s.modCore k (fun c => { c with
        lines := tset c.lines line (imageLine s.hbm r idx), refetch := tset c.refetch line (s.turn + 32) })
      let s := s.modGrid g.grid (fun r => { r with parFails := insNat r.parFails idx })
      .next ((s.correctable k).holdFetch i (s.turn + 32))

/-! The rotation boundary -/

/-- Lanes of a group that stand available at the last tick before turn `m` (01 R19-R22, 17 R386, R389): live, not
parked, and not waiting for a condition that is still unmet then. -/
def Group.standing (g : Group) (m : Nat) : Mask :=
  let free := fun (l : Lane) => l.isLive && l.trec.isNone && (match l.wait with
    | none => true
    | some w => match w.met with
      | some t => t < 16 * m
      | none => false)
  if m ≤ g.readyAt then 0
  else match g.hphase with
    | .idle => g.maskOf free
    | .running => g.maskOf (fun l => free l && l.hand == .inside)
    | .capture _ u e => if u ≤ m then e &&& g.live else 0
    | .restore u => if u ≤ m then g.maskOf (fun l => free l || (l.isLive && l.trec.isNone && l.hand == .reached)) else 0

/-- Lanes whose ring operation was found unmet at this bank turn: they have waited since their issue (14 R307). -/
def Group.ringNew (g : Group) (turn : Nat) : Mask :=
  g.maskOf (fun l => match l.wait with
    | some w => (match w.cond with
      | .ring _ => w.since / 16 + 1 == turn && w.met.isNone
      | _ => false)
    | none => false)

/-- Some lane was available at the last tick before this turn. -/
def Group.stoodReady (g : Group) (turn : Nat) : Bool := g.stood &&& ~~~g.ringNew turn != 0

/-- The group that holds a slot. -/
def State.holder (s : State) (core quarter k : Nat) : Option (Nat × Group) :=
  s.groups.find? (fun p => p.2.core == core && p.2.quarter == quarter && p.2.slot == some k)

/-- Slots served in ascending order, each empty one or one whose group waits taking the oldest candidate left (01 R21). -/
def serveSlots (core quarter : Nat) : List Nat → List Nat → State → State
  | [], _, s => s
  | _, [], s => s
  | k :: ks, c :: cs, s =>
    let take := fun (s : State) => s.modGroup c (fun g => { g with slot := some k, slotFrom := s.turn + 2, readySince := none })
    match s.holder core quarter k with
    | none => serveSlots core quarter ks cs (take s)
    | some (o, g) =>
      if g.stoodReady s.turn || (s.part g.pid).st != .running then serveSlots core quarter ks (c :: cs) s
      else serveSlots core quarter ks cs (take (s.modGroup o (fun g => { g with slot := none, readySince := none })))

/-- The pending-ready groups of a quarter, oldest first (01 R21). -/
def State.candidates (s : State) (core quarter : Nat) : List Nat :=
  let since := fun (g : Group) => g.readySince.getD 0
  (sortBy (fun a b => since a.2 < since b.2 || (since a.2 == since b.2 && a.2.res ≤ b.2.res))
    (s.groups.filter (fun p => p.2.core == core && p.2.quarter == quarter && p.2.slot.isNone && !p.2.stoodFin
      && (s.part p.2.pid).st == .running && p.2.stoodReady s.turn
      && (match p.2.readySince with
          | some t => t < 16 * s.turn
          | none => false)))).map (·.1)

/-- Lanes whose condition was met before this turn go on (01 R22, 13 R271). -/
def Group.wake (g : Group) (turn : Nat) : Group :=
  { g with lanes := g.lanes.map (fun l => match l.wait with
      | some w => if w.cond != .rti && (match w.met with
          | some t => t < 16 * turn
          | none => false) then { l with wait := none } else l
      | none => l) }

/-- The groups of a partition may go on: it runs, or it is on its way to a halt and the group has not stopped. -/
def State.mayGo (s : State) (g : Group) : Bool :=
  let p := s.part g.pid
  p.st == .running || (p.st == .stopping && p.haltBy && !g.haltDone)

/-- ROTATION_BOUNDARY (01 R21, R22): in every quarter the slots of finished groups empty, the oldest pending-ready groups
take the slots that are empty or whose groups wait, and lanes whose condition is met go on. -/
def execRotationBoundary (s : State) : Outcome State Fault Refusal :=
  let empty := fun (g : Group) => if g.slot.isSome && g.stoodFin then { g with slot := none, readySince := none } else g
  let s : State := { s with bdry := true, groups := s.groups.map (fun p => (p.1, empty p.2)) }
  let quarters := s.groups.foldl (fun l p => insNat l (4 * p.2.core + p.2.quarter)) []
  let s := quarters.foldl (fun s n => serveSlots (n / 4) (n % 4) (List.range 8) (s.candidates (n / 4) (n % 4)) s) s
  .next { s with groups := s.groups.map (fun p => (p.1, if s.mayGo p.2 then p.2.wake s.turn else p.2)) }

/-- The tick since which a group that stands ready at the end of turn `m - 1` has been so: the earliest at which a lane of
those that stand met its condition; the start of a handler and the end of a restore count as met at the last tick of that
turn (17 R386, R389). -/
def Group.readyTick (g : Group) (m : Nat) : Nat :=
  let mets := (lanesOf (g.standing m)).filterMap (fun i => (g.lane i).wait.bind (·.met))
  match g.hphase with
  | .idle | .running => mets.foldl Nat.min (16 * m - 1)
  | .capture .. | .restore _ => 16 * m - 1

/-- How the group stands as the next turn begins: what R21 and R22 look at, and the tick since which a pending group is
ready. -/
def Group.stand (g : Group) (m : Nat) : Group :=
  let st := g.standing m
  let since := if g.slot.isSome || st == 0 then (if g.slot.isSome || g.readyAt < m then none else g.readySince)
    else g.readySince.or (some (g.readyTick m))
  { g with stood := st, stoodFin := g.finished, readySince := since }

/-- FAIRNESS_EXCURSION (13 R276). -/
def execFairnessExcursion (g : Nat) (s : State) : Outcome State Fault Refusal :=
  onGroup g s (fun x s =>
    match x.excursion (s.part x.pid).fairlim with
    | some m => s.setGroup g { x with exc := true, emask := m, ecnt := 0, yld := false }
    | none => s)

/-- STOP_SPACING (02 R58): the issue does not execute, and the partition takes the context fault. -/
def execStopSpacing (g : Nat) (s : State) : Outcome State Fault Refusal := onGroup g s (fun _ s => s.issueFault g 3 0 0 0 0)

/-! The reduction buffer -/

/-- A forced flush recorded or compared (12 R258, R259, R261): it is reckoned to the block whose entry comes first
(assumption 28). -/
def State.noteForced (s : State) (k n : Nat) (e : REntry) : State :=
  let b := s.block (s.group e.gid).block
  let t : TRec := { block := b.blockId, forced := true, nent := n, q0 := 0, core := k, cyc := 16 * s.turn - b.dispTick }
  let r := s.grid b.grid
  let same := fun (q : TRec) => q.forced && !q.used && q.block == t.block && q.cyc == t.cyc && q.nent == t.nent
  let hit := r.trace.any same
  (s.modGrid b.grid (fun r => { r with
    nforced := r.nforced + 1, diverge := r.diverge || (r.desc.det && r.req.tmode == 2 && !hit)
    trace := match r.trace.find? same with
      | some q => r.trace.map (fun x => if x == q then { x with used := true } else x)
      | none => r.trace })).traceRec b.grid t

/-- FORCED_FLUSH (12 R265). -/
def execForcedFlush (k : Nat) (s : State) : Outcome State Fault Refusal :=
  let es := sortBy (fun a b => a.key ≤ b.key) ((s.core k).rbuf.filter (fun e => e.tick < 16 * s.turn))
  let (s, n, _) := s.flush k s.turn (16 * s.turn)
  match es with
  | [] => .next s
  | e :: _ => .next (s.noteForced k n e)

/-- END_FLUSH (12 R265, R266). -/
def execEndFlush (b : Nat) (s : State) : Outcome State Fault Refusal :=
  match tget s.blocks b with
  | none => .fault .noObject
  | some x => .next ((s.flush x.core s.turn (16 * s.turn)).1.modBlock b (fun x => { x with endDone := true }))

/-- The next flushed entry of a core at or before this bank turn. -/
def Core.entryDue (c : Core) (turn : Nat) : Option REntry :=
  match c.rflush with
  | (b, e) :: _ => if b ≤ turn then some e else none
  | [] => none

/-- REDUCTION_ENTRY_APPLY (12 R266, R267). -/
def execReductionEntryApply (k : Nat) (s : State) : Outcome State Fault Refusal :=
  match (s.core k).rflush with
  | [] => .fault .noObject
  | q :: rest => .next ((s.modCore k (fun c => { c with rflush := rest })).applyEntry q.2)

/-! Group traps -/

/-- The turn e of a taking (17 R386): the turn before, when the group's last available lanes turned out at this bank
turn to wait at a ring (14 R307). -/
def Group.takingTurn (g : Group) (turn : Nat) : Nat :=
  if g.ringNew turn != 0 && !g.stoodReady turn then turn - 1 else turn

/-- A group trap is to be taken (17 R386, R387): an untaken trap, no selectable lane, no handler. -/
def Group.trapDue (g : Group) : Bool :=
  g.hphase == .idle && g.selMask == 0 && g.entryLanes != 0

/-- TRAP_ENTRY (17 R386, R391). -/
def execTrapEntry (g : Nat) (s : State) : Outcome State Fault Refusal :=
  onGroup g s (fun x s => if x.trapDue then s.takeTrap g (x.takingTurn s.turn) else s)

/-- TRAP_FRAME_CAPTURED (17 R386): the handler starts. -/
def execTrapFrameCaptured (g : Nat) (s : State) : Outcome State Fault Refusal := onGroup g s (fun _ s => s.enterHandler g)

/-- HANDLER_END (17 R389): the frames are read in the turns that follow. -/
def execHandlerEnd (g : Nat) (s : State) : Outcome State Fault Refusal :=
  onGroup g s (fun x s => if x.handlerEnded then s.setGroup g { x with hphase := .restore (s.turn + frameTurns x.nregs + 1) } else s)

/-- TRAP_FRAME_RESTORED (17 R389, R390, 18 R402). -/
def execTrapFrameRestored (g : Nat) (s : State) : Outcome State Fault Refusal := onGroup g s (fun _ s => s.restoreFrames g)

end Sys2Proof.Machine
end

