-- ==== Sys2Proof/Machine/Stops.lean ====
section
/-! DEFINITION. Context faults, the freeze, and the stop records (17 R394-R399, 16 R353, R364, 18 R405, R416). -/

namespace Sys2Proof.Machine

open Host (Outcome)

/-! Stop records -/

/-- TREC of 17 R385. -/
def TrapRec.trec (r : TrapRec) : Word := BitVec.ofNat 8 r.trap ++ BitVec.ofNat 8 r.cause ++ BitVec.ofNat 16 r.info

/-- The lowest lane of a mask. -/
def Group.lowest (g : Group) (m : Mask) : Option Lane := (lanesOf m).head?.map g.lane

/-- Resident groups of a partition. -/
def State.residents (s : State) (p : Nat) : List (Nat × Group) :=
  s.groups.filter (fun q => q.2.pid == p && !(s.block q.2.block).released)

/-- GSTATE of 17 R396: a pending group is ready when the record's own masks leave it a live lane that is neither parked nor
waiting (01 R19). While a frame is captured or restored no lane is selectable (17 R386, R389): a group without a slot waits then. -/
def Group.gstate (g : Group) : Nat :=
  if g.finished then 3 else if g.hphase == .running then 4 else if g.slot.isSome then 0
  else if g.hphase == .idle && g.live &&& ~~~g.parked &&& ~~~g.waiting != 0 then 1 else 2

/-- SPT of 17 R396. -/
def State.atStopPoint (s : State) (g : Group) : Bool :=
  g.pend.all (fun p => p.kind != .ord) && (match g.keys.head? with
    | some k => (s.wordAt g (k % 2 ^ 20)).getLsbD 4
    | none => false)

/-- The stop record of a group (17 R396). -/
def State.groupStop (s : State) (g : Group) : List Byte :=
  let b := s.block g.block
  let ks := g.keys
  let mask := fun (k : Nat) => g.maskOf (fun l => l.isLive && l.key == k)
  toBytes 4 (2 ^ 24 + g.core * 2 ^ 16 + g.quarter * 2 ^ 14 + g.res * 2 ^ 8 + g.index * 2 ^ 4 + g.gstate)
    ++ toBytes 4 b.blockId ++ toBytes 8 g.stime ++ toBytes 8 g.live.toNat ++ toBytes 8 g.parked.toNat ++ toBytes 8 g.waiting.toNat
    ++ toBytes 4 (b.bar.gen % 2 ^ 16 * 2 ^ 16 + s.barMask g.block) ++ toBytes 4 (b.bar.first.getD 0 % 2 ^ 32)
    ++ (List.range 4).flatMap (fun k => toBytes 4 ((ks[k]?.map keyWord).getD 0xFFFFFFFF))
    ++ (List.range 4).flatMap (fun k => toBytes 8 ((ks[k]?.map (fun x => (mask x).toNat)).getD 0))
    ++ toBytes 4 ((if s.atStopPoint g then 2 ^ 31 else 0) + ks.length) ++ toBytes 4 g.sigReg.toNat ++ toBytes 4 g.qlog.toNat
    ++ toBytes 4 (((g.lowest g.live).map (fun l => (g.flagsOf l).toNat)).getD 0) ++ toBytes 4 g.last.toNat ++ toBytes 4 g.compl.toNat
    ++ toBytes 4 ((((g.lowest g.parked).bind Lane.trec).map (fun r => r.trec.toNat)).getD 0)
    ++ toBytes 4 ((((g.lowest g.parked).bind Lane.trec).map (fun r => r.targ.toNat)).getD 0)

/-- The bytes that records of the engines and streams share (17 R397). -/
def stopHead (kind core num time : Nat) : List Byte := toBytes 4 (kind * 2 ^ 24 + core * 2 ^ 16 + num) ++ toBytes 4 0 ++ toBytes 8 time

/-- The BLOCKID of the block with a matrix role that owns a core's engine (07 R144). -/
def State.engineOwner (s : State) (k : Nat) : Option Nat :=
  (s.blocks.find? (fun b => b.2.core == k && !b.2.released && (s.grid b.2.grid).desc.hasMatrix)).map (·.2.blockId)

/-- The stop record of a matrix engine (17 R397): an engine that no block owns has none (21 R427). -/
def State.engineStop (s : State) (k time : Nat) : List Byte :=
  let c := s.core k
  let loop : Word := match c.eq with
    | q :: _ => (match q.kind with
      | .mloop m _ => if q.drained then loopRecord m.tile q.steps else 0
      | _ => 0)
    | [] => 0
  match s.engineOwner k with
  | none => List.replicate 128 0
  | some b => stopHead 2 k 0 time ++ (List.range 8).flatMap (fun n => toBytes 4 ((s.tile k n).status n).toNat)
    ++ toBytes 4 c.eq.length ++ toBytes 4 loop.toNat ++ toBytes 4 b ++ List.replicate 68 0

/-- PROG of the running command of a class (10 R227). -/
def CCmd.progWord (c : CCmd) : Nat :=
  if c.ran then match c.kind with
    | .move .. => 2 * 2 ^ 28 + c.done
    | .index .. => 3 * 2 ^ 28 + c.done
    | .digest .. => 4 * 2 ^ 28 + c.done
    | .atom .. => 0
  else 0

/-- The stop record of a core's copy engines and remote queue (17 R397). -/
def State.copyStop (s : State) (k time : Nat) : List Byte :=
  let c := s.core k
  let qs := [c.cqH, c.cqP, c.cqX, c.cqS]
  let here := fun (gid : Nat) => (s.group gid).core == k
  stopHead 3 k 0 time ++ qs.flatMap (fun q => toBytes 4 q.length) ++ qs.flatMap (fun q => toBytes 4 ((q.head?.map CCmd.progWord).getD 0))
    ++ toBytes 4 ((s.remotes.filter (fun r => here r.gid)).length
        + (s.groups.foldl (fun n p => n + if p.2.core = k then p.2.runq.length else 0) 0)) ++ List.replicate 76 0

/-- The stop record of a stream (17 R397). Where a grid of the stream met SHARD_VERSION, 0x1C names the cause, as 6, and 0x20 the lowest rank
whose version differs: 15 R346 asks for both and names no place (DESIGN CHOICE, assumption 48). -/
def State.streamStop (s : State) (p i time : Nat) : List Byte :=
  let x := s.stream p i
  let shard := match (s.part p).shard.find? (fun q => q.1 == i) with
    | some q => toBytes 4 6 ++ toBytes 4 q.2
    | none => List.replicate 8 0
  stopHead 4 0xFF i time ++ toBytes 4 x.srd.toNat ++ toBytes 4 x.curHdr.toNat ++ toBytes 4 x.curTag.toNat ++ shard ++ List.replicate 92 0

/-- Where an image lies (16 R353): HBM4 from an address, or a shadow area; `none` for the other codes. -/
inductive ImgLoc where
  | hbm (a : Nat) | area (n : Nat)
  deriving DecidableEq, Repr

def State.imageLoc (s : State) (p : Nat) : Option ImgLoc :=
  let q := s.part p
  if q.csel = 0 then some (.hbm q.cimg.toNat)
  else if 4 ≤ q.csel && q.csel % 2 < (if q.csel / 2 % 2 = 0 then s.dev.nsh0 else s.dev.nsh1) then some (.area (q.csel - 4)) else none

/-- Bytes of an image read and written at its location. -/
def State.imgRead (s : State) (l : ImgLoc) (ofs n : Nat) : List Byte :=
  match l with
  | .hbm a => s.hbm.read (a + ofs) n
  | .area i => memRead ((tget s.shadows i).getD []) ofs n
def State.imgWrite (s : State) (l : ImgLoc) (ofs : Nat) (bs : List Byte) : State :=
  match l with
  | .hbm a => { s with hbm := s.hbm.write (a + ofs) bs }
  | .area i => { s with shadows := tset s.shadows i (memWrite ((tget s.shadows i).getD []) ofs bs) }

/-- Offset of the slot of the `i`-th core of the partition (16 R358). -/
def slotOfs (i : Nat) : Nat := 2 ^ 20 + i * 2 ^ 22

/-- Every stop record of the partition with its offset in the image; a place with no record holds zeros (17 R396). -/
def State.stopList (s : State) (p : Nat) : List (Nat × List Byte) :=
  let time := (s.part p).haltTick.getD 0
  let gs := s.residents p
  let streams := (List.range 64).flatMap (fun i => if (s.stream p i).en || (s.part p).shard.any (fun q => q.1 == i) then s.streamStop p i time else List.replicate 128 0)
  (mapFrom (fun i c => (i, c)) 0 (s.coresOf p)).flatMap (fun q =>
    let base := slotOfs q.1
    let recs := (List.range 256).flatMap (fun n =>
      match gs.find? (fun g => g.2.core == q.2 && g.2.quarter == n / 64 && g.2.res == n % 64) with
      | some g => s.groupStop g.2
      | none => List.replicate 128 0)
    [(base + 0x3F0000, recs), (base + 0x3F8000, s.engineStop q.2 time), (base + 0x3F8080, s.copyStop q.2 time)])
  ++ [(0xFE000, streams)]

/-- The stop records are written at their places of the image location; they are part of the context, and SAVE writes them into
its image (16 R358, 17 R396). -/
def State.writeStops (s : State) (p : Nat) : State :=
  let rs := s.stopList p
  let s := s.modPart p (fun q => { q with stops := rs })
  match s.imageLoc p with
  | none => s
  | some l => rs.foldl (fun s r => s.imgWrite l r.1 r.2) s

/-! Context faults -/

/-- The order of faults within a skid (16 R364, 18 R405): tick, die, core, quarter. -/
def CFault.key (f : CFault) : Nat := (f.tick * 256 + f.core) * 4 + f.qtr

/-- A fault enters the partition's registers (16 R353, R364, 18 R405): of the violations of a skid the first in the order of
R364 is recorded and FMORE counts the others; of the signature faults the first is recorded. -/
def Part.record (q : Part) (f : CFault) : Part :=
  let q := { q with fsum := q.fsum ||| (1#7 <<< f.bit) }
  if f.bit = 0 then
    let q := if q.fcause = 0 then q else { q with fmore := Nat.min (q.fmore + 1) 1023 }
    if q.fcause = 0 ∨ f.key < q.fkey then
      { q with fcause := f.cause, fmaster := f.master, fcore := f.core, fqtr := f.qtr, fgrp := f.grp, fpc := f.fpc, fadr := f.adr
               fpeer := f.peer, fkey := f.key }
    else q
  else if f.bit = 4 then
    let q := { q with scsig := satInc q.scsig }
    if q.sgcause = 0 ∨ f.key < q.sgkey then
      { q with sgcause := f.cause, sgcore := f.core, sgqtr := f.qtr, sgres := f.res, sgpc := f.fpc, sgexp := f.exp, sggot := f.got
               sgkey := f.key }
    else q
  else if f.bit = 1 ∧ f.cause = 6 then { q with shard := q.shard ++ [(f.master, f.adr.toNat)] }
  else q

/-- Two SIGNATURE faults that name a core in SGCORE within one window mark it (18 R416). A skid names one core, which stands
when its records are written (assumption 66). -/
def State.countSig (s : State) (p : Nat) : State :=
  let q := s.part p
  if q.sgcause = 0 then s
  else
    let s := s.modCore q.sgcore (fun c => { c with sigFaults := c.sigFaults + 1 })
    if 2 ≤ (s.core q.sgcore).sigFaults then s.markCore q.sgcore else s

/-- The freeze begins at tick T (17 R395, 16 R355, 18 R414, 21 R426): the halt line rises, every group stops, the snapshot
is taken, and the records are there and PSTATE reads FROZEN at T + 6,144. -/
def State.beginFreeze (s : State) (p t : Nat) : State :=
  let s := s.snapshot p 4 t
  let s : State := { s with groups := s.groups.map (fun g =>
    (g.1, if g.2.pid == p && !g.2.haltDone then { g.2 with stime := t, haltDone := true } else g.2)) }
  s.modPart p (fun q => { q with
    st := .stopping, haltBy := false, haltTick := some (match q.haltTick with
      | some u => if q.st == .stopping then Nat.min u t else t
      | none => t)
    freezeAt := t + 6144, cmdDone := 0, fsum := 0, shard := [], fcause := 0, fmaster := 0, fcore := 0, fqtr := 0, fgrp := 0, fmore := 0
    fpc := 0, fadr := 0, fpeer := 0, sgcause := 0, sgcore := 0, sgqtr := 0, sgres := 0, sgpc := 0, sgexp := 0, sggot := 0, fkey := 0, sgkey := 0 })

/-- The context faults of a partition that are due now, in the order of 16 R364. The halt line rises in the fault's own tick,
and no issue of the partition that comes after it, at that tick or later, starts (17 R395, assumption 9). -/
def State.faultsDue (s : State) (p : Nat) : List CFault := sortBy (fun a b => a.key ≤ b.key) (s.part p).faults

/-- CONTEXT_FAULT (17 R394, R395, 16 R364): the partition's halt line rises, or a fault within the skid joins the first.
A partition that neither runs nor stops takes none. -/
def execContextFault (p : Nat) (s : State) : Outcome State Fault Refusal :=
  if 8 ≤ p then .fault .noObject
  else
    let fs := s.faultsDue p
    let s := s.modPart p (fun q => { q with faults := q.faults.filter (fun f => !fs.contains f) })
    let q := s.part p
    match fs with
    | [] => .next s
    | f :: _ =>
      if q.st != .running && q.st != .stopping then .next s
      else
        let s := if q.st == .running || q.haltBy then s.beginFreeze p f.tick else s
        .next (fs.foldl (fun s f => s.modPart p (fun q => q.record f)) s)

/-- A started grid without a completion record writes its FAULTED record (14 R317). The header of its trace is written with a record of
status COMPLETE alone, as 12 R259 says of the completion record (DESIGN CHOICE, assumption 28). -/
def State.faultGrids (s : State) (p : Nat) : State :=
  s.grids.foldl (fun s r =>
    if r.2.pid == p && r.2.phase == .started && !r.2.recorded then
      (s.putRec p r.2.stream (s.gridRec r.1 1 (s.part p).fsum.toNat) (r.2.req.hdr.getLsbD 16)).modGrid r.1 (fun r => { r with recorded := true })
    else s) s

/-- STOP_RECORDS_WRITTEN (17 R395-R397, 14 R317, 16 R355). -/
def execStopRecordsWritten (p : Nat) (s : State) : Outcome State Fault Refusal :=
  if 8 ≤ p then .fault .noObject
  else .next (((((s.writeStops p).faultGrids p).countSig p).modPart p (fun q => { q with st := .frozen, freezeAt := 0 })).emit (.msix (s.part p).ivec))

/-! HALT (17 R398, R399) -/

/-- Register results of a group that a stop waits for: none of the matrix engine, of remote executions, or of a
semaphore access that has not applied (02 R57, 17 R398). -/
def State.unlanded (s : State) (i : Nat) (g : Group) : Bool :=
  g.pend.any (fun p => p.kind == .ord && !s.semq.any (fun q => q.gid == i && q.seq == p.seq))

/-- A group that stops where it stands under HALT (17 R398): finished, pending, waiting, held by a word, or with an
untaken trap. A handler goes on to its next stop point, whatever traps the lanes outside it still hold. -/
def State.stopsHere (s : State) (i : Nat) (g : Group) : Bool :=
  g.finished || g.slot.isNone || g.selMask == 0 || (g.hphase != .running && g.entryLanes != 0) || s.remoteHeld i g || (s.turn < g.hold && g.runq.isEmpty)

/-- Groups that stop where they stand are noted. -/
def State.haltScan (s : State) (p : Nat) : State :=
  { s with groups := s.groups.map (fun q =>
      (q.1, if q.2.pid == p && !q.2.haltDone && s.stopsHere q.1 q.2 then { q.2 with haltDone := true, stime := s.now } else q.2)) }

/-- Some group is still to be noted. -/
def State.haltScanDue (s : State) (p : Nat) : Bool :=
  s.groups.any (fun q => q.2.pid == p && !q.2.haltDone && s.stopsHere q.1 q.2)

/-- A core's engines have stopped: no started command, no flushed entry waiting (07 R163, 10 R228, 12 R267). A started `cpy.atom` runs to its
end, with the context halted by then where that end is beyond the skid of 128 turns (10 R228, 17 R399; DEDUCED, assumption 90). -/
def Core.still (c : Core) : Bool :=
  let idle := fun (q : List CCmd) => match q with
    | k :: _ => k.start.isNone || (match k.kind with
      | .atom .. => true
      | _ => false)
    | [] => true
  (match c.eq with
    | k :: _ => k.start.isNone
    | [] => true) && idle c.cqH && idle c.cqP && idle c.cqX && idle c.cqS && c.rflush.isEmpty

/-- The turn by which PSTATE reads HALTED (17 R399): 256 turns after the skid of the engines and 12 turns after each group's stop. -/
def State.haltLimit (s : State) (p : Nat) : Nat :=
  let h := (s.part p).haltTick.getD 0 / 16
  256 + s.groups.foldl (fun n q => if q.2.pid = p then Nat.max n (q.2.stime / 16 + 12) else n) (h + 128)

/-- Everything under HALT has stopped and landed; the records are then written within 256 turns, and by the limit of R399, which counts no
result later than 12 turns after the stop: of a `launch` that the stop waits for, 02 R57, what comes later is taken off the 256 turns. -/
def State.haltReady (s : State) (p : Nat) : Bool :=
  (s.groups.all (fun q => q.2.pid != p || (q.2.haltDone && !s.unlanded q.1 q.2))) && (s.coresOf p).all (fun c => (s.core c).still)

/-- HALT_COMPLETE (17 R396, R398, R399, 16 R355, R357): PSTATE reads HALTED from the turn after the last record. -/
def execHaltComplete (p : Nat) (s : State) : Outcome State Fault Refusal :=
  if 8 ≤ p then .fault .noObject
  else .next (((s.writeStops p).modPart p (fun q => { q with st := .halted, haltBy := false, cmdDone := 0 })).emit (.msix (s.part p).ivec))

end Sys2Proof.Machine
end

