-- ==== Sys2Proof/Machine/Driver.lean ====
section
/-! DEFINITION. What the driver and the host do to the device: commands, context images, registers, page requests and
host accesses to HBM4 (16 R349-R363, R366, R368, 14 R318). -/

namespace Sys2Proof.Machine

open Host (Outcome)

/-! A context leaves -/

/-- A core after CLEARING: only the counters of its hardware stay (16 R356, 18 R416). -/
def Core.cleared (c : Core) : Core := { cecnt := c.cecnt, ceWin := c.ceWin, sigFaults := c.sigFaults, marked := c.marked }

/-- Executions on the device's own memory that were sent and not yet applied apply now, within their bound (10 R232,
R233). -/
def State.applySent (s : State) (p : Nat) : State :=
  s.remotes.foldl (fun s r =>
    if (s.group r.gid).pid == p && !r.applied && peerOf r.peer == s.selfDev then
      match s.ext (s.group r.gid) (rngOf r.peer) with
      | some e => (s.applySelf e r).1
      | none => s
    else s) s

/-- A `cpy.atom` that has started runs to its end (10 R228): its lanes apply. -/
def State.applyAtoms (s : State) (p : Nat) : State :=
  (s.coresOf p).foldl (fun s k => [CClass.H, .P, .X].foldl (fun s cl =>
    match (s.core k).queue cl with
    | c :: _ => (match c.kind, c.start with
      | .atom .., some _ => if c.done < c.units then (match execCopyUnitEffect k cl s with
          | .next t => t
          | _ => s) else s
      | _, _ => s)
    | [] => s) s) s

/-- CLEARING zeroes what the context held (16 R356): groups with their registers, blocks with their scratch, grids with
their die scratch and leases, tiles, queues, buffers, instruction scratch and the semaphore table (R357). A walk for the ring of a stream that missed still waits
(16 R361). -/
def State.clearContext (s : State) (p : Nat) : State :=
  let s := (s.applySent p).applyAtoms p
  let mine := fun (gid : Nat) => (s.group gid).pid == p
  let grid := fun (b : Block) => (s.grid b.grid).pid == p
  let s1 : State := { s with
    groups := s.groups.filter (fun g => g.2.pid != p), blocks := s.blocks.filter (fun b => !grid b.2)
    grids := s.grids.filter (fun r => r.2.pid != p), bankQ := s.bankQ.filter (fun a => !mine a.gid)
    remotes := s.remotes.filter (fun r => !mine r.gid), semq := s.semq.filter (fun q => q.pid != p) }
  let s2 := (s.coresOf p).foldl (fun s c => s.modCore c Core.cleared) s1
  let s3 := (List.range 64).foldl (fun s i =>
    if (s.stream p i) = {} then s
    else s.modStream p i (fun x => { x with pkt := none, copyAt := none, copySegs := ([], []), copyBy := 0, semw := false, missed := false, curHdr := 0, curTag := 0 })) s2
  let rings := (List.range 64).filterMap (fun i => (s.stream p i).ringMiss)
  s3.modPart p (fun q => { q with
    sems := [], gctr := 0, pend := [], rejects := [], faults := [], haltTick := none, haltBy := false, freezeAt := 0, snheld := false, snTrig := 0
    stops := [], pgv := q.pgv && !rings.isEmpty, pgva := if rings.contains q.pgva then q.pgva else rings.headD q.pgva })

/-- The turns that CLEARING may take (16 R356). -/
def State.clearBound (s : State) (p : Nat) : Nat :=
  let q := s.part p
  1856 + ceilDiv ((q.dsh0 + q.dsh1) * 2 ^ 20) (2048 * Nat.max (s.coresOf p).length 1)

/-- A command enters a state that lasts a free number of turns, from `lo` to `hi` (assumption 8). -/
def State.enter (s : State) (p : Nat) (st : PState) (lo hi : Nat) : State :=
  let (n, s) := s.drawNat (hi - lo + 1)
  s.modPart p (fun q => { q with st := st, cstat := 0, cmdDone := s.turn + lo + n })

/-! Commands (16 R357) -/

/-- A command that is not accepted: BUSY in a state that passes, BADSTATE otherwise. -/
def State.refuse (s : State) (p : Nat) : State :=
  s.modPart p (fun q => { q with cstat := match q.st with
    | .stopping | .saving | .restoring | .clearing => 2
    | _ => 1 })

/-- A command of a partition that exists. -/
def onPart (p : Nat) (s : State) (f : Part → State → State) : Outcome State Fault Refusal :=
  if p < 8 then .next (s.served (f (s.part p))) else .fault .noObject

/-- OPEN (16 R353, R357, 08 R174, 13 R277, 14 R292, R312): CLEARING, then the streams start; the registers with a value
at partition start take it. -/
def State.cmdOpen (s : State) (p : Nat) : State :=
  let q := s.part p
  if q.st != .empty then s.refuse p
  else ((s.clearContext p).enter p .clearing 1 (s.clearBound p)).modPart p (fun q => { q with
    cmdOpen := true, sbchk := false, tol := ({} : Part).tol })

/-- HALT (16 R357, 17 R398): every group goes to a stop, and the engines stop with this turn. -/
def State.cmdHalt (s : State) (p : Nat) : State :=
  if (s.part p).st != .running then s.refuse p
  else
    let s : State := { s with groups := s.groups.map (fun g => (g.1, if g.2.pid == p then { g.2 with haltDone := false } else g.2)) }
    s.modPart p (fun q => { q with st := .stopping, cstat := 0, haltBy := true, haltTick := some s.now, cmdDone := 0 })

/-- A stopped group goes on from turn `u`: executions not yet sent keep their distance, and the group's next issue its distance from
them (10 R231, R235). -/
def Group.resumed (g : Group) (u : Nat) : Group :=
  let d := match g.runq with
    | r :: _ => u - r.issue
    | [] => 0
  { g with haltDone := false, next := Nat.max (g.next + d) u, runq := g.runq.map (fun r => { r with issue := r.issue + d }) }

/-- RESUME (16 R357, 17 R398): groups and engines go on from the next turn; a saved semaphore access applies no earlier
than that turn, and the hold of its word moves with it. -/
def State.cmdResume (s : State) (p : Nat) : State :=
  if (s.part p).st != .halted then s.refuse p
  else
    let u := s.turn + 1
    let cs := s.coresOf p
    let late := s.semq.filter (fun q => q.pid == p && q.turn < u)
    let s := late.foldl (fun s q => s.modGroup q.gid (fun g =>
      { g with hold := Nat.max g.hold u
               pend := g.pend.map (fun l => if l.seq == q.seq then { l with due := Nat.max l.due u } else l) })) s
    let s : State := { s with
      semq := s.semq.map (fun q => if q.pid == p then { q with turn := Nat.max q.turn u } else q)
      groups := s.groups.map (fun g => (g.1, if g.2.pid == p then g.2.resumed u else g.2))
      cores := s.cores.map (fun c => (c.1, if cs.contains c.1 then
        { c.2 with eEnd := Nat.max c.2.eEnd u, endH := Nat.max c.2.endH u, endP := Nat.max c.2.endP u
                   endX := Nat.max c.2.endX u, endS := Nat.max c.2.endS u } else c.2)) }
    (s.modPart p (fun q => { q with st := .running, cstat := 0, haltTick := none, haltBy := false })).emit (.msix (s.part p).ivec)

/-- Bytes of die scratch that a partition's grids hold (16 R358). -/
def State.dieBytes (s : State) (p : Nat) (grids : List (Nat × Grid)) : Nat :=
  ((grids.filter (fun r => r.2.holds)).map (fun r => r.2.desc.dscr)).foldl (· + ·) 0 * (s.diesOf p).length

/-- The grids of a partition. -/
def State.gridsOf (s : State) (p : Nat) : List (Nat × Grid) := s.grids.filter (fun r => r.2.pid == p)

/-- A location that CSEL may name for this partition: an area serves one unit on its own die (16 R352, R359). -/
def State.imageOk (s : State) (p : Nat) : Bool :=
  match s.imageLoc p with
  | some (.hbm a) => a % 2 ^ 20 == 0
  | some (.area i) => (s.coresOf p).length == 24 && s.diesOf p == [i / 2]
  | none => false

/-- The image that stands at a partition's image location, if it is one that SAVE wrote with this DS and no byte of it has
changed (assumption 12). -/
def State.imageAt (s : State) (p : Nat) (ds : Bool) : Option Image :=
  if s.imageOk p then
    match s.imageLoc p with
    | some l => s.images.find? (fun m => m.ds == ds && s.imgRead l 0 m.bytes.length == m.bytes)
    | none => none
  else none

/-- Turns of a SAVE or RESTORE (16 R359): a slot at 1,024 or 512 bytes a turn, then the header, within the bound; `die` are the
bytes of die scratch moved with DS, and `lines` the image lines that a RESTORE reloads. -/
def State.moveBounds (s : State) (p die lines : Nat) : Nat × Nat :=
  let area := (s.part p).csel != 0
  let w := if area then 1024 else 512
  let extra := ceilDiv die (w * Nat.max (s.coresOf p).length 1)
  (4194304 / w + extra, (if area then 4500 else 9000 + ceilDiv (64 * lines) 512) + extra)

/-- SAVE (16 R357, R359): a location that CSEL does not name gives BADIMAGE, which ends the command. -/
def State.cmdSave (s : State) (p : Nat) (ds : Bool) : State :=
  if (s.part p).st != .halted then s.refuse p
  else if !s.imageOk p then (s.modPart p (fun q => { q with cstat := 3 })).emit (.msix (s.part p).ivec)
  else
    let b := s.moveBounds p (if ds then s.dieBytes p (s.gridsOf p) else 0) 0
    (s.enter p .saving b.1 b.2).modPart p (fun q => { q with cmdDs := ds })

/-- Lines of code that RESTORE reloads for an image: those of its started grids (16 R358). -/
def Image.lines (m : Image) : Nat :=
  ((m.grids.filter (fun r => r.2.phase == .started && !r.2.recorded)).map (fun r => r.2.desc.nlines)).foldl (· + ·) 0

/-- RESTORE (16 R357, R359): the turns are those of the image that stands there; with none, those of a slot and a full
instruction scratch bound them. -/
def State.cmdRestore (s : State) (p : Nat) (ds : Bool) : State :=
  if (s.part p).st != .empty then s.refuse p
  else
    let b := match s.imageAt p ds with
      | some m => s.moveBounds p (if ds then s.dieBytes p m.grids else 0) m.lines
      | none => s.moveBounds p 0 8192
    (s.enter p .restoring b.1 b.2).modPart p (fun q => { q with cmdDs := ds })

/-- The TERMINATED records, in acceptance order (14 R317). -/
def State.terminateGrids (s : State) (p : Nat) : State :=
  s.grids.foldl (fun s r =>
    if r.2.pid == p && !r.2.recorded then
      (s.putRec p r.2.stream (s.gridRec r.1 2 0) (r.2.req.hdr.getLsbD 16)).modGrid r.1 (fun r => { r with recorded := true })
    else s) s

/-- TERMINATE (16 R357, R366, 14 R317). -/
def State.cmdTerminate (s : State) (p : Nat) : State :=
  let q := s.part p
  if q.st != .halted && q.st != .frozen then s.refuse p
  else (((s.terminateGrids p).clearContext p).enter p .clearing 1 (s.clearBound p)).modPart p (fun q => { q with cmdOpen := false })

def execOpenCmd (p : Nat) (_ : Bool) (s : State) : Outcome State Fault Refusal := onPart p s (fun _ s => s.cmdOpen p)
def execHaltCmd (p : Nat) (_ : Bool) (s : State) : Outcome State Fault Refusal := onPart p s (fun _ s => s.cmdHalt p)
def execResumeCmd (p : Nat) (_ : Bool) (s : State) : Outcome State Fault Refusal := onPart p s (fun _ s => s.cmdResume p)
def execSaveCmd (p : Nat) (ds : Bool) (s : State) : Outcome State Fault Refusal := onPart p s (fun _ s => s.cmdSave p ds)
def execRestoreCmd (p : Nat) (ds : Bool) (s : State) : Outcome State Fault Refusal := onPart p s (fun _ s => s.cmdRestore p ds)
def execTerminateCmd (p : Nat) (_ : Bool) (s : State) : Outcome State Fault Refusal := onPart p s (fun _ s => s.cmdTerminate p)

/-- A code written to CMD (16 R357). -/
def State.command (s : State) (p code : Nat) (ds : Bool) : State :=
  match code with
  | 1 => s.cmdOpen p
  | 2 => s.cmdHalt p
  | 3 => s.cmdResume p
  | 4 => s.cmdSave p ds
  | 5 => s.cmdRestore p ds
  | 6 => s.cmdTerminate p
  | _ => s.refuse p

/-- CLEARING_DONE (16 R356, R357). -/
def execClearingDone (p : Nat) (s : State) : Outcome State Fault Refusal :=
  onPart p s (fun q s => (s.modPart p (fun q => { q with st := if q.cmdOpen then .running else .empty, cmdOpen := false, cmdDone := 0 })).emit (.msix q.ivec))

/-! Context images (16 R358, R359, 17 R396, 18 R423) -/

/-- Bytes of the image without die scratch. -/
def State.imageLen (s : State) (p : Nat) : Nat := slotOfs (s.coresOf p).length

/-- The group as a context swap leaves it: no lane holds a reservation (09 R199). -/
def Group.swapped (g : Group) : Group := { g with lanes := g.lanes.map (fun l => { l with resv := none }) }

/-- SAVE_COMPLETE (16 R357-R359, 18 R423): the image is written, the stop records at their places and every other byte of it
free, and CLEARING begins. -/
def execSaveComplete (p : Nat) (s : State) : Outcome State Fault Refusal :=
  onPart p s (fun q s =>
    match s.imageLoc p with
    | none => (s.modPart p (fun q => { q with st := .halted, cstat := 3, cmdDone := 0 })).emit (.msix q.ivec)
    | some l =>
      let grids := s.gridsOf p
      let n := s.imageLen p + if q.cmdDs then s.dieBytes p grids else 0
      let bytes := q.stops.foldl (fun bs r => bs.take r.1 ++ r.2 ++ bs.drop (r.1 + r.2.length))
        ((List.range n).map (fun o => Config.freeByte (s.free + o)))
      let im : Image := {
        grids := if q.cmdDs then grids else grids.map (fun r => (r.1, { r.2 with scr0 := {}, scr1 := {} }))
        blocks := s.blocks.filter (fun b => (s.grid b.2.grid).pid == p), groups := (s.groups.filter (fun g => g.2.pid == p)).map (fun g => (g.1, g.2.swapped))
        cores := (s.coresOf p).map (fun c => (c, s.core c)), sems := q.sems, gctr := q.gctr, tol := q.tol
        srds := (List.range 64).map (fun i => (i, (s.stream p i).srd)), semq := s.semq.filter (fun x => x.pid == p)
        devseq := s.dev.devseq, mask := s.unitMask p, asid := q.asid, gen := q.gen, ds := q.cmdDs, stops := q.stops
        bytes := bytes }
      let s : State := { s with images := s.images ++ [im], free := s.free + n }
      (((s.imgWrite l 0 bytes).clearContext p).enter p .clearing 1 (s.clearBound p)).modPart p (fun q => { q with cmdOpen := false }))

/-- The checks of RESTORE (16 R358): device, unit mask, and the reloaded code of every started grid. -/
def State.imageGood (s : State) (p : Nat) (m : Image) : Bool :=
  m.devseq == s.dev.devseq && m.mask == s.unitMask p && m.grids.all (fun r =>
    r.2.phase != .started || crc32c (((List.range r.2.desc.nlines).map (imageLine s.hbm r.2)).flatMap Line.bytes) == r.2.code)

/-- A saved context put back (16 R358, 07 R164, 10 R228, 08 R181). -/
def State.putBack (s : State) (p : Nat) (m : Image) : State :=
  let s := m.cores.foldl (fun s c => s.modCore c.1 (fun old =>
    { c.2 with cecnt := old.cecnt, ceWin := old.ceWin, sigFaults := old.sigFaults, marked := old.marked, lines := [], refetch := [] })) s
  let s : State := { s with
    grids := m.grids.foldl (fun t r => tset t r.1 { r.2 with pid := p }) s.grids
    blocks := m.blocks.foldl (fun t b => tset t b.1 b.2) s.blocks
    groups := m.groups.foldl (fun t g => tset t g.1 { g.2 with pid := p }) s.groups
    semq := s.semq ++ m.semq.map (fun q => { q with pid := p }) }
  let s := (m.grids.filter (fun r => r.2.phase == .started && !r.2.recorded)).foldl (fun s r =>
    let lines := (List.range r.2.desc.nlines).map (imageLine s.hbm r.2)
    (s.coresOf p).foldl (fun s c => s.modCore c (fun k => { k with lines := replaceLines k.lines (r.2.base / 64) lines })) s) s
  let s := m.srds.foldl (fun s r => if (s.stream p r.1).srd = r.2 then s else s.modStream p r.1 (fun x => { x with srd := r.2 })) s
  s.modPart p (fun q => { q with sems := m.sems, gctr := m.gctr, tol := m.tol, asid := m.asid, gen := m.gen, stops := m.stops })

/-- RESTORE_COMPLETE (16 R357, R358). -/
def execRestoreComplete (p : Nat) (s : State) : Outcome State Fault Refusal :=
  onPart p s (fun q s =>
    (match s.imageAt p q.cmdDs with
    | some m =>
      if s.imageGood p m then (s.putBack p m).modPart p (fun q => { q with st := .halted, cmdDone := 0 })
      else s.modPart p (fun q => { q with st := .empty, cstat := 3, cmdDone := 0 })
    | none => s.modPart p (fun q => { q with st := .empty, cstat := 3, cmdDone := 0 })).emit (.msix q.ivec))

/-! Translation: page requests and invalidation (16 R361, R362) -/

/-- The rings of a stream are translated (16 R354, R360): where a walk fails the ring stays without a translation, and where it
misses the stream's walk waits for PGACK (16 R361). -/
def State.mapStream (s : State) (p i : Nat) : State :=
  let one := fun (s : State) (va : DWord) (n : Word) (acc : Nat) => match s.translate p va.toNat (64 * n.toNat) acc 0 with
    | (s, .ok q) => (s, q, none)
    | (s, .miss v) => (s.pageMiss p v, [], some (v / 65536 * 65536))
    | (s, .bad) => (s, [], none)
  let x := s.stream p i
  let (s, a, m) := one s x.sbase x.ssize 1
  let (s, b, n) := one s x.ebase x.esize 2
  let s := s.modStream p i (fun x => { x with segs := a, esegs := b, ringMiss := m.or n })
  s.flushRecs p i (s.stream p i).held.length

/-- PGACK written (16 R361): every walk that missed is repeated. -/
def State.pageAck (s : State) (p : Nat) : State :=
  let s := s.modPart p (fun q => { q with pgv := false })
  let s := (s.grids.filter (fun r => r.2.pid == p && r.2.missed && r.2.phase == .accepted)).foldl (fun s r => s.reside r.1) s
  (List.range 64).foldl (fun s i =>
    let x := s.stream p i
    let s := if x.missed then s.modStream p i (fun x => { x with missed := false }) else s
    if x.en && (x.segs.isEmpty || x.esegs.isEmpty) then s.mapStream p i else s) s

/-- PGACK (16 R361). -/
def execPgack (p : Nat) (s : State) : Outcome State Fault Refusal := onPart p s (fun _ s => s.pageAck p)

/-- A translated range holds a translation of the page of a virtual address (16 R362). -/
def Extent.onPage (e : Extent) (va : Nat) : Bool :=
  e.segs.any (fun q => let b := (e.base + q.ofs) / q.size * q.size; decide (b ≤ va) && decide (va < b + q.size))

/-- A lease covers the page of a virtual address (16 R362, R363): that of a resident grid, or one granted to another device whose recall
has not been answered. -/
def State.leased (s : State) (p va : Nat) : Bool :=
  s.grids.any (fun r => r.2.pid == p && r.2.exts.any (·.onPage va)) || s.pat.granted.any (fun g => g.pid == p && g.ext.onPage va)

/-- Recalls go out to the devices that hold a lease of a partition with a translation in `hit`, for the stretches of 64 KiB pages of those
translations that no recall names yet, in control slots (16 R363). -/
def State.recall (s : State) (p : Nat) (hit : Extent → Seg → Bool) : State :=
  s.pat.granted.foldl (fun s g =>
    let now := if g.pid = p then (g.ext.segs.filter (fun q => hit g.ext q && !g.recalled.contains (q.ofs / 65536))).map (fun q =>
        (q.ofs / 65536, (q.ofs + q.len + 65535) / 65536 - q.ofs / 65536)) else []
    now.foldl (fun s n => s.sendControl s.anyPort (fun p => .recall g.dev p g.grid g.rng n.1 n.2))
      { s with pat := { s.pat with granted := s.pat.granted.map (fun x => if x == g then { x with recalled := x.recalled ++ now.map (·.1) } else x) } }) s

/-- The cached translations of a page are removed. -/
def Part.forget (q : Part) (va : Nat) : Part := { q with tcache := q.tcache.filter (fun e => !(e.base ≤ va && va < e.base + e.size)) }

/-- INVVA written (16 R362, R363): a page under a lease waits, and leases granted on it are recalled. -/
def State.invalidate (s : State) (p : Nat) (va : DWord) : State :=
  let leased := s.leased p va.toNat
  (s.recall p (fun e q => ({ e with segs := [q] } : Extent).onPage va.toNat)).modPart p (fun q =>
    let q := { q with invva := va }
    if leased then { q with invbusy := insNat q.invbusy va.toNat } else q.forget va.toNat)

/-- INVVA (16 R362). -/
def execInvva (p : Nat) (va : DWord) (s : State) : Outcome State Fault Refusal := onPart p s (fun _ s => s.invalidate p va)

/-- INVALIDATION_DONE (16 R362): the last lease on a page has ended. -/
def execInvalidationDone (p : Nat) (s : State) : Outcome State Fault Refusal :=
  onPart p s (fun _ s => s.modPart p (fun q =>
    let now := q.invbusy.filter (fun va => !s.leased p va)
    now.foldl Part.forget { q with invbusy := q.invbusy.filter (fun va => !now.contains va) }))

/-- SNACK (18 R405, R414). -/
def execSnack (p : Nat) (s : State) : Outcome State Fault Refusal :=
  onPart p s (fun _ s => s.modPart p (fun q => { q with snheld := false }))

/-! Registers (16 R349-R354) -/

def nibble (v : Word) (u : Nat) : Nat := (v.extractLsb' (4 * u) 4).toNat

/-- PLAY written (16 R349). -/
def State.writePlay (s : State) (v : Word) : State :=
  let held := fun (n : Nat) => n < 8 && (s.part n).st != .empty
  let bad := (List.range 8).any (fun u => let a := nibble s.dev.play u; let b := nibble v u
    (8 ≤ b && b ≤ 14) || (a != b && (held a || held b)))
  if bad then { s with dev := { s.dev with playerr := true } } else { s with dev := { s.dev with play := v } }

/-- PLAY (16 R349). -/
def execPlay (v : Word) (s : State) : Outcome State Fault Refusal := .next (s.served (fun s => s.writePlay v))

/-- Shares and shadow areas fit a die (16 R353). -/
def dieFits (parts : List Part) (nsh0 nsh1 : Nat) : Bool :=
  (parts.map (·.dsh0)).foldl (· + ·) 0 + 97 * nsh0 ≤ 256 && (parts.map (·.dsh1)).foldl (· + ·) 0 + 97 * nsh1 ≤ 256

/-- SHADOW written (16 R352). -/
def State.writeShadow (s : State) (v : Word) : State :=
  let n0 := (v.extractLsb' 0 2).toNat
  let n1 := (v.extractLsb' 4 2).toNat
  let lost := s.parts.any (fun q => q.st != .empty && 4 ≤ q.csel && (if q.csel / 2 % 2 = 0 then n0 else n1) ≤ q.csel % 2
    && q.csel % 2 < (if q.csel / 2 % 2 = 0 then s.dev.nsh0 else s.dev.nsh1))
  if n0 = 3 || n1 = 3 || !dieFits s.parts n0 n1 || lost then { s with dev := { s.dev with sherr := true } }
  else { s with dev := { s.dev with nsh0 := n0, nsh1 := n1 } }

/-- SHADOW (16 R352). -/
def execShadow (v : Word) (s : State) : Outcome State Fault Refusal := .next (s.served (fun s => s.writeShadow v))

/-- EN, SPRIV and SVEC of a stream's control register written (16 R354). -/
def State.writeStream (s : State) (p i : Nat) (v : Word) : State :=
  let was := (s.stream p i).en
  let s := s.modStream p i (fun x => { x with en := v.getLsbD 0, ringMiss := if v.getLsbD 0 then x.ringMiss else none, spriv := v.getLsbD 1, svec := (v.extractLsb' 8 8).toNat })
  if v.getLsbD 0 && !was then s.mapStream p i else s

/-- The stream leaves the stopped state at packet SRD + 1 (16 R354). -/
def State.restartStream (s : State) (p i : Nat) : State :=
  s.modStream p i (fun x => if x.stopped then { x with stopped := false, srd := x.srd + 1, pkt := none, curHdr := 0, curTag := 0 } else x)

/-- STREAM_EN (16 R354, R360, 14 R289). -/
def execStreamEn (p i : Nat) (v : Word) (s : State) : Outcome State Fault Refusal :=
  if 64 ≤ i then .fault .noObject else onPart p s (fun _ s => s.writeStream p i v)

/-- RESTART (16 R354, 14 R290). -/
def execRestart (p i : Nat) (v : Word) (s : State) : Outcome State Fault Refusal :=
  if 64 ≤ i then .fault .noObject
  else onPart p s (fun _ s =>
    let s := s.writeStream p i v
    if v.getLsbD 2 then s.restartStream p i else s)

/-- One half of a 64-bit register written. -/
def setHalf (r : DWord) (hi : Bool) (v : Word) : DWord := if hi then v ++ r.extractLsb' 0 32 else r.extractLsb' 32 32 ++ v

/-- A register that takes writes only in EMPTY (16 R353). -/
def Part.inEmpty (q : Part) (f : Part → Part) : Part := if q.st = .empty then f q else { q with cstat := 1 }

/-- A write to a partition's control register (16 R350, R353, 13 R277, 14 R312). A write to either half of INVVA starts the
invalidation of the address that then stands there (assumption 73). -/
def State.writePart (s : State) (p ofs : Nat) (v : Word) : State :=
  match ofs with
  | 0x04 => s.command p (v.extractLsb' 0 4).toNat (v.getLsbD 4)
  | 0x08 => s.modPart p (fun q => { q with cimg := setHalf q.cimg false v })
  | 0x0C => s.modPart p (fun q => { q with cimg := setHalf q.cimg true v })
  | 0x10 => s.modPart p (fun q => { q with csel := (v.extractLsb' 0 3).toNat })
  | 0x14 => s.modPart p (fun q => { q with ivec := (v.extractLsb' 8 8).toNat, sbchk := v.getLsbD 0
                                           test := v.getLsbD 1 && s.dev.testEn.getLsbD p })
  | 0x18 => s.modPart p (fun q => q.setFairlim v.toNat)
  | 0x1C => s.modPart p (fun q => q.setBwdog v s.now)
  | 0x20 =>
    let (a, g) := ((v.extractLsb' 0 16).toNat, (v.extractLsb' 16 8).toNat)
    let q := s.part p
    let s := if q.st = .empty ∧ (q.asid != a || q.gen != g) then s.recall p (fun _ _ => true) else s
    s.modPart p (fun q => q.inEmpty (fun q => { q with asid := a, gen := g }))
  | 0x24 => s.modPart p (fun q => q.inEmpty (fun q =>
      let q' := { q with dsh0 := (v.extractLsb' 0 16).toNat, dsh1 := (v.extractLsb' 16 16).toNat }
      if dieFits (lmod s.parts p (fun _ => q')) s.dev.nsh0 s.dev.nsh1 then q' else { q with cstat := 1 }))
  | 0x28 => s.modPart p (fun q => q.inEmpty (fun q => { q with ptbase := setHalf q.ptbase false v }))
  | 0x2C => s.modPart p (fun q => q.inEmpty (fun q => { q with ptbase := setHalf q.ptbase true v }))
  | 0x38 => if v.getLsbD 0 then s.pageAck p else s
  | 0x58 => s.modPart p (fun q => { q with elogbase := setHalf q.elogbase false v })
  | 0x5C => s.modPart p (fun q => { q with elogbase := setHalf q.elogbase true v })
  | 0x60 => s.modPart p (fun q => { q with elogsz := v })
  | 0x68 => s.modPart p (fun q => { q with elogrd := v })
  | 0x70 => s.invalidate p (setHalf (s.part p).invva false v)
  | 0x74 => s.invalidate p (setHalf (s.part p).invva true v)
  | 0x824 => if v.getLsbD 0 then s.modPart p (fun q => { q with snheld := false }) else s
  | _ => s

/-- A write to a register of a stream (16 R354, 14 R318). -/
def State.writeStreamReg (s : State) (p i ofs : Nat) (v : Word) : State :=
  match ofs with
  | 0x00 => s.modStream p i (fun x => { x with sbase := setHalf x.sbase false v })
  | 0x04 => s.modStream p i (fun x => { x with sbase := setHalf x.sbase true v })
  | 0x08 => s.modStream p i (fun x => { x with ssize := v })
  | 0x10 => s.modStream p i (fun x => { x with swr := v })
  | 0x14 =>
    let s := s.writeStream p i v
    if v.getLsbD 2 then s.restartStream p i else s
  | 0x18 => s.modStream p i (fun x => { x with ebase := setHalf x.ebase false v })
  | 0x1C => s.modStream p i (fun x => { x with ebase := setHalf x.ebase true v })
  | 0x20 => s.modStream p i (fun x => { x with esize := v })
  | 0x28 =>
    let s := s.modStream p i (fun x => { x with erd := v })
    s.flushRecs p i (s.stream p i).held.length
  | 0x2C =>
    let s := s.modStream p i (fun x => { x with ccount := (v.extractLsb' 0 16).toNat })
    let x := s.stream p i
    if x.ccount != 0 && x.ccount ≤ x.unsig then s.interrupt p i else s
  | 0x30 => s.modStream p i (fun x => { x with ctime := v })
  | _ => s

/-- A write to the device block (16 R352). -/
def State.writeDev (s : State) (ofs : Nat) (v : Word) : State :=
  match ofs with
  | 0x0C => { s with dev := { s.dev with playerr := s.dev.playerr && !v.getLsbD 0, sherr := s.dev.sherr && !v.getLsbD 1 } }
  | 0x10 => s.writePlay v
  | 0x14 => s.writeShadow v
  | _ => s

/-- A write of 32 bits at an offset of BAR0 (16 R351-R354): a register that is not listed, or is read-only, ignores it. -/
def State.regWrite (s : State) (ofs : Nat) (v : Word) : State :=
  if ofs < 0x10000 then s.writeDev ofs v
  else if 0x1000000 ≤ ofs ∧ ofs < 0x1800000 then
    let p := (ofs - 0x1000000) / 0x100000
    let o := ofs % 0x100000
    if o < 0x1000 then s.writePart p o v
    else if o < 0x2000 then s.writeStreamReg p ((o - 0x1000) / 64) (o % 64) v
    else s
  else s

/-- REGISTER_WRITE (16 R351-R354, R369). -/
def execRegisterWrite (ofs : Nat) (v : Word) (s : State) : Outcome State Fault Refusal := .next (s.served (fun s => s.regWrite ofs v))

/-! Registers as the driver reads them (16 R352-R354, 15 R340, 18 R405, R420) -/

def PState.code : PState → Nat
  | .empty => 0
  | .running => 1
  | .stopping => 2
  | .halted => 3
  | .saving => 4
  | .restoring => 5
  | .clearing => 6
  | .frozen => 7

def loW (v : Nat) : Word := BitVec.ofNat 32 v
def hiW (v : Nat) : Word := BitVec.ofNat 32 (v / 2 ^ 32)

/-- REPLACE (18 R420). -/
def Dev.replace (d : Dev) : Word :=
  BitVec.ofBool d.rq ++ 0#7 ++ BitVec.ofNat 4 d.sb1 ++ BitVec.ofNat 4 d.sb0 ++ BitVec.ofNat 8 d.deff ++ BitVec.ofNat 8 d.hch

/-- A read of the device block (16 R352). -/
def State.readDev (s : State) (ofs : Nat) : Word :=
  let d := s.dev
  match ofs with
  | 0x00 => loW (0x0880 * 2 ^ 16 + d.step * 2 ^ 8)
  | 0x04 => d.fwver
  | 0x08 => d.rbcnt
  | 0x0C => loW ((if d.sherr then 2 else 0) + if d.playerr then 1 else 0)
  | 0x10 => d.play
  | 0x14 => loW (d.nsh1 * 16 + d.nsh0)
  | 0x18 => d.replace
  | 0x1C => d.devseq
  | _ => 0

/-- A read of the pattern block (15 R340). -/
def State.readPat (s : State) (ofs : Nat) : Word :=
  let q := s.pat
  match ofs with
  | 0x00 => loW (q.st * 2 ^ 28 + q.cause * 2 ^ 24 + q.attempt * 2 ^ 16 + q.dom)
  | 0x04 => q.pspill
  | 0x08 => loW s.pframe
  | 0x0C => hiW s.pframe
  | 0x10 => loW q.pshift
  | 0x14 => hiW q.pshift
  | 0x18 => loW q.pjoin
  | 0x1C => hiW q.pjoin
  | 0x20 => loW q.pftick
  | 0x24 => hiW q.pftick
  | 0x28 => q.pfdev
  | 0x30 => loW q.pckpt
  | 0x34 => hiW q.pckpt
  | _ => 0

/-- A read of a partition's registers (16 R353, 18 R405). -/
def State.readPart (s : State) (p ofs : Nat) : Word :=
  let q := s.part p
  match ofs with
  | 0x00 => loW (q.st.code * 2 ^ 28 + q.cstat * 2 ^ 24 + q.fsum.toNat)
  | 0x08 => loW q.cimg.toNat
  | 0x0C => hiW q.cimg.toNat
  | 0x10 => loW q.csel
  | 0x14 => loW q.pctl
  | 0x18 => loW q.fairlim
  | 0x1C => q.bwdog
  | 0x20 => loW (q.gen * 2 ^ 16 + q.asid)
  | 0x24 => loW (q.dsh1 * 2 ^ 16 + q.dsh0)
  | 0x28 => loW q.ptbase.toNat
  | 0x2C => hiW q.ptbase.toNat
  | 0x30 => loW (q.pgva + if q.pgv then 1 else 0)
  | 0x34 => hiW q.pgva
  | 0x40 => loW (q.fcause * 2 ^ 28 + q.fmaster * 2 ^ 24 + q.fcore * 2 ^ 16 + q.fqtr * 2 ^ 14 + q.fgrp * 2 ^ 10 + q.fmore)
  | 0x44 => q.fpc
  | 0x48 => loW q.fadr.toNat
  | 0x4C => hiW q.fadr.toNat
  | 0x50 => q.fpeer
  | 0x58 => loW q.elogbase.toNat
  | 0x5C => hiW q.elogbase.toNat
  | 0x60 => q.elogsz
  | 0x64 => q.elogwp
  | 0x68 => q.elogrd
  | 0x6C => q.elogdrop
  | 0x78 => if q.invbusy.isEmpty then 0 else 1
  | 0x800 => loW (q.sgcause * 2 ^ 28 + q.sgcore * 2 ^ 20 + q.sgqtr * 2 ^ 18 + q.sgres * 2 ^ 12)
  | 0x804 => q.sgpc
  | 0x808 => q.sgexp
  | 0x80C => q.sggot
  | 0x810 => q.scmant
  | 0x814 => q.scsig
  | 0x818 => q.scce
  | 0x820 => loW ((if q.snheld then 2 ^ 30 else 0) + q.snmiss)
  | _ => 0

/-- A read of a stream's registers (16 R354). -/
def State.readStreamReg (s : State) (p i ofs : Nat) : Word :=
  let x := s.stream p i
  match ofs with
  | 0x00 => loW x.sbase.toNat
  | 0x04 => hiW x.sbase.toNat
  | 0x08 => x.ssize
  | 0x0C => x.srd
  | 0x10 => x.swr
  | 0x14 => loW (x.svec * 2 ^ 8 + (if x.spriv then 2 else 0) + if x.en then 1 else 0)
  | 0x18 => loW x.ebase.toNat
  | 0x1C => hiW x.ebase.toNat
  | 0x20 => x.esize
  | 0x24 => x.ewr
  | 0x28 => x.erd
  | 0x2C => loW x.ccount
  | 0x30 => x.ctime
  | _ => 0

/-- A read of BAR0 (16 R351): offsets not listed read 0. -/
def State.regRead (s : State) (ofs : Nat) : Word :=
  if ofs < 0x10000 then s.readDev ofs
  else if ofs < 0x20000 then s.readPat (ofs - 0x10000)
  else if 0x1000000 ≤ ofs ∧ ofs < 0x1800000 then
    let p := (ofs - 0x1000000) / 0x100000
    let o := ofs % 0x100000
    if o < 0x1000 then s.readPart p o
    else if o < 0x2000 then s.readStreamReg p ((o - 0x1000) / 64) (o % 64)
    else 0
  else 0

/-! Host accesses to HBM4 (16 R368, 11 R252, 18 R406, R407) -/

/-- End of the HDM range: HBM4 less the pair-spill region of 15 R330. -/
def State.hdmEnd (s : State) : Nat := Config.hbmBytes - 4352 * s.pat.pspill.toNat

/-- CXL.mem answers (16 R368, R369). -/
def State.hdmOk (s : State) (a n : Nat) : Bool := s.dev.fwok && s.dev.power && a + n ≤ s.hdmEnd

/-- HOST_READ (16 R368). -/
def execHostRead (addr len : Nat) (s : State) : Outcome State Fault Refusal :=
  .next (s.emit (if s.hdmOk addr len then .hostData addr (s.hbm.read addr len) (s.hbm.poisoned addr len) else .hostUr addr))

/-- HOST_WRITE (16 R368, 18 R406, R407): one write for each granule it touches; the completion of a write to a mirrored
page follows once it is durable, 152 turns later at the earliest. -/
def execHostWrite (addr : Nat) (bytes : List Byte) (poison : Bool) (s : State) : Outcome State Fault Refusal :=
  if s.hdmOk addr bytes.length then
    let mir := s.mirroredAt addr bytes.length
    let s : State := { s with hbm := s.hbm.write addr bytes poison }
    if mir then
      let s := ({ s with ident := s.ident + 1 } : State).mirror s.ident addr bytes poison
      .next { s with pat := { s.pat with mirPend := s.pat.mirPend ++ [{ due := s.turn + 152, adr := addr, ident := s.ident - 1 }] } }
    else .next (s.emit (.hostAck addr))
  else .next (s.emit (.hostUr addr))

/-- A mirrored host write is durable by this turn (18 R407). -/
def State.hostDurable (s : State) (q : HostPend) : Bool := q.due ≤ s.turn && !s.mirOut q.ident

/-- Completions of mirrored host writes that are durable by this turn. -/
def State.mirAcks (s : State) : State :=
  (s.pat.mirPend.filter s.hostDurable).foldl (fun s q => s.emit (.hostAck q.adr))
    { s with pat := { s.pat with mirPend := s.pat.mirPend.filter (fun q => !s.hostDurable q) } }

end Sys2Proof.Machine
end

