-- ==== Sys2Proof/Machine/Exchange.lean ====
section
/-! DEFINITION. Lane exchange and vote (05 R116-R122). Source lanes are read as they stand at the start of the issuing
turn; every result lands after 2 turns. -/

namespace Sys2Proof.Machine

open Host (Outcome)

/-- The lane that `shfl` reads, `none` when it lies outside the group (05 R117). -/
def shflFrom (mode : ShflMode) (l : Nat) (b : Word) : Option Nat :=
  match mode with
  | .idx => some (b.toNat % 64)
  | .up => if b.toNat ≤ l then some (l - b.toNat) else none
  | .down => if l + b.toNat ≤ 63 then some (l + b.toNat) else none
  | .xor => some (l ^^^ (b.toNat % 64))

/-- What a lane reads from lane `j`, with the QREAD flag (05 R116). A lane that the first word of the pair has quenched in this very turn (a
handler lane that it parks, 17 R391) reads as quenched (DESIGN CHOICE, assumption 92). -/
def exchange (s : State) (x : Ctx) (n : Nat) (a : Opnd) (l : Nat) (j : Option Nat) : Nat × BitVec 8 :=
  match j with
  | none => ((x.src s n l a).toNat, 0)
  | some j => if (x.g.lane j).life == .quenched then (0, fQREAD) else ((x.src s n j a).toNat, 0)

/-- `shfl` (05 R117). With SBCHK set, a lane whose source lane's register, or its own where it reads that, has a result
pending parks (02 R55). -/
def execShfl (c : Ctl) (mode : ShflMode) (w64 : Bool) (d a b : Opnd) (s : State) : Outcome State Fault Refusal :=
  withIssue (.shfl c mode w64 d a b) s (fun x s =>
    let n := if w64 then 2 else 1
    let early := maskOfList (x.lanes.filter (fun l => (s.part x.g.pid).sbchk &&
      (match shflFrom mode l (x.src32 s l b) with
       | some j => (x.g.lane j).life != .quenched && x.g.pendingRead j a n
       | none => x.g.pendingRead l a n)))
    let y := { x with sel := x.sel &&& ~~~early }
    (s.parkSel { x with sel := early } { trap := 5, cause := 1 }).putF y 2 d n
      (fun l => exchange s x n a l (shflFrom mode l (x.src32 s l b))))

/-- `vote` (05 R118). -/
def execVote (c : Ctl) (k : VoteKind) (d a : Opnd) (s : State) : Outcome State Fault Refusal :=
  withIssue (.vote c k d a) s (fun x s =>
    let set := x.lanes.filter (fun l => (x.src32 s l a).getLsbD 0)
    s.put x 2 d (if k = .ballot then 2 else 1) (fun _ =>
      match k with
      | .any => if set.isEmpty then 0 else 1
      | .all => if set.length = x.lanes.length then 1 else 0
      | .ballot => (maskOfList set).toNat))

/-- `bcast` (05 R119). -/
def execBcast (c : Ctl) (t : Ty) (d a : Opnd) (s : State) : Outcome State Fault Refusal :=
  withIssue (.bcast c t d a) s (fun x s => s.put x 2 d t.regs (fun _ => (x.src s t.regs x.low a).toNat))

/-- `match` (05 R120). -/
def execMatchAny (c : Ctl) (t : Ty) (d a : Opnd) (s : State) : Outcome State Fault Refusal :=
  withIssue (.matchAny c t d a) s (fun x s => s.put x 2 d 2 (fun l =>
    (maskOfList (x.lanes.filter (fun j => x.src s t.regs j a == x.src s t.regs l a))).toNat))

/-- `scan.add` (05 R121). -/
def execScanAdd (c : Ctl) (t : Ty) (excl : Bool) (d a : Opnd) (s : State) : Outcome State Fault Refusal :=
  withIssue (.scanAdd c t excl d a) s (fun x s => s.put x 2 d 1 (fun l =>
    (x.lanes.filter (fun j => if excl then j < l else j ≤ l)).foldl (fun n j => n + (x.src32 s j a).toNat) 0 % 2 ^ 32))

/-- The span of `lanemask` (05 R122). -/
def spanMask (absolute : Bool) (l : Nat) (w : Word) : Mask :=
  let p := w.extractLsb' 0 8
  let q := w.extractLsb' 8 8
  let lo : Int := if absolute then p.toNat else l + p.toInt
  let hi : Int := if absolute then q.toNat else l + q.toInt
  maskOfList ((List.range 64).filter (fun j => lo ≤ j && (j : Int) ≤ hi))

def execLanemask (c : Ctl) (absolute : Bool) (d a : Opnd) (s : State) : Outcome State Fault Refusal :=
  withIssue (.lanemask c absolute d a) s (fun x s => s.put x 2 d 2 (fun l => (spanMask absolute l (x.src32 s l a)).toNat))

end Sys2Proof.Machine
end

