-- ==== Sys2Proof/Machine/Pod.lean ====
section
/-! DEFINITION. The pod: flits and acknowledgements (15 R324-R329), clock and schedule faults (R319-R321, R334, R335), the
resynchronisation (R337, R338), loading a pattern (R345-R348), and leases (16 R363). -/

namespace Sys2Proof.Machine

open Host (Outcome)

/-! Schedule faults -/

/-- Codes of 15 R334. -/
def SFault.code : Sys2Proof.SFault → Nat
  | .late => 1
  | .ease => 2
  | .clock => 3
  | .link => 4
  | .peer => 5

/-- A partition runs planned work: some grid of it that has no completion record is planned (15 R335). -/
def State.runsPlanned (s : State) (p : Nat) : Bool :=
  s.grids.any (fun r => r.2.pid == p && !r.2.recorded && (s.plannedOf r.2).isSome)

/-- The procedure of 15 R337 begins for a fault of frame `f`, or begins again: a fault in the quiet frames or in the rejoin frame
raises ATTEMPT, and the third time the domain stops. In the quiet frames STATE stays QUIET. -/
def Pat.startResync (q : Pat) (f : Nat) (again : Bool) : Pat :=
  let n := if again then q.attempt + 1 else 0
  if q.st = 3 ∨ 3 ≤ n then { q with attempt := 3, st := 3, fault := none, pjoin := 0, aligned := false }
  else { q with attempt := n, fault := some f, pjoin := f + 1 + (q.cur.map (·.rj)).getD 4, aligned := false }

/-- The frame of the running procedure, when a fault detected at a tick belongs to it (15 R335): one of its frame, or an earlier
one. -/
def Pat.joins (q : Pat) (tick : Nat) : Bool :=
  match q.fault with
  | some f => tick / 65536 ≤ f
  | none => false

/-- A schedule fault of a cause, detected by a device at a tick (15 R334, R335, R337): the halt lines of the domain's partitions with
planned work rise, and a procedure begins with the frame of detection, in the quiet frames and in frame J with that of receipt.
CAUSE is the latest of this device's own, PEER when it had not faulted; PFDEV and PFTICK go to the lowest-numbered device. -/
def State.schedFault (s : State) (c : Sys2Proof.SFault) (dev tick : Nat) : State :=
  let q := s.pat
  let frame := s.now / 65536
  let again := q.st == 2 || q.rejoined == some frame
  let cause := SFault.code c
  let pat : Pat :=
    if q.joins tick then
      let q := if dev = s.selfDev then { q with cause := cause } else q
      if dev ≤ q.pfdev.toNat then { q with pfdev := BitVec.ofNat 32 dev, pftick := tick } else q
    else { q.startResync (if again then frame else tick / 65536) (again || q.pjoin != 0) with
      cause := cause, pftick := tick, pfdev := BitVec.ofNat 32 dev }
  (List.range 8).foldl (fun s p => if s.runsPlanned p then s.raise p { bit := 1, tick := s.now } else s) { s with pat := pat }

/-- This device detects a schedule fault at a tick: it announces it in the next control slot of every port (15 R335). -/
def State.detectAt (s : State) (c : Sys2Proof.SFault) (tick : Nat) : State :=
  if s.pat.cur.isNone then s
  else (List.range 12).foldl (fun t port => t.sendControl port (fun p => .announce p s.pframe s.selfDev (SFault.code c) tick)) (s.schedFault c s.selfDev tick)

def State.detect (s : State) (c : Sys2Proof.SFault) : State := s.detectAt c s.now

/-! LATE (15 R333, R334) -/

/-- The planned start and the deadline of the last instance of a planned grid whose deadline has come by a tick (15 R333, R338):
none before the running pattern, or its rejoin, began (15 R337, R339). -/
def State.lastPlanned (s : State) (e : PlannedGrid) (now : Nat) : Option (Nat × Nat) :=
  let base := 65536 * (e.frame + s.pat.pshift)
  let d := base + e.endOfs + e.ew
  if now < d then none
  else
    let k := s.period * ((now - d) / s.period)
    if base + e.startOfs + k < s.pat.since then none else some (base + e.startOfs + k, d + k)

/-- The deadline of a planned grid that is past without a completion record of its own since its planned start, and has not brought
LATE yet (15 R334, 18 R412). -/
def State.plannedLate (s : State) (i : Nat) (e : PlannedGrid) : Option Nat :=
  match s.lastPlanned e s.now with
  | some (b, d) =>
    if s.pat.recs.any (fun q => q.1 == e.stream && q.2.1 == e.tag && b ≤ q.2.2 && q.2.2 ≤ d) || tget s.pat.lateSeen (2 * i) == some d then none
    else some d
  | none => none

/-- The first step of a collective entry stands in this turn and finds its grid not started (15 R334): a planned grid that carries
the entry, or the planned grid that the pattern names for it. -/
def State.collLate (s : State) (e : CollEntry) : Option Nat :=
  let t0 := 65536 * s.pat.pshift + collBegins e
  let last := 16 * s.turn + 15
  let t := t0 + s.period * ((last - t0) / s.period)
  let mine := s.grids.filter (fun r => match r.2.coll with
    | some c => c.pent == e.ident && !r.2.recorded
    | none => false)
  if last < t0 || t / 16 != s.turn || t < s.pat.since || tget s.pat.lateSeen (2 * e.ident + 1) == some t then none
  else if mine.any (fun r => r.2.phase == .started) then none
  else if e.plan.isSome || mine.any (fun r => (s.plannedOf r.2).isSome) then some t
  else none

/-- A member of class H, P or S of a planned grid that has not completed by E(c) + EW, one that writes a mirrored region by
E(c) + 152 + EW (15 R334, 10 R210, 18 R407). -/
def State.memberLate (s : State) (gr : Nat) (ew : Nat) : Bool :=
  let mine := fun (gid : Nat) => (s.group gid).grid == gr
  let past := fun (e : Nat) => 16 * e + ew < 16 * s.turn
  let slow := fun (cl : CClass) (q : List CCmd) => match q with
    | c :: _ => mine c.gid && c.start.isSome && !c.stopped && past (({ c with late := 0 } : CCmd).endTurn cl + if c.mir then 152 else 0)
    | [] => false
  s.cores.any (fun c => slow .H c.2.cqH || slow .P c.2.cqP || slow .S c.2.cqS || c.2.tail.any (fun t => mine t.gid && past t.plan))

/-- The grid of a planned launch has a member that is late. -/
def State.lateMember (s : State) (gr : Nat) (r : Grid) : Bool :=
  !r.recorded && !r.late && (match s.plannedOf r with
    | some e => s.memberLate gr e.ew
    | none => false)

/-- What brings LATE now: planned traffic runs (15 R334, R337). -/
def State.overdue (s : State) : Option Overdue :=
  match s.pat.cur with
  | none => none
  | some q =>
    if s.pat.st != 1 then none
    else ((mapFrom (fun i e => (i, e)) 0 q.planned).find? (fun p => (s.plannedLate p.1 p.2).isSome)).map (fun p => .planned p.1)
      <|> (q.colls.find? (fun e => (s.collLate e).isSome)).map (fun e => .coll e.ident)
      <|> (s.grids.find? (fun r => s.lateMember r.1 r.2)).map (fun r => .grid r.1)

/-- A deadline that has brought LATE. -/
def State.lateAt (s : State) (key tick : Nat) : State :=
  ({ s with pat := { s.pat with lateSeen := tset s.pat.lateSeen key tick } } : State).detectAt .late tick

/-- LATE (15 R334): for a planned grid at its planned completion + EW, for a collective step at its tick. -/
def execLate (x : Overdue) (s : State) : Outcome State Fault Refusal :=
  match x with
  | .planned i => match ((s.pat.cur.map (·.planned)).getD [])[i]? with
    | some e => .next (match s.plannedLate i e with
      | some d => s.lateAt (2 * i) d
      | none => s)
    | none => .fault .noObject
  | .coll i => match ((s.pat.cur.map (·.colls)).getD []).find? (fun e => e.ident == i) with
    | some e => .next (match s.collLate e with
      | some t => s.lateAt (2 * i + 1) t
      | none => s)
    | none => .fault .noObject
  | .grid gr => match tget s.grids gr with
    | some _ => .next ((s.modGrid gr (fun r => { r with late := true })).detect .late)
    | none => .fault .noObject

/-- PEER (15 R335, R336): an announcement of a device of the same domain. A device that has faulted takes no second cause. -/
def execPeer (device _frame : Nat) (_ : Sys2Proof.SFault) (tick : Nat) (s : State) : Outcome State Fault Refusal :=
  if !s.dev.fwok || s.pat.cur.isNone || device == s.selfDev || s.domainOf device != s.domainOf s.selfDev then .next s
  else .next (s.schedFault .peer device tick)

/-! Clock -/

/-- Sum of the last 16 offsets, each doubled; above 64 in magnitude the average passes 2 ticks (15 R321). -/
def Pat.skewed (q : Pat) : Bool := q.syncs.length == 16 && 64 < (q.syncs.foldl (· + ·) 0).natAbs

/-- PTP_SYNC (15 R320, R321): a PTP message arrives. On the timing port a Sync of the pattern's grandmaster (t1, received at t2) brings out
a delay request in the next control slot (t3), and the response to it (t4) completes the exchange: the offset is half of
(t2 − t1) − (t4 − t3), the corrections taken off. The grandmaster answers every delay request, in the next control slot of its port, with
the tick of its receipt (assumption 80). -/
def execPtpSync (m : PtpTimes) (s : State) : Outcome State Fault Refusal :=
  let master := (s.pat.cur.map (·.grandmaster)) == some m.src && m.src != s.selfDev && m.port == s.pat.port
  .next (s.served (fun s => match m.body with
    | .sync t1 corr =>
      if master then
        let s1 : State := { s with pat := { s.pat with ptp := some ((s.now : Int) - t1 - corr, (s.controlPlace m.port).tick) } }
        s1.sendControl m.port (fun p => .delayRequest m.src p)
      else s
    | .response t4 corr =>
      match s.pat.ptp with
      | some (d, t3) =>
        if master then
          let twice : Int := d - ((t4 : Int) - corr - t3)
          let q := { s.pat with ptp := none, syncs := (s.pat.syncs ++ [twice]).drop (s.pat.syncs.length + 1 - 16) }
          let s : State := { s with pat := q }
          if q.skewed then ({ s with pat := { q with syncs := [] } } : State).detect .clock else s
        else s
      | none => s
    | .request => if (s.pat.cur.map (·.grandmaster)) = some s.selfDev then s.sendControl m.port (fun p => .delayResponse m.src p s.now) else s))

/-- Ticks from one Sync to the next: 16 a frame, and one a superslot in quiet frames (15 R320). -/
def Pat.syncPer (q : Pat) : Nat := if q.st = 2 then 64 else 4096

/-- A Sync that a grandmaster sends on every port whose link works, in the next control slot, whose tick it holds (15 R320, assumption 80). -/
def State.sendSync (s : State) : State :=
  ((List.range 12).filter (fun p => !s.pat.failed.contains p)).foldl (fun s port => s.sendControl port .sync)
    { s with pat := { s.pat with syncAt := (s.now / s.pat.syncPer + 1) * s.pat.syncPer } }

/-- The timing port holds lock, or the next port in ascending number that does takes over, or none does: CLOCK (15 R319). -/
def State.retime (s : State) : State :=
  if s.pat.locked.getD s.pat.port false then s
  else match ((List.range 12).map (fun i => (s.pat.port + 1 + i) % 12)).find? (fun i => s.pat.locked.getD i false) with
    | some i => { s with pat := { s.pat with port := i } }
    | none => s.detect .clock

/-- A link is declared failed: a notice goes out in the next control slot, and from the next superslot the flits of the link go in backup slots
(15 R329). -/
def State.failLink (s : State) (port : Nat) : State :=
  if s.pat.failed.contains port then s
  else
    let s : State := { s with pat := { s.pat with
      failed := insNat s.pat.failed port, backups := s.pat.backups ++ [(port, 64 * (s.now / 64) + 64)] } }
    s.sendControl s.anyPort (fun p => .linkNotice p port)

/-- TIMING_PORT_LOCK_LOSS (15 R319, R329): the ports that hold lock now. A link that has lost lock is declared failed. -/
def execTimingPortLockLoss (locked : List Nat) (s : State) : Outcome State Fault Refusal :=
  .next (s.served fun s =>
    (((List.range 12).filter (fun i => s.pat.locked.getD i false && !locked.contains i)).foldl State.failLink
      { s with pat := { s.pat with locked := (List.range 12).map (fun i => locked.contains i) } }).retime)

/-! Flits -/

/-- The bound of an execution (10 R233, 15 R329). -/
def State.rmtBound (s : State) (r : RExec) : Nat :=
  let h := s.hops (peerOf r.peer)
  r.issue + (if r.resent then 72 + 136 * h else 40 + 68 * h)

/-- Execution `q` stands behind `r` at the same target and has not applied (10 R232). -/
def RExec.follows (q r : RExec) : Bool := !q.applied && q.gid == r.gid && peerOf q.peer == peerOf r.peer && r.ident ≤ q.ident

/-- An execution whose flit is sent again in a slot that begins at a tick (15 R325, R329, assumption 7): it may take until the longer bound.
Its application moves by a free number of turns, past the arrival of that flit, and those behind it at the same target apply no earlier,
each within its own bound. -/
def State.delayExec (s : State) (r : RExec) (tick : Nat) : State :=
  let h := s.hops (peerOf r.peer)
  let w := wayTurns h
  let r' := { r with resent := true }
  let least := if r.applied then 0 else ceilDiv (tick + 540 * h) 16 - r.apply
  let room := (s.remotes.filter (fun q => q.follows r && q.ident != r.ident && !q.unplanned)).foldl
    (fun n q => Nat.min n (s.rmtBound q - (r.apply + w))) (s.rmtBound r' - r.done)
  let (d, s) := s.drawFor (s.group r.gid) [6, r.seq, r.ident - r.first] (room - least + 1)
  let d := least + d
  { s with remotes := s.remotes.map (fun q =>
      if q.ident = r.ident then
        if q.applied then { r' with done := r.done + d } else { r' with done := r.done + d, apply := r.apply + d, land := r.done + d }
      else if q.follows r && !q.unplanned then
        let a := Nat.max q.apply (r.apply + d)
        { q with apply := a, done := Nat.max q.done (a + w), land := Nat.max q.land (a + w) }
      else q) }

/-- The place in which a flit is sent again: the pair's next ease slot on its port, or, when that link has failed, the next backup slot that
the pattern assigns for it (15 R328, R329, 11 R253). -/
def State.again (s : State) (pair : Nat) (f : SentFlit) : Option Place :=
  s.place pair false (fun q => if s.pat.failed.contains f.port then slotKind q == .backup f.port && s.backupOpen f.port
    else q.port == f.port && slotKind q == .ease)

/-- A flit is sent again with its sequence number (15 R328, R329, 11 R253), where the pattern has a slot for it; a third sending is schedule
fault LINK. One whose second sending's slot has not begun takes another for it. -/
def State.resendFlit (s : State) (pair : Nat) (f : SentFlit) : State :=
  if f.gone && 1 ≤ f.again then s.detect .link
  else match s.again pair f with
    | none => s
    | some p =>
      let fs := ((tget s.pat.acks pair).getD []).map (fun q => if q == f then
        { q with again := 1, gone := false, port := p.port, atFrame := p.frame, atSlot := p.slot, tick := p.tick } else q)
      let s : State := { s with pat := { s.pat with acks := tset s.pat.acks pair fs } }
      match s.remotes.find? (fun r => r.ident == f.ident) with
      | some r => if r.unplanned then s else s.delayExec r p.tick
      | none => s

/-- CRC(i) and the RXOK bit of covered flit i, as an acknowledgement flit holds them (15 R327). -/
def ackEntry (bytes : List Byte) (i : Nat) : Bool × Word :=
  (field bytes 60 4 / 2 ^ i % 2 == 1, BitVec.ofNat 32 (field bytes (4 * i) 4))

/-- A flit has been sent once. -/
def SentFlit.sent (f : SentFlit) : Bool := f.gone || f.again != 0

/-- ACKNOWLEDGEMENT (15 R327, R328): a covered flit whose RXOK bit is set and whose CRC is that of the source's copy is done with;
the others, or all of them when the acknowledgement was lost, are sent again. Flits that wait may find a slot. -/
def execAcknowledgement (pair : Nat) (flit : AckFlit) (lost : Bool) (s : State) : Outcome State Fault Refusal :=
  .next (s.served (fun s => ((mapFrom (fun i c => (i, c)) 0 (flit.covered.take 15)).foldl (fun s e =>
    let fs := (tget s.pat.acks pair).getD []
    match fs.find? (fun f => f.sent && f.frame == e.2.1 && f.slot == e.2.2) with
    | none => s
    | some f =>
      let (ok, crc) := ackEntry flit.bytes e.1
      if !lost && ok && crc == f.crc then
        { s with pat := { s.pat with acks := tset s.pat.acks pair (fs.filter (fun q => q != f)) } }
      else s.resendFlit pair f) s).sendHeld))

/-- Slots whose flits are acknowledged (15 R327). -/
def slotIsData (q : Slot) : Bool :=
  match slotKind q with
  | .planned | .open_ | .backup _ | .ease => true
  | .control | .ack | .idle => false

/-- An entry holds in a pattern frame (15 R322, R348). -/
def State.onFrame (s : State) (q : Slot) (frame : Nat) : Bool := q.frame.all (fun f => f == frame % s.frames)

/-- The pattern's entry for a slot of a port in which a flit of another device arrives (15 R322-R324): a flit sent for the first time in the
frame that its sequence number names, another in the frame that runs or in the one before. Slot 0 of a superslot is a control slot
whatever the pattern lists. -/
def State.slotIn (s : State) (pair port slot frame : Nat) : Option Slot :=
  if slot % 120 = 0 ∧ slot < slotsPerFrame then some { out := false, port := port, index := slot, kind := .control, peer := pair }
  else s.slots.find? (fun q => !q.out && q.peer == pair && q.port == port && q.index == slot && slot < slotsPerFrame && (match slotKind q with
    | .ease | .backup _ => s.onFrame q s.pframe || s.onFrame q (s.pframe + s.frames - 1)
    | _ => s.onFrame q frame))

/-- A flit can be sent for the first time in the slot (15 R323, R329). -/
def sendsFirst (q : Slot) : Bool :=
  match slotKind q with
  | .planned | .open_ | .backup _ => true
  | .control | .ack | .ease | .idle => false

/-- The entry that says what a flit is (15 R324, R328, R329): that of its own slot, and for one sent again that of the slot of its first sending,
which its sequence number names: a slot of the same port, or of the port whose link has failed. A flit whose first sending is in a backup
slot, after the link failed, has that slot's own number and entry. -/
def State.meaning (s : State) (q : Slot) (pair frame slot : Nat) : Option Slot :=
  let first := fun (port : Nat) => s.slots.find? (fun x =>
    !x.out && x.peer == pair && x.index == slot && x.port == port && sendsFirst x && s.onFrame x frame)
  match slotKind q with
  | .ease => first q.port
  | .backup p => if q.index = slot ∧ s.onFrame q frame = true then some q else first p
  | _ => some q

/-- A flit that names what it is, as open slots carry them (15 R323, R324). -/
def isNamed : Payload → Bool
  | .request _ | .reply _ | .contribution .. | .copy .. | .mirrorWrite .. => true
  | .data _ | .version .. | .pairState _ | .idle => false

/-- What a slot of a kind may carry (15 R323): slot 0 of a superslot is always a control slot. A slot of an operation carries 64 bytes of it,
an open one a flit that names what it is; a backup slot carries either, as its entry says (R329). -/
def slotCarries (q : Slot) (b : Payload) : Bool :=
  match slotKind q, b with
  | .control, .version .. => true
  | .planned, .data _ => true
  | .open_, b => isNamed b
  | .backup _, .data _ => q.op != .none
  | .backup _, b => q.op == .none && isNamed b
  | _, _ => false

/-- The operation of a flit, as its slot's entry places it (15 R324). -/
def placed (q : Slot) (b : Payload) : Payload :=
  match b with
  | .data bs => match q.op with
    | .coll e r => .contribution e r q.place bs
    | .copy => .copy q.place bs
    | .mirror => .mirrorWrite q.place bs
    | .pair p => .pairState p
    | .none => .idle
  | b => b

/-- The collective of an entry that has not retired. -/
def State.modColl (s : State) (entry : Nat) (f : Coll → Coll) : State :=
  { s with grids := s.grids.map (fun r => (r.1, { r.2 with coll := r.2.coll.map (fun c => if c.pent = entry ∧ !c.retired then f c else c) })) }

/-- A flit's content takes effect (15 R323, R324, R343, R346, 18 R406-R408). -/
def State.applyPayload (s : State) (poison : Bool) (body : Payload) : State :=
  match body with
  | .request r => s.applyRequest r poison
  | .contribution e rank ofs bytes =>
    s.modColl e (fun c =>
      let old := (tget c.peers rank).getD []
      let new := (mapFrom (fun i b => (ofs + i, b)) 0 bytes).foldl (fun t b => tset t b.1 b.2) old
      let marks := (tget c.peerPoison rank).getD []
      { c with peers := tset c.peers rank new
               peerPoison := if poison then tset c.peerPoison rank ((granules ofs bytes.length).foldl insNat marks) else c.peerPoison })
  | .version e rank v => s.modColl e (fun c => { c with vers := tset c.vers rank v })
  | .copy a bytes => if s.mirroredAt a bytes.length then s else { s with hbm := s.hbm.write a bytes poison }
  | .mirrorWrite a bytes => { s with hbm := s.hbm.write a bytes poison }
  | .reply _ | .pairState _ | .data _ | .idle => s

/-- A flit that the FEC could not correct is counted for its port in the running frame (15 R329, assumption 15). -/
def State.lostFlit (s : State) (port : Nat) : State :=
  let t := if s.pat.lostIn = s.pframe then s.pat.lost else []
  { s with pat := { s.pat with lost := tset t port ((tget t port).getD 0 + 1), lostIn := s.pframe } }

/-- A received data flit waits for the acknowledgement slot to which its slot's entry ties it, at most 1,024 ticks on (15 R327). A flit for which
the pattern plans none is not acknowledged. -/
def State.ackLater (s : State) (pair : Nat) (q : Slot) (ok : Bool) (crc : Word) : State :=
  let tied := q.ack.bind (fun a => s.slots.find? (fun x => x.out && x.peer == pair && slotKind x == .ack && x.port == a.1 && x.index == a.2))
  match tied.map (fun x => s.occurs x 0) with
  | none => s
  | some p =>
    if s.now + 1024 < p.tick then s
    else { s with pat := { s.pat with ackq := s.pat.ackq ++ [{ pair := pair, tick := p.tick, port := p.port, slot := p.slot, ok := ok, crc := crc }] } }

/-- FLIT_RECEIVE (15 R322-R324, R327, R328, R337, 11 R253): a flit with sequence number (frame, slot) arrives in a slot of a port. Each number
is applied at most once; a lost flit is applied when it comes again; a slot that the pattern gives no such flit brings nothing, nor,
while only control slots carry traffic, does any other. -/
def execFlitReceive (pair frame slot : Nat) (rx : FlitIn) (poison : Bool) (body : Payload) (s : State) : Outcome State Fault Refusal :=
  .next (s.served (fun s =>
    match s.slotIn pair rx.port rx.index frame with
    | none => s
    | some q =>
      if !slotIsData q then
        if rx.how = .lost then s.lostFlit rx.port else if slotCarries q body then s.applyPayload poison body else s
      else if s.pat.st != 1 then s
      else if rx.how = .lost then (s.lostFlit rx.port).ackLater pair q false 0
      else
        let m := s.meaning q pair frame slot
        let seen := (tget s.pat.seen pair).getD []
        let s1 := ({ s with free := s.free + 1 } : State).ackLater pair q true (s.flitCrc body)
        if seen.contains (frame, slot) then s1
        else
          let s2 : State := { s1 with pat := { s1.pat with seen := tset s1.pat.seen pair ((seen ++ [(frame, slot)]).drop (seen.length + 1 - 64)) } }
          match m with
          | some m => if slotCarries m body then s2.applyPayload poison (placed m body) else s2
          | none => s2))

/-- The 64 bytes of an acknowledgement flit (15 R327). -/
def ackBytes (qs : List AckDue) : List Byte :=
  let crcs := qs.flatMap (fun q => toBytes 4 q.crc.toNat)
  let ok := (mapFrom (fun i (q : AckDue) => if q.ok then 2 ^ i else 0) 0 qs).foldl (· + ·) 0
  crcs ++ List.replicate (60 - crcs.length) 0 ++ toBytes 4 ok

/-- An acknowledgement is due to be sent, in its slot (15 R327, R337). -/
def State.ackReady (s : State) : Bool := s.pat.st == 1 && s.pat.ackq.any (fun q => q.tick ≤ s.now)

/-- The acknowledgement slot that comes first carries at most 15 flits of its pair (15 R327). -/
def State.sendAck (s : State) : State :=
  match s.pat.ackq.find? (fun q => q.tick ≤ s.now) with
  | none => s
  | some q =>
    let same := fun (x : AckDue) => x.pair == q.pair && x.tick == q.tick && x.port == q.port && x.slot == q.slot
    let now := (s.pat.ackq.filter same).take 15
    let rest := (s.pat.ackq.filter same).drop 15 ++ s.pat.ackq.filter (fun x => !same x)
    ({ s with pat := { s.pat with ackq := rest } } : State).emit (.ackFlit q.pair q.port q.slot (ackBytes now))

/-- A port whose uncorrectable flits of this frame pass the pattern's limit (15 R329). -/
def State.failingPort (s : State) : Option Nat :=
  match s.pat.cur with
  | none => none
  | some q =>
    if s.pat.lostIn != s.pframe then none
    else (s.pat.lost.find? (fun p => q.linkLimit < p.2 && !s.pat.failed.contains p.1)).map (·.1)

/-- LINK_FAILED (15 R329). -/
def execLinkFailed (port : Nat) (s : State) : Outcome State Fault Refusal := .next (s.served (fun s => s.failLink port))

/-- Executions with a flit that has not gone out, and those of their group and target behind them, have no turns yet. -/
def State.unplan (s : State) (idents : List Nat) : State :=
  let again := fun (q : RExec) => s.remotes.any (fun r => idents.contains r.ident && q.follows r)
  { s with remotes := s.remotes.map (fun q => if again q then { q with apply := 2 ^ 60, land := 2 ^ 60, done := 2 ^ 60 } else q) }

/-- Flits that do not go in the slots that they have taken: they wait for a slot again, before the others. -/
def State.withdraw (s : State) (w : SentFlit → Bool) : State :=
  let back := s.pat.acks.flatMap (fun q => (q.2.filter w).map (·.copy))
  ({ s with pat := { s.pat with acks := s.pat.acks.map (fun q => (q.1, q.2.filter (fun f => !w f))), held := back ++ s.pat.held } } : State).unplan
    (back.map (·.ident))

/-- From the next superslot the flits of a failed link go in backup slots: first those that were sent and not acknowledged, with their
sequence numbers (15 R329). One that has not been sent takes a slot anew, whose number it has then (R326). -/
def State.useBackups (s : State) : State :=
  let due := s.pat.backups.filter (fun b => b.2 ≤ s.now)
  let hit := fun (f : SentFlit) => due.any (fun b => b.1 == f.port)
  let s : State := { s with pat := { s.pat with backups := s.pat.backups.filter (fun b => !(b.2 ≤ s.now)) } }
  let s := s.withdraw (fun f => hit f && !f.sent)
  (s.pat.acks.foldl (fun s q => (q.2.filter hit).foldl (fun s f => s.resendFlit q.1 f) s) s).sendHeld

/-- EXECUTION_MISSES_BOUND (15 R329). -/
def execExecutionMissesBound (ident : Nat) (s : State) : Outcome State Fault Refusal :=
  match s.remotes.find? (fun r => r.ident == ident) with
  | none => .fault .noObject
  | some r =>
    let s' : State := { s with remotes := s.remotes.map (fun q => if q.ident == ident then { q with late := true } else q) }
    .next (if s.rmtBound r < s.turn then s'.detect .link else s)

/-! Resynchronisation (15 R337, R338) -/

/-- A flit that outlasts the quiet frames: planned traffic stops, but a duplicate of a mirrored write still has to reach its partner (15 R337,
18 R406). -/
def HeldFlit.stays (f : HeldFlit) : Bool := f.kind != .planned || f.op == .mirror

/-- QUIET_FRAMES (15 R337): planned traffic stops; pair state and chunk buffers are discarded. Only control slots carry traffic: a flit whose
slot has not begun goes in none of these frames. A duplicate of a mirrored write whose acknowledgement has not come goes out anew after the
rejoin, with what then stands in its page here (18 R406, R407, assumption 91). -/
def execQuietFrames (s : State) : Outcome State Fault Refusal :=
  let dup := fun (f : SentFlit) => f.gone && f.copy.op == .mirror
  let s := ({ s with pat := { s.pat with acks := s.pat.acks.map (fun q => (q.1, q.2.map (fun f =>
    if dup f then { f with copy := s.freshDup f.copy } else f))) } } : State).withdraw (fun f => !f.gone || dup f)
  .next { s with
    pat := { s.pat with st := 2, seen := [], acks := [], ackq := [], held := s.pat.held.filter HeldFlit.stays
                        syncs := [], ptp := none, syncAt := 64 * ceilDiv s.now 64 }
    grids := s.grids.map (fun r => (r.1, { r.2 with coll := r.2.coll.map (fun c => { c with peers := [], peerPoison := [], vers := [], told := false }) })) }

/-- ALIGNMENT_CHECK: a device that is not aligned at the end of the last quiet frame announces CLOCK. -/
def execAlignmentCheck (s : State) : Outcome State Fault Refusal :=
  let s : State := { s with pat := { s.pat with aligned := true } }
  .next (if s.pat.skewed then s.detect .clock else s)

/-- The checkpoint that a rejoin goes back to: the latest at or before the frame of the fault. One of a later frame can have come before
the announcement (R335, R337). -/
def Pat.rejoinTo (q : Pat) : Nat := if q.fault.any (fun f => f < q.pckptAt) then q.pckptOld else q.pckpt

/-- The bound of an execution that has no turns yet counts from now (assumption 7): only control slots have carried traffic. -/
def State.anchor (s : State) : State :=
  { s with remotes := s.remotes.map (fun r => if r.unplanned then { r with issue := Nat.max r.issue s.turn } else r) }

/-- REJOIN: frame J runs pattern frame c, the latest checkpoint; PSHIFT becomes J − c, flits that wait take slots, the bound of an execution
with such flits counts from here (assumption 7), and a pattern that waits takes effect at the
next boundary of the frames that now run (R348). -/
def execRejoin (s : State) : Outcome State Fault Refusal :=
  let q := s.pat
  let nf := s.frames
  let c := q.rejoinTo
  .next ({ s.anchor with pat := { q with
    st := 1, fault := none, pshift := q.pjoin - c, pjoin := 0, rejoined := some q.pjoin, aligned := false, ckptFrame := none
    since := 65536 * q.pjoin, syncAt := 65536 * q.pjoin
    nxtAt := if q.nxt.isSome then 65536 * (nf * ceilDiv c nf + (q.pjoin - c)) else q.nxtAt } } : State).sendHeld

/-! Patterns (15 R330, R331, R345, R347, R348) -/

/-- EWPER and EWLEN of a channel. -/
def ewper (q : Pattern) (ch : Nat) : Nat := q.ewper.getD ch (q.ewper.headD 0)
def ewlen (q : Pattern) (ch : Nat) : Nat := q.ewlen.getD ch (q.ewlen.headD 0)

/-- An all-reduce of at most 4 KiB lands within 2,160 ticks of its send tick (15 R345). -/
def collInTime (e : CollEntry) : Bool := e.op != 0 || 4096 < e.len || e.lands.all (fun t => t ≤ e.send + 2160)

/-- A collective entry of the new pattern does not take over its GID as it should (15 R347): a new owner takes the GEN after the last
one that the GID had, in the running pattern or in an earlier one, and no slot of an old owner lies in the last 2,160 ticks of the
running pattern's period. -/
def reuseBad (gens : List (Nat × Nat)) (old : Option Pattern) (new : Pattern) : Bool :=
  let colls := (old.map (·.colls)).getD []
  new.colls.any (fun e => !colls.any (fun o => o.gid == e.gid && o.gen == e.gen) &&
    (gens.any (fun g => g.1 == e.gid && e.gen != (g.2 + 1) % 256)
      || colls.any (fun o => o.gid == e.gid && decide (65536 * (old.map (·.nf)).getD 0 ≤ o.last + 2160))))

/-- The GEN that each GID has had last, once a pattern runs. -/
def gensWith (gens : List (Nat × Nat)) (q : Pattern) : List (Nat × Nat) :=
  gens.filter (fun g => !q.colls.any (fun e => e.gid == g.1)) ++ q.colls.map (fun e => (e.gid, e.gen))

/-- What pattern load rejects (15 R331, R337, R345, R347, R348). The refresh interval is that of the standard for the fitted stacks. -/
def patternBad (gens : List (Nat × Nat)) (cur : Option Pattern) (q : Pattern) : Bool :=
  q.nf == 0 || 65536 < q.nf || q.rj < 2 || 255 < q.rj || (List.range 256).any (fun ch => ewper q ch == 0 || Config.refreshInterval < ewper q ch)
    || 67108864 < q.chunkBuf || q.frameWatts.any (fun w => 1600 < w) || q.colls.any (fun e => !collInTime e) || reuseBad gens cur q

/-- The tick at which a pattern loaded now takes effect (15 R338, R348): a boundary of the running pattern, or a multiple of
65,536. -/
def State.patternTick (s : State) : Nat :=
  match s.pat.cur with
  | some q =>
    if s.pat.st = 3 then 65536 * (s.now / 65536 + 1)
    else
      let p := s.pframe
      65536 * (p / q.nf * q.nf + q.nf + s.pat.pshift)
  | none => 65536 * ceilDiv s.now 65536

/-- Spilled pairs of a pattern (15 R330). -/
def spills (q : Pattern) : Nat := q.peers - 1024

/-- PATTERN_LOAD: the region of spilled pairs is reserved at the load, beside that of the running pattern (15 R330). -/
def execPatternLoad (q : Pattern) (s : State) : Outcome State Fault Refusal :=
  .next (s.served (fun s => if patternBad s.pat.gens s.pat.cur q then s
    else { s with pat := { s.pat with
      nxt := some q, nxtAt := s.patternTick, pspill := BitVec.ofNat 32 (Nat.max ((s.pat.cur.map spills).getD 0) (spills q)) } }))

/-- PATTERN_EFFECT: frame 0 of the new pattern begins, with no checkpoint yet (assumption 79); resident grids grant their leases to the
devices of its domain (16 R363), and flits that wait, those that had a later slot of the old pattern among them, find slots. -/
def execPatternEffect (s : State) : Outcome State Fault Refusal :=
  match s.pat.nxt with
  | none => .fault .noObject
  | some q =>
    let at_ := s.pat.nxtAt
    let s := s.withdraw (fun f => !f.gone)
    let s := if s.pat.st = 1 then s else s.anchor
    .next ({ s with
      pat := { s.pat with
        cur := some q, nxt := none, st := 1, dom := q.dom, pshift := at_ / 65536, attempt := 0, fault := none, pjoin := 0
        pckpt := 0, pckptOld := 0, pckptAt := 0, gens := gensWith s.pat.gens q, ptp := none, pspill := BitVec.ofNat 32 (spills q), port := q.timingPort, rejoined := none, recs := [], lateSeen := []
        since := at_, syncAt := at_, aligned := false, ckptFrame := none }
      dram := { s.dram with easeAt := (List.range 256).map (fun ch => (ch, at_)) } } : State).retime.grantAll.sendHeld

/-! Leases (16 R363) -/

def isLease (peer rng : Nat) (l : Lease) : Bool := l.peer == peer && l.rng == rng

/-- The leases of a grid changed. -/
def State.modLeases (s : State) (gr : Nat) (f : List Lease → List Lease) : State := s.modGrid gr (fun r => { r with leases := f r.leases })

/-- LEASE_GRANT: a peer of the same domain that holds the range resident grants a grid's range a lease on its own translation. -/
def execLeaseGrant (gr peer : Nat) (range : LRange) (s : State) : Outcome State Fault Refusal :=
  match tget s.grids gr with
  | none => .fault .noObject
  | some _ => .next (if s.domainOf peer != s.domainOf s.selfDev then s
    else s.modLeases gr (fun ls => ls.filter (fun l => !isLease peer range.rng l) ++ [{ peer := peer, rng := range.rng, state := 1, place := range.place }]))

/-- LEASE_RECALL: from receipt the lease is RECALLING for the page. -/
def execLeaseRecall (gr peer rng page : Nat) (s : State) : Outcome State Fault Refusal :=
  match tget s.grids gr with
  | none => .fault .noObject
  | some _ => .next (s.modLeases gr (fun ls => ls.map (fun l =>
    if isLease peer rng l && (l.state == 1 || l.state == 2) then { l with state := 2, pages := insNat l.pages page, answering := true } else l)))

/-- Executions sent to a recalled page are still outstanding. -/
def State.recallBusy (s : State) (gr : Nat) (l : Lease) : Bool :=
  s.remotes.any (fun r => (s.group r.gid).grid == gr && peerOf r.peer == l.peer && rngOf r.peer == l.rng
    && r.lanes.any (fun q => l.pages.contains (q.2.ofs / 65536)))

/-- RECALL_ANSWER: every such execution has completed; the lease is REVOKED. -/
def execRecallAnswer (gr peer rng : Nat) (s : State) : Outcome State Fault Refusal :=
  match tget s.grids gr with
  | none => .fault .noObject
  | some r => .next (if r.leases.any (fun l => isLease peer rng l && l.answering && !s.recallBusy gr l) then
      (s.modLeases gr (fun ls => ls.map (fun l => if isLease peer rng l then { l with state := 3, answering := false } else l))).emit
        (.recallDone gr peer rng)
    else s)

end Sys2Proof.Machine
end

