-- ==== Sys2Proof/Machine/Upkeep.lean ====
section
/-! DEFINITION. Errors of scratch and HBM4, and the maintenance of HBM4 in its ease windows (09 R190, 15 R331, R332, 16 R367,
18 R405, R409, R419), with what else happens to the part from outside that is no row of the opcode table (assumption 18). -/

namespace Sys2Proof.Machine

open Host (Outcome)

/-! Rows and maintenance -/

/-- A bank and a row as numbers. -/
def HRow.bankKey (r : HRow) : Nat := r.ch * 2 ^ 16 + r.bank
def HRow.key (r : HRow) : Nat := r.bankKey * 2 ^ 32 + r.row

/-- Ticks that maintenance of a kind takes, as the pattern's record gives them. -/
def maintTicks (q : Pattern) (k : MaintKind) : Nat :=
  q.maintLen.getD (match k with
    | .refresh => 0
    | .manage => 1
    | .retry => 2
    | .repair _ => 3
    | .remap => 4) 0

/-- Partitions with a translation of a granule. -/
def State.usersOf (s : State) (g : Nat) : List Nat :=
  (List.range 8).filter (fun p => s.grids.any (fun r => r.2.pid == p && r.2.exts.any (fun e => e.segs.any (fun q =>
    !q.host && q.phys < 64 * g + 64 && 64 * g < q.phys + q.len))))

/-- A correctable event of an HBM4 read, for every partition whose ranges hold the granule (18 R405). -/
def State.hbmCorrected (s : State) (g : Nat) : State :=
  (s.usersOf g).foldl (fun s p => s.modPart p (fun q => { q with scce := satInc q.scce })) s

/-- Mirror repair (18 R409): a marked granule of a mirrored page whose partner copy is good is rewritten from it, which clears its
mark, and a correctable event is logged. Partner bytes that this device has not sent are free. -/
def State.mirrorRepair (s : State) (g : Nat) : State :=
  if s.hbm.poison.contains g && s.mirroredAt (64 * g) 64 && !s.pat.partnerBad.contains g then
    let bs := (List.range 64).map (fun i => (tget s.pat.partner (64 * g + i)).getD (Config.freeByte (s.free + i)))
    ({ s with hbm := s.hbm.write (64 * g) bs, free := s.free + 64 } : State).hbmCorrected g
  else s

/-- Row remapping (18 R419): one of the bank's 8 spare rows takes the row's contents and marks; a bank without a spare keeps its row
in service. The last spare raises HCH for the channel's first exhausted bank, and RQ. -/
def State.rowRemap (s : State) (r : HRow) : State :=
  let used := (tget s.dram.spares r.bankKey).getD 0
  if 8 ≤ used then s
  else
    let s : State := { s with dram := { s.dram with spares := tset s.dram.spares r.bankKey (used + 1), fixed := tset s.dram.fixed r.key 0 } }
    if used + 1 < 8 then s
    else if s.dev.hchSet.contains r.ch then { s with dev := { s.dev with rq := true } }
    else { s with dev := { s.dev with rq := true, hchSet := insNat s.dev.hchSet r.ch, hch := s.dev.hch + 1 } }

/-- Maintenance that is carried out: a refresh returns the row's count to 0 (16 R367). -/
def State.maintain (s : State) (m : Maint) : State :=
  match m.kind with
  | .refresh => { s with dram := { s.dram with acts := tset s.dram.acts m.row.key 0, alerts := s.dram.alerts.filter (· != m.row.key) } }
  | .manage | .retry => s
  | .repair g => s.mirrorRepair g
  | .remap => s.rowRemap m.row

/-- A row's remap, or a granule's repair, that waits already (18 R409, R419). -/
def State.maintWaits (s : State) (r : HRow) (k : MaintKind) : Bool :=
  match k with
  | .remap | .repair _ => s.dram.maint.any (fun m => m.row == r && m.kind == k)
  | _ => false

/-- Maintenance waits for a window of its channel, no longer than the standard's postponement limit (15 R331, R332); without a
pattern there are no windows, and it is carried out at once. What waits already is not queued twice. -/
def State.queueMaint (s : State) (r : HRow) (k : MaintKind) : State :=
  match s.pat.cur with
  | some _ => if s.maintWaits r k then s else { s with dram := { s.dram with maint := s.dram.maint ++ [{ row := r, kind := k, limit := s.now + Config.refreshPostpone }] } }
  | none => s.maintain { row := r, kind := k, limit := s.now }

/-- Of the maintenance of a channel, in order, what fits a window, and what is deferred to the next (15 R332, assumption 18). -/
def fitMaint (q : Pattern) (room : Nat) : List Maint → List Maint × List Maint
  | [] => ([], [])
  | m :: ms =>
    let n := maintTicks q m.kind
    if n ≤ room then let r := fitMaint q (room - n) ms; (m :: r.1, r.2)
    else let r := fitMaint q room ms; (r.1, m :: r.2)

/-- The channel whose ease window comes next (15 R331). -/
def State.nextWindow (s : State) : Option (Nat × Nat) :=
  s.dram.easeAt.foldl (fun b q => match b with
    | some p => if q.2 < p.2 || (q.2 == p.2 && q.1 < p.1) then some q else some p
    | none => some q) none

/-- EASE_WINDOW (15 R331, R332, 16 R367, 18 R409, R419): the next window, of EWLEN ticks, opens; maintenance that does not fit
is deferred to the next, EWPER ticks on. -/
def execEaseWindow (s : State) : Outcome State Fault Refusal :=
  match s.pat.cur, s.nextWindow with
  | some q, some (ch, at_) =>
    let mine := s.dram.maint.filter (fun m => m.row.ch == ch)
    let (now, later) := fitMaint q (ewlen q ch) mine
    let s : State := { s with dram := { s.dram with
      maint := s.dram.maint.filter (fun m => m.row.ch != ch) ++ later
      easeAt := tset s.dram.easeAt ch (at_ + Nat.max (ewper q ch) 1) } }
    .next (now.foldl State.maintain s)
  | _, _ => .next s

/-- Maintenance of a channel that may wait no longer. -/
def State.maintPast (s : State) (ch : Nat) : List Maint := s.dram.maint.filter (fun m => m.row.ch == ch && m.limit ≤ s.now)

/-- EASE (15 R332): maintenance that would pass the postponement limit is issued outside the window, and causes a schedule fault. -/
def execEase (ch : Nat) (s : State) : Outcome State Fault Refusal :=
  let past := s.maintPast ch
  let s : State := { s with dram := { s.dram with maint := s.dram.maint.filter (fun m => !(m.row.ch == ch && m.limit ≤ s.now)) } }
  .next ((past.foldl State.maintain s).detect .ease)

/-- ROW_ACTIVATION_ALERT (16 R367): the alert is logged, and the refresh-management command for the row's neighbours waits for the
channel's next window. -/
def execRowActivationAlert (ch : Nat) (row : BankRow) (s : State) : Outcome State Fault Refusal :=
  let r : HRow := { ch := ch, bank := row.bank, row := row.row }
  .next (({ s with dram := { s.dram with alerts := insNat s.dram.alerts r.key } } : State).queueMaint r .manage)

/-- A row whose count has reached 1,024 since its last refresh, with no alert logged (16 R367). -/
def State.alertDue (s : State) : Option HRow :=
  (s.dram.acts.find? (fun q => 1024 ≤ q.2 && !s.dram.alerts.contains q.1)).map (fun q =>
    { ch := q.1 / 2 ^ 48, bank := q.1 / 2 ^ 32 % 2 ^ 16, row := q.1 % 2 ^ 32 })

/-! What happens from outside (assumption 18) -/

/-- A running member of a class falls behind its share (10 R210). -/
def State.fallBehind (s : State) (k : Nat) (cl : CClass) (n : Nat) : State :=
  s.modCopy k cl (fun c => if c.start.isSome then { c with late := c.late + n } else c)

/-- The acknowledgement that a mirrored member waits for comes later (18 R407). -/
def State.lateAck (s : State) (k n : Nat) : State :=
  s.modCore k (fun c => match c.tail with
    | t :: ts => { c with tail := { t with due := t.due + n } :: ts }
    | [] => c)

/-- An error that an HBM4 access finds: a corrected one is logged and counted for its row, at the 16th the row is remapped; an
uncorrectable one marks the granule, and its row is remapped and a mirrored granule repaired in the channel's next window
(18 R405, R409, R419, 10 R221). -/
def State.hbmError (s : State) (r : HRow) (g : Nat) (bad : Bool) : State :=
  if bad then
    let s := ({ s with hbm := s.hbm.mark [g] } : State).queueMaint r .remap
    if s.mirroredAt (64 * g) 64 then s.queueMaint r (.repair g) else s
  else
    let n := (tget s.dram.fixed r.key).getD 0 + 1
    let s := ({ s with dram := { s.dram with fixed := tset s.dram.fixed r.key n } } : State).hbmCorrected g
    if n = 16 then s.queueMaint r .remap else s

/-- What one happening does. -/
def State.happen (s : State) : Hap → State
  | .scratchError k sp g bad => if bad then s.modRam sp (fun m => m.mark [g]) else s.correctable k
  | .hbmError r g bad => s.hbmError r g bad
  | .activate r => { s with dram := { s.dram with acts := tset s.dram.acts r.key ((tget s.dram.acts r.key).getD 0 + 1) } }
  | .refreshDue r => s.queueMaint r .refresh
  | .retry r => s.queueMaint r .retry
  | .fallBehind k cl n => s.fallBehind k cl n
  | .lateAck k n => s.lateAck k n
  | .hostMem a bs poison => { s with host := s.host.write a bs poison }
  | .recallAnswered dev gr rng => { s with pat := { s.pat with granted := s.pat.granted.filter (fun g =>
      !(g.dev == dev && g.grid == gr && g.rng == rng && !g.recalled.isEmpty)) } }

end Sys2Proof.Machine
end

