-- ==== Sys2Proof/Machine/Recovery.lean ====
section
/-! DEFINITION. Checkpoints, retirement of cores (18 R405, R410, R416-R420), and the device as a whole: cold start, firmware,
identity, management and power (16 R369-R371). -/

namespace Sys2Proof.Machine

open Host (Outcome)

/-- A duplicate of a mirrored write accepted before this turn is on its way, for all but the host writes accepted in it (18 R407, R410). -/
def State.mirBehind (s : State) : Bool :=
  let fresh := (s.pat.mirPend.filter (fun q => q.due == s.turn + 152)).map (·.ident)
  s.pat.held.any (fun f => f.op == .mirror && !fresh.contains f.ident)
    || s.pat.acks.any (fun q => q.2.any (fun f => f.copy.op == .mirror && !fresh.contains f.copy.ident))

/-- Every mirrored write accepted before this turn is durable at its beginning (18 R407, R410). -/
def State.durable (s : State) : Bool :=
  s.cores.all (fun c => c.2.tail.all s.tailDone && [c.2.cqH, c.2.cqP, c.2.cqX, c.2.cqS].all (fun q => !q.any (·.mir)))
    && s.pat.mirPend.all (fun q => q.due == s.turn + 152 || s.hostDurable q) && !s.mirBehind
    && s.streams.all (fun x => x.2.copyAt.isNone || !x.2.copySegs.2.any (·.mir))

/-- CHECKPOINT (18 R405, R410): PCKPT becomes the frame, and where it advances the self-check counters are zeroed; or LATE. A frame that runs
again after a rejoin is no advance (15 R337). -/
def execCheckpoint (s : State) : Outcome State Fault Refusal :=
  let c := s.pframe
  let s : State := { s with pat := { s.pat with ckptFrame := some (s.now / 65536) } }
  .next (if s.durable then
      let parts := if s.pat.pckpt < c then s.parts.map (fun q => { q with scmant := 0, scsig := 0, scce := 0 }) else s.parts
      { s with pat := { s.pat with pckpt := c, pckptOld := s.pat.pckpt, pckptAt := s.now / 65536 }, parts := parts }
    else s.detect .late)

/-- CORE_MARK (18 R416, R418): the driver's request over management. -/
def execCoreMark (k : Nat) (s : State) : Outcome State Fault Refusal :=
  if k < Config.cores then .next (s.markCore k) else .fault .noObject

/-- A marked core can be replaced now (18 R417, R418). -/
def State.substitutable (s : State) (k : Nat) : Bool :=
  let p := s.partOf k
  (s.core k).marked && s.dev.standby (dieOf k) != 0 && s.blocks.all (fun b => b.2.core != k || b.2.released)
    && (s.part p).st != .saving && (s.part p).st != .restoring

/-- STANDBY_SUBSTITUTION (18 R417): the presented index moves to a standby core of the die, which begins with all its scratch zero. -/
def execStandbySubstitution (k : Nat) (s : State) : Outcome State Fault Refusal :=
  if !s.substitutable k then .next s
  else
    let s := s.modCore k (fun c => { zeroed := true, eEnd := c.eEnd, endH := c.endH, endP := c.endP, endX := c.endX, endS := c.endS })
    .next { s with dev := if dieOf k = 0 then { s.dev with sb0 := s.dev.sb0 - 1 } else { s.dev with sb1 := s.dev.sb1 - 1 } }

/-- The images of the partition's started grids, which stand in every core of it (14 R297), are loaded into a core that began with zeros, before
anything can dispatch there (DEDUCED, assumption 55). -/
def State.reimage (s : State) (k : Nat) : State :=
  let held := s.grids.filter (fun r => r.2.pid == s.partOf k && r.2.phase == .started && !r.2.recorded)
  let lines := held.foldl (fun t r => replaceLines t (r.2.base / 64) ((List.range r.2.desc.nlines).map (imageLine s.hbm r.2))) []
  s.modCore k (fun c => { c with lines := lines, zeroed := false })

/-! The device -/

/-- COLD_START (16 R352, R370): no state of the device survives, and DEVSEQ is drawn. The firmware image runs as it did;
time goes on with the pod's (15 R338), and host memory is not the device's. -/
def execColdStart (s : State) : Outcome State Fault Refusal :=
  let z : State := {}
  .next { z with
    turn := s.turn, pos := s.pos, bdry := s.bdry, host := s.host, inputs := s.inputs, haps := s.haps, out := s.out, free := s.free + 1, ident := s.ident
    dev := { z.dev with step := s.dev.step, fwver := s.dev.fwver, rbcnt := s.dev.rbcnt, fwok := s.dev.fwok, testEn := s.dev.testEn,
                        fwdigest := s.dev.fwdigest, cethr := s.dev.cethr, devseq := Config.freeWord s.free } }

/-- Every context is lost, and every PSTATE is EMPTY. -/
def State.dropContexts (s : State) : State :=
  { s with groups := [], blocks := [], grids := [], bankQ := [], remotes := [], semq := [], issue := none
           cores := s.cores.map (fun c => (c.1, c.2.cleared)), streams := [], parts := s.parts.map (fun _ => {}) }

/-- FIRMWARE_LOAD (16 R369, 18 R416): both signatures verify and the image runs with its configuration, the test-mode enables and
CETHR among it, or the device offers only management and image loading. -/
def execFirmwareLoad (signed : Bool) (ver rb : Word) (conf : FwConf) (digest : Nat) (s : State) : Outcome State Fault Refusal :=
  if signed then
    .next { s with dev := { s.dev with fwok := true, fwver := ver, rbcnt := rb, testEn := conf.testEn, cethr := conf.cethr, fwdigest := digest } }
  else
    let s := s.dropContexts
    .next { s with dev := { s.dev with fwok := false } }

/-- SPDM_REQUEST (16 R370): the measurements. -/
def execSpdmRequest (s : State) : Outcome State Fault Refusal :=
  .next (s.emit (.measure s.dev.fwdigest s.dev.rbcnt ((s.pat.cur.map (·.digest)).getD 0)))

/-- The snapshots of a partition in ascending (CORE, BLOCK) order (18 R415). -/
def State.snapshots (s : State) (p : Nat) : List Byte :=
  (sortBy (fun a b => a.2.core < b.2.core || (a.2.core == b.2.core && a.2.blockId ≤ b.2.blockId))
    (s.blocks.filter (fun b => (s.grid b.2.grid).pid == p && !b.2.snap.isEmpty))).flatMap (·.2.snap)

/-- MANAGEMENT_REQUEST (16 R371, 18 R405, R415, R416): power and temperatures are the controller's own measurements:
free bytes. -/
def execManagementRequest (m : Mgmt) (s : State) : Outcome State Fault Refusal :=
  match m with
  | .readSnapshots p => .next (s.emit (.mgmt (if (s.part p).snheld then s.snapshots p else [])))
  | .power => .next (({ s with free := s.free + 64 } : State).emit (.mgmt ((List.range 64).map (fun i => Config.freeByte (s.free + i)))))
  | .retire k => .next (if k < Config.cores then s.markCore k else s)
  | .snack p => .next (s.modPart p (fun q => { q with snheld := false }))

/-- Main power is gone (16 R371): every context state and HBM4 are lost, and the links drop. -/
def State.powerOff (s : State) : State :=
  let s := s.dropContexts
  let s : State := { s with hbm := {}, cores := [], shadows := [], images := [], dev := { s.dev with power := false }, pat := {} }
  (List.range 12).foldl (fun s i => s.emit (.linkDown i)) s

/-- THERMAL_TRIP (16 R371). -/
def execThermalTrip (s : State) : Outcome State Fault Refusal := .next s.powerOff

/-- MAIN_RAIL_DROP (16 R371). -/
def execMainRailDrop (s : State) : Outcome State Fault Refusal := .next s.powerOff

end Sys2Proof.Machine
end

