-- ==== Sys2Proof/Machine/Dispatch.lean ====
section
/-! DEFINITION. The dispatch of a step to its meaning, one arm per constructor. -/

namespace Sys2Proof.Machine

def exec (i : Instr) (s : State) : Host.Outcome State Fault Refusal :=
  match i with
  | .nop c => Sys2Proof.Machine.execNop c s
  | .bra c sofs => Sys2Proof.Machine.execBra c sofs s
  | .brz c a sofs => Sys2Proof.Machine.execBrz c a sofs s
  | .brnz c a sofs => Sys2Proof.Machine.execBrnz c a sofs s
  | .call c d sofs => Sys2Proof.Machine.execCall c d sofs s
  | .ret c a => Sys2Proof.Machine.execRet c a s
  | .jmp c a => Sys2Proof.Machine.execJmp c a s
  | .jcall c d a => Sys2Proof.Machine.execJcall c d a s
  | .exit c => Sys2Proof.Machine.execExit c s
  | .yield c => Sys2Proof.Machine.execYield c s
  | .sigchk c imm => Sys2Proof.Machine.execSigchk c imm s
  | .stopmark c => Sys2Proof.Machine.execStopmark c s
  | .waitc c a => Sys2Proof.Machine.execWaitc c a s
  | .add c t sat d a b => Sys2Proof.Machine.execAdd c t sat d a b s
  | .sub c t sat d a b => Sys2Proof.Machine.execSub c t sat d a b s
  | .addImm c t sat d a imm => Sys2Proof.Machine.execAddImm c t sat d a imm s
  | .subImm c t sat d a imm => Sys2Proof.Machine.execSubImm c t sat d a imm s
  | .mulLo c t d a b => Sys2Proof.Machine.execMulLo c t d a b s
  | .mulLoImm c t d a imm => Sys2Proof.Machine.execMulLoImm c t d a imm s
  | .mulHi c t d a b => Sys2Proof.Machine.execMulHi c t d a b s
  | .mad c t d a b cc => Sys2Proof.Machine.execMad c t d a b cc s
  | .min c t d a b => Sys2Proof.Machine.execMin c t d a b s
  | .max c t d a b => Sys2Proof.Machine.execMax c t d a b s
  | .abs c t sat d a => Sys2Proof.Machine.execAbs c t sat d a s
  | .and c t d a b => Sys2Proof.Machine.execAnd c t d a b s
  | .or c t d a b => Sys2Proof.Machine.execOr c t d a b s
  | .xor c t d a b => Sys2Proof.Machine.execXor c t d a b s
  | .andImm c t d a imm => Sys2Proof.Machine.execAndImm c t d a imm s
  | .orImm c t d a imm => Sys2Proof.Machine.execOrImm c t d a imm s
  | .xorImm c t d a imm => Sys2Proof.Machine.execXorImm c t d a imm s
  | .andn c t d a b => Sys2Proof.Machine.execAndn c t d a b s
  | .not c t d a => Sys2Proof.Machine.execNot c t d a s
  | .shl c t d a b => Sys2Proof.Machine.execShl c t d a b s
  | .shr c t d a b => Sys2Proof.Machine.execShr c t d a b s
  | .sar c t d a b => Sys2Proof.Machine.execSar c t d a b s
  | .rot c t d a b => Sys2Proof.Machine.execRot c t d a b s
  | .bfe c t d a b cc => Sys2Proof.Machine.execBfe c t d a b cc s
  | .bfi c d a b cc => Sys2Proof.Machine.execBfi c d a b cc s
  | .popc c t d a => Sys2Proof.Machine.execPopc c t d a s
  | .clz c t d a => Sys2Proof.Machine.execClz c t d a s
  | .ctz c t d a => Sys2Proof.Machine.execCtz c t d a s
  | .brev c t d a => Sys2Proof.Machine.execBrev c t d a s
  | .sel c t d a b cc => Sys2Proof.Machine.execSel c t d a b cc s
  | .cmp c t rel d a b => Sys2Proof.Machine.execCmp c t rel d a b s
  | .lea c t sh sx d a b => Sys2Proof.Machine.execLea c t sh sx d a b s
  | .ext c t ts d a => Sys2Proof.Machine.execExt c t ts d a s
  | .trunc c t ts sat d a => Sys2Proof.Machine.execTrunc c t ts sat d a s
  | .mov c t d a => Sys2Proof.Machine.execMov c t d a s
  | .movImm c t d imm => Sys2Proof.Machine.execMovImm c t d imm s
  | .movs c sreg fmt d => Sys2Proof.Machine.execMovs c sreg fmt d s
  | .shfl c mode w64 d a b => Sys2Proof.Machine.execShfl c mode w64 d a b s
  | .vote c k d a => Sys2Proof.Machine.execVote c k d a s
  | .bcast c t d a => Sys2Proof.Machine.execBcast c t d a s
  | .matchAny c t d a => Sys2Proof.Machine.execMatchAny c t d a s
  | .scanAdd c t excl d a => Sys2Proof.Machine.execScanAdd c t excl d a s
  | .lanemask c absolute d a => Sys2Proof.Machine.execLanemask c absolute d a s
  | .fadd c t rm d a b => Sys2Proof.Machine.execFadd c t rm d a b s
  | .fsub c t rm d a b => Sys2Proof.Machine.execFsub c t rm d a b s
  | .fmul c t rm d a b => Sys2Proof.Machine.execFmul c t rm d a b s
  | .ffma c t rm d a b cc => Sys2Proof.Machine.execFfma c t rm d a b cc s
  | .fdot2 c t rm d a b cc => Sys2Proof.Machine.execFdot2 c t rm d a b cc s
  | .fmin c t nanp d a b => Sys2Proof.Machine.execFmin c t nanp d a b s
  | .fmax c t nanp d a b => Sys2Proof.Machine.execFmax c t nanp d a b s
  | .fcmp c t rel d a b => Sys2Proof.Machine.execFcmp c t rel d a b s
  | .fclass c t d a => Sys2Proof.Machine.execFclass c t d a s
  | .frcp c t rm d a => Sys2Proof.Machine.execFrcp c t rm d a s
  | .frsq c t rm d a => Sys2Proof.Machine.execFrsq c t rm d a s
  | .fsqrt c t rm d a => Sys2Proof.Machine.execFsqrt c t rm d a s
  | .fexp2 c t d a => Sys2Proof.Machine.execFexp2 c t d a s
  | .flog2 c t d a => Sys2Proof.Machine.execFlog2 c t d a s
  | .fsin c t d a => Sys2Proof.Machine.execFsin c t d a s
  | .fcos c t d a => Sys2Proof.Machine.execFcos c t d a s
  | .fround c t rm d a => Sys2Proof.Machine.execFround c t rm d a s
  | .fldexp c t rm d a b => Sys2Proof.Machine.execFldexp c t rm d a b s
  | .ffrexp c t expPart d a => Sys2Proof.Machine.execFfrexp c t expPart d a s
  | .cvt c t ts sat rm d a => Sys2Proof.Machine.execCvt c t ts sat rm d a s
  | .cvtSr c t ts sat d a b => Sys2Proof.Machine.execCvtSr c t ts sat d a b s
  | .bpack c t d a => Sys2Proof.Machine.execBpack c t d a s
  | .bunpack c t d a => Sys2Proof.Machine.execBunpack c t d a s
  | .wclr c d => Sys2Proof.Machine.execWclr c d s
  | .wbase c d a b => Sys2Proof.Machine.execWbase c d a b s
  | .wfma c neg d a b cc => Sys2Proof.Machine.execWfma c neg d a b cc s
  | .wadd c neg d a cc => Sys2Proof.Machine.execWadd c neg d a cc s
  | .wsign c d a => Sys2Proof.Machine.execWsign c d a s
  | .wrnd c rm d a cc => Sys2Proof.Machine.execWrnd c rm d a cc s
  | .mma c t m64 scr d a b cc => Sys2Proof.Machine.execMma c t m64 scr d a b cc s
  | .mloop c t tile sc acc adie bdie cls d a b cc => Sys2Proof.Machine.execMloop c t tile sc acc adie bdie cls d a b cc s
  | .mmab c t tile scr a b => Sys2Proof.Machine.execMmab c t tile scr a b s
  | .mzero c tile => Sys2Proof.Machine.execMzero c tile s
  | .maccLd c tile die cls a => Sys2Proof.Machine.execMaccLd c tile die cls a s
  | .maccSt c tile die cls a => Sys2Proof.Machine.execMaccSt c tile die cls a s
  | .mdrain c tile d => Sys2Proof.Machine.execMdrain c tile d s
  | .mchk c tile frag d => Sys2Proof.Machine.execMchk c tile frag d s
  | .mloc c tile d => Sys2Proof.Machine.execMloc c tile d s
  | .mfix c tile d => Sys2Proof.Machine.execMfix c tile d s
  | .mretry c tile cls => Sys2Proof.Machine.execMretry c tile cls s
  | .mprog c d => Sys2Proof.Machine.execMprog c d s
  | .mtol c t a => Sys2Proof.Machine.execMtol c t a s
  | .ld c sp sz ord d a ofs => Sys2Proof.Machine.execLd c sp sz ord d a ofs s
  | .st c sp sz ord a b ofs => Sys2Proof.Machine.execSt c sp sz ord a b ofs s
  | .spill c sz a b ofs => Sys2Proof.Machine.execSpill c sz a b ofs s
  | .fill c sz d a ofs => Sys2Proof.Machine.execFill c sz d a ofs s
  | .atomBlk c op ord d a b cc ofs => Sys2Proof.Machine.execAtomBlk c op ord d a b cc ofs s
  | .atomDie c op ord d a b cc ofs => Sys2Proof.Machine.execAtomDie c op ord d a b cc ofs s
  | .redBlk c op a b ofs => Sys2Proof.Machine.execRedBlk c op a b ofs s
  | .redDie c op a b ofs => Sys2Proof.Machine.execRedDie c op a b ofs s
  | .ldr c sp w64 ord d a ofs => Sys2Proof.Machine.execLdr c sp w64 ord d a ofs s
  | .stc c sp w64 ord d a b ofs => Sys2Proof.Machine.execStc c sp w64 ord d a b ofs s
  | .fence c k sc => Sys2Proof.Machine.execFence c k sc s
  | .aflush c d => Sys2Proof.Machine.execAflush c d s
  | .halloc c mode1 d a b => Sys2Proof.Machine.execHalloc c mode1 d a b s
  | .hfree c a b cc => Sys2Proof.Machine.execHfree c a b cc s
  | .cpy c out rng die cls d a b cc => Sys2Proof.Machine.execCpy c out rng die cls d a b cc s
  | .cpy2d c out rng die cls d a b cc => Sys2Proof.Machine.execCpy2d c out rng die cls d a b cc s
  | .gather c far die esz cls d a b cc => Sys2Proof.Machine.execGather c far die esz cls d a b cc s
  | .scatter c far die esz cls d a b cc => Sys2Proof.Machine.execScatter c far die esz cls d a b cc s
  | .cpyAtom c op rng ret cls d a b cc => Sys2Proof.Machine.execCpyAtom c op rng ret cls d a b cc s
  | .cpyDigest c src cls d a b cc => Sys2Proof.Machine.execCpyDigest c src cls d a b cc s
  | .bclose c sc d => Sys2Proof.Machine.execBclose c sc d s
  | .bwait c a imm => Sys2Proof.Machine.execBwait c a imm s
  | .rmtLd c sz ord d a cc ofs => Sys2Proof.Machine.execRmtLd c sz ord d a cc ofs s
  | .rmtSt c sz ord a b cc ofs => Sys2Proof.Machine.execRmtSt c sz ord a b cc ofs s
  | .rmtAtom c op ord d a b cc ofs => Sys2Proof.Machine.execRmtAtom c op ord d a b cc ofs s
  | .rmtWait c => Sys2Proof.Machine.execRmtWait c s
  | .bar c => Sys2Proof.Machine.execBar c s
  | .gbar c => Sys2Proof.Machine.execGbar c s
  | .bbar c a b => Sys2Proof.Machine.execBbar c a b s
  | .ringPut c a b => Sys2Proof.Machine.execRingPut c a b s
  | .ringGet c d a => Sys2Proof.Machine.execRingGet c d a s
  | .ringPeek c d a => Sys2Proof.Machine.execRingPeek c d a s
  | .launch c d a => Sys2Proof.Machine.execLaunch c d a s
  | .signal c intr a b => Sys2Proof.Machine.execSignal c intr a b s
  | .semWait c d a b => Sys2Proof.Machine.execSemWait c d a b s
  | .semPost c a b => Sys2Proof.Machine.execSemPost c a b s
  | .podt c d => Sys2Proof.Machine.execPodt c d s
  | .trap c code => Sys2Proof.Machine.execTrap c code s
  | .rti c => Sys2Proof.Machine.execRti c s
  | .sysrd c num d => Sys2Proof.Machine.execSysrd c num d s
  | .syswr c num a => Sys2Proof.Machine.execSyswr c num a s
  | .quench c => Sys2Proof.Machine.execQuench c s
  | .snap c => Sys2Proof.Machine.execSnap c s
  | .finj c k die a => Sys2Proof.Machine.execFinj c k die a s
  | .leaseChk c d a => Sys2Proof.Machine.execLeaseChk c d a s
  | .evt c a b => Sys2Proof.Machine.execEvt c a b s
  | .div t rest => Sys2Proof.Machine.execDiv t rest s
  | .rem t rest => Sys2Proof.Machine.execRem t rest s
  | .fillWord => Sys2Proof.Machine.execFillWord s
  | .resultLand g => Sys2Proof.Machine.execResultLand g s
  | .lineRefetch k line => Sys2Proof.Machine.execLineRefetch k line s
  | .rotationBoundary => Sys2Proof.Machine.execRotationBoundary s
  | .fairnessExcursion g => Sys2Proof.Machine.execFairnessExcursion g s
  | .waitcExpire g => Sys2Proof.Machine.execWaitcExpire g s
  | .engineCommandStart k => Sys2Proof.Machine.execEngineCommandStart k s
  | .mloopKStep k => Sys2Proof.Machine.execMloopKStep k s
  | .matrixCommandEnd k => Sys2Proof.Machine.execMatrixCommandEnd k s
  | .copyCommandStart k cl => Sys2Proof.Machine.execCopyCommandStart k cl s
  | .copyUnitEffect k cl => Sys2Proof.Machine.execCopyUnitEffect k cl s
  | .copyMemberComplete k cl => Sys2Proof.Machine.execCopyMemberComplete k cl s
  | .batchComplete g => Sys2Proof.Machine.execBatchComplete g s
  | .remoteApply src => Sys2Proof.Machine.execRemoteApply src s
  | .remoteComplete ident => Sys2Proof.Machine.execRemoteComplete ident s
  | .ringRetry g => Sys2Proof.Machine.execRingRetry g s
  | .barrierRelease b => Sys2Proof.Machine.execBarrierRelease b s
  | .gangBarrierRelease gr gang => Sys2Proof.Machine.execGangBarrierRelease gr gang s
  | .semaphoreTurn ident => Sys2Proof.Machine.execSemaphoreTurn ident s
  | .forcedFlush k => Sys2Proof.Machine.execForcedFlush k s
  | .endFlush b => Sys2Proof.Machine.execEndFlush b s
  | .reductionEntryApply k => Sys2Proof.Machine.execReductionEntryApply k s
  | .trapEntry g => Sys2Proof.Machine.execTrapEntry g s
  | .trapFrameCaptured g => Sys2Proof.Machine.execTrapFrameCaptured g s
  | .handlerEnd g => Sys2Proof.Machine.execHandlerEnd g s
  | .trapFrameRestored g => Sys2Proof.Machine.execTrapFrameRestored g s
  | .stopSpacing g => Sys2Proof.Machine.execStopSpacing g s
  | .watchdog p => Sys2Proof.Machine.execWatchdog p s
  | .contextFault p => Sys2Proof.Machine.execContextFault p s
  | .stopRecordsWritten p => Sys2Proof.Machine.execStopRecordsWritten p s
  | .snaptMatch p => Sys2Proof.Machine.execSnaptMatch p s
  | .launchPacket p n => Sys2Proof.Machine.execLaunchPacket p n s
  | .nopPacket p n => Sys2Proof.Machine.execNopPacket p n s
  | .semwaitPacket p n => Sys2Proof.Machine.execSemwaitPacket p n s
  | .semwaitMet p n => Sys2Proof.Machine.execSemwaitMet p n s
  | .semsigPacket p n => Sys2Proof.Machine.execSemsigPacket p n s
  | .copyPacket p n => Sys2Proof.Machine.execCopyPacket p n s
  | .copyPacketDone p n => Sys2Proof.Machine.execCopyPacketDone p n s
  | .invalidPacket p n => Sys2Proof.Machine.execInvalidPacket p n s
  | .serialRelease p n => Sys2Proof.Machine.execSerialRelease p n s
  | .gridReady gr => Sys2Proof.Machine.execGridReady gr s
  | .gridStart gr => Sys2Proof.Machine.execGridStart gr s
  | .blockDispatch gr => Sys2Proof.Machine.execBlockDispatch gr s
  | .blockDataLoaded b => Sys2Proof.Machine.execBlockDataLoaded b s
  | .blockRelease b => Sys2Proof.Machine.execBlockRelease b s
  | .gridComplete gr => Sys2Proof.Machine.execGridComplete gr s
  | .ctimeExpire p n => Sys2Proof.Machine.execCtimeExpire p n s
  | .collectiveStep gr => Sys2Proof.Machine.execCollectiveStep gr s
  | .chunkLand gr => Sys2Proof.Machine.execChunkLand gr s
  | .collectiveRetire gr => Sys2Proof.Machine.execCollectiveRetire gr s
  | .openCmd p ds => Sys2Proof.Machine.execOpenCmd p ds s
  | .haltCmd p ds => Sys2Proof.Machine.execHaltCmd p ds s
  | .resumeCmd p ds => Sys2Proof.Machine.execResumeCmd p ds s
  | .saveCmd p ds => Sys2Proof.Machine.execSaveCmd p ds s
  | .restoreCmd p ds => Sys2Proof.Machine.execRestoreCmd p ds s
  | .terminateCmd p ds => Sys2Proof.Machine.execTerminateCmd p ds s
  | .haltComplete p => Sys2Proof.Machine.execHaltComplete p s
  | .saveComplete p => Sys2Proof.Machine.execSaveComplete p s
  | .restoreComplete p => Sys2Proof.Machine.execRestoreComplete p s
  | .clearingDone p => Sys2Proof.Machine.execClearingDone p s
  | .pgack p => Sys2Proof.Machine.execPgack p s
  | .invva p va => Sys2Proof.Machine.execInvva p va s
  | .invalidationDone p => Sys2Proof.Machine.execInvalidationDone p s
  | .snack p => Sys2Proof.Machine.execSnack p s
  | .play v => Sys2Proof.Machine.execPlay v s
  | .shadow v => Sys2Proof.Machine.execShadow v s
  | .streamEn p n v => Sys2Proof.Machine.execStreamEn p n v s
  | .restart p n v => Sys2Proof.Machine.execRestart p n v s
  | .registerWrite ofs v => Sys2Proof.Machine.execRegisterWrite ofs v s
  | .hostRead addr len => Sys2Proof.Machine.execHostRead addr len s
  | .hostWrite addr bytes poison => Sys2Proof.Machine.execHostWrite addr bytes poison s
  | .acknowledgement pair flit lost => Sys2Proof.Machine.execAcknowledgement pair flit lost s
  | .flitReceive pair frame slot rx poison body => Sys2Proof.Machine.execFlitReceive pair frame slot rx poison body s
  | .linkFailed port => Sys2Proof.Machine.execLinkFailed port s
  | .ptpSync m => Sys2Proof.Machine.execPtpSync m s
  | .timingPortLockLoss locked => Sys2Proof.Machine.execTimingPortLockLoss locked s
  | .late x => Sys2Proof.Machine.execLate x s
  | .ease channel => Sys2Proof.Machine.execEase channel s
  | .peer device frame cause tick => Sys2Proof.Machine.execPeer device frame cause tick s
  | .quietFrames => Sys2Proof.Machine.execQuietFrames s
  | .alignmentCheck => Sys2Proof.Machine.execAlignmentCheck s
  | .rejoin => Sys2Proof.Machine.execRejoin s
  | .patternLoad pat => Sys2Proof.Machine.execPatternLoad pat s
  | .patternEffect => Sys2Proof.Machine.execPatternEffect s
  | .leaseRecall gr peer rng page => Sys2Proof.Machine.execLeaseRecall gr peer rng page s
  | .recallAnswer gr peer rng => Sys2Proof.Machine.execRecallAnswer gr peer rng s
  | .easeWindow => Sys2Proof.Machine.execEaseWindow s
  | .rowActivationAlert channel row => Sys2Proof.Machine.execRowActivationAlert channel row s
  | .checkpoint => Sys2Proof.Machine.execCheckpoint s
  | .coreMark k => Sys2Proof.Machine.execCoreMark k s
  | .standbySubstitution k => Sys2Proof.Machine.execStandbySubstitution k s
  | .coldStart => Sys2Proof.Machine.execColdStart s
  | .firmwareLoad signed ver rb conf digest => Sys2Proof.Machine.execFirmwareLoad signed ver rb conf digest s
  | .spdmRequest => Sys2Proof.Machine.execSpdmRequest s
  | .managementRequest m => Sys2Proof.Machine.execManagementRequest m s
  | .thermalTrip => Sys2Proof.Machine.execThermalTrip s
  | .leaseGrant gr peer range => Sys2Proof.Machine.execLeaseGrant gr peer range s
  | .executionMissesBound ident => Sys2Proof.Machine.execExecutionMissesBound ident s
  | .mainRailDrop => Sys2Proof.Machine.execMainRailDrop s

end Sys2Proof.Machine
end

