-- ==== Sys2Proof/Machine/Due.lean ====
section
/-! DEFINITION. What the machine does next, as one function of the state. A turn runs through its phases in a fixed order:
what arrives from outside, the partition's own events, semaphores, streams and the scheduler, remote executions, landings,
matrix engines, copies, collectives, the banks of scratch, barriers, the rotation boundary, traps, and then the issues in
the order of their positions (01 R16, R21, R22, 09 R188, 17 R386). -/

namespace Sys2Proof.Machine

open Host (Outcome)

/-- The next move: an event of the table, a word of the issue in progress, or a move that is no row of its own. Each
carries the state in which it acts. -/
inductive Action where
  | event (i : Instr) (s : State)
  | word (i : Instr) (s : State)
  | quiet (s : State)
  deriving DecidableEq, Repr

/-- An event that is due. -/
def State.fire (s : State) (c : Bool) (i : Instr) : Option Action := if c then some (.event i s) else none
/-- A quiet move that is due. -/
def State.silent (s : State) (c : Bool) (f : State → State) : Option Action := if c then some (.quiet (f s)) else none

/-! Which partitions and engines move -/

/-- The context of a core's partition is on its way to a halt. -/
def State.halting (s : State) (k : Nat) : Bool :=
  let q := s.part (s.partOf k)
  q.st == .stopping && q.haltBy

/-- Engines of a core act: until the end of the turn of a stop (07 R163, 10 R228). -/
def State.engineGo (s : State) (k : Nat) : Bool :=
  let q := s.part (s.partOf k)
  q.st == .running || (q.st == .stopping && (match q.haltTick with
    | some t => s.turn ≤ t / 16
    | none => false))

/-! Outside, partitions, pattern -/

/-- The first input whose tick has come. -/
def State.dueInput (s : State) : Option Action :=
  match s.inputs.find? (fun q => q.1 ≤ s.now) with
  | some q => some (.event q.2 { s with inputs := s.inputs.erase q })
  | none => none

/-- The first of what happens from outside that is no row of the table (assumption 18). -/
def State.dueHap (s : State) : Option Action :=
  match s.haps.find? (fun q => q.1 ≤ s.now) with
  | some q => some (.quiet (({ s with haps := s.haps.erase q } : State).happen q.2))
  | none => none

/-- Results of a partition's groups that land at the tick at which one of its context faults is due: they are there before the snapshot
latches (18 R414). -/
def State.dueLatch (s : State) (p : Nat) : Option Action :=
  let mine := fun (gid : Nat) => (s.group gid).pid == p
  if !(s.faultsDue p).any (fun f => decide (16 * s.turn ≤ f.tick)) then none
  else
    s.fire (s.remotes.any (fun r => mine r.gid && !r.applied && r.done ≤ s.turn)) (.remoteApply none)
    <|> firstSome (fun r => s.fire (mine r.gid && r.applied && r.done ≤ s.turn) (.remoteComplete r.ident)) s.remotes
    <|> firstSome (fun g => s.fire (g.2.pid == p && g.2.pend.any (s.landsNow g.1)) (.resultLand g.1)) s.groups

/-- Context faults, ends of commands and invalidations of a partition. -/
def State.duePart (s : State) (p : Nat) : Option Action :=
  let q := s.part p
  let ends := q.cmdDone != 0 && q.cmdDone ≤ s.turn
  s.dueLatch p
  <|> s.fire (!(s.faultsDue p).isEmpty) (.contextFault p)
  <|> s.fire (q.st == .stopping && !q.haltBy && q.freezeAt != 0 && q.freezeAt ≤ s.now) (.stopRecordsWritten p)
  <|> s.fire (q.st == .stopping && q.haltBy && ends) (.haltComplete p)
  <|> s.fire (q.st == .saving && ends) (.saveComplete p)
  <|> s.fire (q.st == .restoring && ends) (.restoreComplete p)
  <|> s.fire (q.st == .clearing && ends) (.clearingDone p)
  <|> s.fire (q.invbusy.any (fun va => !s.leased p va)) (.invalidationDone p)
  <|> s.silent (q.pend.any (fun w => w.due ≤ s.turn && !w.write.late)) (fun s => s.applyWrites p false)
  <|> s.silent (s.rejectsDue p) (fun s => s.writeRejects p)

/-- The pod: recalls to answer, acknowledgements, flits and Syncs to send, links that fail (15 R320, R327, R329, 16 R363). -/
def State.duePod (s : State) : Option Action :=
  let q := s.pat
  firstSome (fun r => firstSome (fun l => s.fire (l.answering && !s.recallBusy r.1 l) (.recallAnswer r.1 l.peer l.rng)) r.2.leases) s.grids
  <|> s.silent s.ackReady State.sendAck
  <|> s.silent (q.backups.any (fun b => b.2 ≤ s.now)) State.useBackups
  <|> s.silent s.flitsDue State.launchFlits
  <|> s.silent (q.cur.any (fun c => c.grandmaster == s.selfDev) && q.syncAt ≤ s.now) State.sendSync
  <|> s.failingPort.map (fun p => .event (.linkFailed p) s)

/-- Windows of the HBM4 channels, maintenance that may not wait, and alerts (15 R331, R332, 16 R367). -/
def State.dueUpkeep (s : State) : Option Action :=
  s.fire (s.pat.cur.isSome && (s.nextWindow.map (fun w => decide (w.2 ≤ s.now))).getD false) .easeWindow
  <|> firstSome (fun m => s.fire (m.limit ≤ s.now) (.ease m.row.ch)) s.dram.maint
  <|> s.alertDue.map (fun r => .event (.rowActivationAlert r.ch ⟨r.bank, r.row⟩) s)

/-- Frames, patterns, checkpoints and substitutions. -/
def State.duePattern (s : State) : Option Action :=
  let q := s.pat
  let frame := s.now / 65536
  let first := 16 * s.turn % 65536 == 0
  s.fire (q.st == 1 && (match q.fault with
      | some f => frame > f
      | none => false)) .quietFrames
  <|> s.fire (q.st == 2 && !q.aligned && 65536 * q.pjoin ≤ 16 * (s.turn + 1)) .alignmentCheck
  <|> s.fire (q.st == 2 && q.pjoin != 0 && 65536 * q.pjoin ≤ s.now) .rejoin
  <|> s.fire (q.st != 2 && q.nxt.isSome && q.nxtAt ≤ s.now) .patternEffect
  <|> (match q.cur with
      | none => none
      | some c => s.fire (q.st == 1 && first && q.ckptFrame != some frame && q.pshift ≤ frame && c.checkpoints.contains (s.pframe % Nat.max c.nf 1)) .checkpoint)
  <|> (if first && s.pos == 0 then firstSome (fun c => s.fire (s.substitutable c.1) (.standbySubstitution c.1)) s.cores else none)
  <|> firstSome (fun c => s.silent c.2.zeroed (fun s => s.reimage c.1)) s.cores
  <|> s.silent (s.pat.mirPend.any s.hostDurable) State.mirAcks
  <|> s.duePod <|> s.dueUpkeep

/-- LATE (15 R334), after what the tick itself completes. -/
def State.dueLate (s : State) : Option Action := s.overdue.map (fun x => .event (.late x) s)

/-! Semaphores, streams, scheduler -/

/-- The order of accesses to the semaphore table (14 R292): issue tick, die, core, quarter. -/
def SemAcc.key (q : SemAcc) : Nat := (q.tick * 256 + q.core) * 4 + q.quarter

/-- A context fault has stopped the partition and its records are not yet written: what it has begun completes (17 R395). -/
def State.freezing (s : State) (p : Nat) : Bool := (s.part p).st == .stopping && !(s.part p).haltBy

def State.dueSem (s : State) : Option Action :=
  let due := s.semq.filter (fun q => q.turn ≤ s.turn && !s.rmtOut q.gid q.after && (s.mayGo (s.group q.gid) || s.freezing q.pid))
  match sortBy (fun a b => a.key ≤ b.key) due with
  | q :: _ => some (.event (.semaphoreTurn q.ident) s)
  | [] => none

/-- A stream's front end and its interrupt timer. -/
def State.dueStream (s : State) (p i : Nat) : Option Action :=
  let x := s.stream p i
  (match s.streamNext p i with
    | some none => some (.quiet (s.fetchPacket p i))
    | some (some e) => some (.event e s)
    | none => none)
  <|> s.fire (x.ctime != 0 && (match x.oldest with
      | some t => t + x.ctime.toNat ≤ s.now
      | none => false)) (.ctimeExpire p i)

/-- The scheduler of a partition (14 R296, R300, R317). What a turn's last releases free is there from the next turn on. -/
def State.dueSched (s : State) (p : Nat) : Option Action :=
  let mine := s.grids.filter (fun r => r.2.pid == p)
  if mine.isEmpty || 12288 ≤ s.pos then none
  else
    (if s.running p then
      firstSome (fun r => s.fire (s.readyDue r.2) (.gridReady r.1)) mine
      <|> (match s.serveNext p with
          | some q => some (.quiet (s.serve q.1 q.2))
          | none => none)
      <|> firstSome (fun r => s.fire (match r.2.phase with
          | .serving u => u ≤ s.turn
          | _ => false) (.gridStart r.1)) mine
      <|> firstSome (fun r => s.fire (s.dispatchDue r.2).isSome (.blockDispatch r.1)) mine
      <|> firstSome (fun b => s.fire (!b.2.loaded && b.2.loadAt ≤ s.turn && (s.grid b.2.grid).pid == p) (.blockDataLoaded b.1)) s.blocks
    else none)
    <|> (if s.going p then firstSome (fun r => s.fire (s.completeDue r.1 r.2) (.gridComplete r.1)) mine else none)

/-! Remote executions and landings -/

def State.dueRemote (s : State) : Option Action :=
  firstSome (fun g => s.silent (s.mayGo g.2 && s.sendDue g.1 g.2) (fun s => s.sendRemote g.1)) s.groups
  <|> s.fire s.nextApply.isSome (.remoteApply none)
  <|> firstSome (fun r => s.fire (r.applied && r.done ≤ s.turn) (.remoteComplete r.ident)) s.remotes
  <|> firstSome (fun r => s.fire (!r.late && s.rmtBound r < s.turn && (s.pat.st == 1 || !r.unplanned)) (.executionMissesBound r.ident)) s.remotes

/-- Results land. A restore has ended with the turn before (17 R389): its registers are there before what lands in this turn. -/
def State.dueLand (s : State) : Option Action :=
  firstSome (fun g => match g.2.hphase with
    | .restore u => s.fire (s.going g.2.pid && u ≤ s.turn) (.trapFrameRestored g.1)
    | _ => none) s.groups
  <|> firstSome (fun g => s.fire (g.2.pend.any (s.landsNow g.1)) (.resultLand g.1)) s.groups
  <|> firstSome (fun p => s.silent ((s.part p).pend.any (fun w => w.due ≤ s.turn && w.write.late)) (fun s => s.applyWrites p true)) (List.range 8)
  <|> firstSome (fun p => let t := (s.part p).snapt.toNat; s.fire (t != 0 && t / 16 == s.turn && t ≤ s.now) (.snaptMatch p)) (List.range 8)
  <|> firstSome (fun g => s.silent (match g.2.hphase with
      | .capture f _ _ => f != 0 && f ≤ s.turn
      | _ => false) (fun s => s.captureFrames g.1)) s.groups

/-! Engines -/

/-- The turn of an `mloop`'s drain (07 R160). One of no steps has O = 4 and no turn stated for it: it drains, and reads its tolerance, at
S + 2, the first of its last two turns (DESIGN CHOICE, assumption 94). -/
def ECmd.drainTurn (c : ECmd) (m : MLoop) : Nat := c.start.getD 0 + (if m.nk = 0 then 2 else c.fill + (m.nk - c.p0))

/-- The command ends in this turn. -/
def ECmd.ends (c : ECmd) (turn : Nat) : Bool :=
  match c.start with
  | some t => t + c.occ ≤ turn
  | none => false

/-- The oldest command of a core's engine may start (07 R146). -/
def Core.startDue (c : Core) (turn : Nat) : Bool :=
  match c.eq with
  | q :: _ => q.start.isNone && q.issue < turn && c.eEnd ≤ turn
  | [] => false

/-- The running `mloop` multiplies a step in this turn (07 R160). -/
def ECmd.stepDue (c : ECmd) (turn : Nat) : Bool :=
  match c.kind, c.start with
  | .mloop m _, some t => c.steps < m.nk && turn == t + c.fill + (c.steps - c.p0) && !c.da.isEmpty && !c.db.isEmpty
  | _, _ => false

/-- The matrix engines: ends, starts, reads, steps, drains, and the stop of an `mloop` (07 R146, R160-R163). -/
def State.dueMatrix (s : State) : Option Action :=
  let heads := s.cores.filterMap (fun c => c.2.eq.head?.map (fun q => (c.1, q)))
  (firstSome (fun c => s.silent (c.2.drain.any (fun r => s.turn ≤ r.start + 2) && s.halting c.1) (fun s => s.stopDrain c.1)) s.cores)
  <|> if heads.isEmpty then none
  else
    firstSome (fun h => s.fire (h.2.ends s.turn) (.matrixCommandEnd h.1)) heads
    <|> firstSome (fun h => s.fire (s.engineGo h.1 && (s.core h.1).startDue s.turn) (.engineCommandStart h.1)) heads
    <|> firstSome (fun h => match h.2.kind with
        | .mloop m _ =>
          if h.2.start.isNone then none
          else if !s.engineGo h.1 && h.2.steps < m.nk + 1 && s.turn ≤ h.2.drainTurn m then some (.quiet (s.stopLoop h.1))
          else
            let r := h.2.readsNow s.turn
            s.silent (s.engineGo h.1 && (r.1 || r.2)) (fun s => s.engineRead h.1)
            <|> s.fire (s.engineGo h.1 && h.2.stepDue s.turn) (.mloopKStep h.1)
            <|> s.silent (h.2.drainTurn m ≤ s.turn && (s.tile h.1 m.tile).st != .drained) (fun s => s.loopDrain h.1)
        | _ => none) heads

def CClass.all : List CClass := [.H, .P, .X, .S]

/-- The next unit of a started command takes effect in this turn (10 R220). -/
def CCmd.unitDue (c : CCmd) (cl : CClass) (turn : Nat) : Bool :=
  c.start.isSome && !c.stopped && c.done < c.units && c.unitTurn cl c.done ≤ turn

/-- A copy-class queue of a core: units, end, start, and stop (10 R210, R220, R228). -/
def State.dueQueue (s : State) (k : Nat) (cl : CClass) : Option Action :=
  match (s.core k).queue cl with
  | [] => none
  | c :: _ =>
    let atom := match c.kind with
      | .atom .. => true
      | _ => false
    if c.start.isSome then
      if !s.engineGo k && !atom then some (.quiet (s.stopCopy k cl))
      else s.silent (c.asks cl) (fun s => s.hostReply k cl)
        <|> s.fire (c.unitDue cl s.turn) (.copyUnitEffect k cl)
        <|> s.fire (!c.stopped && c.done == c.units && c.endTurn cl ≤ s.turn) (.copyMemberComplete k cl)
    else s.fire (s.engineGo k && !c.stopped && c.issue < s.turn && (s.core k).lastEnd cl ≤ s.turn) (.copyCommandStart k cl)

/-- Copies and batches of a turn. A batch that is closed in turn `t` with no member still running completes later in that same turn, after
tick 16t: 10 R215 gives the tick 16u for a batch that a member's end completes (DESIGN CHOICE, assumption 86). -/
def State.dueCopies (s : State) : Option Action :=
  firstSome (fun c => s.fire (c.2.tail.any s.tailDone) (.copyMemberComplete c.1 .H)
    <|> firstSome (fun cl => s.dueQueue c.1 cl) CClass.all) s.cores
  <|> firstSome (fun g => s.silent (g.2.finished && g.2.members.any (fun m => m.batch.isNone)) (fun s => s.modGroup g.1 Group.close)) s.groups
  <|> firstSome (fun g => s.fire g.2.batchDue (.batchComplete g.1)) s.groups

/-- The sequencer of collectives acts at the pattern's ticks in every state but those of a freeze (15 R343, 16 R355, R357, 17 R395). -/
def State.collGo (s : State) (p : Nat) : Bool := s.going p || (s.part p).st == .halted || (s.part p).st == .saving

def State.dueColl (s : State) : Option Action :=
  firstSome (fun r => if s.collGo r.2.pid then
      s.fire (s.collReadDue r.2) (.collectiveStep r.1) <|> s.fire (s.chunkDue r.2) (.chunkLand r.1)
    else none) s.grids

/-! The banks of scratch -/

/-- The bytes that `macc.st` writes, granule by granule (07 R157). -/
def State.applyBulk (s : State) (x : Access) (bad : Bool) : State :=
  x.lanes.foldl (fun s l => (List.range (l.b.length / 16)).foldl (fun s i =>
    s.scratchWrite x.space (l.adr + 64 * i) (((l.b.drop (16 * i)).take 16).flatMap (fun w => toBytes 4 w.toNat)) bad none) s) s

/-- An access at its bank turn (09 R188-R200, R206, R207, 14 R306, R307, R314, 16 R377). -/
def State.applyAccess (s : State) (x : Access) : State :=
  let s : State := { s with bankQ := s.bankQ.erase x }
  match x.op with
  | .ld sz => s.applyLoad x sz
  | .st n => s.applyStore x n
  | .atom op ret => s.applyAtom x op ret
  | .ldr w64 => s.applyLdr x (if w64 then .b64 else .b32)
  | .stc w64 => s.applyStc x (if w64 then 8 else 4)
  | .halloc m => s.applyHalloc x m
  | .hfree => s.applyHfree x
  | .put => s.applyRing x 0
  | .get => s.applyRing x 1
  | .peek => s.applyRing x 2
  | .launch => s.applyLaunch x
  | .poison => s.modRam x.space (fun r => r.mark (x.lanes.map (fun l => l.adr / 64)))
  | .bulk bad => s.applyBulk x bad

/-- The first access of this turn or earlier, in the order of 09 R188. -/
def State.nextAccess (s : State) : Option Access :=
  (s.bankQ.filter (fun x => x.bank ≤ s.turn)).foldl (fun b x => match b with
    | none => some x
    | some y => if x.before y then some x else some y) none

/-- What happens at the banks of scratch in this turn: entries of reductions, then accesses, then retries of rings. Of the entries that
two cores' flushes place at one bank turn those of the core with the lower number come first: 12 R266 orders one flush alone
(DESIGN CHOICE, assumption 57). -/
def State.dueBanks (s : State) : Option Action :=
  firstSome (fun c => s.fire (c.2.entryDue s.turn).isSome (.reductionEntryApply c.1)) s.cores
  <|> (match s.nextAccess with
      | some x => some (.quiet (s.applyAccess x))
      | none => none)
  <|> (if s.groups.any (fun g => !g.2.rings.isEmpty) then firstSome (fun k => match s.ringNext k with
      | some q => s.fire (s.running (s.group q.1).pid) (.ringRetry q.1)
      | none => none) ((s.groups.map (fun g => g.2.core)).eraseDups)
    else none)

/-! Barriers and waits -/

def BarGen.due (q : BarGen) (turn : Nat) : Bool :=
  match q.release with
  | some r => r ≤ turn
  | none => false

/-- A lane's `waitc` is met by the end of this turn. -/
def Group.waitcDue (g : Group) (turn : Nat) : Bool :=
  g.lanes.any (fun l => match l.wait with
    | some w => (match w.cond with
      | .tick t => w.met.isNone && t ≤ 16 * turn + 15
      | _ => false)
    | none => false)

/-- Barriers (14 R308-R310). A gang's generation closes as soon as NGBAR blocks have arrived: one that arrives after them in the same turn is
in the next. Blocks of a gang that come to stand arrived at one bank turn arrive in the order of their dispatch, where R310 gives none
(DESIGN CHOICE, assumption 89). -/
def State.dueBars (s : State) : Option Action :=
  firstSome (fun r => firstSome (fun k => s.silent (s.gangFull r.1 k.1) (fun s => s.closeGang r.1 k.1)) r.2.gbars) s.grids
  <|> firstSome (fun b =>
    if b.2.released then none
    else
      s.silent (s.barFull b.1) (fun s => s.closeBar b.1)
      <|> (match s.barArrival b.1 with
        | some i => some (.quiet (s.arriveBar b.1 i))
        | none => none)
      <|> s.silent (b.2.bar.closed.any (fun q => q.release.isNone && q.at_ < s.turn)) (fun s => s.barFlush b.1)
      <|> s.fire (b.2.bar.closed.any (fun q => q.due s.turn)) (.barrierRelease b.1)
      <|> s.silent (s.gangWaits b.1 && !(s.gangBar b.2.grid (s.gangKey b.1)).holds b.1) (fun s => s.arriveGang b.1)) s.blocks
  <|> firstSome (fun r => firstSome (fun k =>
      s.fire (k.2.closed.any (fun q => q.due s.turn)) (.gangBarrierRelease r.1 k.1)) r.2.gbars) s.grids
  <|> firstSome (fun g => s.fire (g.2.waitcDue s.turn) (.waitcExpire g.1)) s.groups

/-- FORCED and END flushes (12 R265). A BAR flush of the same first tick comes before them and leaves the buffer empty, so that no FORCED
flush takes place there; of a FORCED and an END flush of one core that are due at the same tick the FORCED one comes first, and is counted and
recorded: R265 gives no order (DESIGN CHOICE, assumption 57). -/
def State.dueFlush (s : State) : Option Action :=
  firstSome (fun c => s.fire (3072 < (c.2.rbuf.filter (fun e => e.tick < 16 * s.turn)).length) (.forcedFlush c.1)) s.cores
  <|> firstSome (fun b => s.fire (!b.2.endDone && (match b.2.endAt with
      | some t => t ≤ s.turn
      | none => false)) (.endFlush b.1)) s.blocks

/-! The boundary, traps and halts -/

def State.dueTraps (s : State) : Option Action :=
  firstSome (fun g => if !s.going g.2.pid then none else match g.2.hphase with
    | .capture f u _ => s.fire (f == 0 && u ≤ s.turn) (.trapFrameCaptured g.1)
    | _ => none) s.groups
  <|> s.fire (!s.bdry) .rotationBoundary
  <|> firstSome (fun g =>
      s.fire (g.2.handlerEnded && !g.2.finished) (.handlerEnd g.1)
      <|> s.fire (s.running g.2.pid && g.2.trapDue) (.trapEntry g.1)) s.groups
  <|> firstSome (fun p =>
      let q := s.part p
      if q.st == .stopping && q.haltBy then
        s.silent (s.haltScanDue p) (fun s => s.haltScan p)
        <|> s.silent (q.cmdDone == 0 && s.haltReady p) (fun s =>
            let (n, s) := s.drawNat (Nat.min 256 (s.haltLimit p - s.turn))
            s.modPart p (fun q => { q with cmdDone := s.turn + 1 + n }))
      else none) (List.range 8)
  <|> firstSome (fun p => s.fire (match s.watchTick p with
      | some t => t ≤ s.now && s.watching p t
      | none => false) (.watchdog p)) (List.range 8)

/-! Issue -/

/-- A word that decode rejects parks the lanes that reach it (02 R61, R62). -/
def State.rejectWord (s : State) (x : Issue) (cls : Nat) : State :=
  ({ s.parkMask x.gid x.iset x.pc { illegal cls with word := x.word } with
    issue := some { x with rejected := true, stall := 0 } } : State).finishWord

/-- The class of a word that is no instruction, with the role check in its place (02 R61, R62). -/
def errClass (e : DecErr) (w : IWord) (g : Group) : Nat :=
  match e with
  | .emul => 3
  | .unassigned => 1
  | .sub => if roleOk (w.extractLsb' 88 8).toNat g.role then 1 else 4
  | .reserved => if roleOk (w.extractLsb' 88 8).toNat g.role then 2 else 4

/-- The word of the issue in progress acts. -/
def State.actWord (s : State) (x : Issue) : Action :=
  match decode x.word with
  | .ok i => .word i s
  | .error e => .quiet (s.rejectWord x (errClass e x.word (s.group x.gid)))

/-- The decode of a word raises a trap for these lanes (02 R45, R62). -/
def State.decodeTraps (s : State) (g : Group) (iset : Mask) (bad : Bool) (w : IWord) : Bool :=
  match decode w with
  | .ok i => 0xF0 ≤ i.opc || (s.rejects i g iset bad).isSome
  | .error _ => true

/-- A word makes a stop point: STOP is 1 and checks 2 to 6 accept it (02 R56). -/
def State.stopWord (s : State) (g : Group) (iset : Mask) (bad : Bool) (w : IWord) : Bool :=
  w.getLsbD 4 && (match decode w with
    | .ok i => i.opc < 0xF0 && (match s.rejects i g iset bad with
      | some (_, keeps) => keeps
      | none => true)
    | .error _ => false)

/-- The word leaves a register result on its way that a `stopmark` after it waits for (13 R286, 02 R57). -/
def leavesResult (g : Group) (iset : Mask) (w : IWord) : Bool :=
  match decode w with
  | .ok i => predSel g iset i != 0 && !isEngine i.opc && i.opc != 0xC8 && i.opc != 0xCA && i.uses.any (fun u => match u.1 with
    | .src _ | .srcR _ => false
    | _ => true)
  | .error _ => false

/-- The word is a `stopmark`. -/
def isStopmark (w : IWord) : Bool :=
  match decode w with
  | .ok (.stopmark _) => true
  | _ => false

/-- The word after `w` issues with it (02 R45). A `stopmark` does not issue over results of earlier instructions, those of `w`
among them (13 R286): it then comes at a later turn. -/
def State.pairs (s : State) (g : Group) (iset : Mask) (l : Line) (j : Nat) : Bool :=
  let w := l.slots.getD j 0
  let w2 := l.slots.getD (j + 1) 0
  let u := unitOf (w.extractLsb' 88 8).toNat
  let u2 := unitOf (w2.extractLsb' 88 8).toNat
  j < 4 && l.lw.getLsbD (5 + j) && w.extractLsb' 0 5 == 0 && 1 ≤ u && u ≤ 6 && u2 != u && u2 < 8
    && !s.decodeTraps g iset l.bad w && !s.decodeTraps g iset l.bad w2
    && !(isStopmark w2 && (s.turn < g.settled || leavesResult g iset w))

/-- The word is an `rti` that decode accepts and that selects a lane (02 R58, assumption 50). -/
def State.resetsSpacing (s : State) (g : Group) (iset : Mask) (bad : Bool) (w : IWord) : Bool :=
  match decode w with
  | .ok (.rti k) => (s.rejects (.rti k) g iset bad).isNone && predSel g iset (.rti k) != 0
  | _ => false

/-- The issue set of a `stopmark` that the group holds: of the lanes selected then, those still selectable (13 R286). -/
def Group.held (g : Group) : Mask := (g.mark.getD 0) &&& g.selMask

/-- A group at its turn: the mask check, the selection, the fetch, the stop point, the stop spacing, and the issue
(01 R17, 02 R41, R45, R56-R58, 13 R270, 18 R404). A turn whose fetch fails its parity check, or that ends at the stop point of a halt, keeps an
excursion that has begun in it, but counts as no selection: ECNT and YLD stay. 13 R276 does not say (DESIGN CHOICE, assumption 97). -/
def State.groupTurn (s : State) (i : Nat) (g : Group) : Action :=
  let base := (s.grid g.grid).base
  let lim := (s.part g.pid).fairlim
  if g.held == 0 && (g.excursion lim).isSome then .event (.fairnessExcursion i) s
  else
    let (iset, g') := if g.held != 0 then (g.held, { g with mark := none }) else { g with mark := none }.select
    let lane0 := (lanesOf iset).headD 0
    let pc := (g.lane lane0).pc
    if g.live2 != g.live then .quiet (s.issueFault i 4 2 (0#12 ++ pc) 0 0)
    else
      let k := (tget (s.core g.core).refetch (pc.toNat / 64)).getD 0
      let line := s.lineAt g pc.toNat
      if line.isSome && s.turn < k then .quiet (s.holdFetch i k)
      else if (match line with
        | some l => !l.ok
        | none => false) then .event (.lineRefetch g.core (pc.toNat / 64)) s
      else
        let l := line.getD fillLine
        let j := slotOf base pc.toNat
        let w := if line.isSome then l.slots.getD j (BitVec.allOnes 96) else BitVec.allOnes 96
        let bad := line.isSome && l.bad
        let pair := line.isSome && s.pairs g iset l j
        let w2 := l.slots.getD (j + 1) 0
        let stop := s.stopWord g iset bad w || (pair && s.stopWord g iset bad w2)
        if !s.running g.pid && stop then .quiet (s.modGroup i (fun g => { g with haltDone := true, stime := s.now }))
        else if isStopmark w && stop && s.turn < g.settled then
          .quiet ((s.setGroup i { g' with mark := some iset }).holdFetch i g.settled)
        else if !stop && !s.resetsSpacing g iset bad w && 64 ≤ g.stopCnt + (if pair then 2 else 1) then .event (.stopSpacing i) s
        else
          let tgt := fun (n : Nat) => line.isSome && l.lw.getLsbD n
          let x : Issue := { gid := i, pc := pc, iset := iset, all := iset, word := w, lane0 := lane0
                             second := if pair then some w2 else none, lineBad := bad, tgt := tgt j
                             tgt2 := tgt (j + 1), sig0 := (g.lane lane0).sig }
          ({ s.setGroup i g' with issue := some x } : State).actWord x

/-- Ticks within a turn at which a grid may become ready or a bound block be dispatched (14 R296, 12 R261). -/
def Grid.ticks (r : Grid) : List Nat :=
  match r.phase with
  | .accepted => [r.req.start]
  | .started => (r.trace.filter (fun t => !t.forced && !t.used)).map (fun t => r.start + t.cyc)
  | _ => []

/-- The next deadline of each planned grid (15 R334). -/
def State.deadlines (s : State) : List Nat :=
  ((s.pat.cur.map (·.planned)).getD []).map (fun e =>
    let d := 65536 * (e.frame + s.pat.pshift) + e.endOfs + e.ew
    d + s.period * ceilDiv (16 * s.turn - d) s.period)

/-- The place in the turn to which time goes on: `e`, or before it the tick of an input, of a freeze, of a START, or of a planned
grid's deadline. -/
def State.nextPos (s : State) (e : Nat) : Nat :=
  (s.inputs.map (fun q => q.1) ++ s.haps.map (fun q => q.1) ++ s.parts.map (fun q => q.freezeAt) ++ s.grids.flatMap (fun r => r.2.ticks)
    ++ s.deadlines).foldl (fun b t =>
    let p := 768 * (t - 16 * s.turn)
    if s.pos < p && p < b then p else b) e

/-- The issue in progress goes on, or the next group issues; its slot's tick comes first. -/
def State.issueNext (s : State) : Option Action :=
  match s.pick with
  | none => none
  | some (q, i, g) =>
    let start := s.nextPos (1536 * (q / 1536))
    if s.pos < start then some (.quiet { s with pos := start })
    else some (({ s with pos := q } : State).groupTurn i g)

/-! The end of a turn -/

/-- Blocks of deterministic grids whose groups have all finished get their END flush at the next turn (12 R265). -/
def State.noteFinished (s : State) (m : Nat) : State :=
  { s with blocks := s.blocks.map (fun b =>
      (b.1, if b.2.endAt.isNone && !b.2.endDone && b.2.loaded && s.blockGone b.1 && (s.grid b.2.grid).desc.det then { b.2 with endAt := some m } else b.2)) }

/-- The counters of one window of 1,024 pattern frames begin anew (18 R416). -/
def State.newWindow (s : State) (m : Nat) : State :=
  if 16 * m % (1024 * 65536) = 0 then { s with cores := s.cores.map (fun c => (c.1, { c.2 with ceWin := 0, sigFaults := 0 })) } else s

/-- The next turn begins. -/
def State.advance (s : State) : State :=
  let m := s.turn + 1
  let s := (s.refreshProg.noteFinished m).newWindow m
  { s with turn := m, pos := 0, bdry := false, groups := s.groups.map (fun g => (g.1, g.2.stand m)) }

def State.endTurn (s : State) : Action :=
  ((s.silent (s.pos < 12288) (fun s => { s with pos := s.nextPos 12288 }))
  <|> firstSome (fun b => s.fire (s.going (s.grid b.2.grid).pid && s.releaseDue b.1 b.2) (.blockRelease b.1)) s.blocks
  <|> firstSome (fun r => s.fire (s.going r.2.pid && s.retireDue r.1 r.2) (.collectiveRetire r.1)) s.grids).getD (.quiet s.advance)

/-- WHAT COMES NEXT. -/
def nextAction (s : State) : Action :=
  match s.issue with
  | some x => s.actWord x
  | none =>
    (s.dueInput <|> s.dueHap
    <|> (if s.dev.power && s.dev.fwok then
      firstSome s.duePart (List.range 8)
      <|> s.duePattern
      <|> s.dueSem
      <|> firstSome (fun x => s.dueStream (x.1 / 64) (x.1 % 64)) s.streams
      <|> firstSome s.dueSched (List.range 8)
      <|> s.dueLate
      <|> s.dueRemote
      <|> s.dueLand
      <|> s.dueMatrix
      <|> s.dueCopies
      <|> s.dueColl
      <|> s.dueBanks
      <|> s.dueBars
      <|> s.dueFlush
      <|> s.dueTraps
      <|> s.issueNext
    else none)).getD s.endTurn

/-- The bytes of the word at a group's PC, as the fetch delivers them (02 R39). -/
def State.fetchedWord (s : State) (i : Nat) (pc : BitVec 20) : IWord := s.wordAt (s.group i) pc.toNat

/-! A word placed where the next issue fetches it -/

/-- The lines of a core that hold one word in slot 0 of line 0 and the fill word elsewhere (02 R39, R40). -/
def oneWordLine (w : IWord) : Line :=
  let slots := w :: List.replicate 4 (BitVec.allOnes 96)
  { slots := slots, lw := lineWord slots 0 0 }

/-- The role in which a word of this opcode may issue (01 R24). -/
def roleFor (opc : Nat) : Role := if 0x90 ≤ opc && opc ≤ 0x9F then .matrix else .general

/-- A privileged grid of one block of one group in the TEST partition 0, started, its one block loaded and its one
group at its first turn with nothing else pending: the bench in which a placed word is the next to issue
(assumption 17). -/
def State.bench (s : State) (role : Role) (l : Line) : State :=
  let d : Desc := { dver := 2, nlines := 1, nregs := 256, bscr := 4096, spill := 65536, dscr := 4096, ngbar := 1 }
  let r : Grid := { priv := true, desc := d, residentAt := some 0, phase := .started, start := s.turn, nextUnit := 1 }
  let b : Block := { disp := s.turn, loadAt := s.turn, loaded := true, groups := [0] }
  let g : Group := { role := role, nregs := 256, readyAt := s.turn, slot := some 0, slotFrom := s.turn
                     lanes := List.replicate 64 { v := List.replicate 256 0 }
                     live2 := BitVec.allOnes 64, stood := BitVec.allOnes 64 }
  { s with
    pos := 0, bdry := true, issue := none, groups := [(0, g)], blocks := [(0, b)], grids := [(0, r)]
    cores := [(0, { lines := [(0, l)], used := [0] })]
    parts := { st := .running, test := true } :: List.replicate 7 {}
    streams := [], bankQ := [], remotes := [], semq := [], inputs := []
    dev := { s.dev with power := true, fwok := true, play := 0xFFFFFFF0 }, pat := {} }

/-- The word of an issue in progress replaced; with no issue in progress, the bench with the word in its first slot. -/
def State.placeWord (s : State) (w : IWord) : State :=
  match s.issue with
  | some x => { s with issue := some { x with word := w } }
  | none => s.bench (roleFor (w.extractLsb' 88 8).toNat) (oneWordLine w)

end Sys2Proof.Machine
end

