-- ==== Sys2Proof/Machine/Step.lean ====
section
/-! DEFINITION. One step: the next move of the machine, by the meaning of its row. After the meaning of a word the lanes
of its issue move past it, and the second word of a pair or the end of the issue follows (13 R271, 02 R45). -/

namespace Sys2Proof.Machine

open Host (Outcome)

/-- What follows a word's meaning. -/
def afterWord (o : Outcome State Fault Refusal) : Outcome State Fault Refusal :=
  match o with
  | .next t => .next t.finishWord
  | .fault r => .fault r
  | .refused r => .refused r

/-- ONE STEP. -/
def step (s : State) : Outcome State Fault Refusal :=
  match nextAction s with
  | .event i t => exec i t
  | .word i t => afterWord (exec i t)
  | .quiet t => .next t

/-- The state with a word where the next issue fetches it; bits above `nbits` are 0 (assumption 17). -/
def State.withFetchWord (s : State) (nbits w : Nat) : State := s.placeWord (BitVec.ofNat 96 (w % 2 ^ Nat.min nbits 96))

end Sys2Proof.Machine
end

