-- ==== Sys2Proof/Safety.lean ====
section
/-! DEFINITION. The terms in which claims about the model are stated: when a word is accepted, what an accepted word
leaves when its effect is one register result, and the memories' canonical form. -/

namespace Sys2Proof.Machine

open Host (Outcome)

/-- The word `i` is the one in progress in `s`, in the issue `x` of group `g`: it passes the decode checks of 02 R62
that depend on the group (role, kernel limits, privilege, the engine's full mask), and the scoreboard check of 02 R55
and R57 parks no lane of it. -/
structure Accepts (i : Instr) (s : State) (x : Issue) (g : Group) : Prop where
  issue : s.issue = some x
  group : tget s.groups x.gid = some g
  pass : s.rejects i g x.iset x.lineBad = none
  early : s.undersized i g x.iset (predSel g x.iset i) = 0

/-- What the accepted word sees. -/
def ctxOf (i : Instr) (s : State) (x : Issue) (g : Group) : Ctx := wordCtx s x g (predSel g x.iset i)

/-- The state after an accepted word whose whole effect is a register result: the result joins the group's results that
have not landed, the word takes its place in program order, its STALL and STOP fields enter the issue, and everything
else stays: all memories, all lanes with their registers, and every other group. -/
def State.resultOf (s : State) (i : Instr) (x : Issue) (g : Group) (lat : Nat) (d : Opnd) (res : List LRes) : State :=
  { s with
    groups := tset s.groups x.gid { g with
      seq := g.seq + 1
      pend := g.pend ++ [{ due := s.turn + lat, seq := g.seq + 1, dst := d, res := res, pc := x.pc }] }
    issue := some (x.ran i) }

/-- Whenever the word is accepted, it completes: `exec` answers the next state in which each selected lane has a result
of `n` registers on its way to `d`, with the value and the flags that `f` gives, to land `lat` turns after the issue,
and in which nothing else has changed. -/
def Yields (i : Instr) (lat : Nat) (d : Opnd) (n : Nat) (f : State → Ctx → Nat → Nat × BitVec 8) : Prop :=
  ∀ s x g, Accepts i s x g →
    exec i s = .next (s.resultOf i x g lat d ((ctxOf i s x g).each n (f s (ctxOf i s x g))))

/-- `Yields` for a word that raises no flag. -/
def Gives (i : Instr) (lat : Nat) (d : Opnd) (n : Nat) (f : State → Ctx → Nat → Nat) : Prop :=
  Yields i lat d n (fun s c l => (f s c l, 0))

/-- The instruction has the opcode `opc`, and of all types it accepts those of `ts` (02 R46, R59, R62). -/
def Takes (i : Instr) (opc : Nat) (t : Ty) (ts : List Ty) : Prop := i.opc = opc ∧ (i.subWf = true ↔ t ∈ ts)

/-- A source read as a signed or an unsigned integer of the type's width (05 R100: "A and B read as T"). -/
def asInt (t : Ty) (x : DWord) : Int :=
  if t.isSigned then (x.setWidth t.bits).toInt else ((x.setWidth t.bits).toNat : Int)

/-- The least and the greatest integer of a type (04 R77). -/
def leastOf (t : Ty) : Int := if t.isSigned then -2 ^ (t.bits - 1) else 0
def greatestOf (t : Ty) : Int := if t.isSigned then 2 ^ (t.bits - 1) - 1 else 2 ^ t.bits - 1

/-- An integer modulo 2^w, as the bits of a result. -/
def modBits (w : Nat) (v : Int) : Nat := (v % 2 ^ w).toNat

/-- The rational value of a number; 0 for a NaN or an infinity. -/
def ratOf : FV → ℚ
  | .num s m e => (if s then -1 else 1) * m * (2 : ℚ) ^ e
  | _ => 0

/-- The strict order of values that are no NaN: −infinity below every number, every number below +infinity, and the two
zeros equal. -/
def valueBelow (u v : FV) : Bool :=
  match u, v with
  | .inf a, .inf b => a && !b
  | .inf a, _ => a
  | _, .inf b => !b
  | u, v => decide (ratOf u < ratOf v)

/-- NV, and DZ. -/
def flagNV (b : Bool) : BitVec 8 := if b then 0x10 else 0

/-- A result computed once for each element of a float type: for both halves of a packed type, with the union of the
flags, else once (06 R125). `el x` is the element's bits of a source `x`. -/
def perElement (t : Ty) (f : (Nat → Nat) → Nat × BitVec 8) : Nat × BitVec 8 :=
  if t = .f16x2 ∨ t = .bf16x2 then
    let lo := f (fun x => x % 2 ^ 16)
    let hi := f (fun x => x / 2 ^ 16 % 2 ^ 16)
    (lo.1 + 2 ^ 16 * hi.1, lo.2 ||| hi.2)
  else f (fun x => x % 2 ^ t.bits)

/-- The eight float layouts of 04 R78. -/
def floatFmts : List Fmt := [.f64, .f32, .f16, .bf16, .e4m3, .e5m2, .e3m2, .e2m1]

/-- `round` of 04 R87 before the overflow test, for a magnitude a > 0: the two neighbours of the spacing and the one that
the mode picks. `neg` is the sign of x. -/
def pickOf {K : Type} [Field K] [LinearOrder K] [IsStrictOrderedRing K] [FloorRing K] (f : Fmt) (mode : RMode) (neg : Bool) (a : K) : K :=
  let e : Int := max (Int.log 2 a) f.emin
  let q : K := (2 : K) ^ (e - f.m)
  let n : Int := ⌊a / q⌋
  let lo : K := n * q
  let hi : K := lo + q
  if a = lo then lo
  else match mode with
    | .mode .rn => if a - lo < hi - a then lo else if hi - a < a - lo then hi else if n % 2 = 0 then lo else hi
    | .mode .rz => lo
    | .mode .ru => if neg then lo else hi
    | .mode .rd => if neg then hi else lo
    | .sr rnd => if (rnd : Int) < ⌊(a - lo) / q * 2 ^ 32⌋ then hi else lo

/-- `r` is `round` of the value with the magnitude a > 0 and the sign `neg`, with the flags of its result (04 R87, R88): the
overflow value with OF and NX when the pick is above the greatest finite magnitude; else it decodes to the pick, with NX when
the pick is not a and UF when it also lies below the least normal magnitude. -/
def CorrectlyRounds {K : Type} [Field K] [LinearOrder K] [IsStrictOrderedRing K] [FloorRing K] (f : Fmt) (mode : RMode) (neg : Bool)
    (a : K) (r : FRes) : Prop :=
  let pick := pickOf f mode neg a
  if (f.maxMant : K) * (2 : K) ^ (f.emax - f.m) < pick then r = (f.ovf neg mode false, 0x05#8)
  else
    (∃ m' e', f.decode r.1 = .num neg m' e' ∧ (m' : K) * (2 : K) ^ e' = pick) ∧
    r.2 = (if pick = a then 0x00#8 else if pick < (2 : K) ^ f.emin then 0x03#8 else 0x01#8)

/-- The encodings of 04 R81 for each float type: +infinity and the canonical NaN of those that have them, and +max finite. -/
def floatEnds : List (Fmt × Option Nat × Option Nat × Nat) :=
  [(.f64, some 0x7FF0000000000000, some 0x7FF8000000000000, 0x7FEFFFFFFFFFFFFF), (.f32, some 0x7F800000, some 0x7FC00000, 0x7F7FFFFF),
   (.f16, some 0x7C00, some 0x7E00, 0x7BFF), (.bf16, some 0x7F80, some 0x7FC0, 0x7F7F), (.e4m3, none, some 0x7F, 0x7E),
   (.e5m2, some 0x7C, some 0x7E, 0x7B), (.e3m2, none, none, 0x1F), (.e2m1, none, none, 0x7)]

/-- `r` is the value x converted to the float type of `row`, with its flags (04 R87, R88, R92, R93). A NaN is canonical, with NV when
it signals, and +0 with NV where the type has none. With `.sat` an infinity and any value past maxf is ±maxf, with OF and NX for a finite one; else
an infinity stays one, or takes ovf. A zero keeps its sign, a pick past maxf takes ovf with OF and NX, and any other value is `round`'s. -/
def Converts (row : Fmt × Option Nat × Option Nat × Nat) (sat : Bool) (mode : RMode) (x : FV) (r : FRes) : Prop :=
  let (f, inf, nan, big) := row
  let signed := fun (neg : Bool) (b : Nat) => (if neg then 2 ^ (f.width - 1) else 0) + b
  let maxf : ℚ := (f.maxMant : ℚ) * (2 : ℚ) ^ (f.emax - f.m)
  match x with
  | .nan sig => r = match nan with
    | some n => (n, flagNV sig)
    | none => (0, 0x10#8)
  | .inf neg => r = if sat then (signed neg big, 0x00#8) else match inf, nan with
    | some i, _ => (signed neg i, 0x00#8)
    | none, some n => (n, 0x00#8)
    | none, none => (signed neg big, 0x00#8)
  | .num neg m e =>
    let v : ℚ := (m : ℚ) * (2 : ℚ) ^ e
    if m = 0 then r = (signed neg 0, 0x00#8)
    else if sat = true ∧ maxf < v then r = (signed neg big, 0x05#8)
    else if maxf < pickOf f mode neg v then r = match inf, nan with
      | some i, _ => ((match mode with
        | .sr _ | .mode .rn => signed neg i
        | .mode .rz => signed neg big
        | .mode .ru => if neg then signed neg big else i
        | .mode .rd => if neg then signed neg i else big), 0x05#8)
      | none, some n => (n, 0x05#8)
      | none, none => (signed neg big, 0x05#8)
    else CorrectlyRounds f mode neg v r

/-- Both far memories are in canonical form: addresses strictly rising and no 0 listed. -/
def State.memOk (s : State) : Prop := Memory.wf s.hbm.cells = true ∧ Memory.wf s.host.cells = true

/-- The scratch memories of these grids, blocks and groups are in canonical form. -/
def ScratchCanonical (grids : Tbl Grid) (blocks : Tbl Block) (groups : Tbl Group) : Prop :=
  (∀ r ∈ grids, Memory.wf r.2.scr0.cells = true ∧ Memory.wf r.2.scr1.cells = true) ∧
  (∀ b ∈ blocks, Memory.wf b.2.scr.cells = true) ∧ ∀ g ∈ groups, Memory.wf g.2.spill.cells = true

/-- Every scratch memory is in canonical form, in the machine and in what saved contexts hold. -/
def State.scratchOk (s : State) : Prop :=
  ScratchCanonical s.grids s.blocks s.groups ∧ ∀ m ∈ s.images, ScratchCanonical m.grids m.blocks m.groups

/-- A magnitude a ≥ 0 rounded to an integer by a mode (04 R86, R87). `neg` is the sign of the value. -/
def intPick (mode : Rm) (neg : Bool) (a : ℚ) : ℤ :=
  match mode with
  | .rn => if a - ⌊a⌋ < 1 / 2 then ⌊a⌋ else if 1 / 2 < a - ⌊a⌋ then ⌊a⌋ + 1 else if ⌊a⌋ % 2 = 0 then ⌊a⌋ else ⌊a⌋ + 1
  | .rz => ⌊a⌋
  | .ru => if neg then ⌊a⌋ else ⌈a⌉
  | .rd => if neg then ⌈a⌉ else ⌊a⌋

/-- The integer of a window: 512 bits, two's complement (06 R139). -/
def windowInt (ws : List Word) : Int := (BitVec.ofNat 512 (ofWords ws)).toInt

/-! Words that do more than write a register -/

/-- The state in which the accepted word's own effect begins: it has its place in program order, its STALL and STOP
fields are in the issue, and held reservations that it ends are gone. -/
def State.entered (s : State) (i : Instr) (x : Issue) (g : Group) : State := s.began i x g (predSel g x.iset i)

/-- The group as the word's own effect begins. -/
def enteredGroup (i : Instr) (x : Issue) (g : Group) : Group := g.noteWord i (predSel g x.iset i)

/-- Nothing outside the group and its issue has changed. -/
def OnlyGroup (gid : Nat) (s t : State) : Prop :=
  t = { s with groups := t.groups, issue := t.issue } ∧ ∀ j, j ≠ gid → tget t.groups j = tget s.groups j

/-- A lane parked at `pc` by the trap `r` (17 R385). -/
def Lane.parkedAt (l : Lane) (pc : BitVec 20) (r : TrapRec) : Lane :=
  { l with trec := some { r with w := l.w }, pc := pc, w := 0, wait := none, resv := none }

/-- A lane that waits, from tick `since` on (01 R20). -/
def Lane.waitsFor (l : Lane) (c : Cond) (since : Nat) : Lane := { l with wait := some { cond := c, since := since }, w := 0 }

/-- The word completes. It changes in its group only lanes, lane `l` becoming `f l` of what it was, and puts the results
`res` on their way; the lanes of `moved` have taken a transfer of control, which is backward when its target's key is not
above the word's own (13 R271, R273). Nothing outside the group and its issue changes. -/
def ChangesLanes (i : Instr) (s : State) (x : Issue) (g : Group) (moved : Nat → Bool) (res : List Landing)
    (f : Nat → Lane → Lane) : Prop :=
  ∃ t h q, exec i s = .next t ∧ OnlyGroup x.gid s t ∧ tget t.groups x.gid = some h ∧ t.issue = some q ∧
    h = { enteredGroup i x g with lanes := h.lanes, pend := g.pend ++ res } ∧ h.lanes.length = 64 ∧
    q = { x.ran i with moved := q.moved, backward := q.backward } ∧
    ∀ l, l < 64 → h.lane l = f l ((enteredGroup i x g).lane l) ∧ q.moved.getLsbD l = (x.moved.getLsbD l || moved l) ∧
      (q.backward = true ↔ x.backward = true ∨ ∃ l, l < 64 ∧ moved l = true ∧
        (h.lane l).key ≤ ({ (enteredGroup i x g).lane l with pc := x.pc } : Lane).key)

/-- The word's whole effect is that every lane it selects parks, lane `l` with the record `r l`, at the word's PC, each
with the word in its record. A lane that is not live, or parked already, stays. -/
def ParksAll (i : Instr) (s : State) (x : Issue) (g : Group) (r : Nat → TrapRec) : Prop :=
  ChangesLanes i s x g (fun _ => false) [] (fun l a =>
    if l ∈ (ctxOf i s x g).lanes ∧ a.isLive = true ∧ a.trec = none then a.parkedAt x.pc { r l with word := x.word } else a)

/-- A transfer of control (13 R271, R281): of the selected lanes that act, those whose transfer is `ok` take it, lane `l`
becoming `f l` of what it was, and the others park at the word's PC with the record `r l`. (In a running handler a parked
lane is quenched instead, 17 R391: the statement about parking covers it.) -/
def Transfers (i : Instr) (s : State) (x : Issue) (g : Group) (acts ok : Nat → Bool) (res : List Landing) (f : Nat → Lane → Lane)
    (r : Nat → TrapRec) : Prop :=
  let sel := fun l => (ctxOf i s x g).sel.getLsbD l && acts l
  Accepts i s x g → g.lanes.length = 64 → (g.hphase = .idle ∨ ∀ l, sel l = true → ok l = true) →
    ChangesLanes i s x g (fun l => sel l && ok l) res (fun l e =>
      if sel l && ok l then f l e
      else if sel l && e.isLive && e.trec.isNone then e.parkedAt x.pc { r l with word := x.word } else e)

/-- valid(x) of 13 R281 for a group: x lies in its kernel's image, at the start of a slot, and the TGT bit of that slot is set in the line
word of the copy that the group's core holds (02 R40). -/
def IsTarget (s : State) (g : Group) (x : Nat) : Prop :=
  let r := s.grid g.grid
  let core := s.core g.core
  r.base ≤ x ∧ x < r.base + 64 * r.desc.nlines ∧ (x - r.base) % 64 ∈ [0, 12, 24, 36, 48] ∧
  ((tget core.lines (x / 64)).getD (if core.zeroed then zeroLine else fillLine)).lw.getLsbD ((x - r.base) % 64 / 12) = true

/-- `p` is the first of a list of which `bad` holds. -/
def FirstOf {α : Type} (l : List α) (bad : α → Prop) (p : α) : Prop :=
  ∃ pre post, l = pre ++ p :: post ∧ bad p ∧ ∀ y ∈ pre, ¬ bad y

/-- The word's whole effect is that the lanes it selects and `p` holds of wait for the condition `c l` from the word's tick
on (01 R20). -/
def WaitsAll (i : Instr) (s : State) (x : Issue) (g : Group) (p : Nat → Bool) (c : Nat → Cond) : Prop :=
  ChangesLanes i s x g (fun _ => false) [] (fun l a =>
    if (ctxOf i s x g).sel.getLsbD l && p l then a.waitsFor (c l) (ctxOf i s x g).tick else a)

/-- A register result whose value comes later: `n` registers of each selected lane, due at turn `due`. -/
def reservedRes (i : Instr) (s : State) (x : Issue) (g : Group) (due : Nat) (d : Opnd) (n : Nat) (kind : RKindL) : Landing :=
  { due := due, seq := g.seq + 1, dst := d, pc := x.pc, kind := kind
    res := (ctxOf i s x g).lanes.map (fun l => { lane := l, ws := List.replicate n 0 }) }

/-- The word joins the queue of its core's matrix engine as a command of this kind that has not started, and `res` are
the results it reserves or gives at once; no other core changes. -/
def JoinsEngine (i : Instr) (s : State) (x : Issue) (g : Group) (kind : EKind) (d : Opnd) (res : List Landing) : Prop :=
  ∃ t c h, exec i s = .next t ∧ (t.core g.core).eq = (s.core g.core).eq ++ [c] ∧
    c.kind = kind ∧ c.gid = x.gid ∧ c.issue = s.turn ∧ c.start = none ∧ c.sel = (ctxOf i s x g).sel ∧ c.dst = d ∧ c.seq = g.seq + 1 ∧
    tget t.groups x.gid = some h ∧ h.pend = g.pend ++ res ∧ h.lanes = (enteredGroup i x g).lanes ∧ t.issue = some (x.ran i) ∧
    t.hbm = s.hbm ∧ t.bankQ = s.bankQ ∧ ∀ k, k ≠ g.core → t.core k = s.core k

/-- The source registers of all 64 lanes as the matrix engine captures them: those of a quenched lane read 0 (07 R150). -/
def captured (g : Group) (n : Nat) (o : Opnd) : List (List Word) :=
  g.lanes.map (fun l => match o with
    | .v r => if l.life = .quenched then List.replicate n 0 else (List.range n).map (fun j => l.v.getD (r.toNat + j) 0)
    | _ => List.replicate n 0)

/-- The offset that an address names in its space (09 R183, R184). -/
def State.offsetOf (s : State) (g : Group) (die : Bool) (a : Word) (n : Nat) : Nat := ((s.locate g die a.toNat n).map (·.2)).getD 0

/-- Every check of 09 R193 passes for a scratch word with the addresses `adr`, in the space `sp`. -/
structure ScratchOk (k : Ctx) (q : AccShape) (adr : Nat → Word) (sp : Space) (s : State) : Prop where
  some : k.sel ≠ 0
  place : ∀ l ∈ k.lanes, ∃ o, s.locate k.g q.die (adr l).toNat q.n = .some (sp, o)
  own : q.die = true → q.writes = true → ∀ l ∈ k.lanes,
    (s.grid k.g.grid).mayWrite (s.block k.g.block).blockId true 0 (s.offsetOf k.g q.die (adr l) q.n) q.n = true
  aligned : ∀ l ∈ k.lanes, s.offsetOf k.g q.die (adr l) q.n % q.n = 0
  near : q.die = true → q.spread = true → ∀ l ∈ k.lanes, adr l >>> 8 = adr k.low >>> 8
  free : ∀ l ∈ k.lanes, s.busy sp (s.offsetOf k.g q.die (adr l) q.n) q.n q.writes = false
  stack : ∀ w ∈ q.words, s.busy sp w 4 q.writes = false
  within : q.beyond = none
  owned : q.foreign = none
  order : orderOk k.g q (s.turn + bankDelay k.g sp) = true

/-- The state after a scratch word whose access waits for its bank turn: the access joins the queue of the banks, the
horizons of 09 R202 take it in, and its result is reserved. -/
def State.accessOf (s : State) (i : Instr) (x : Issue) (g : Group) (q : AccShape) (sp : Space) (op : AccOp) (lanes : List ALane)
    (dst : Opnd) (res : List Landing) : State :=
  let bank := s.turn + bankDelay g sp
  { s with
    bankQ := s.bankQ ++ [{ bank := bank, tick := 16 * s.turn + 2 * g.slot.getD 0, core := g.core, quarter := g.quarter, gid := x.gid
                           space := sp, op := op, lanes := lanes, dst := dst, land := 2 * bank - s.turn, seq := g.seq + 1, pc := x.pc }]
    groups := tset s.groups x.gid ({ enteredGroup i x g with pend := g.pend ++ res }.horizon q bank s.turn)
    issue := some (x.ran i) }

/-- The group after a word that ends held reservations, with its place in program order and one more result. -/
def withRes (i : Instr) (s : State) (x : Issue) (g : Group) (lat : Nat) (d : Opnd) (n v : Nat) : Group :=
  { enteredGroup i x g with pend := g.pend ++
      [{ due := s.turn + lat, seq := g.seq + 1, dst := d, pc := x.pc
         res := (ctxOf i s x g).lanes.map (fun l => { lane := l, ws := toWords n v }) }] }

/-- The word joins a class queue of its core's copy engines as a command of this kind, which is a member of the open batch,
and D gets that batch's number (10 R210, R214, R222). -/
def JoinsCopies (i : Instr) (s : State) (x : Issue) (g : Group) (cl : CClass) (kind : CKind) (units : Nat) (cls : Bool) (d : Opnd) : Prop :=
  ∃ t c h, exec i s = .next t ∧ (t.core g.core).queue cl = (s.core g.core).queue cl ++ [c] ∧
    (∀ q, q ≠ cl → (t.core g.core).queue q = (s.core g.core).queue q) ∧ (∀ k, k ≠ g.core → t.core k = s.core k) ∧
    c.kind = kind ∧ c.units = units ∧ c.gid = x.gid ∧ c.issue = s.turn ∧ c.start = none ∧ c.done = 0 ∧ c.skip = 0 ∧
    (∀ q ∈ c.src, q.2 = s.ram q.1) ∧
    tget t.groups x.gid = some h ∧ h.members.map (·.ident) = g.members.map (·.ident) ++ [c.ident] ∧
    h.last = (if cls then g.last + 1 else g.last) ∧ h.pend = (withRes i s x g 1 d 1 (g.last + 1).toNat).pend ∧
    t.hbm = s.hbm ∧ t.host = s.host ∧ t.bankQ = s.bankQ

/-- A stretch of scratch that a copy may use: within the allocation, its bytes free, and owned where the copy writes die
scratch in deterministic mode (10 R213, R219, 12 R263). -/
def State.copyPlace (s : State) (g : Group) (die : Bool) (a n : Nat) (wr : Bool) (sp : Space) (o : Nat) : Prop :=
  s.locate g die a n = some (sp, o) ∧ s.busy sp o n wr = false ∧
  (die = true → wr = true → (s.grid g.grid).mayWrite (s.block g.block).blockId true 0 o n = true)

/-- A far stretch that a copy may use: within the range, granted, and owned where it is written in deterministic mode
(10 R213, 12 R263, 16 R360). -/
def State.copyFar (s : State) (g : Group) (e : Extent) (rng a n : Nat) (wr : Bool) : Prop :=
  (if wr then e.canWrite else e.canRead) = true ∧ a + n ≤ e.size ∧
  (wr = true → (s.grid g.grid).mayWrite (s.block g.block).blockId false rng a n = true)

/-- A register write that takes effect at a later turn joins the partition's pending writes (16 R374). -/
def State.deferOf (s : State) (i : Instr) (x : Issue) (g : Group) (due : Nat) (w : PWrite) : State :=
  { s with
    parts := lmod s.parts g.pid (fun p => { p with pend := p.pend ++
      [{ due := due, tick := 16 * s.turn + 2 * g.slot.getD 0, core := g.core, quarter := g.quarter, write := w }] })
    groups := tset s.groups x.gid (enteredGroup i x g), issue := some (x.ran i) }

/-- What no instruction word changes: the memories, the lanes' registers, latch and flags, the accumulator words, and the
partition's registers but for what joins its pending writes, its faults and its counts of mantle and correctable events. -/
structure KeepsStorage (s t : State) : Prop where
  hbm : t.hbm = s.hbm
  host : t.host = s.host
  ram : ∀ sp, t.ram sp = s.ram sp
  regs : ∀ g l, ((t.group g).lane l).v = ((s.group g).lane l).v ∧ ((t.group g).lane l).o = ((s.group g).lane l).o ∧
    ((t.group g).lane l).lat = ((s.group g).lane l).lat
  flags : ∀ g l, (t.group g).te = (s.group g).te ∧ (t.group g).fl = (s.group g).fl ∧
    ((t.group g).lane l).qread = ((s.group g).lane l).qread ∧ ((t.group g).lane l).hexh = ((s.group g).lane l).hexh ∧
    ((t.group g).lane l).wovf = ((s.group g).lane l).wovf
  tiles : ∀ k n, (t.tile k n).words = (s.tile k n).words
  parts : ∀ p, t.part p = { s.part p with pend := (t.part p).pend, faults := (t.part p).faults, scmant := (t.part p).scmant, scce := (t.part p).scce }

/-- The object that holds a scratch space exists; a grid has a share on two dies. -/
def State.hasSpace (s : State) : Space → Prop
  | .blk b => (tget s.blocks b).isSome
  | .die g d => (tget s.grids g).isSome ∧ d < 2
  | .spill g => (tget s.groups g).isSome

/-- Where byte `j` of a lane's store or load lies in the memory of its space (09 R184, R195). -/
def byteAdr (sp : Space) (l : ALane) (j : Nat) : Nat :=
  match sp with
  | .spill _ => spillAdr l.lane (l.adr + j)
  | _ => l.adr + j

/-- The words of a lane's access are those of its width; on the spill stack they are whole aligned words. -/
def widthOk (sp : Space) (l : ALane) (n : Nat) : Prop :=
  l.b.length = (n + 3) / 4 ∧ l.lane < 64 ∧ match sp with
    | .spill _ => n % 4 = 0 ∧ l.adr % 4 = 0
    | _ => True

/-- The value of the `n` bytes of a lane's access as they stand, and whether one of them lies in a poisoned granule. -/
def State.laneValue (s : State) (sp : Space) (l : ALane) (n : Nat) : Nat :=
  leNat ((List.range n).map (fun j => memRd (s.ram sp).cells (byteAdr sp l j)))
def State.lanePoisoned (s : State) (sp : Space) (l : ALane) (n : Nat) : Bool :=
  (List.range n).any (fun j => (s.ram sp).poison.contains (byteAdr sp l j / 64))

/-- The result that an access reserved has these values. -/
def GivesRes (x : Access) (s t : State) (res : List LRes) : Prop :=
  (t.group x.gid).pend = (s.group x.gid).pend.map (fun p => if p.seq = x.seq then { p with res := res } else p)

/-- Of the memory `m`, `m'` differs in the places `ws` alone, each an address, a length and the value that stands there. -/
def MemIs (m m' : Mem) (ws : List (Nat × Nat × Nat)) : Prop :=
  (∀ q ∈ ws, leNat (memRead m' q.1 q.2.1) = q.2.2) ∧ ∀ a, (∀ q ∈ ws, a < q.1 ∨ q.1 + q.2.1 ≤ a) → memRd m' a = memRd m a

/-! The heap descriptor at `a` (09 R205): its words LIMIT, BUMP, STK, LIVE, FAILS and DROPS by their places, DEPTH and TOP(c) -/

def heapWord (m : Mem) (a i : Nat) : Nat := leNat (memRead m (a + 4 * i) 4)
def heapDepth (m : Mem) (a : Nat) : Nat := heapWord m a 3 % 2 ^ 16
def heapTop (m : Mem) (a c : Nat) : Nat := leNat (memRead m (a + 0x10 + 2 * c) 2)

/-- The place of entry `e` of the stack of class `c`. -/
def heapEntry (m : Mem) (a c e : Nat) : Nat := heapWord m a 2 % 2 ^ 28 + 4 * (heapDepth m a * c + e)

/-- A descriptor that breaks a constraint of its table. -/
def HeapCorrupt (m : Mem) (a : Nat) : Prop :=
  heapWord m a 0 % 64 ≠ 0 ∨ heapWord m a 1 % 64 ≠ 0 ∨ heapWord m a 0 < heapWord m a 1 ∨ heapWord m a 2 % 64 ≠ 0 ∨
    2 ^ 16 ≤ heapWord m a 3 ∨ heapWord m a 15 ≠ 0 ∨ ∃ c, c < 16 ∧ heapDepth m a < heapTop m a c

/-- The class of a request of `n` bytes. -/
def HeapClass (n c : Nat) : Prop := n ≤ 64 * 2 ^ c ∧ ∀ d, d < c → 64 * 2 ^ d < n

/-- The highest STK and beyond: bit 28 names a die, for a group of a two-die gang alone (09 R183; assumption 26). -/
def State.stackEnd (s : State) (g : Group) : Nat := if s.gangDies g then 2 ^ 29 else 2 ^ 28

/-- The free stacks lie in the allocation and beside the descriptor. -/
def HeapFits (s : State) (g : Group) (sp : Space) (a : Nat) : Prop :=
  let m := (s.ram sp).cells
  let b := heapWord m a 2 % 2 ^ 28
  heapWord m a 2 < s.stackEnd g ∧ b + 64 * heapDepth m a ≤ s.spaceSize sp ∧ (a + 64 ≤ b ∨ b + 64 * heapDepth m a ≤ a)

/-- The lanes of a trap's entry, and the place of their frames (17 R386, R388). -/
def frameWord (g : Group) (l j : Nat) : Word := spillWord g.spill.cells l (4 * j)

/-! Matrix products and their checksums -/

/-- `w` is the f32 value of the exact sum of products (04 R94): NaN for a NaN, zero times infinity or opposite infinities, else an
infinite product's infinity, else the sum rounded by `rm`, +0 for an exact zero. -/
def ChunkSum (rm : Rm) (ps : List (FV × FV)) (w : Nat) : Prop :=
  let bad := ps.any (fun p => p.1.isNan || p.2.isNan || (p.1.isZero && p.2.isInf) || (p.1.isInf && p.2.isZero))
  let inf := fun (neg : Bool) => ps.any (fun p => (p.1.isInf || p.2.isInf) && ((p.1.sign != p.2.sign) == neg))
  let v : ℚ := (ps.map (fun p => ratOf p.1 * ratOf p.2)).sum
  if bad || (inf true && inf false) then w = Fmt.f32.nanBits
  else if inf true then w = Fmt.f32.infBits true
  else if inf false then w = Fmt.f32.infBits false
  else if v = 0 then w = 0
  else ∃ fl, CorrectlyRounds Fmt.f32 (.mode rm) (v < 0) |v| (w, fl)

/-- The f32 sum of two f32 values (06 R125, R126). -/
def plusF (rm : Rm) (a b : Nat) : Nat := (Fmt.f32.sum rm [] [Fmt.f32.decode a, Fmt.f32.decode b]).1

/-- A word after the products of one chunk: the rounded sum with the chunk's value, or the s32 sum (04 R94, R95, 08 R167). -/
def Accumulates (int : Bool) (ps : List (FV × FV)) (w w' : Word) : Prop :=
  if int then w' = w + BitVec.ofInt 32 ⌊(ps.map (fun p => ratOf p.1 * ratOf p.2)).sum⌋
  else ∃ n, ChunkSum .rn ps n ∧ w' = BitVec.ofNat 32 (plusF .rn w.toNat n)

/-- The values paired with 1, so that a sum of them is a sum of products. -/
def alone (vs : List FV) : List (FV × FV) := vs.map (fun v => (v, .num false 1 0))

/-- The total of a column of inputs: exact for s8, else rounded to f32 (08 R167). -/
def Totals (int : Bool) (vs : List FV) (v : FV) : Prop :=
  if int then v.isNan = false ∧ v.isInf = false ∧ ratOf v = (vs.map ratOf).sum else ∃ n, ChunkSum .rn (alone vs) n ∧ v = Fmt.f32.decode n

/-- `m` is the largest of the sums of magnitudes, each rounded up; a NaN among them stands (08 R167, R168: rounding keeps the order). -/
def LargestSum (lines : List (List (FV × FV))) (m : Nat) : Prop :=
  ∃ ms : List Nat, List.Forall₂ (fun l n => ChunkSum .ru (l.map (fun p => (p.1.abs, p.2.abs))) n) lines ms ∧
    if Fmt.f32.nanBits ∈ ms then m = Fmt.f32.nanBits else m ∈ ms ∧ ∀ n ∈ ms, n ≤ m

/-- Element k of a list of inputs. -/
def inputAt (l : List FV) (k : Nat) : FV := l.getD k (.num false 0 0)

/-- One chunk of products accumulated into a sheet and its mantle (04 R94, R95, 08 R167): `rows` are the chunk's part of the rows of A
from row r0 on, `cols` that of the columns of B from column c0 on. -/
def ChunkStep (r0 c0 : Nat) (rows cols : List (List FV)) (x y : Sheet) : Prop :=
  let ks := List.range (rows.headD []).length
  y.n = x.n ∧ y.int = x.int ∧ y.words.length = x.words.length ∧ y.hem.length = x.hem.length ∧ y.cuff.length = x.cuff.length ∧
  (∀ i j, i < x.n → j < x.n →
    let w := x.words.getD (x.n * i + j) 0
    let w' := y.words.getD (x.n * i + j) 0
    if r0 ≤ i ∧ i < r0 + rows.length ∧ c0 ≤ j ∧ j < c0 + cols.length then
      Accumulates x.int (ks.map (fun k => (inputAt (rows.getD (i - r0) []) k, inputAt (cols.getD (j - c0) []) k))) w w' else w' = w) ∧
  (∃ α β : Nat → FV, (∀ k ∈ ks, Totals x.int (rows.map (fun r => inputAt r k)) (α k) ∧ Totals x.int (cols.map (fun c => inputAt c k)) (β k)) ∧
    (∀ j, j < x.n → if c0 ≤ j ∧ j < c0 + cols.length then
      Accumulates x.int (ks.map (fun k => (α k, inputAt (cols.getD (j - c0) []) k))) (x.hem.getD j 0) (y.hem.getD j 0) else y.hem.getD j 0 = x.hem.getD j 0) ∧
    ∀ i, i < x.n → if r0 ≤ i ∧ i < r0 + rows.length then
      Accumulates x.int (ks.map (fun k => (inputAt (rows.getD (i - r0) []) k, β k))) (x.cuff.getD i 0) (y.cuff.getD i 0) else y.cuff.getD i 0 = x.cuff.getD i 0) ∧
  (x.int = true → y.mag = x.mag) ∧
  (x.int = false → ∃ m, LargestSum (cols.map (fun c => rows.flatMap (fun r => ks.map (fun k => (inputAt r k, inputAt c k)))) ++
      rows.map (fun r => cols.flatMap (fun c => ks.map (fun k => (inputAt r k, inputAt c k))))) m ∧ y.mag = BitVec.ofNat 32 (plusF .ru x.mag.toNat m))

/-- A product of depth `depth`, chunk by chunk of 16 in ascending K. -/
def Chunks (r0 c0 : Nat) (rows cols : List (List FV)) (depth : Nat) (x y : Sheet) : Prop :=
  ∃ z : Nat → Sheet, z 0 = x ∧ z ((depth + 15) / 16) = y ∧ ∀ c, c < (depth + 15) / 16 →
    ChunkStep r0 c0 (rows.map (fun r => (r.drop (16 * c)).take 16)) (cols.map (fun r => (r.drop (16 * c)).take 16)) (z c) (z (c + 1))

/-- The mantle seeded from the words under a kind (08 R168). -/
def Seeds (int : Bool) (x y : Sheet) : Prop :=
  let val := fun (w : Word) => if int then .num w.msb w.toInt.natAbs 0 else Fmt.f32.decode w.toNat
  let line := fun (f : Nat → Nat) => (List.range x.n).map (fun i => val (x.words.getD (f i) 0))
  let sums := fun (l : List FV) (w : Word) =>
    if int then w = BitVec.ofInt 32 ⌊(l.map ratOf).sum⌋ else ∃ n, ChunkSum .rn (alone l) n ∧ w = BitVec.ofNat 32 n
  let row := fun i => line (fun j => x.n * i + j)
  let col := fun j => line (fun i => x.n * i + j)
  y.n = x.n ∧ y.int = int ∧ y.words = x.words ∧ y.hem.length = x.n ∧ y.cuff.length = x.n ∧
  (∀ j, j < x.n → sums (col j) (y.hem.getD j 0)) ∧ (∀ i, i < x.n → sums (row i) (y.cuff.getD i 0)) ∧
  (int = false → ∃ m, LargestSum (((List.range x.n).map row ++ (List.range x.n).map col).map alone) m ∧ y.mag = BitVec.ofNat 32 m)

/-- The outcome of a drain (08 R169, R170, R174), with the tolerance register `tol`. -/
def DrainOf (x : Sheet) (tol : Word) (poison : Bool) (d : Drain) : Prop :=
  let num := fun (w : Word) => if x.int then (w.toInt : ℚ) else ratOf (Fmt.f32.decode w.toNat)
  let el := fun i j => num (x.words.getD (x.n * i + j) 0)
  let dc := fun j => ((List.range x.n).map (fun i => el i j)).sum - num (x.hem.getD j 0)
  let dr := fun i => ((List.range x.n).map (fun j => el i j)).sum - num (x.cuff.getD i 0)
  let abse := tol.toNat % 256
  let relb := tol.toNat / 256 % 64
  let floor : ℚ := if abse = 0 then 0 else (2 : ℚ) ^ ((abse : Int) - 127)
  let bound := max floor ((2 : ℚ) ^ (-(relb : Int)) * |ratOf (Fmt.f32.decode x.mag.toNat)|)
  let fails := fun (v : ℚ) => if x.int then ⌊v⌋ % 2 ^ 32 != 0 else abse != 255 && decide (bound < |v|)
  let fc := (List.range x.n).filter (fun j => fails (dc j))
  let fr := (List.range x.n).filter (fun i => fails (dr i))
  let wild := (x.mag :: x.words ++ x.hem ++ x.cuff).any (fun w => (Fmt.f32.decode w.toNat).isNan || (Fmt.f32.decode w.toNat).isInf)
  if poison then d.stat = 3 ∧ d.ncol = 0 ∧ d.nrow = 0
  else if !x.int && wild then d.stat = 4 ∧ d.ncol = 0 ∧ d.nrow = 0
  else d.ncol = fc.length ∧ d.nrow = fr.length ∧
    match fc, fr with
    | [], [] => d.stat = 0
    | [c], [r] => d.stat = 1 ∧ d.col = c ∧ d.row = r ∧ (d.dm : ℚ) * (2 : ℚ) ^ d.de = dc c
    | _, _ => d.stat = 2

/-- The tile has been drained: it keeps its words and its mantle, and holds the outcome. -/
def Drained (tol : Word) (x y : Tile) : Prop :=
  ∃ d, DrainOf x.sheet tol x.poison d ∧ y = { x with st := .drained, stat := d.stat, ncol := d.ncol, nrow := d.nrow, row := d.row, col := d.col, dm := d.dm, de := d.de }

/-- `mfix` (08 R176): a LOCATED element loses DELTA, rounded once, and the tile is drained again, CORRECTED when every line passes; a tile
with any other STAT stays. -/
def Corrected (tol : Word) (x y : Tile) : Prop :=
  let idx := 64 * x.row + x.col
  let w := x.words.getD idx 0
  (x.stat ≠ 1 → y = x) ∧
  (x.stat = 1 → ∃ (w' : Word) (z : Tile), Drained tol { x with words := x.words.set idx w' } z ∧
    y = { z with stat := if z.stat = 0 then 7 else z.stat } ∧
    (x.int = true → w' = w - BitVec.ofInt 32 x.dm) ∧
    (x.int = false → ∀ neg m e, Fmt.f32.decode w.toNat = .num neg m e →
      let v : ℚ := ratOf (.num neg m e) - (x.dm : ℚ) * (2 : ℚ) ^ x.de
      if v = 0 then (Fmt.f32.decode w'.toNat).isZero = true else ∃ fl, CorrectlyRounds Fmt.f32 (.mode .rn) (v < 0) |v| (w'.toNat, fl)))

/-! The inputs of matrix products (07 R151–R155, R159) -/

def matrixTys : List Ty := [.bf16, .f16, .e4m3, .e5m2, .s8, .e3m2, .e2m1]
def depthOf (t : Ty) : Nat := if t ∈ [.bf16, .f16] then 16 else if t ∈ [.e3m2, .e2m1] then 64 else 32
def boxOf (t : Ty) : Nat := if t ∈ [.bf16, .f16] then 16 else if t = .e2m1 then 4 else 8

/-- An input value from its bits (04 R79). -/
def inputOf (t : Ty) (bits : Nat) : FV :=
  if t = .s8 then .num ((BitVec.ofNat 8 bits).toInt < 0) (BitVec.ofNat 8 bits).toInt.natAbs 0 else t.fmt.decode bits

/-- Element κ of a lane's registers, in containers (07 R151, R152). -/
def boxedAt (t : Ty) (regs : List Word) (κ : Nat) : FV :=
  let p := 32 / boxOf t
  inputOf t ((regs.getD (κ / p) 0).toNat / 2 ^ (boxOf t * (κ % p)) % 2 ^ boxOf t)

/-- Row or column `i` of an `mma` source; the scale of its block b is byte `lo` + b of SCR (07 R152, R153). -/
def mmaInputs (t : Ty) (m64 : Bool) (regs : List (List Word)) (scr : Option (List Word)) (lo i : Nat) : List FV :=
  let half := depthOf t / 2
  let place := fun k => if m64 then (i, k) else (i + 32 * (k / half), k % half)
  (List.range (depthOf t)).map (fun k =>
    let v := boxedAt t (regs.getD (place k).1 []) (place k).2
    match scr with
    | none => v
    | some ws => v.scale (e8m0 ((ws.getD (place (32 * (k / 32))).1 0).toNat / 2 ^ (8 * (lo + k / 32)) % 256)))

/-- Row or column `i` of product `p` of an `mmab`; its scale is a byte of word `which` of the lane's pair (07 R155). -/
def mmabInputs (t : Ty) (regs : List (List Word)) (scr : Option (List (List Word))) (which p i : Nat) : List FV :=
  let lane := 4 * p + i / 4
  (List.range (depthOf t)).map (fun k =>
    let v := boxedAt t (((regs.getD lane []).drop (8 * (i % 4))).take 8) k
    match scr with
    | none => v
    | some ws => v.scale (e8m0 (((ws.getD lane []).getD which 0).toNat / 2 ^ (8 * (i % 4)) % 256)))

/-- Row or column `i` of a K-step's data, packed, with its scale bytes behind the rows (07 R159). -/
def stepInputs (t : Ty) (sc : Bool) (bs : List Byte) (i : Nat) : List FV :=
  let rb := if t = .e3m2 then 48 else 32
  (List.range (depthOf t)).map (fun k =>
    let v := inputOf t (leNat ((bs.drop (rb * i)).take rb) / 2 ^ (t.bits * k) % 2 ^ t.bits)
    if sc then v.scale (e8m0 (bs.getD (64 * rb + depthOf t / 32 * i + k / 32) 0).toNat) else v)

/-- The tile has all its words, and its kind is that of the type. -/
def Tile.fits (x : Tile) (t : Ty) : Prop := x.words.length = 4096 ∧ x.hem.length = 64 ∧ x.cuff.length = 64 ∧ x.int = (t == .s8)

/-! Events -/

/-- The event has its effect: it answers a next state, of which `P` holds. -/
def Goes (i : Instr) (s : State) (P : State → Prop) : Prop := ∃ t, exec i s = .next t ∧ P t

/-- A lane parked by a trap that has not been taken (17 R386). -/
def Group.untaken (g : Group) (l : Nat) : Prop := (g.lane l).life = .live ∧ (g.lane l).trec.isSome ∧ (g.lane l).hand = .out

/-- The entries of core `k` issued before this turn leave its reduction buffer in ascending order of their keys, 64 to a bank
turn, the first at the sixth turn from now or after the last turn already given (12 R264–R266). -/
def Flushes (k : Nat) (s t : State) : Prop :=
  let c := s.core k
  let b0 := max (s.turn + 6) ((c.rlast.map (· + 1)).getD 0)
  ∃ es, es.Perm (c.rbuf.filter (fun e => e.tick < 16 * s.turn)) ∧ es.Pairwise (fun a b => a.key ≤ b.key) ∧
    (t.core k).rbuf = c.rbuf.filter (fun e => !(e.tick < 16 * s.turn)) ∧
    (t.core k).rflush = c.rflush ++ es.zipIdx.map (fun q => (b0 + q.2 / 64, q.1)) ∧
    (es ≠ [] → (t.core k).rlast = some (b0 + (es.length - 1) / 64)) ∧ ∀ j, j ≠ k → t.core j = s.core j

/-- The result that the group's word number `seq` reserved has its values and its turn. -/
def Resolves (gid seq due : Nat) (res : List LRes) (s t : State) : Prop :=
  (t.group gid).pend = (s.group gid).pend.map (fun p => if p.seq = seq then { p with res := res, due := due } else p)

/-- The result of an engine command, the same words for each lane it was issued for. -/
def ECmd.give (c : ECmd) (ws : List Word) : List LRes := (lanesOf c.sel).map (fun l => { lane := l, ws := ws })

/-- Lane `l` of the group after a condition that `p` holds of was met at tick `n` (01 R20). -/
def metLane (p : Cond → Bool) (n : Nat) (l : Lane) : Lane :=
  match l.wait with
  | some { cond := c, since := a, met := none } => if p c then { l with wait := some { cond := c, since := a, met := some n } } else l
  | _ => l

/-- A group's member with an identifier has completed (10 R215). -/
def Completes (gid ident : Nat) (s t : State) : Prop :=
  (t.group gid).members = (s.group gid).members.map (fun m => if m.ident = ident then { m with done := true } else m)

/-- A record goes to the event ring of a stream (14 R316, R318, 16 R354): into the slot at EWR, its TIME the tick of the write, or, where
the ring is full or none of it is mapped, behind the stream's held records. -/
def RecordGoes (p i : Nat) (bs : List Byte) (s t : State) : Prop :=
  let x := s.stream p i
  let y := t.stream p i
  (x.held = [] → x.full = false → y.ewr = x.ewr + 1 ∧ y.held = [] ∧
    ∀ q ofs, ofs = 64 * (x.ewr.toNat % max x.esize.toNat 1) → x.esegs.find? (fun q => q.ofs ≤ ofs && ofs < q.ofs + q.len) = some q → s.memOk →
      memRead (if q.host then t.host else t.hbm).cells (q.phys + (ofs - q.ofs)) 64 = bs.take 8 ++ toBytes 8 s.now ++ bs.drop 16) ∧
  (x.full = true → y.ewr = x.ewr ∧ ∃ u, y.held = x.held ++ [(bs, u)])

/-- The next control slot of a port that no message has taken (15 R323): slot 0 of a superslot, or another that the pattern makes a control
slot, and no slot 0 before it is left. -/
def NextControl (s : State) (q : Place) : Prop :=
  s.now ≤ q.tick ∧ q ∉ s.pat.ctl ∧
  (q.slot % 120 = 0 ∨ ∃ x ∈ s.slots, x.out = true ∧ x.port = q.port ∧ x.index = q.slot ∧ slotKind x = .control) ∧
  ∀ k, s.now ≤ 64 * k → 64 * k < q.tick → ∃ p ∈ s.pat.ctl, p.port = q.port ∧ p.tick = 64 * k

/-- This device detects a schedule fault at a tick (15 R334, R335, R337): CAUSE, PFTICK and PFDEV are set, a procedure begins for the
frame of detection, in quiet frames and in frame J for that of receipt, partitions with planned work take the context fault, and
the announcement goes out. -/
def DetectsAt (cause tick : Nat) (s t : State) : Prop :=
  t.pat.cause = cause ∧ t.pat.pftick = tick ∧ t.pat.pfdev = BitVec.ofNat 32 s.selfDev ∧
  t.pat.fault = (if t.pat.st = 3 then none
    else some (if s.pat.st = 2 ∨ s.pat.rejoined = some (s.now / 65536) then s.now / 65536 else tick / 65536)) ∧
  (∃ ps : List Place, ps.map Place.port = List.range 12 ∧ (∀ q ∈ ps, NextControl s q) ∧
    t.out = s.out ++ ps.map (fun q => .announce q s.pframe s.selfDev cause tick)) ∧
  ∀ p, p < 8 → (t.part p).faults = (s.part p).faults ++ (if s.runsPlanned p then [{ bit := 1, tick := s.now }] else [])

/-- This device detects a schedule fault now. -/
def Detects (cause : Nat) (s t : State) : Prop := DetectsAt cause s.now s t

/-- A schedule fault at a tick begins a procedure of its own: a pattern runs, and no fault of that tick's frame or a later one has
been noted. -/
def State.watchesAt (s : State) (tick : Nat) : Prop :=
  s.pat.cur.isSome ∧ (∀ f, s.pat.fault = some f → f < tick / 65536) ∧ s.parts.length = 8
def State.watches (s : State) : Prop := s.watchesAt s.now

end Sys2Proof.Machine
end

