-- ==== Sys2Proof/Certificates/Slice0/Obligations.lean ====
section
/-! DEFINITION. The statements for the provers. In a statement about a word, `k` is what the word sees of its issue, `l` a
lane of `sel`, and `k.src s n l o` the `n` registers that operand `o` names in lane `l` as the group stands at the issue. -/

open Sys2Proof Sys2Proof.Machine
open Host (Outcome)

/-- 05 R100, R102 and R103: sums and differences, saturated with `.sat` and else modulo 2^w; the smaller, the larger and the
magnitude. Each is in D after 1 turn. -/
def Obligations.SumsAndExtremes : Prop :=
  (∀ (c : Ctl) (t : Ty) (sat : Bool) (d a b : Opnd) (imm : Word),
     let w := 32 * t.regs
     let ints : List Ty := [.s32, .n32, .s64, .n64]
     let fin := fun (x : Int) => modBits w (if sat then max (leastOf t) (min (greatestOf t) x) else x)
     Takes (.add c t sat d a b) 0x10 t ints ∧ Takes (.sub c t sat d a b) 0x11 t ints ∧
     Takes (.addImm c t sat d a imm) 0x30 t ints ∧ Takes (.subImm c t sat d a imm) 0x31 t ints ∧
     Gives (.add c t sat d a b) 1 d t.regs (fun s k l => fin (asInt t (k.src s t.regs l a) + asInt t (k.src s t.regs l b))) ∧
     Gives (.sub c t sat d a b) 1 d t.regs (fun s k l => fin (asInt t (k.src s t.regs l a) - asInt t (k.src s t.regs l b))) ∧
     Gives (.addImm c t sat d a imm) 1 d t.regs (fun s k l => fin (asInt t (k.src s t.regs l a) + (if t.isSigned then imm.toInt else (imm.toNat : Int)))) ∧
     Gives (.subImm c t sat d a imm) 1 d t.regs (fun s k l => fin (asInt t (k.src s t.regs l a) - (if t.isSigned then imm.toInt else (imm.toNat : Int))))) ∧
  (∀ (c : Ctl) (t : Ty) (sat : Bool) (d a b : Opnd),
     let w := 32 * t.regs
     let ints : List Ty := [.s32, .n32, .s64, .n64]
     Takes (.min c t d a b) 0x15 t ints ∧ Takes (.max c t d a b) 0x16 t ints ∧ Takes (.abs c t sat d a) 0x17 t [.s32, .s64] ∧
     Gives (.min c t d a b) 1 d t.regs (fun s k l => modBits w (min (asInt t (k.src s t.regs l a)) (asInt t (k.src s t.regs l b)))) ∧
     Gives (.max c t d a b) 1 d t.regs (fun s k l => modBits w (max (asInt t (k.src s t.regs l a)) (asInt t (k.src s t.regs l b)))) ∧
     Gives (.abs c t sat d a) 1 d t.regs (fun s k l =>
       modBits w (if sat then min (greatestOf t) |asInt t (k.src s t.regs l a)| else |asInt t (k.src s t.regs l a)|)))

/-- 05 R101 and R103: the low half, the high half, and the 32- and 64-bit multiply-add, the product exact before the
reduction. -/
def Obligations.MultiplyResults : Prop :=
  ∀ (c : Ctl) (t : Ty) (d a b cc : Opnd) (imm : Word),
    let half : Ty := if t.isSigned then .s32 else .n32
    Takes (.mulLo c t d a b) 0x12 t [.s32, .n32] ∧ Takes (.mulHi c t d a b) 0x13 t [.s32, .n32] ∧
    Takes (.mad c t d a b cc) 0x14 t [.s32, .n32, .s64, .n64] ∧ Takes (.mulLoImm c t d a imm) 0x32 t [.s32, .n32] ∧
    Gives (.mulLo c t d a b) 1 d 1 (fun s k l => modBits 32 (asInt t (k.src s 1 l a) * asInt t (k.src s 1 l b))) ∧
    Gives (.mulLoImm c t d a imm) 1 d 1 (fun s k l => modBits 32 (asInt t (k.src s 1 l a) * imm.toInt)) ∧
    Gives (.mulHi c t d a b) 1 d 1 (fun s k l => modBits 32 (asInt t (k.src s 1 l a) * asInt t (k.src s 1 l b) / 2 ^ 32)) ∧
    Gives (.mad c t d a b cc) 1 d t.regs (fun s k l =>
      modBits (32 * t.regs) (asInt half (k.src s 1 l a) * asInt half (k.src s 1 l b) + asInt t (k.src s t.regs l cc)))

/-- 05 R103–R105: bit i of D is the operation on bit i of A and B; a shift by w or more gives 0, or the sign, and a rotation goes
left. -/
def LogicAndShiftResults : Prop :=
  (∀ (c : Ctl) (t : Ty) (d a b : Opnd) (imm : Word),
     let cut := fun (x : DWord) => (x.setWidth (32 * t.regs)).toNat
     let bits : List Ty := [.b32, .b64]
     Takes (.and c t d a b) 0x18 t bits ∧ Takes (.or c t d a b) 0x19 t bits ∧ Takes (.xor c t d a b) 0x1A t bits ∧
     Takes (.andn c t d a b) 0x1B t bits ∧ Takes (.not c t d a) 0x1C t bits ∧
     Takes (.andImm c t d a imm) 0x33 t bits ∧ Takes (.orImm c t d a imm) 0x34 t bits ∧ Takes (.xorImm c t d a imm) 0x35 t bits ∧
     Gives (.and c t d a b) 1 d t.regs (fun s k l => cut (k.src s t.regs l a &&& k.src s t.regs l b)) ∧
     Gives (.or c t d a b) 1 d t.regs (fun s k l => cut (k.src s t.regs l a ||| k.src s t.regs l b)) ∧
     Gives (.xor c t d a b) 1 d t.regs (fun s k l => cut (k.src s t.regs l a ^^^ k.src s t.regs l b)) ∧
     Gives (.andImm c t d a imm) 1 d t.regs (fun s k l => cut (k.src s t.regs l a &&& imm.setWidth 64)) ∧
     Gives (.orImm c t d a imm) 1 d t.regs (fun s k l => cut (k.src s t.regs l a ||| imm.setWidth 64)) ∧
     Gives (.xorImm c t d a imm) 1 d t.regs (fun s k l => cut (k.src s t.regs l a ^^^ imm.setWidth 64)) ∧
     Gives (.andn c t d a b) 1 d t.regs (fun s k l => cut (k.src s t.regs l a &&& ~~~(k.src s t.regs l b))) ∧
     Gives (.not c t d a) 1 d t.regs (fun s k l => cut (~~~(k.src s t.regs l a)))) ∧
  (∀ (c : Ctl) (t : Ty) (d a b : Opnd),
     let w := 32 * t.regs
     Takes (.shl c t d a b) 0x1D t [.b32, .b64] ∧ Takes (.shr c t d a b) 0x1E t [.b32, .b64] ∧
     Takes (.sar c t d a b) 0x1F t [.s32, .s64] ∧ Takes (.rot c t d a b) 0x20 t [.b32, .b64] ∧
     Gives (.shl c t d a b) 1 d t.regs (fun s k l => ((k.src s t.regs l a).setWidth w <<< (k.src32 s l b).toNat).toNat) ∧
     Gives (.shr c t d a b) 1 d t.regs (fun s k l => ((k.src s t.regs l a).setWidth w >>> (k.src32 s l b).toNat).toNat) ∧
     Gives (.sar c t d a b) 1 d t.regs (fun s k l => (((k.src s t.regs l a).setWidth w).sshiftRight (k.src32 s l b).toNat).toNat) ∧
     Gives (.rot c t d a b) 1 d t.regs (fun s k l => (((k.src s t.regs l a).setWidth w).rotateLeft (k.src32 s l b).toNat).toNat))

/-- 05 R106–R108: a field of `len` bits at `pos`, extracted, or inserted bit by bit; the number of 1 bits, of 0 bits above the
highest 1 and below the lowest 1, and the bits reversed. -/
def BitResults : Prop :=
  (∀ (c : Ctl) (t : Ty) (d a b cc : Opnd),
     Takes (.bfe c t d a b cc) 0x21 t [.s32, .n32] ∧ (Instr.bfi c d a b cc).opc = 0x22 ∧
     Gives (.bfe c t d a b cc) 1 d 1 (fun s k l =>
       let pos := min (k.src32 s l b).toNat 32
       let len := min (k.src32 s l cc).toNat (32 - pos)
       let f := (k.src32 s l a).extractLsb' pos len
       modBits 32 (if t = .s32 then f.toInt else f.toNat)) ∧
     Gives (.bfi c d a b cc) 1 d 1 (fun s k l =>
       let w := k.src32 s l cc
       let pos := min (w.toNat % 256) 32
       let len := min (w.toNat / 256 % 256) (32 - pos)
       (BitVec.ofFnLE (fun (i : Fin 32) => if pos ≤ i.val ∧ i.val < pos + len then (k.src32 s l b).getLsbD (i.val - pos)
         else (k.src32 s l a).getLsbD i.val)).toNat)) ∧
  (∀ (c : Ctl) (t : Ty) (d a : Opnd),
     let w := 32 * t.regs
     Takes (.popc c t d a) 0x23 t [.b32, .b64] ∧ Takes (.clz c t d a) 0x24 t [.b32, .b64] ∧
     Takes (.ctz c t d a) 0x25 t [.b32, .b64] ∧ Takes (.brev c t d a) 0x26 t [.b32, .b64] ∧
     Gives (.popc c t d a) 1 d 1 (fun s k l => ((List.range w).filter (fun i => (k.src s t.regs l a).getLsbD i)).length) ∧
     Gives (.clz c t d a) 1 d 1 (fun s k l =>
       ((List.range w).filter (fun i => (List.range w).all (fun j => j < i || !(k.src s t.regs l a).getLsbD j))).length) ∧
     Gives (.ctz c t d a) 1 d 1 (fun s k l =>
       ((List.range w).filter (fun i => (List.range w).all (fun j => i < j || !(k.src s t.regs l a).getLsbD j))).length) ∧
     Gives (.brev c t d a) 1 d t.regs (fun s k l => ((k.src s t.regs l a).setWidth w).reverse.toNat))

/-- 05 R103–R108: the bitwise results. Both parts hold. -/
def Obligations.BitwiseResults : Prop := LogicAndShiftResults ∧ BitResults

/-- 05 R109–R111 and R103: compare, select and move. -/
def SelectMove : Prop :=
  ∀ (c : Ctl) (t : Ty) (rel : Rel) (d a b cc : Opnd) (imm : Word),
    Takes (.sel c t d a b cc) 0x27 t [.b32, .b64] ∧ Takes (.mov c t d a) 0x2C t [.b32, .b64] ∧
    Takes (.movImm c t d imm) 0x36 t [.b32, .b64] ∧
    ((Instr.cmp c t rel d a b).opc = 0x28 ∧ ((Instr.cmp c t rel d a b).subWf = true → t ∈ [.s32, .n32, .s64, .n64, .b32, .b64])) ∧
    Gives (.cmp c t rel d a b) 1 d 1 (fun s k l =>
      let u := asInt t (k.src s t.regs l a)
      let v := asInt t (k.src s t.regs l b)
      if (match rel with
          | .eq => decide (u = v)
          | .ne => decide (u ≠ v)
          | .lt => decide (u < v)
          | .le => decide (u ≤ v)
          | .gt => decide (u > v)
          | .ge => decide (u ≥ v)
          | .num | .nan => false) then 1 else 0) ∧
    Gives (.sel c t d a b cc) 1 d t.regs (fun s k l =>
      if (k.src32 s l cc).getLsbD 0 then (k.src s t.regs l a).toNat else (k.src s t.regs l b).toNat) ∧
    Gives (.mov c t d a) 1 d t.regs (fun s k l => (k.src s t.regs l a).toNat) ∧
    Gives (.movImm c t d imm) 1 d t.regs (fun _ _ _ => imm.toNat)

/-- 05 R112–R114: scaled addresses, widening and narrowing. -/
def Obligations.AddressWidthResults : Prop :=
  ∀ (c : Ctl) (t ts : Ty) (sat sx : Bool) (sh : BitVec 4) (d a b : Opnd),
    Takes (.lea c t sh sx d a b) 0x29 t [.n32, .n64] ∧
    Gives (.lea c t sh sx d a b) 1 d t.regs (fun s k l =>
      modBits (32 * t.regs) ((k.src s t.regs l a).toNat + asInt (if sx then .s32 else .n32) (k.src s 1 l b) * 2 ^ sh.toNat)) ∧
    Gives (.ext c t ts d a) 1 d t.regs (fun s k l => modBits (32 * t.regs) (asInt ts (k.src s 1 l a))) ∧
    Gives (.trunc c t ts sat d a) 1 d 1 (fun s k l =>
      modBits 32 (if sat then max (leastOf t) (min (greatestOf t) (asInt ts (k.src s ts.regs l a)))
        else asInt t (k.src s ts.regs l a)))

/-- 05 R115: each special register as `movs` reads it, the flags in the layout of 04 R90 and QLOG in that of 17 R383. -/
def SpecialRegisters : Prop :=
  ∀ (c : Ctl) (r fmt : BitVec 8) (d : Opnd),
    Gives (.movs c r fmt d) 1 d (if r.toNat = 7 ∨ r.toNat = 8 then 2 else 1) (fun s k l =>
      let g := k.g
      let e := g.lane l
      let bit := fun (b : Bool) (n : Nat) => if b then 2 ^ n else 0
      match r.toNat with
      | 0x00 => l
      | 0x01 => g.index
      | 0x02 => (s.block g.block).blockId
      | 0x03 => (s.block g.block).gang
      | 0x04 => g.quarter
      | 0x05 => g.core
      | 0x06 => g.core / 96
      | 0x07 => g.live.toNat
      | 0x08 => 16 * s.turn + 2 * g.slot.getD 0 + l / 32
      | 0x09 => g.te.toNat * 2 ^ 16 + bit e.qread 7 + bit e.hexh 6 + bit e.wovf 5 + g.fl.toNat
      | 0x0A => g.nq % 256 * 2 ^ 24 + g.qcause % 16 * 2 ^ 20 + g.qlane % 64 * 2 ^ 12 + g.nrec % 4096
      | 0x0B => ((s.issue.map Issue.sig0).getD 0).toNat
      | 0x0C => (s.part g.pid).fairlim
      | 0x0D => (((Ty.dec fmt).map (s.part g.pid).tolOf).getD 0).toNat
      | 0x0E => g.prog.toNat
      | _ => 0)

/-- Compare, select and move, and the special registers' values. Both parts hold. -/
def Obligations.SelectMoveResults : Prop := SelectMove ∧ SpecialRegisters

/-- 05 R116 and R117: `shfl`. A source position outside 0 to 63 gives the lane's own value; a quenched source gives 0 and
QREAD; any other source gives its A as it stands, in `sel` or not, retired or not. With SBCHK clear no lane parks. -/
def ShuffleResults : Prop :=
  ∀ (c : Ctl) (mode : ShflMode) (w64 : Bool) (d a b : Opnd) (s : State) (x : Issue) (g : Group),
    let i : Instr := .shfl c mode w64 d a b
    let k := ctxOf i s x g
    let n := if w64 then 2 else 1
    Accepts i s x g → (s.part g.pid).sbchk = false →
      exec i s = .next (s.resultOf i x g 2 d (k.each n (fun l =>
        let v := (k.src32 s l b).toNat
        let j : Int := match mode with
          | .idx => ((v % 64 : Nat) : Int)
          | .up => (l : Int) - v
          | .down => (l : Int) + v
          | .xor => ((l ^^^ v % 64 : Nat) : Int)
        if j < 0 ∨ 63 < j then ((k.src s n l a).toNat, 0)
        else if (g.lane j.toNat).life = .quenched then (0, 0x80#8)
        else ((k.src s n j.toNat a).toNat, 0))))

/-- 05 R118–R122: votes, broadcast, match and prefix sums over the lanes of `sel`, and the mask of a span of lane positions. -/
def VoteAndMaskResults : Prop :=
  (∀ (c : Ctl) (t : Ty) (excl : Bool) (d a : Opnd),
     let setBits := fun (p : Nat → Bool) => (BitVec.ofFnLE (fun (j : Fin 64) => p j.val)).toNat
     Takes (.bcast c t d a) 0x42 t [.b32, .b64] ∧ Takes (.matchAny c t d a) 0x43 t [.b32, .b64] ∧
     Takes (.scanAdd c t excl d a) 0x44 t [.s32, .n32] ∧
     Gives (.vote c .any d a) 2 d 1 (fun s k _ => if ∃ j ∈ k.lanes, (k.src32 s j a).getLsbD 0 = true then 1 else 0) ∧
     Gives (.vote c .all d a) 2 d 1 (fun s k _ => if ∀ j ∈ k.lanes, (k.src32 s j a).getLsbD 0 = true then 1 else 0) ∧
     Gives (.vote c .ballot d a) 2 d 2 (fun s k _ => setBits (fun j => k.sel.getLsbD j && (k.src32 s j a).getLsbD 0)) ∧
     Gives (.bcast c t d a) 2 d t.regs (fun s k _ => (k.src s t.regs (k.lanes.headD 0) a).toNat) ∧
     Gives (.matchAny c t d a) 2 d 2 (fun s k l => setBits (fun j => k.sel.getLsbD j && k.src s t.regs j a == k.src s t.regs l a)) ∧
     Gives (.scanAdd c t excl d a) 2 d 1 (fun s k l =>
       ((k.lanes.filter (fun j => if excl then j < l else j ≤ l)).map (fun j => (k.src32 s j a).toNat)).sum % 2 ^ 32)) ∧
  (∀ (c : Ctl) (d a : Opnd),
     let span := fun (lo hi : Int) => (BitVec.ofFnLE (fun (j : Fin 64) => decide (lo ≤ (j.val : Int) ∧ (j.val : Int) ≤ hi))).toNat
     Gives (.lanemask c false d a) 2 d 2 (fun s k l =>
       let w := k.src32 s l a
       span ((l : Int) + (w.extractLsb' 0 8).toInt) ((l : Int) + (w.extractLsb' 8 8).toInt)) ∧
     Gives (.lanemask c true d a) 2 d 2 (fun s k l =>
       let w := k.src32 s l a
       span ((w.extractLsb' 0 8).toNat : Int) ((w.extractLsb' 8 8).toNat : Int)))

/-- 05 R116–R123: what lanes of a group read of each other. Both parts hold. -/
def Obligations.LanesExchange : Prop := ShuffleResults ∧ VoteAndMaskResults

/-- 04 R87 and R88: `roundTo` is `round`, for every format, mode and nonzero dyadic x = (−1)^neg × m × 2^e. A pick above the
greatest finite magnitude takes the overflow path with OF and NX; any other result decodes to the pick, with NX when the
pick is not |x| and UF when it also lies below the least normal magnitude. -/
def Obligations.RoundIsRoundOfR87 : Prop :=
  ∀ f ∈ floatFmts, ∀ (mode : RMode) (neg : Bool) (m : Nat) (e : Int), 0 < m →
    CorrectlyRounds f mode neg ((m : ℚ) * (2 : ℚ) ^ e) (f.roundTo mode neg m e)

/-- 06 R125 and R126: the value that a sum of products and addends takes, by the cases of R126 in their order; a nonzero
finite sum is exact before it is rounded once. -/
def Obligations.SumOfTerms : Prop :=
  ∀ f ∈ floatFmts, ∀ (rm : Rm) (prods : List (FV × FV)) (adds : List FV),
    let inputs := prods.flatMap (fun p => [p.1, p.2]) ++ adds
    let bad := prods.any (fun p => (p.1.isZero && p.2.isInf) || (p.1.isInf && p.2.isZero))
    let terms := prods.map (fun p => p.1.mul p.2) ++ adds
    let hasPos := FV.inf false ∈ terms
    let hasNeg := FV.inf true ∈ terms
    let x : ℚ := (terms.map ratOf).sum
    let r := f.sum rm prods adds
    (bad = true ∨ inputs.any FV.isNan = true → r = (f.nanBits, flagNV (bad || inputs.any FV.isSnan))) ∧
    (bad = false → inputs.any FV.isNan = false →
      (hasPos ∧ hasNeg → r = (f.nanBits, 0x10#8)) ∧
      (hasPos ∧ ¬ hasNeg → r = (f.infBits false, 0)) ∧
      (¬ hasPos ∧ hasNeg → r = (f.infBits true, 0)) ∧
      (¬ hasPos → ¬ hasNeg → x = 0 → r = (f.zeroBits
        (if terms.all FV.isZero ∧ (terms.all FV.sign ∨ ¬ terms.any FV.sign) then terms.all FV.sign else rm = .rd), 0)) ∧
      (¬ hasPos → ¬ hasNeg → x ≠ 0 → ∃ (m : Nat) (e : Int), (m : ℚ) * (2 : ℚ) ^ (e : Int) = |x| ∧ r = f.roundTo (.mode rm) (decide (x < 0)) m e))

/-- 06 R126: the terms of each rounded form, for each element of a packed type; `fdot2` adds two products and C in f32. -/
def Obligations.FloatArithmeticResults : Prop :=
  ∀ (c : Ctl) (t : Ty) (rm : Rm) (d a b cc : Opnd),
    let v := fun (s : State) (k : Ctx) (l : Nat) (el : Nat → Nat) (o : Opnd) => t.fmt.decode (el (k.fbits s t l o))
    Yields (.fadd c t rm d a b) 2 d t.regs (fun s k l => perElement t (fun el => t.fmt.sum rm [] [v s k l el a, v s k l el b])) ∧
    Yields (.fsub c t rm d a b) 2 d t.regs (fun s k l => perElement t (fun el => t.fmt.sum rm [] [v s k l el a, (v s k l el b).negate])) ∧
    Yields (.fmul c t rm d a b) 2 d t.regs (fun s k l => perElement t (fun el => t.fmt.sum rm [(v s k l el a, v s k l el b)] [])) ∧
    Yields (.ffma c t rm d a b cc) 2 d t.regs (fun s k l =>
      perElement t (fun el => t.fmt.sum rm [(v s k l el a, v s k l el b)] [v s k l el cc])) ∧
    Yields (.fdot2 c t rm d a b cc) 2 d 1 (fun s k l =>
      Fmt.f32.sum rm [(v s k l (fun w => w % 2 ^ 16) a, v s k l (fun w => w % 2 ^ 16) b),
                      (v s k l (fun w => w / 2 ^ 16) a, v s k l (fun w => w / 2 ^ 16) b)] [Fmt.f32.decode (k.fbits s .f32 l cc)])

/-- 06 R127 and R128: the smaller and the larger of two values with −0 below +0, and the comparisons with their NV. -/
def Obligations.FloatCompareResults : Prop :=
  ∀ (c : Ctl) (t : Ty) (nanp : Bool) (rel : Rel) (d a b : Opnd),
    let f := t.fmt
    let pick := fun (larger : Bool) (p q : Nat) =>
      let u := f.decode p
      let v := f.decode q
      let lt := fun (y z : FV) => valueBelow y z || (y.isZero && z.isZero && y.sign && !z.sign)
      (if u.isNan && v.isNan then f.nanBits
       else if u.isNan then (if nanp then f.nanBits else q)
       else if v.isNan then (if nanp then f.nanBits else p)
       else if larger then (if lt u v then q else p) else (if lt v u then q else p), flagNV (u.isSnan || v.isSnan))
    Yields (.fmin c t nanp d a b) 2 d t.regs (fun s k l =>
      perElement t (fun el => pick false (el (k.fbits s t l a)) (el (k.fbits s t l b)))) ∧
    Yields (.fmax c t nanp d a b) 2 d t.regs (fun s k l =>
      perElement t (fun el => pick true (el (k.fbits s t l a)) (el (k.fbits s t l b)))) ∧
    Yields (.fcmp c t rel d a b) 2 d 1 (fun s k l =>
      let u := f.decode (k.fbits s t l a)
      let v := f.decode (k.fbits s t l b)
      let nan := u.isNan || v.isNan
      let holds := match rel with
        | .eq => !nan && !valueBelow u v && !valueBelow v u
        | .ne => nan || valueBelow u v || valueBelow v u
        | .lt => !nan && valueBelow u v
        | .le => !nan && !valueBelow v u
        | .gt => !nan && valueBelow v u
        | .ge => !nan && !valueBelow u v
        | .num => !nan
        | .nan => nan
      (if holds then 1 else 0, flagNV (match rel with
        | .lt | .le | .gt | .ge => nan
        | _ => u.isSnan || v.isSnan)))

/-- 06 R129–R132: the class from the sign, exponent and fraction fields; rounding to an integer, scaling by a power of two, and
decomposition. -/
def Obligations.FloatPartResults : Prop :=
  (∀ (c : Ctl) (t : Ty) (d a : Opnd),
     Gives (.fclass c t d a) 2 d 1 (fun s k l =>
       let f := t.fmt
       let x := k.fbits s t l a % 2 ^ f.width
       let neg := 2 ^ (f.width - 1) ≤ x
       let ex := x / 2 ^ f.m % 2 ^ (f.width - 1 - f.m)
       let fr := x % 2 ^ f.m
       2 ^ (if ex = 2 ^ (f.width - 1 - f.m) - 1 then
              (if fr = 0 then (if neg then 0 else 7) else if fr < 2 ^ (f.m - 1) then 8 else 9)
            else if ex = 0 then
              (if fr = 0 then (if neg then 3 else 4) else if neg then 2 else 5)
            else if neg then 1 else 6))) ∧
  (∀ (c : Ctl) (t : Ty) (rm : Rm) (d a b : Opnd),
     let f := t.fmt
     Yields (.fround c t rm d a) 2 d t.regs (fun s k l => match f.decode (k.fbits s t l a) with
       | .nan sig => (f.nanBits, flagNV sig)
       | .inf s => (f.infBits s, 0)
       | .num s m e => ((f.roundTo (.mode .rn) s (intPick rm s ((m : ℚ) * (2 : ℚ) ^ e)).toNat 0).1, 0)) ∧
     Yields (.fldexp c t rm d a b) 2 d t.regs (fun s k l => match f.decode (k.fbits s t l a) with
       | .nan sig => (f.nanBits, flagNV sig)
       | .inf s => (f.infBits s, 0)
       | .num neg m e => f.roundTo (.mode rm) neg m (e + max (-10000) (min 10000 (k.src32 s l b).toInt))) ∧
     Yields (.ffrexp c t false d a) 2 d t.regs (fun s k l => match f.decode (k.fbits s t l a) with
       | .nan sig => (f.nanBits, flagNV sig)
       | .inf s => (f.infBits s, 0)
       | .num s m e => if m = 0 then (f.zeroBits s, 0) else f.roundTo (.mode .rn) s m (e - ((Nat.log2 m : Int) + e + 1))) ∧
     Yields (.ffrexp c t true d a) 2 d 1 (fun s k l => match f.decode (k.fbits s t l a) with
       | .nan sig => (0, flagNV sig)
       | .inf _ => (0, 0)
       | .num _ m e => (if m = 0 then 0 else modBits 32 ((Nat.log2 m : Int) + e + 1), 0)))

/-- 06 R133: reciprocal, reciprocal root, root, exponential, logarithm, sine and cosine: the special inputs of the table
with the flags it shows, NaN inputs, and for every other input the value that the model rounds to (log entry 10). Of the
reciprocal, the root and the reciprocal root of every other f32 and f64 value, that value is the correctly rounded one, and its
flags are those of 04 R88. -/
def Obligations.FloatFunctionResults : Prop :=
  ∀ (c : Ctl) (t : Ty) (rm : Rm) (d a : Opnd),
    let f := t.fmt
    let special := fun (zero inf : Bool → Nat × BitVec 8) (below : Bool) (other : FV → Nat × BitVec 8) (v : FV) =>
      match v with
      | .nan sig => (f.nanBits, flagNV sig)
      | .inf s => inf s
      | .num s m e => if m = 0 then zero s else if below && s then (f.nanBits, 0x10#8) else other (.num s m e)
    let one := f.roundTo (.mode .rn) false 1 0
    Yields (.frcp c t rm d a) 3 d t.regs (fun s k l =>
      special (fun s => (f.infBits s, 0x08#8)) (fun s => (f.zeroBits s, 0)) false (f.rcp rm) (f.decode (k.fbits s t l a))) ∧
    Yields (.frsq c t rm d a) 3 d t.regs (fun s k l =>
      special (fun s => (f.infBits s, 0x08#8)) (fun s => if s then (f.nanBits, 0x10#8) else (f.zeroBits false, 0)) true (f.rsq rm)
        (f.decode (k.fbits s t l a))) ∧
    Yields (.fsqrt c t rm d a) 3 d t.regs (fun s k l =>
      special (fun s => (f.zeroBits s, 0)) (fun s => if s then (f.nanBits, 0x10#8) else (f.infBits false, 0)) true (f.sqrt rm)
        (f.decode (k.fbits s t l a))) ∧
    Yields (.fexp2 c t d a) 3 d t.regs (fun s k l => let x := k.fbits s t l a
      special (fun _ => one) (fun s => if s then (f.zeroBits false, 0) else (f.infBits false, 0)) false (fun _ => f.exp2 x) (f.decode x)) ∧
    Yields (.flog2 c t d a) 3 d t.regs (fun s k l => let x := k.fbits s t l a
      special (fun _ => (f.infBits true, 0x08#8)) (fun s => if s then (f.nanBits, 0x10#8) else (f.infBits false, 0)) true
        (fun _ => f.log2 x) (f.decode x)) ∧
    Yields (.fsin c t d a) 3 d t.regs (fun s k l => let x := k.fbits s t l a
      special (fun s => (f.zeroBits s, 0)) (fun _ => (f.nanBits, 0x10#8)) false (fun _ => f.trig false x) (f.decode x)) ∧
    Yields (.fcos c t d a) 3 d t.regs (fun s k l => let x := k.fbits s t l a
      special (fun _ => one) (fun _ => (f.nanBits, 0x10#8)) false (fun _ => f.trig true x) (f.decode x)) ∧
    (t = .f32 ∨ t = .f64 → ∀ (x : Nat) (neg : Bool) (m : Nat) (e : Int), f.decode x = .num neg m e → m ≠ 0 →
      let v : ℝ := m * (2 : ℝ) ^ e
      CorrectlyRounds f (.mode rm) neg v⁻¹ (f.rcp rm (.num neg m e)) ∧
      CorrectlyRounds f (.mode rm) false (√v)⁻¹ (f.rsq rm (.num false m e)) ∧
      CorrectlyRounds f (.mode rm) false (√v) (f.sqrt rm (.num false m e)))

/-- 06 R135, R136 and 04 R89, R92, R93: every accepted `cvt`, and every `cvt` with `.sr`, completes with its result: integer, float, scale and bit-copy
conversions. Float to integer clamps the rounded integer, with NX when rounding changed it and NV when it was clamped, infinite or a NaN. A conversion
to a float type gives what R92 and R93 give it: NaNs, infinities, the clamp of `.sat`, and `round` of every other value. `.sr` rounds with the number that R89 makes of
the seed, the group and the lane. (That `.sat` clamps an infinite
source also in a widening conversion and in one from a type to itself is log entry 72.) -/
def Obligations.ConversionResults : Prop :=
  (∀ row ∈ floatEnds, ∀ (sat : Bool) (mode : RMode) (x : FV), Converts row sat mode x (row.1.convert sat mode x)) ∧
  ∀ (c : Ctl) (t ts : Ty) (sat : Bool) (rm : Rm) (d a b : Opnd),
    let floats : List Ty := [.f64, .f32, .f16, .bf16, .e4m3, .e5m2, .e3m2, .e2m1]
    let clamp := fun (v : Int) => max (leastOf t) (min (greatestOf t) v)
    let bits := fun (v : Int) => modBits (32 * t.regs) v
    let src := fun (s : State) (k : Ctx) (l : Nat) => k.srcT s ts ts.regs l a
    let cvt : Instr := .cvt c t ts sat rm d a
    (t.isInt → ts.isInt → Yields cvt 2 d t.regs (fun s k l =>
      let v := asInt ts (src s k l)
      if sat then (bits (clamp v), flagNV (decide (clamp v ≠ v))) else (bits (asInt t (BitVec.ofInt 64 v)), 0))) ∧
    (t.isInt → ts ∈ floats → Yields cvt 2 d t.regs (fun s k l => match ts.fmt.decode (src s k l).toNat with
      | .nan _ => (0, 0x10#8)
      | .inf neg => (bits (if neg then leastOf t else greatestOf t), 0x10#8)
      | .num neg m e =>
        let r : Int := (if neg then -1 else 1) * intPick rm neg (m * (2 : ℚ) ^ e)
        (bits (clamp r), (if intPick rm neg (m * (2 : ℚ) ^ e) = m * (2 : ℚ) ^ e then 0x00#8 else 0x01#8) ||| flagNV (decide (clamp r ≠ r))))) ∧
    (t ∈ floats → ts.isInt → Yields cvt 2 d t.regs (fun s k l =>
      let v := asInt ts (src s k l)
      t.fmt.convert sat (.mode rm) (.num (decide (v < 0)) v.natAbs 0))) ∧
    (t ∈ floats → ts ∈ floats → Yields cvt 2 d t.regs (fun s k l => t.fmt.convert sat (.mode rm) (ts.fmt.decode (src s k l).toNat))) ∧
    (t ∈ floats → ts = .e8m0 → Yields cvt 2 d t.regs (fun s k l =>
      let x := (src s k l).toNat % 256
      if x = 255 then (t.fmt.nanBits, 0) else t.fmt.roundTo (.mode .rn) false 1 ((x : Int) - 127))) ∧
    (t = .b32 ∨ t = .b64 → Gives cvt 2 d t.regs (fun s k l => (src s k l).toNat)) ∧
    Yields (.cvtSr c t ts sat d a b) 2 d 1 (fun s k l =>
      let x0 : Word := k.src32 s l b ^^^ BitVec.ofNat 32 (k.g.index * 2 ^ 12) ^^^ BitVec.ofNat 32 (l * 2 ^ 6)
      let x1 := if x0 = 0 then 1 else x0
      let x2 := x1 ^^^ (x1 <<< 13)
      let x3 := x2 ^^^ (x2 >>> 17)
      let rnd := x3 ^^^ (x3 <<< 5)
      t.fmt.convert sat (.sr rnd.toNat) (ts.fmt.decode (k.fbits s ts l a)))

/-- 06 R137 and R138: packing into scaled blocks of 32 lanes, and unpacking. That every written lane of a block with a NaN or an infinity raises
NV, and none NX, is log entry 33: R137 sets NV for the block. An element is its value divided by the scale, converted with `.sat` (04 R92, R93). -/
def Obligations.BlockScaleResults : Prop :=
  (∀ row ∈ floatEnds, ∀ (x : FV), Converts row true (.mode .rn) x (row.1.convert true (.mode .rn) x)) ∧
  ∀ (c : Ctl) (t : Ty) (d a : Opnd),
    let emax : Int := match t with | .e4m3 => 8 | .e5m2 => 15 | .e3m2 => 4 | _ => 2
    Yields (.bpack c t d a) 2 d 1 (fun s k l =>
      let val := fun j => Fmt.f32.decode (k.fbits s .f32 j a)
      let block := k.lanes.filter (fun j => j / 32 == l / 32)
      if block.any (fun j => (val j).isNan || (val j).isInf) then (0xFF00, 0x10#8)
      else
        let amax : ℚ := (block.map (fun j => |ratOf (val j)|)).foldr max 0
        let sc : Int := if amax = 0 then 127 else min (max (Int.log 2 amax - emax + 127) 0) 254
        match val l with
        | .num neg m e =>
          let r := t.fmt.convert true (.mode .rn) (.num neg m (e - (sc - 127)))
          (sc.toNat * 256 + r.1, r.2 &&& 0x01#8)
        | _ => (0, 0)) ∧
    Yields (.bunpack c t d a) 2 d 1 (fun s k l =>
      let w := (k.src32 s l a).toNat
      let sc := w / 256 % 256
      if sc = 255 then (Fmt.f32.nanBits, 0)
      else match t.fmt.decode w with
        | .num neg m e => Fmt.f32.roundTo (.mode .rn) neg m (e + ((sc : Int) - 127))
        | .inf neg => (Fmt.f32.infBits neg, 0)
        | .nan _ => (Fmt.f32.nanBits, 0))

/-- 06 R139–R142: the window is cleared, its base is chosen, a product or a value is added to it with NV and WOVF, and its
sign and rounded value are read. -/
def Obligations.WideAccumulatorResults : Prop :=
  ∀ (c : Ctl) (neg : Bool) (rm : Rm) (d a b cc : Opnd),
    let add := fun (s : State) (k : Ctx) (l : Nat) (t : Option ℚ) =>
      let w := k.srcWords s 16 l d
      match t with
      | none => (ofWords w, 0x30#8)
      | some t =>
        let u : ℚ := (2 : ℚ) ^ ((k.src32 s l cc).toInt - 256)
        let t := if neg then -t else t
        let n : Int := windowInt w + ⌊t / u⌋
        (modBits 512 n, if (⌊t / u⌋ : ℚ) * u ≠ t ∨ n < -2 ^ 511 ∨ 2 ^ 511 ≤ n then 0x20#8 else 0x00#8)
    let f64 := fun (s : State) (k : Ctx) (l : Nat) (o : Opnd) => Fmt.f64.decode (k.fbits s .f64 l o)
    let finite := fun (v : FV) => !v.isNan && !v.isInf
    Gives (.wclr c d) 1 d 16 (fun _ _ _ => 0) ∧
    Gives (.wbase c d a b) 1 d 1 (fun s k l =>
      if finite (f64 s k l a) then
        let q := |ratOf (f64 s k l a)|
        modBits 32 ((if q = 0 then -1075 else Int.log 2 q) + 1 + min (k.src32 s l b).toNat 255 - 255)
      else 0x7FFFFFFF) ∧
    Yields (.wfma c neg d a b cc) 2 d 16 (fun s k l => add s k l
      (if finite (f64 s k l a) && finite (f64 s k l b) then some (ratOf (f64 s k l a) * ratOf (f64 s k l b)) else none)) ∧
    Yields (.wadd c neg d a cc) 2 d 16 (fun s k l => add s k l (if finite (f64 s k l a) then some (ratOf (f64 s k l a)) else none)) ∧
    Gives (.wsign c d a) 2 d 1 (fun s k l =>
      let n := windowInt (k.srcWords s 16 l a)
      if 0 < n then 1 else if n = 0 then 0 else 0xFFFFFFFF) ∧
    Yields (.wrnd c rm d a cc) 3 d 2 (fun s k l =>
      let n := windowInt (k.srcWords s 16 l a)
      if n = 0 then (0, 0) else Fmt.f64.roundTo (.mode rm) (decide (n < 0)) n.natAbs ((k.src32 s l cc).toInt - 256))

/-- 13 R280, R285–R287 and 18 R403: `nop` and `stopmark` only pass; `yield` sets YLD outside a handler; `exit` retires its
lanes in both copies of the live mask; `sigchk` passes when every selected lane holds the signature, and else raises the
context fault SIGNATURE of the lowest lane that differs. -/
def Obligations.ControlWords : Prop :=
  ∀ (c : Ctl) (imm : Word) (s : State) (x : Issue) (g : Group),
    let passed := fun (i : Instr) (h : Group) => ({ s with groups := tset s.groups x.gid { h with seq := g.seq + 1 }, issue := some (x.ran i) } : State)
    let sel := fun (i : Instr) => (ctxOf i s x g).sel
    (Accepts (.nop c) s x g → exec (.nop c) s = .next (passed (.nop c) g)) ∧
    (Accepts (.stopmark c) s x g → exec (.stopmark c) s = .next (passed (.stopmark c) g)) ∧
    (Accepts (.yield c) s x g → exec (.yield c) s = .next (passed (.yield c)
      { g with yld := g.yld || (sel (.yield c) != 0 && g.hphase == .idle) })) ∧
    (Accepts (.exit c) s x g → exec (.exit c) s = .next (passed (.exit c) { g with
      lanes := mapFrom (fun j l => if (sel (.exit c)).getLsbD j then
        { l with life := .retired, trec := none, wait := none, w := 0, resv := none, hand := .out, late := none } else l) 0 g.lanes
      live2 := g.live2 &&& ~~~(sel (.exit c)), emask := g.emask &&& ~~~(sel (.exit c)) })) ∧
    (Accepts (.sigchk c imm) s x g → (∀ l ∈ (ctxOf (.sigchk c imm) s x g).lanes, (g.lane l).sig = imm) →
      exec (.sigchk c imm) s = .next (passed (.sigchk c imm) g)) ∧
    (Accepts (.sigchk c imm) s x g → ∀ l ∈ (ctxOf (.sigchk c imm) s x g).lanes, (g.lane l).sig ≠ imm →
      (∀ j ∈ (ctxOf (.sigchk c imm) s x g).lanes, j < l → (g.lane j).sig = imm) →
      exec (.sigchk c imm) s = .next { passed (.sigchk c imm) g with
        parts := lmod s.parts g.pid (fun p => { p with faults := p.faults ++ [
          { bit := 4, tick := 16 * s.turn + 2 * g.slot.getD 0, cause := 1, core := g.core, qtr := g.quarter, res := g.res
            fpc := 0#12 ++ x.pc, exp := imm, got := (g.lane l).sig }] }) })

/-- The slot that lies `ofs` slots after the word of a context, as a PC (02 R39, R49). -/
def IsSlotAfter (k : Ctx) (ofs : Int) (t : Nat) : Prop :=
  ∃ n : Nat, (n : Int) = ((5 * ((k.pc.toNat - k.base) / 64) + (k.pc.toNat - k.base) % 64 / 12 : Nat) : Int) + ofs ∧
    t = k.base + 64 * (n / 5) + 12 * (n % 5)

/-- 02 R43, 13 R271, R281, R282 and 17 R385: `bra`, `brz` and `brnz` send the lanes whose condition holds to the slot that SOFS counts
to, or park them with BRANCH_TARGET and that slot's PC in TARG when it is no valid target; the other lanes stay. A branch to below slot 0
parks its lanes too. -/
def Obligations.BranchResults : Prop :=
  ∀ (c : Ctl) (a : Opnd) (sofs : Word) (s : State) (x : Issue) (g : Group) (t : Nat),
    let goes := fun (i : Instr) (cond : Ctx → Nat → Bool) =>
      let k := ctxOf i s x g
      IsSlotAfter k sofs.toInt t → Transfers i s x g (cond k) (fun _ => s.validTarget g t) []
        (fun _ e => { e with pc := BitVec.ofNat 20 t }) (fun _ => { trap := 3, cause := 0, targ := BitVec.ofNat 32 t })
    let below := fun (i : Instr) (cond : Ctx → Nat → Bool) =>
      let k := ctxOf i s x g
      (∀ u, ¬ IsSlotAfter k sofs.toInt u) → ∃ targ, Transfers i s x g (cond k) (fun _ => false) [] (fun _ e => e)
        (fun _ => { trap := 3, cause := 0, targ := targ })
    let zero := fun (k : Ctx) (l : Nat) => k.src32 s l a == 0
    (∀ u, s.validTarget g u = true ↔ IsTarget s g u) ∧
    goes (.bra c sofs) (fun _ _ => true) ∧ goes (.brz c a sofs) zero ∧ goes (.brnz c a sofs) (fun k l => !zero k l) ∧
    below (.bra c sofs) (fun _ _ => true) ∧ below (.brz c a sofs) zero ∧ below (.brnz c a sofs) (fun k l => !zero k l)

/-- 02 R43, 13 R271, R281, R283, R284 and 17 R385: `jmp` and `ret` take their PC from a register, `ret` with one level less of DEPTH;
`ret` at depth 0 parks with CALL_DEPTH, and a target that is not valid with BRANCH_TARGET. -/
def Obligations.JumpResults : Prop :=
  ∀ (c : Ctl) (a : Opnd) (s : State) (x : Issue) (g : Group),
    (∀ u, s.validTarget g u = true ↔ IsTarget s g u) ∧
    (let tgt := (ctxOf (.jmp c a) s x g).src32 s
     Transfers (.jmp c a) s x g (fun _ => true) (fun l => s.validTarget g (tgt l a).toNat) []
      (fun l e => { e with pc := (tgt l a).setWidth 20 }) (fun l => { trap := 3, cause := 0, targ := tgt l a })) ∧
    (let tgt := (ctxOf (.ret c a) s x g).src32 s
     Transfers (.ret c a) s x g (fun _ => true) (fun l => (g.lane l).depth != 0 && s.validTarget g (tgt l a).toNat) []
      (fun l e => { e with pc := (tgt l a).setWidth 20, depth := e.depth - 1 })
      (fun l => if (g.lane l).depth = 0 then { trap := 4, cause := 2 } else { trap := 3, cause := 0, targ := tgt l a }))

/-- 02 R43, 13 R281, R283, R284 and 17 R385: `call` and `jcall` go to a valid target with one level more of DEPTH, and the PC of the next
slot is on its way to D; a call at depth 255 parks with CALL_DEPTH, and one to a target that is not valid with
BRANCH_TARGET, as is a `call` to below slot 0 (the target then in TARG is the model's: log entry 23). -/
def Obligations.CallResults : Prop :=
  ∀ (c : Ctl) (d a : Opnd) (sofs : Word) (s : State) (x : Issue) (g : Group),
    let calls := fun (i : Instr) (tgt : Nat → Nat) =>
      let k := ctxOf i s x g
      let ok := fun l => (g.lane l).depth != 255 && s.validTarget g (tgt l)
      Transfers i s x g (fun _ => true) ok
        [{ due := s.turn + 1, seq := g.seq + 1, dst := d, pc := x.pc
           res := (k.lanes.filter ok).map (fun l => { lane := l, ws := [0#12 ++ succPc k.base x.pc] }) }]
        (fun l e => { e with pc := BitVec.ofNat 20 (tgt l), depth := e.depth + 1 })
        (fun l => if (g.lane l).depth = 255 then { trap := 4, cause := 1 } else { trap := 3, cause := 0, targ := BitVec.ofNat 32 (tgt l) })
    (∀ u, s.validTarget g u = true ↔ IsTarget s g u) ∧
    (∀ t, IsSlotAfter (ctxOf (.call c d sofs) s x g) sofs.toInt t → calls (.call c d sofs) (fun _ => t)) ∧
    ((∀ u, ¬ IsSlotAfter (ctxOf (.call c d sofs) s x g) sofs.toInt u) → ∃ targ,
      Transfers (.call c d sofs) s x g (fun _ => true) (fun _ => false)
        [{ due := s.turn + 1, seq := g.seq + 1, dst := d, pc := x.pc, res := [] }] (fun _ e => e)
        (fun l => if (g.lane l).depth = 255 then { trap := 4, cause := 1 } else { trap := 3, cause := 0, targ := targ })) ∧
    calls (.jcall c d a) (fun l => ((ctxOf (.jcall c d a) s x g).src32 s l a).toNat)

/-- 13 R288, 14 R304, R308, R310, R311, 10 R218 and 17 R385: `waitc` waits for its tick, `bar` and `gbar` for the barrier, `bbar` for
the landing counter unless it has met its target, `bwait` for its batch unless that has completed. `bbar` of an index above
15 parks with ACCESS, cause INDEX, and `bwait` of a batch that is not closed with ACCESS, cause NO_BATCH. -/
def WaitWords : Prop :=
  ∀ (c : Ctl) (a b : Opnd) (imm : Word) (s : State) (x : Issue) (g : Group), g.lanes.length = 64 →
    (let k := ctxOf (.waitc c a) s x g
     Accepts (.waitc c a) s x g → WaitsAll (.waitc c a) s x g (fun l => decide (k.tick < (k.src s 2 l a).toNat))
       (fun l => .tick (k.src s 2 l a).toNat)) ∧
    (Accepts (.bar c) s x g → WaitsAll (.bar c) s x g (fun _ => true) (fun _ => .bar)) ∧
    (Accepts (.gbar c) s x g → WaitsAll (.gbar c) s x g (fun _ => true) (fun _ => .gbar)) ∧
    (let k := ctxOf (.bbar c a b) s x g
     let n := k.low32 s a
     let target := k.low32 s b
     Accepts (.bbar c a b) s x g →
      (n.toNat ≤ 15 → WaitsAll (.bbar c a b) s x g (fun _ => decide (2 ^ 31 ≤ ((s.block g.block).lc.getD n.toNat 0 - target).toNat))
        (fun _ => .bbar n.toNat target)) ∧
      (15 < n.toNat → g.hphase = .idle → ParksAll (.bbar c a b) s x g (fun _ => { trap := 0x0B, cause := 6, targ := n }))) ∧
    (let k := ctxOf (.bwait c a imm) s x g
     let w := fun l => k.src32 s l a + imm
     let ahead := fun l => decide (1 ≤ (w l - g.last).toNat ∧ (w l - g.last).toNat < 2 ^ 31)
     Accepts (.bwait c a imm) s x g → (g.hphase = .idle ∨ ∀ l ∈ k.lanes, ahead l = false) →
      ChangesLanes (.bwait c a imm) s x g (fun _ => false) [] (fun l e =>
        if k.sel.getLsbD l && ahead l then
          (if e.isLive && e.trec.isNone then e.parkedAt x.pc { trap := 0x0B, cause := 5, targ := w l, word := x.word } else e)
        else if k.sel.getLsbD l && decide (2 ^ 31 ≤ (g.compl - w l).toNat) then e.waitsFor (.batch (w l)) k.tick
        else e))

/-- 07 R146–R162, 08 R175–R177: with fewer than four commands outstanding, each matrix word joins its engine with its
captured sources, and its result registers wait for the command. -/
def MatrixWordsJoin : Prop :=
  ∀ (c : Ctl) (t : Ty) (m64 frag : Bool) (tile : BitVec 3) (scr : Option (BitVec 8)) (d a b cc : Opnd) (s : State) (x : Issue) (g : Group),
    let joins := fun (i : Instr) (kind : EKind) (d : Opnd) (res : List Landing) =>
      Accepts i s x g → (ctxOf i s x g).sel ≠ 0 → (s.core g.core).eq.length < 4 → JoinsEngine i s x g kind d res
    let later := fun (i : Instr) (n : Nat) => [reservedRes i s x g (2 ^ 60) d n .mat]
    let n := (if t = .e3m2 then 8 else 4) * (if m64 then 2 else 1)
    let zero := cc == .spec 128
    let one := fun (r : BitVec 8) => (captured g 1 (.v r)).map (fun ws => ws.getD 0 0)
    joins (.mma c t m64 scr d a b cc) (.mma t m64 scr.isSome zero (captured g n a) (captured g n b)
      (if zero then [] else captured g (if m64 then 64 else 16) cc) ((scr.map one).getD [])) d
      (later (.mma c t m64 scr d a b cc) (if m64 then 64 else 16)) ∧
    joins (.mmab c t tile scr a b) (.mmab t tile.toNat scr.isSome (captured g 32 a) (captured g 32 b)
      ((scr.map (fun r => captured g 2 (.v r))).getD [])) (.spec 0) [] ∧
    joins (.mzero c tile) (.mzero tile.toNat) (.spec 0) [] ∧
    joins (.mdrain c tile d) (.mdrain tile.toNat) d (later (.mdrain c tile d) 1) ∧
    joins (.mchk c tile frag d) (.mchk tile.toNat frag) d (later (.mchk c tile frag d) 1) ∧
    joins (.mloc c tile d) (.mloc tile.toNat) d (later (.mloc c tile d) 2) ∧
    joins (.mfix c tile d) (.mfix tile.toNat) d (later (.mfix c tile d) 1) ∧
    joins (.mtol c t a) (.mtol t ((ctxOf (.mtol c t a) s x g).low32 s a)) (.spec 0) []

/-- 07 R156–R160, R162, 08 R177: the streamed forms join the engine as members of the open batch, `mloop` with the turns to its
end as its result, `mretry` as the `mloop` of the tile's retry record, `macc` with the 16 KiB of its lowest lane's address. -/
def StreamedMatrixWordsJoin : Prop :=
  ∀ (c : Ctl) (t : Ty) (tile : BitVec 3) (sc acc adie bdie die cls : Bool) (d a b cc : Opnd) (s : State) (x : Issue) (g : Group),
    let joins := fun (i : Instr) (kind : EKind) (d : Opnd) (res : List Landing) => JoinsEngine i s x g kind d res ∧
      ∃ t h id, exec i s = .next t ∧ tget t.groups x.gid = some h ∧
        h.members.map (·.ident) = g.members.map (·.ident) ++ [id] ∧ h.last = (if cls then g.last + 1 else g.last)
    let ok := fun (i : Instr) => Accepts i s x g ∧ (ctxOf i s x g).sel ≠ 0 ∧ (s.core g.core).eq.length < 4 ∧ g.members.length < 32
    let place := fun (i : Instr) (sp : Space) (o : Nat) (wr : Bool) =>
      (s.entered i x g).locate g die (((ctxOf i s x g).low32 s a).toNat / 64 * 64) 16384 = some (sp, o) ∧
      (s.entered i x g).busy sp o 16384 wr = false
    (let i : Instr := .mloop c t tile sc acc adie bdie cls d a b cc
     let k := ctxOf i s x g
     let base := k.src s 2 k.low a
     let m : MLoop := { tile := tile.toNat, t := t, sc := sc, acc := acc, adie := adie, bdie := bdie,
                        abase := (base.setWidth 32).toNat, bbase := (base >>> 32).toNat,
                        ainc := ((k.low32 s b).setWidth 16).toInt, binc := ((k.low32 s b).extractLsb' 16 16).toInt,
                        nk := (k.low32 s cc).toNat % 65536, rl := (k.low32 s cc).toNat / 65536 }
     let turns := (s.core g.core).nextStart s.turn + m.occ (Nat.max m.fa m.fb) 0 - s.turn
     let res := k.lanes.map (fun l => ({ lane := l, ws := [BitVec.ofNat 32 turns] } : LRes))
     ok i → joins i (.mloop m false) (.spec 0)
       [{ due := s.turn + 1, seq := g.seq + 1, dst := d, pc := x.pc, kind := .mat, res := res }]) ∧
    (ok (.mretry c tile cls) → ∀ m, (s.tile g.core tile.toNat).retry = some m → joins (.mretry c tile cls) (.mloop m true) (.spec 0) []) ∧
    (ok (.maccLd c tile die cls a) → ∀ sp o, place (.maccLd c tile die cls a) sp o false →
      joins (.maccLd c tile die cls a) (.maccLd tile.toNat sp o) (.spec 0) []) ∧
    (ok (.maccSt c tile die cls a) → ∀ sp o, place (.maccSt c tile die cls a) sp o true →
      (die = true → (s.grid g.grid).mayWrite (s.block g.block).blockId true 0 o 16384 = true) →
      joins (.maccSt c tile die cls a) (.maccSt tile.toNat sp o) (.spec 0) [])

/-- 07 R148, R154–R162, 08 R175–R177: the words of the matrix engine. Both parts hold. What D of an `mloop` holds between its engine's stop and
its own group's stop point is the model's choice (log entry 83). -/
def Obligations.EngineWordsJoin : Prop := MatrixWordsJoin ∧ StreamedMatrixWordsJoin

/-- 07 R148, 08 R177 and 17 R385: a matrix word that finds four commands outstanding parks its lanes with UNDERSIZED_STALL, cause 3;
an `mretry` of a tile with no retry record parks them with MANTLE, cause 2, and the tile's status in TARG: that this comes before the limit of 32
batch members is the model's choice (log entry 84). -/
def Obligations.MatrixTraps : Prop :=
  ∀ (c : Ctl) (t : Ty) (tile : BitVec 3) (m64 sc acc adie bdie die cls frag : Bool) (d a b cc : Opnd) (scr : Option (BitVec 8))
    (s : State) (x : Issue) (g : Group), g.lanes.length = 64 → g.hphase = .idle →
    (let full := fun (i : Instr) => Accepts i s x g → 4 ≤ (s.core g.core).eq.length → ParksAll i s x g (fun _ => { trap := 5, cause := 3 })
     full (.mma c t m64 scr d a b cc) ∧ full (.mloop c t tile sc acc adie bdie cls d a b cc) ∧ full (.maccLd c tile die cls a) ∧
       full (.maccSt c tile die cls a) ∧ full (.mmab c t tile scr a b) ∧ full (.mzero c tile) ∧ full (.mdrain c tile d) ∧ full (.mchk c tile frag d) ∧ full (.mloc c tile d) ∧
       full (.mfix c tile d) ∧ full (.mtol c t a) ∧ full (.mretry c tile cls)) ∧
    (Accepts (.mretry c tile cls) s x g → (s.core g.core).eq.length < 4 → (ctxOf (.mretry c tile cls) s x g).sel ≠ 0 →
      (s.tile g.core tile.toNat).retry = none →
      ∃ u, exec (.mretry c tile cls) s = .next u ∧ ∀ l ∈ (ctxOf (.mretry c tile cls) s x g).lanes, (g.lane l).isLive = true → (g.lane l).trec = none →
        (u.group x.gid).lane l = ((enteredGroup (.mretry c tile cls) x g).lane l).parkedAt x.pc
          { trap := 9, cause := 2, targ := (s.tile g.core tile.toNat).status tile.toNat, word := x.word })

/-- 09 R187, R188, R193, R194, R196–R198, 12 R264: a scratch word that passes its checks puts one access on its way to the banks,
with the operands of its lanes, and its result is due as many turns after the bank turn as that is after the issue; in a
deterministic grid a reduction enters the core's reduction buffer instead, one entry for each lane. -/
def Obligations.ScratchWordsEnter : Prop :=
  (∀ (c : Ctl) (spc : Sp) (sz : Size) (op : AOp) (w64 : Bool) (ord : Option Scope) (d a b cc : Opnd) (ofs : BitVec 24) (sp : Space)
     (s : State) (x : Issue) (g : Group),
     let goes := fun (i : Instr) (q : AccShape) (acc : AccOp) (b cc : Ctx → Nat → List Word) (n : Nat) =>
       let k := ctxOf i s x g
       let adr := fun l => k.src32 s l a + ofs.signExtend 32
       Accepts i s x g → ScratchOk k q adr sp (s.entered i x g) →
         exec i s = .next (s.accessOf i x g q sp acc
           (k.lanes.map (fun l => { lane := l, adr := (s.entered i x g).offsetOf g q.die (adr l) q.n, b := b k l, c := cc k l })) (.spec 0)
           (if n = 0 then [] else [reservedRes i s x g (s.turn + 2 * bankDelay g sp) d n .ord]))
     let die := spc == .die
     let none_ := fun (_ : Ctx) (_ : Nat) => ([] : List Word)
     let words := fun (n : Nat) (o : Opnd) (k : Ctx) (l : Nat) => k.srcWords s n l o
     let opnd := fun (o : Opnd) (k : Ctx) (l : Nat) => k.opWords s op op.regs l o
     let m := if w64 then 2 else 1
     goes (.ld c spc sz ord d a ofs) { die := die, n := sz.bytes, reads := true, writes := false, acq := ord.isSome } (.ld sz) none_ none_ sz.regs ∧
     goes (.st c spc sz ord a b ofs) { die := die, n := sz.bytes, reads := false, writes := true, rel := ord.isSome } (.st sz.bytes)
       (words sz.regs b) none_ 0 ∧
     goes (.atomBlk c op ord d a b cc ofs) { die := false, n := 4 * op.regs, reads := true, writes := true, acq := ord.isSome, rel := ord.isSome }
       (.atom op true) (opnd b) (if op.isCas then words op.regs cc else none_) op.regs ∧
     goes (.atomDie c op ord d a b cc ofs) { die := true, n := 4 * op.regs, reads := true, writes := true, acq := ord.isSome, rel := ord.isSome }
       (.atom op true) (opnd b) (if op.isCas then words op.regs cc else none_) op.regs ∧
     ((s.grid g.grid).desc.det = false → goes (.redBlk c op a b ofs) { die := false, n := 4 * op.regs, reads := false, writes := true }
       (.atom op false) (opnd b) none_ 0) ∧
     ((s.grid g.grid).desc.det = false → goes (.redDie c op a b ofs) { die := true, n := 4 * op.regs, reads := false, writes := true }
       (.atom op false) (opnd b) none_ 0) ∧
     goes (.ldr c spc w64 ord d a ofs) { die := die, n := 4 * m, reads := true, writes := false, acq := ord.isSome } (.ldr w64) none_ none_ m ∧
     goes (.stc c spc w64 ord d a b ofs) { die := die, n := 4 * m, reads := false, writes := true, rel := ord.isSome } (.stc w64)
       (words m b) none_ 1) ∧
  (∀ (c : Ctl) (op : AOp) (a b : Opnd) (ofs : BitVec 24) (sp : Space) (s : State) (x : Issue) (g : Group),
     let goes := fun (i : Instr) (die : Bool) =>
       let k := ctxOf i s x g
       let adr := fun l => k.src32 s l a + ofs.signExtend 32
       let q : AccShape := { die := die, n := 4 * op.regs, reads := false, writes := true, turnless := true }
       Accepts i s x g → (s.grid g.grid).desc.det = true → ScratchOk k q adr sp (s.entered i x g) →
         ∃ t, exec i s = .next t ∧ t.bankQ = s.bankQ ∧ (t.core g.core).rbuf = (s.core g.core).rbuf ++ k.lanes.map (fun l =>
           { space := sp, adr := (s.entered i x g).offsetOf g die (adr l) (4 * op.regs), op := op
             val := BitVec.ofNat 64 (ofWords (k.opWords s op op.regs l b)), block := (s.block g.block).blockId, gidx := g.index, lane := l
             seq := (g.lane l).seq, gid := x.gid, tick := 16 * s.turn + 2 * g.slot.getD 0 })
     goes (.redBlk c op a b ofs) false ∧ goes (.redDie c op a b ofs) true)

/-- 09 R193 and 10 R213: the checks of scratch and copy words in their order. Scratch: a lane outside the allocation, or with none a stack
word of `halloc` or `hfree` outside it, then a lane that may not write its bytes, or a stack word that `hfree` may not write, is an isolation
violation with the address (causes 2 and 3: 16 R365; the stack words as the bytes at issue give them: log entry 36); then alignment, the 256-byte segment of die
scratch, busy bytes and the order of R202 park the lanes. Copies: a violation, then ACCESS for alignment and for the length,
BUSY for a busy byte, and UNDERSIZED_STALL, cause 3, for a full batch. What the first check of a copy finds: cause 1 (16 R365) for a range that the
grid does not have, one whose class R212 does not let it use, and a far byte past SIZE; 2 for scratch outside the allocation; 3 for a byte that 12 R263
does not let the block write. A copy's violation names its address in FADR and the range's number times 2^15 in FPEER (16 R353; which address and range a copy
of several names is log entry 60). -/
def Obligations.AccessChecks : Prop :=
  (∀ (k : Ctx) (q : AccShape) (adr : Nat → Word) (s : State) (go : Space → Nat → (Nat → Nat) → State → State) (l : Nat), l ∈ k.lanes →
     let out := fun j => (s.locate k.g q.die (adr j).toNat q.n).isNone
     let foreign := fun j => q.die && q.writes &&
       !(s.grid k.g.grid).mayWrite (s.block k.g.block).blockId true 0 (s.offsetOf k.g q.die (adr j) q.n) q.n
     let placed := (∀ j ∈ k.lanes, out j = false ∧ foreign j = false) ∧ q.beyond = none ∧ q.foreign = none
     let odd := ∃ j ∈ k.lanes, s.offsetOf k.g q.die (adr j) q.n % q.n ≠ 0
     let far := q.die = true ∧ q.spread = true ∧ ∃ j ∈ k.lanes, adr j >>> 8 ≠ adr k.low >>> 8
     let sp := ((s.locate k.g q.die (adr k.low).toNat q.n).map (·.1)).getD (.blk k.g.block)
     let busy := (∃ j ∈ k.lanes, s.busy sp (s.offsetOf k.g q.die (adr j) q.n) q.n q.writes = true) ∨ ∃ w ∈ q.words, s.busy sp w 4 q.writes = true
     let r := scratchWord k q adr s go
     (out l = true → (∀ j ∈ k.lanes, j < l → out j = false) → r = s.violate k 2 ((adr l).setWidth 64)) ∧
     ((∀ j ∈ k.lanes, out j = false) → ∀ w, q.beyond = some w → r = s.violate k 2 (BitVec.ofNat 64 w)) ∧
     ((∀ j ∈ k.lanes, out j = false) → q.beyond = none → foreign l = true → (∀ j ∈ k.lanes, j < l → foreign j = false) →
       r = s.violate k 3 ((adr l).setWidth 64)) ∧
     ((∀ j ∈ k.lanes, out j = false ∧ foreign j = false) → q.beyond = none → ∀ w, q.foreign = some w → r = s.violate k 3 (BitVec.ofNat 64 w)) ∧
     (placed → odd → r = s.parkEach k 0x0B 1 adr) ∧
     (placed → ¬ odd → far → r = s.parkEach k 0x0B 2 adr) ∧
     (placed → ¬ odd → ¬ far → busy → r = s.parkEach k 6 0 adr) ∧
     (placed → ¬ odd → ¬ far → ¬ busy → orderOk k.g q (s.turn + bankDelay k.g sp) = false → r = s.parkEach k 5 2 (fun _ => 0))) ∧
  (∀ (k : Ctx) (q : CopyShape) (s : State) (go : State → State), k.sel ≠ 0 →
     let r := copyWord k q s go
     let hit := fun (die : Bool) (a n : Nat) (wr : Bool) => ∃ sp o, s.locate k.g die a n = some (sp, o) ∧ s.busy sp o n wr = true
     let busyAt := fun (a : Nat) => (∃ p ∈ q.scr, p.2.1 = a ∧ hit p.1 p.2.1 p.2.2.1 p.2.2.2) ∨ (∃ p ∈ q.elems, p.1 = a ∧ hit true p.1 p.2.1 p.2.2)
     (∀ cause a, s.copyViolation k.g q = some (cause, a) → r = s.violate k cause (BitVec.ofNat 64 a) (BitVec.ofNat 32 (q.rng.getD 0 * 2 ^ 15))) ∧
     (s.copyViolation k.g q = none →
       (∀ w, q.align = some w → r = s.parkEach k 0x0B 1 (fun _ => w)) ∧
       (∀ w, q.align = none → q.length = some w → r = s.parkEach k 0x0B 3 (fun _ => w)) ∧
       (q.align = none → q.length = none →
         ((∃ a, busyAt a) → ∃ a, busyAt a ∧ r = s.parkEach k 6 0 (fun _ => BitVec.ofNat 32 a)) ∧
         ((∀ a, ¬ busyAt a) → 32 ≤ k.g.members.length → r = s.parkEach k 5 3 (fun _ => 0)) ∧
         ((∀ a, ¬ busyAt a) → k.g.members.length < 32 → r = go s)))) ∧
  (∀ (k : Ctx) (q : CopyShape) (s : State),
     let far := q.farRd ++ q.farWr
     let grid := s.grid k.g.grid
     let blk := (s.block k.g.block).blockId
     let unfit := fun (e : Extent) => (q.farRd ≠ [] ∧ e.canRead = false) ∨ (q.farWr ≠ [] ∧ e.canWrite = false) ∨ (q.atomic = true ∧ e.canRead = false)
     let past := fun (e : Extent) (p : Nat × Nat) => (p.2 ≠ 0 ∧ e.size < p.1 + p.2) ∨ (q.atomic = true ∧ e.atom < if e.cls p.1 = .X then 3 else 1)
     let out := fun (p : Bool × Nat × Nat × Bool) => p.2.2.1 ≠ 0 ∧ s.locate k.g p.1 p.2.1 p.2.2.1 = none
     let alien := fun (r : Nat) (p : Nat × Nat) => grid.mayWrite blk false r p.1 p.2 = false
     let alienS := fun (p : Bool × Nat × Nat × Bool) => p.1 = true ∧ p.2.2.2 = true ∧
       ∃ sp o, s.locate k.g true p.2.1 p.2.2.1 = some (sp, o) ∧ grid.mayWrite blk true 0 o p.2.2.1 = false
     let v := s.copyViolation k.g q
     let farOk := ∀ r, q.rng = some r → ∃ e, s.ext k.g r = some e ∧ ¬ unfit e ∧ ∀ p ∈ far, ¬ past e p
     let inside := ∀ p ∈ q.scr, ¬ out p
     let owned := ∀ r, q.rng = some r → ∀ p ∈ q.farWr, ¬ alien r p
     (∀ r, q.rng = some r → s.ext k.g r = none → v = some (1, (far.headD (0, 0)).1)) ∧
     (∀ r e, q.rng = some r → s.ext k.g r = some e → unfit e → v = some (1, (far.headD (0, 0)).1)) ∧
     (∀ r e p, q.rng = some r → s.ext k.g r = some e → ¬ unfit e → FirstOf far (past e) p → v = some (1, p.1)) ∧
     (farOk → ∀ p, FirstOf q.scr out p → v = some (2, p.2.1)) ∧
     (farOk → inside → ∀ r p, q.rng = some r → FirstOf q.farWr (alien r) p → v = some (3, p.1)) ∧
     (farOk → inside → owned → ∀ p, FirstOf q.scr alienS p → v = some (3, p.2.1)) ∧
     (farOk → inside → owned → (∀ p ∈ q.scr, ¬ alienS p) → v = none)) ∧
  -- every byte is the block's or every block's, in the range or the die scratch that is written
  ∀ (r : Grid) (b : Nat) (die : Bool) (rng a n : Nat), r.mayWrite b die rng a n = true ↔ r.desc.det = false ∨ ∀ j, j < n →
    ∃ o ∈ r.owns, (o.block = b ∨ o.block = 0xFFFFFFFF) ∧ o.die = die ∧ (die = true ∨ o.rng = rng) ∧ 64 * o.ofs ≤ a + j ∧ a + j < 64 * (o.ofs + o.len)

/-- 09 R195: `spill` and `fill` within the lane's share and aligned go to the group's spill stack at bank turn t + 1; an address
outside the share parks the lanes with SPILL_LIMIT, a misaligned one with ACCESS, cause 1. -/
def SpillWordsGo : Prop :=
  ∀ (c : Ctl) (sz : Size) (d a b : Opnd) (ofs : BitVec 24) (s : State) (x : Issue) (g : Group),
    let adr := fun (i : Instr) l => (ctxOf i s x g).src32 s l a + ofs.signExtend 32
    let share := (s.grid g.grid).desc.spill / 64
    let fits := fun (i : Instr) => ∀ l ∈ (ctxOf i s x g).lanes, (adr i l).toNat + sz.bytes ≤ share
    let even := fun (i : Instr) => ∀ l ∈ (ctxOf i s x g).lanes, (adr i l).toNat % sz.bytes = 0
    let q : AccShape := { die := false, n := sz.bytes, reads := false, writes := false, turnless := true }
    let f : Instr := .fill c sz d a ofs
    let p : Instr := .spill c sz a b ofs
    (Accepts f s x g → (ctxOf f s x g).sel ≠ 0 → fits f → even f → exec f s = .next (s.accessOf f x g q (.spill x.gid) (.ld sz)
      ((ctxOf f s x g).lanes.map (fun l => { lane := l, adr := (adr f l).toNat })) (.spec 0) [reservedRes f s x g (s.turn + 2) d sz.regs .ord])) ∧
    (Accepts p s x g → (ctxOf p s x g).sel ≠ 0 → fits p → even p → exec p s = .next (s.accessOf p x g q (.spill x.gid) (.st sz.bytes)
      ((ctxOf p s x g).lanes.map (fun l => { lane := l, adr := (adr p l).toNat, b := (ctxOf p s x g).srcWords s sz.regs l b })) (.spec 0) [])) ∧
    (g.lanes.length = 64 → g.hphase = .idle →
      (Accepts f s x g → ¬ fits f → ParksAll f s x g (fun l => { trap := 7, cause := 0, targ := adr f l })) ∧
      (Accepts f s x g → fits f → ¬ even f → ParksAll f s x g (fun l => { trap := 0x0B, cause := 1, targ := adr f l })) ∧
      (Accepts p s x g → ¬ fits p → ParksAll p s x g (fun l => { trap := 7, cause := 0, targ := adr p l })) ∧
      (Accepts p s x g → fits p → ¬ even p → ParksAll p s x g (fun l => { trap := 0x0B, cause := 1, targ := adr p l })))

/-- 09 R206–R208, 14 R314: `halloc`, `hfree` and `launch` that pass their checks go to bank turn t + 3 or t + 6, or t + 1, as one step
for all their lanes; a stack word that they touch must be in the allocation (R208) and no byte of it or of the descriptor busy (R193, 10
R219; which words those are is read at issue, the model's choice of log entry 36), and of an `hfree` in deterministic mode every stack word
that it would write must be owned (12 R263). -/
def StepWordsGo : Prop :=
  ∀ (c : Ctl) (mode1 : Bool) (d a b cc : Opnd) (sp : Space) (s : State) (x : Issue) (g : Group),
    let at_ := fun (i : Instr) (q : AccShape) => (s.entered i x g).offsetOf g q.die ((ctxOf i s x g).low32 s a) 64
    let ok := fun (i : Instr) (q : AccShape) => Accepts i s x g ∧ ScratchOk (ctxOf i s x g) q (fun _ => (ctxOf i s x g).low32 s a) sp (s.entered i x g)
    let heap := fun (i : Instr) (foreign : Option Nat) (run : Ram → StackRoom → Nat → HeapRun) =>
      let h := (s.entered i x g).heapShape (ctxOf i s x g) a run
      ({ die := true, n := 64, reads := true, writes := true, spread := false, hz := false, fenced := false
         words := h.words, beyond := h.beyond, foreign := foreign } : AccShape)
    let req : AccShape := { die := false, n := 64, reads := true, writes := false }
    let src := fun (i : Instr) (l : Nat) (o : Opnd) => [(ctxOf i s x g).src32 s l o]
    (let i : Instr := .halloc c mode1 d a b
     let heap := heap i none (fun r room o => r.allocs room o ((ctxOf i s x g).requests s b none))
     ok i heap → exec i s = .next (s.accessOf i x g heap sp (.halloc mode1) ((ctxOf i s x g).lanes.map (fun l =>
      { lane := l, adr := at_ i heap, b := src i l b, sig := (g.lane l).sig })) (.spec 0) [reservedRes i s x g (s.turn + 2 * bankDelay g sp) d 1 .ord])) ∧
    (let i : Instr := .hfree c a b cc
     let heap := heap i ((s.entered i x g).freeForeign (ctxOf i s x g) a b cc) (fun r room o => r.frees room o ((ctxOf i s x g).requests s b (some cc)))
     ok i heap → exec i s = .next (s.accessOf i x g heap sp .hfree ((ctxOf i s x g).lanes.map (fun l =>
      { lane := l, adr := at_ i heap, b := src i l b, c := src i l cc })) (.spec 0) [])) ∧
    (∀ l o cl, s.locate g true ((ctxOf (.halloc c mode1 d a b) s x g).src32 s l a).toNat 64 = some (sp, o) → o % 64 = 0 →
      (s.ram sp).poisoned o 64 = false →
      let m := (s.ram sp).cells
      let out := fun (i : Instr) (n e : Nat) => Accepts i s x g → (ctxOf i s x g).lanes = [l] → HeapClass n cl → ¬ HeapCorrupt m o → n ≤ 2 ^ 21 →
        s.stackEnd g ≤ heapWord m o 2 ∨ s.spaceSize sp < heapEntry m o cl e + 4 →
        exec i s = .next ((s.entered i x g).violate (ctxOf i s x g) 2 (BitVec.ofNat 64 (heapWord m o 2 + 4 * (heapDepth m o * cl + e))))
      (0 < heapTop m o cl → out (.halloc c mode1 d a b) ((ctxOf (.halloc c mode1 d a b) s x g).src32 s l b).toNat (heapTop m o cl - 1)) ∧
      (let r := ((ctxOf (.hfree c a b cc) s x g).src32 s l b).toNat
       let n := ((ctxOf (.hfree c a b cc) s x g).src32 s l cc).toNat
       r ≠ 0xFFFFFFFF → r % 64 = 0 → r + 64 * 2 ^ cl ≤ heapWord m o 0 → heapTop m o cl ≠ heapDepth m o →
        out (.hfree c a b cc) n (heapTop m o cl))) ∧
    (let i : Instr := .launch c d a
     ok i req → exec i s = .next (s.accessOf i x g req sp .launch ((ctxOf i s x g).lanes.map (fun l =>
      { lane := l, adr := at_ i req })) d [reservedRes i s x g (s.turn + 96) d 2 .ord]))

/-- 09 R195, R205–R208, 14 R314: `spill`, `fill`, `halloc`, `hfree` and `launch`. Both parts hold. -/
def Obligations.StackAndStepWords : Prop := SpillWordsGo ∧ StepWordsGo

/-- 14 R305–R307: a ring word whose header stands within the block's scratch, aligned, in range, free and in order goes to bank
turn t + 1; `ring.get` and `ring.peek` reserve their result for turn t + 2. -/
def Obligations.RingWordsGo : Prop :=
  ∀ (c : Ctl) (d a b : Opnd) (s : State) (x : Issue) (g : Group),
    let goes := fun (i : Instr) (op : Nat) (acc : AccOp) (v : Word) (d : Opnd) (res : List Landing) =>
      let k := ctxOf i s x g
      let h := (k.low32 s a).toNat
      let sp := Space.blk g.block
      let r := (s.entered i x g).ram sp
      let size := (s.grid g.grid).desc.bscr
      let n := ringWord r h 0
      let cnt := if op = 0 then ringWord r h 1 else ringWord r h 2
      let q : AccShape := { die := false, n := 64, reads := op != 0, writes := op == 0, rel := op == 0 }
      Accepts i s x g → k.sel ≠ 0 → h % 64 = 0 → 1 ≤ n → n ≤ 1024 → ringWord r h 1 < 2 * n → ringWord r h 2 < 2 * n →
        h + 0x40 + 8 * n ≤ size → (s.entered i x g).busy sp h 12 (op != 2) = false →
        (s.entered i x g).busy sp (h + 0x40 + 8 * (cnt % n)) 8 (op != 2) = false → orderOk g q (s.turn + 1) = true →
        exec i s = .next (s.accessOf i x g q sp acc (k.lanes.map (fun l => { lane := l, adr := h, b := [v], sig := (g.lane l).sig })) d res)
    (let i : Instr := .ringPut c a b
     goes i 0 .put ((ctxOf i s x g).low32 s b) (.spec 0) []) ∧
    (let i : Instr := .ringGet c d a
     goes i 1 .get 0 d [reservedRes i s x g (s.turn + 2) d 1 .ord]) ∧
    (let i : Instr := .ringPeek c d a
     goes i 2 .peek 0 d [reservedRes i s x g (s.turn + 2) d 2 .ord])

/-- 07 R162, 09 R202–R204, 10 R214, R217, R234, 11 R247, 14 R315: `mprog`, `podt` and `bclose` give their values; `fence` sets its
requirement and, at `.dev` and wider, holds the group until its remote executions have completed, as `rmt.wait` does;
`aflush` gives the number of entries that it takes from the reduction buffer, 0 outside deterministic mode. -/
def OrderingWords : Prop :=
  ∀ (c : Ctl) (kd : FenceKind) (sc : Scope) (d : Opnd) (s : State) (x : Issue) (g : Group),
    let left := fun (i : Instr) (h : Group) => ({ s with groups := tset s.groups x.gid h, issue := some (x.ran i) } : State)
    Gives (.mprog c d) 1 d 1 (fun _ k _ => k.g.mrec.toNat) ∧
    Gives (.podt c d) 1 d 2 (fun s k _ => 16 * s.turn + 2 * k.g.slot.getD 0) ∧
    (let i : Instr := .bclose c sc d
     Accepts i s x g → (ctxOf i s x g).sel ≠ 0 → exec i s = .next (left i
      { withRes i s x g 1 d 1 (g.last + 1).toNat with
        last := g.last + 1, members := g.members.map (fun m => if m.batch.isNone then { m with batch := some (g.last + 1) } else m) })) ∧
    (let i : Instr := .fence c kd sc
     let r : OrdReq := { writesOnly := kd == .rel, above := (match kd with | .acq => g.hl | _ => Nat.max g.hl g.hs),
                         acq := (match kd with | .rel => 0 | _ => g.hl) }
     Accepts i s x g → (ctxOf i s x g).sel ≠ 0 → exec i s = .next (left i { enteredGroup i x g with
      reqs := g.reqs.filter (fun q => s.turn ≤ q.above) ++ (if s.turn ≤ r.above then [r] else [])
      relFence := g.relFence || (sc.wide && kd != .acq), rwait := if sc.wide then s.ident else g.rwait })) ∧
    (let i : Instr := .rmtWait c
     Accepts i s x g → exec i s = .next (left i { enteredGroup i x g with rwait := s.ident })) ∧
    -- a group issues nothing while a remote execution numbered below `rwait`, or one of an acquire, is outstanding, sent or not (10 R234, 11 R247)
    (∀ (u : State) (i : Nat) (h : Group), tget u.groups i = some h →
      (∃ r, (r ∈ u.remotes ∧ r.gid = i ∨ r ∈ h.runq) ∧ (r.ident < h.rwait ∨ r.acq = true)) → u.canIssue i h = false) ∧
    (let i : Instr := .aflush c d
     Accepts i s x g → (ctxOf i s x g).sel ≠ 0 →
      ((s.grid g.grid).desc.det = false → exec i s = .next (left i (withRes i s x g 2 d 1 0))) ∧
      ((s.grid g.grid).desc.det = true → ∃ t h, exec i s = .next t ∧ tget t.groups x.gid = some h ∧ (t.core g.core).rbuf =
          (s.core g.core).rbuf.filter (fun q => !(q.tick < 16 * s.turn + 2 * g.slot.getD 0)) ∧
        h.pend = (withRes i s x g 2 d 1 ((s.core g.core).rbuf.filter (fun q => q.tick < 16 * s.turn + 2 * g.slot.getD 0)).length).pend))

/-- 01 R20, 09 R202–R204: the words that wait, and the words that order. Both parts hold. -/
def Obligations.WaitsAndOrder : Prop := WaitWords ∧ OrderingWords

/-- 10 R209–R214, R222, R223, R225, R226: a `cpy`, `cpy2d`, `cpy.atom` or `cpy.digest` that passes the checks of R213 joins the queue of
its class, with one far target for each lane in `cpy.atom`. -/
def CopyAtomDigestJoin : Prop :=
  (∀ (c : Ctl) (out die cls : Bool) (rng : BitVec 5) (d a b cc : Opnd) (s : State) (x : Issue) (g : Group) (e : Extent) (sp : Space) (o : Nat),
     let ok := fun (i : Instr) => Accepts i s x g ∧ (ctxOf i s x g).sel ≠ 0 ∧ g.members.length < 32 ∧ s.ext g rng.toNat = some e
     (let i : Instr := .cpy c out rng die cls d a b cc
      let k := ctxOf i s x g
      let far := (k.src s 2 k.low a).toNat
      let adr := (k.low32 s b).toNat
      let n := (k.low32 s cc).toNat
      ok i → far % 64 = 0 → adr % 64 = 0 → n % 64 = 0 → 0 < n → n ≤ 2 ^ 24 → s.copyFar g e rng.toNat far n out →
       (s.entered i x g).copyPlace g die adr n (!out) sp o →
       JoinsCopies i s x g (e.cls far) (.move out rng.toNat far sp o 1 (n / 64) 0 0) (n / 64) cls d) ∧
     (let i : Instr := .cpy2d c out rng die cls d a b cc
      let k := ctxOf i s x g
      let far := (k.src s 2 k.low a).toNat
      let adr := (k.low32 s b).toNat
      let sh := (k.src s 2 k.low cc).toNat
      let rows := sh % 2 ^ 16
      let rlen := sh / 2 ^ 16 % 2 ^ 16
      let sstr := sh / 2 ^ 32 % 2 ^ 16
      let fstr := sh / 2 ^ 48
      ok i → far % 64 = 0 → adr % 64 = 0 → 0 < rows → 0 < rlen → rows * rlen * 64 ≤ 2 ^ 24 →
       s.locate g die adr (64 * rlen) = some (sp, o) →
       (∀ r, r < rows → s.copyFar g e rng.toNat (far + 64 * fstr * r) (64 * rlen) out ∧
         ∃ p q, (s.entered i x g).copyPlace g die (adr + 64 * sstr * r) (64 * rlen) (!out) p q) →
       JoinsCopies i s x g (e.cls far) (.move out rng.toNat far sp o rows rlen fstr sstr) (rows * rlen) cls d)) ∧
  (∀ (c : Ctl) (op : AOp) (rng : BitVec 5) (src : Option (BitVec 5)) (ret cls : Bool) (d a b cc : Opnd) (s : State) (x : Issue) (g : Group),
     (let i : Instr := .cpyAtom c op rng ret cls d a b cc
      let k := ctxOf i s x g
      let w := 4 * op.regs
      let ofs := fun l => (k.src s 2 l a).toNat
      let slot := (k.low32 s cc).toNat
      let lane := fun l => (l, ({ ofs := ofs l, b := BitVec.ofNat 64 (ofWords ((k.opWords s op op.farRegs l b).take op.regs))
                                  c := BitVec.ofNat 64 (ofWords ((k.opWords s op op.farRegs l b).drop op.regs)) } : RLane))
      Accepts i s x g → k.sel ≠ 0 → g.members.length < 32 → ∀ e, s.ext g rng.toNat = some e → e.canRead = true →
       (∀ l ∈ k.lanes, (if e.cls (ofs l) = .X then 3 else 1) ≤ e.atom ∧ ofs l % w = 0 ∧ s.copyFar g e rng.toNat (ofs l) w true) →
       (ret = true → slot % 64 = 0 ∧ ∀ l ∈ k.lanes, ∃ p q, (s.entered i x g).copyPlace g false (slot + w * l) w true p q) →
       JoinsCopies i s x g (e.cls (ofs k.low)) (.atom op rng.toNat (k.lanes.map lane) (if ret then some slot else none)) 1 cls d) ∧
     (let i : Instr := .cpyDigest c src cls d a b cc
      let k := ctxOf i s x g
      let from_ := if src.isSome then (k.src s 2 k.low a).toNat else (k.src s 2 k.low a).toNat % 2 ^ 32
      let adr := (k.low32 s b).toNat
      let n := (k.low32 s cc).toNat
      ∀ sp o, Accepts i s x g → k.sel ≠ 0 → g.members.length < 32 → from_ % 64 = 0 → adr % 32 = 0 → n % 64 = 0 → 0 < n → n ≤ 0x3FFFFFC0 →
       (s.entered i x g).copyPlace g false adr 32 true sp o →
       (match src with
         | some r => ∃ e, s.ext g r.toNat = some e ∧ s.copyFar g e r.toNat from_ n false
         | none => ∃ p q, (s.entered i x g).copyPlace g true from_ n false p q) →
       JoinsCopies i s x g (match src with
         | some r => ((s.ext g r.toNat).map (fun e => e.cls from_)).getD .S
         | none => .S) (.digest (src.map (·.toNat)) from_ sp o n) (n / 64) cls d))

/-- 10 R209–R214, R222, R224: a `gather` or `scatter` reads its index list as it is accepted; elements outside the range or the
die scratch are found when their unit comes. Its class is that of its first far byte in the range; class S is the one with its other side in
die scratch. There a `scatter` to bytes that are not the block's is violation 3, with the first such element's address (12 R263, 16 R353). -/
def IndexWordsJoin : Prop :=
  ∀ (c : Ctl) (far : Option (BitVec 5)) (die cls : Bool) (esz : BitVec 3) (d a b cc : Opnd) (s : State) (x : Issue) (g : Group)
    (sp lsp : Space) (o lo : Nat),
    let joins := fun (i : Instr) (scat : Bool) =>
      let k := ctxOf i s x g
      let s0 := s.entered i x g
      let list := (k.src s 2 k.low a).toNat % 2 ^ 32
      let base := (k.src s 2 k.low a).toNat / 2 ^ 32
      let adr := (k.low32 s b).toNat
      let n := (k.low32 s cc).toNat
      let w := 2 ^ esz.toNat
      let idx := toWords n ((s0.ram lsp).nat lo (4 * n))
      let place := fun (v : Word) => if far.isSome then base + v.toNat * w else (base + v.toNat * w) % 2 ^ 32
      Accepts i s x g → k.sel ≠ 0 → g.members.length < 32 → list % 4 = 0 → adr % w = 0 → base % w = 0 → 0 < n → n ≤ 2 ^ 20 →
        s0.copyPlace g false list (4 * n) false lsp lo → s0.copyPlace g die adr (w * n) (!scat) sp o →
        (match far with
          | none => ∀ v ∈ idx, ∀ q p, s0.locate g true (place v) w = some (q, p) →
              s0.busy q p w scat = false ∧ (scat = true → (s.grid g.grid).mayWrite (s.block g.block).blockId true 0 p w = true)
          | some r => ∃ e, s.ext g r.toNat = some e ∧ (if scat then e.canWrite else e.canRead) = true ∧ ∀ v ∈ idx, place v + w ≤ e.size →
              scat = true → (s.grid g.grid).mayWrite (s.block g.block).blockId false r.toNat (place v) w = true) →
        JoinsCopies i s x g (match far with
          | none => .S
          | some r => ((s.ext g r.toNat).map (fun e => e.cls (((idx.map place).filter (fun p => decide (p + w ≤ e.size))).headD 0))).getD .S)
          (.index scat (far.map (·.toNat)) base sp o esz.toNat idx) n cls d
    joins (.gather c far die esz cls d a b cc) false ∧ joins (.scatter c far die esz cls d a b cc) true ∧
    -- the first element in die scratch that the block may not write
    (let i : Instr := .scatter c none die esz cls d a b cc
     let k := ctxOf i s x g
     let s0 := s.entered i x g
     let pair := (k.src s 2 k.low a).toNat
     let w := 2 ^ esz.toNat
     let n := (k.low32 s cc).toNat
     let place := fun (v : Word) => (pair / 2 ^ 32 + v.toNat * w) % 2 ^ 32
     Accepts i s x g → k.sel ≠ 0 → s0.locate g false (pair % 2 ^ 32) (4 * n) = some (lsp, lo) → s0.locate g die (k.low32 s b).toNat (w * n) = some (sp, o) →
      ∀ v, FirstOf (toWords n ((s0.ram lsp).nat lo (4 * n))) (fun v => ∃ q p, s0.locate g true (place v) w = some (q, p) ∧
          (s.grid g.grid).mayWrite (s.block g.block).blockId true 0 p w = false) v →
        exec i s = .next (s0.violate k 3 (BitVec.ofNat 64 (place v))))

/-- 10 R210–R226: the words of the copy engines. Both parts hold. That a command takes the class, and so the queue, of the page of its first far
byte where its range has pages in HBM4 and in host memory, and that no command of a grid's ranges is of class P, is the model's reading (log
entry 37); that the indices of `gather` and `scatter` are read plain from a poisoned granule is its choice (log entry 87). -/
def Obligations.CopyWordsJoin : Prop := CopyAtomDigestJoin ∧ IndexWordsJoin

/-- 10 R213, R229–R231: a remote word that passes its checks queues one execution for each distinct peer word, in ascending order, with
the offset and operands of the lanes that name it, and holds the group for one turn more for each further execution. That the operands of
the executions that go out in later turns are those read at the word's issue is the model's reading (log entry 38). -/
def Obligations.RemoteWordsGo : Prop :=
  ∀ (c : Ctl) (sz : Size) (op : AOp) (ord : Option Scope) (d a b cc : Opnd) (ofs : BitVec 24) (s : State) (x : Issue) (g : Group),
    let goes := fun (i : Instr) (kind : RKind) (w : Nat) (vals : Ctx → Nat → DWord × DWord) (res : List Landing) =>
      let k := ctxOf i s x g
      let adr := fun l => (k.src32 s l a + ofs.signExtend 32).toNat
      let peer := fun l => k.src32 s l cc
      let ws := distinctWords (k.lanes.map peer)
      Accepts i s x g → k.sel ≠ 0 →
        (∀ l ∈ k.lanes, s.peerOk (peer l) = true ∧ s.rmtViolation g kind (peer l) (adr l) w = none ∧ adr l % w = 0) →
        (s.remotes.filter (fun r => r.gid == x.gid)).length + g.runq.length + ws.length ≤ 64 →
        ∃ t h es q, exec i s = .next t ∧ tget t.groups x.gid = some h ∧ h.runq = g.runq ++ es ∧ h.pend = g.pend ++ res ∧
          es.map (fun e => (e.peer, e.lanes)) = ws.map (fun v => (v, (k.lanes.filter (fun l => peer l == v)).map (fun l =>
            (l, ({ ofs := adr l, b := (vals k l).1, c := (vals k l).2 } : RLane))))) ∧
          -- a fence holds back the writes behind it
          (kind ≠ .load → ∀ e ∈ es, ∀ r ∈ g.reqs, r.above < e.floor) ∧
          (∀ e ∈ es, e.kind = kind ∧ e.size = w ∧ e.gid = x.gid ∧ e.seq = g.seq + 1 ∧ e.applied = false ∧ e.first = s.ident ∧ (e.acq = true ↔ ord.isSome ∧ kind ≠ .store)) ∧
          es.map (·.ident) = (List.range ws.length).map (s.ident + ·) ∧ t.ident = s.ident + ws.length ∧
          h.rwait = g.rwait ∧
          es.map (·.issue) = (List.range ws.length).map (fun j => (es.head?.map (·.issue)).getD 0 + j) ∧
          t.issue = some q ∧ q.extra + s.turn + 1 = x.extra + (es.head?.map (·.issue)).getD 0 + ws.length ∧
          t.hbm = s.hbm ∧ t.host = s.host ∧ t.remotes = s.remotes
    let value := fun (n : Nat) (k : Ctx) (l : Nat) => (BitVec.ofNat 64 (ofWords (k.srcWords s n l b)), (0 : DWord))
    (let i : Instr := .rmtLd c sz ord d a cc ofs
     goes i .load sz.bytes (fun _ _ => (0, 0)) [reservedRes i s x g (2 ^ 60) d sz.regs .rmt]) ∧
    goes (.rmtSt c sz ord a b cc ofs) .store sz.bytes (value sz.regs) [] ∧
    (let i : Instr := .rmtAtom c op ord d a b cc ofs
     goes i (.atom op) (4 * op.regs) (fun k l => (BitVec.ofNat 64 (ofWords ((k.opWords s op op.farRegs l b).take op.regs)),
       BitVec.ofNat 64 (ofWords ((k.opWords s op op.farRegs l b).drop op.regs)))) [reservedRes i s x g (2 ^ 60) d op.regs .rmt])

/-- 14 R313: a semaphore word of an index up to 1,023 takes its turn at the semaphore table no earlier than ten turns on, `sem.post`
and `signal` also after the group's scratch accesses and its remote executions, those numbered below `after`; the group is held
until then, and for `sem.wait` until its result lands. An index above 1,023 parks the lanes with ACCESS, cause INDEX. -/
def Obligations.SemaphoreWords : Prop :=
  ∀ (c : Ctl) (intr : Bool) (d a b : Opnd) (s : State) (x : Issue) (g : Group),
    let goes := fun (i : Instr) (kind : Nat) (intr : Bool) (dst : Opnd) (turn hold after : Nat) (res : List Landing) =>
      let k := ctxOf i s x g
      Accepts i s x g →
        (k.sel ≠ 0 → (k.low32 s a).toNat ≤ 1023 → exec i s = .next { s with
          ident := s.ident + 1, issue := some (x.ran i)
          semq := s.semq ++ [{ ident := s.ident, pid := g.pid, turn := turn, tick := k.tick, core := g.core, quarter := g.quarter
                               gid := x.gid, sem := (k.low32 s a).toNat, kind := kind, val := k.low32 s b, intr := intr, dst := dst
                               sel := k.sel, seq := g.seq + 1, pc := x.pc, after := after }]
          groups := tset s.groups x.gid { enteredGroup i x g with
            hold := Nat.max g.hold hold, rwait := Nat.max g.rwait after, pend := g.pend ++ res } }) ∧
        (1023 < (k.low32 s a).toNat → g.lanes.length = 64 → g.hphase = .idle →
          ParksAll i s x g (fun _ => { trap := 0x0B, cause := 6, targ := k.low32 s a }))
    let post := Nat.max (Nat.max (s.turn + 10) g.rnext) (Nat.max g.hl g.hs + 1)
    goes (.semPost c a b) 0 false (.spec 0) post post s.ident [] ∧
    goes (.signal c intr a b) 1 intr (.spec 0) post post s.ident [] ∧
    goes (.semWait c d a b) 2 false d (s.turn + 10) (s.turn + 20) 0 [reservedRes (.semWait c d a b) s x g (s.turn + 20) d 1 .ord]

/-- 16 R372–R376, R378, R379: `sysrd` gives a special register as `movs` does, or a register of the partition after 4 turns;
`syswr`, `snap` and `evt` leave their writes to later turns; `lease.chk` gives the state of a lease. -/
def SystemWords : Prop :=
  ∀ (c : Ctl) (num : BitVec 12) (d a b : Opnd),
    (num.toNat < 0x100 → Gives (.sysrd c num d) 1 d (if num.toNat = 7 ∨ num.toNat = 8 then 2 else 1) (fun s k l => k.sreg s l num.toNat none)) ∧
    (0x100 ≤ num.toNat → Gives (.sysrd c num d) 4 d (if num.toNat = 0x105 then 2 else 1) (fun s k _ =>
      let p := s.part k.g.pid
      match num.toNat with
      | 0x100 => k.g.pid * 2 ^ 8 + s.unitMask k.g.pid
      | 0x101 => p.ivec * 2 ^ 8 + (if p.test then 2 else 0) + (if p.sbchk then 1 else 0)
      | 0x102 => p.bwdog.toNat
      | 0x103 => p.gen * 2 ^ 16 + p.asid
      | 0x104 => (s.core k.g.core).cecnt.toNat
      | 0x105 => p.snapt.toNat
      | _ => 0)) ∧
    ∀ (s : State) (x : Issue) (g : Group),
      let live := fun (i : Instr) => Accepts i s x g ∧ (ctxOf i s x g).sel ≠ 0
      (let i : Instr := .syswr c num a
       let k := ctxOf i s x g
       live i →
        (num.toNat = 9 → exec i s = .next (s.deferOf i x g (s.turn + 1) (.flags x.gid (k.lanes.map (fun l => (l, k.src32 s l a)))))) ∧
        (num.toNat ≠ 9 → exec i s = .next (s.deferOf i x g (s.turn + 8) (.reg num.toNat (k.src s
          (if num.toNat = 7 ∨ num.toNat = 8 ∨ num.toNat = 0x105 then 2 else 1) k.low a))))) ∧
      (live (.snap c) → exec (.snap c) s = .next (s.deferOf (.snap c) x g (s.turn + 8) .snap)) ∧
      (let i : Instr := .evt c a b
       let k := ctxOf i s x g
       live i → exec i s = .next (s.deferOf i x g (s.turn + 1) (.evt (toBytes 8 k.tick ++ toBytes 4 (s.block g.block).blockId
        ++ toBytes 4 ((s.grid g.grid).gseq * 2 ^ 16 + g.index * 2 ^ 12) ++ toBytes 4 (k.low32 s a).toNat ++ toBytes 4 (k.low32 s b).toNat
        ++ toBytes 4 x.pc.toNat ++ List.replicate 4 0)))) ∧
      (let i : Instr := .leaseChk c d a
       let k := ctxOf i s x g
       Accepts i s x g → (∀ l ∈ k.lanes, s.peerOk (k.src32 s l a) = true) → exec i s = .next (s.resultOf i x g 1 d
        (k.each 1 (fun l => (s.leaseState g (k.src32 s l a) * 2 ^ 30, 0))))) ∧
      (let i : Instr := .leaseChk c d a
       let k := ctxOf i s x g
       Accepts i s x g → (∃ l ∈ k.lanes, s.peerOk (k.src32 s l a) = false) → g.lanes.length = 64 → g.hphase = .idle →
        ParksAll i s x g (fun l => { trap := 0x0B, cause := 4, targ := k.src32 s l a }))

/-- 16 R375, R377 and 17 R382, R383: `quench` quenches its live lanes with cause 4 and QLOG holds their number and the last of them;
`finj` injects an accumulator error, a poison mark, a parity error or a correctable event. -/
def QuenchAndInject : Prop :=
  ∀ (c : Ctl) (die : Bool) (a : Opnd) (s : State) (x : Issue) (g : Group),
    (let i : Instr := .quench c
     let k := ctxOf i s x g
     let hit := k.lanes.filter (fun l => (g.lane l).isLive)
     Accepts i s x g → g.lanes.length = 64 → g.nq ≤ 255 → ∃ t h, exec i s = .next t ∧ tget t.groups x.gid = some h ∧
      (∀ l, l < 64 → h.lane l = if l ∈ hit then { g.lane l with life := .quenched, trec := none, wait := none, w := 0, resv := none, hand := .out, late := none }
        else g.lane l) ∧
      h.nq = Nat.min (g.nq + hit.length) 255 ∧ (hit ≠ [] → h.qcause = 4 ∧ h.qlane = hit.getLastD 0) ∧
      h.live2 = g.live2 &&& ~~~maskOfList hit) ∧
    (∀ kd, let i : Instr := .finj c kd die a
     let k := ctxOf i s x g
     let w := (k.low32 s a).toNat
     Accepts i s x g → k.sel ≠ 0 →
      (kd = .acc → w % 2 ^ 12 = 0 → (s.grid g.grid).desc.hasMatrix = true → (s.core g.core).eq.length < 4 →
        JoinsEngine i s x g (.acc (w / 2 ^ 27) (w / 2 ^ 24 % 8) (w / 2 ^ 18 % 64) (w / 2 ^ 12 % 64)) (.spec 0) []) ∧
      (kd = .poison → ∀ sp o, s.locate g die w 1 = some (sp, o) →
        exec i s = .next (s.accessOf i x g { die := die, n := 1, reads := false, writes := false, turnless := true } sp .poison
          [{ lane := k.low, adr := o }] (.spec 0) [])) ∧
      (kd = .parity → w < 64 * (s.grid g.grid).desc.nlines → w % 64 % 12 = 0 → w % 64 < 60 → exec i s = .next (s.deferOf i x g (s.turn + 1)
        (.parity g.core (((s.grid g.grid).base + w) / 64) (w % 64 / 12)))) ∧
      (kd = .cevt → w = 0 → ∃ t, exec i s = .next t ∧ (t.core g.core).cecnt = (s.core g.core).cecnt + 1))

/-- 16 R373, R374, R376, R377, R379, 04 R90, 08 R176, 18 R414: what a pending write of a partition does at its turn. A `syswr` writes
its register (13 R277 and 14 R312: a FAIRLIM of LIM 0 and a BWDOG of 0 leave the register as it is), or FLAGS of each selected lane and,
from the lowest, of the group; `mtol` a tolerance; `snap` latches every resident block, in one latch with a trigger of its tick, or is
counted while an earlier latch is held; `evt` appends its record or drops it; an injected parity error flips one parity bit. Two writes
take effect in the order of issue tick, core and quarter. Snapshots wait for the results of their turn, and no turn goes on past a
write that is due. -/
def PendingWrites : Prop :=
  (∀ (s : State) (p : Nat) (w : Pending), p < 8 → s.parts.length = 8 → w.due ≤ s.turn →
    let q := s.part p
    let o := s.modPart p (fun q => { q with pend := [w] })
    let t := o.applyWrites p (decide (w.write = .snap))
    o.applyWrites p (!decide (w.write = .snap)) = o ∧ (t.part p).pend = [] ∧
    match w.write with
    | .reg n v => t = s.modPart p (fun q => { q with
        pend := []
        fairlim := if n = 0x00C ∧ v.toNat % 2 ^ 15 ≠ 0 then v.toNat % 2 ^ 15 else q.fairlim
        sbchk := if n = 0x101 then v.getLsbD 0 else q.sbchk
        bwdog := if n = 0x102 ∧ v.setWidth 32 ≠ 0#32 then v.setWidth 32 else q.bwdog
        bwdogAt := if n = 0x102 ∧ v.setWidth 32 ≠ 0#32 then 16 * s.turn else q.bwdogAt
        snapt := if n = 0x105 then v else q.snapt })
    | .tol ty v => (∀ ty', (t.part p).tolOf ty' = if ty' = ty ∧ (∃ e ∈ q.tol, e.1 = ty) then v else q.tolOf ty') ∧
        t = s.modPart p (fun q => { q with pend := [], tol := (t.part p).tol })
    | .flags i vals => (vals.map (·.1)).Nodup → ∀ g, tget s.groups i = some g → g.lanes.length = 64 → ∃ h, tget t.groups i = some h ∧
        (∀ j, j ≠ i → tget t.groups j = tget s.groups j) ∧
        (∀ e ∈ vals, e.1 < 64 → h.lane e.1 = { g.lane e.1 with qread := e.2.getLsbD 7, hexh := e.2.getLsbD 6, wovf := e.2.getLsbD 5 }) ∧
        (∀ l, l ∉ vals.map (·.1) → h.lane l = g.lane l) ∧
        (vals = [] → h.fl = g.fl ∧ h.te = g.te) ∧
        ∀ l v rest, vals = (l, v) :: rest → h.fl = v.extractLsb' 0 5 ∧ h.te = v.extractLsb' 16 5
    | .snap => (s.blocks.map (·.1)).Nodup → ((t.part p).snheld = true) ∧
        (q.snheld = false → (t.part p).snTrig = 16 * s.turn ∧ (t.part p).snmiss = q.snmiss ∧
          ∀ b x, tget s.blocks b = some x → (s.grid x.grid).pid = p →
            (t.block b).snap = if x.released then [] else s.blockSnap b 1 (16 * s.turn)) ∧
        (q.snheld = true → q.snTrig = 16 * s.turn → (t.part p).snmiss = q.snmiss ∧
          ∀ b x, tget s.blocks b = some x → (s.grid x.grid).pid = p → x.released = false →
            (t.block b).snap = lmod x.snap 0xC (fun v => v ||| 1)) ∧
        (q.snheld = true → q.snTrig ≠ 16 * s.turn →
          t = s.modPart p (fun q => { q with pend := [], snmiss := Nat.min (q.snmiss + 1) 65535 }))
    | .evt bs => t = if q.elogwp - q.elogrd = q.elogsz then s.modPart p (fun q => { q with pend := [], elogdrop := q.elogdrop + 1 })
        else ({ s with hbm := s.hbm.write (q.elogbase.toNat + 32 * (q.elogwp.toNat % Nat.max q.elogsz.toNat 1)) bs } : State).modPart p
          (fun q => { q with pend := [], elogwp := q.elogwp + 1 })
    | .parity c n slot => (∀ k, k ≠ c → t.core k = s.core k) ∧ (∀ m, m ≠ n → tget (t.core c).lines m = tget (s.core c).lines m) ∧
        ∀ l, tget (s.core c).lines n = some l → tget (t.core c).lines n = some { l with lw := l.lw ^^^ (1#32 <<< (24 + slot)) }) ∧
  (∀ (s : State) (p : Nat) (a b : Pending), p < 8 → s.parts.length = 8 → a.due ≤ s.turn → b.due ≤ s.turn → a.write ≠ .snap → b.write ≠ .snap →
    a.core < 256 → b.core < 256 → a.quarter < 4 → b.quarter < 4 →
    a.tick < b.tick ∨ (a.tick = b.tick ∧ (a.core < b.core ∨ (a.core = b.core ∧ a.quarter < b.quarter))) →
    let only := fun (s : State) (ws : List Pending) => s.modPart p (fun q => { q with pend := ws })
    ∀ ws ∈ [[a, b], [b, a]], (only s ws).applyWrites p false = (only ((only s [a]).applyWrites p false) [b]).applyWrites p false) ∧
  ∀ (s : State) (p : Nat), p < 8 → ∀ w ∈ (s.part p).pend,
    (w.write ≠ .snap → s.duePart p = none → s.turn < w.due) ∧ (w.write = .snap → s.dueLand = none → s.turn < w.due)

/-- 16 R372–R379: the system instructions, and the writes that they leave to a later turn. The three parts hold. -/
def Obligations.SystemInstructions : Prop := SystemWords ∧ QuenchAndInject ∧ PendingWrites

/-- 17 R385, R389, R392, R393: `trap` parks its lanes with SOFTWARE and its code in INFO; `rti` in a handler marks its lanes as
having reached it, where they wait for the handler's end, and outside a handler it is ILLEGAL, class 7. -/
def TrapAndReturnWords : Prop :=
  ∀ (c : Ctl) (code : BitVec 16) (s : State) (x : Issue) (g : Group), g.lanes.length = 64 →
    (g.hphase = .idle → Accepts (.trap c code) s x g →
      ParksAll (.trap c code) s x g (fun _ => { trap := 0x0C, cause := 0, info := code.toNat })) ∧
    (let k := ctxOf (.rti c) s x g
     Accepts (.rti c) s x g → k.sel ≠ 0 →
      (g.hphase = .running → ∃ t h, exec (.rti c) s = .next t ∧ OnlyGroup x.gid s t ∧ tget t.groups x.gid = some h ∧
        t.issue = some { x.ran (.rti c) with rtiDone := true } ∧ ∀ l, l < 64 → h.lane l =
          if k.sel.getLsbD l then { (g.lane l).waitsFor .rti k.tick with hand := .reached } else g.lane l) ∧
      (g.hphase = .idle → ∃ t h, exec (.rti c) s = .next t ∧ OnlyGroup x.gid s t ∧ tget t.groups x.gid = some h ∧ ∀ l, l < 64 → h.lane l =
          if k.sel.getLsbD l && (g.lane l).isLive && (g.lane l).trec.isNone then
            (g.lane l).parkedAt x.pc { trap := 1, cause := 7, word := x.word } else g.lane l))

/-- 02 R60–R62, 01 R24, 16 R372 and 17 R385: `div` and `rem` park every lane that reaches them with ILLEGAL, class 3, and the fill word
with FILL_WORD; a word of the wrong role, with illegal fields, privileged in an unprivileged grid, or an engine command of a
partial mask, whatever the word, parks them with ILLEGAL and its class. -/
def UnexecutedWordsTrap : Prop :=
  (∀ (t : Ty) (rest : BitVec 80) (s : State) (x : Issue) (g : Group),
     s.issue = some x → tget s.groups x.gid = some g → g.lanes.length = 64 → g.hphase = .idle →
       let parks := fun (i : Instr) (r : TrapRec) => ∃ u h, exec i s = .next u ∧ OnlyGroup x.gid s u ∧ tget u.groups x.gid = some h ∧
         u.issue = some { x with rejected := true, stall := 0 } ∧ ∀ l, l < 64 → h.lane l =
           if x.iset.getLsbD l && (g.lane l).isLive && (g.lane l).trec.isNone then (g.lane l).parkedAt x.pc { r with word := x.word } else g.lane l
       parks (.div t rest) { trap := 1, cause := 3 } ∧ parks (.rem t rest) { trap := 1, cause := 3 } ∧ parks .fillWord { trap := 2, cause := 1 }) ∧
  (∀ (i : Instr) (c : Ctl) (s : State) (x : Issue) (g : Group), i.ctl? = some c → s.issue = some x → tget s.groups x.gid = some g →
     g.lanes.length = 64 → g.hphase = .idle →
     let parks := fun (cls : Nat) (keeps : Bool) => ∃ t h, exec i s = .next t ∧ OnlyGroup x.gid s t ∧ tget t.groups x.gid = some h ∧
       t.issue = some { x with rejected := x.rejected || !keeps, stall := (if keeps then c.stall else 0), stop := x.stop || (keeps && c.stop) } ∧
       ∀ l, l < 64 → h.lane l =
         if x.iset.getLsbD l && (g.lane l).isLive && (g.lane l).trec.isNone then
           (g.lane l).parkedAt x.pc { trap := 1, cause := cls, word := x.word } else g.lane l
     let role := roleOk i.opc g.role
     let fields := !x.lineBad && i.wf g.nregs
     let priv := !needsPriv i || ((s.grid g.grid).priv && (i.opc != 0xE6 || (s.part g.pid).test))
     (role = false → parks 4 false) ∧
     (role = true → fields = false → parks 2 false) ∧
     (role = true → fields = true → priv = false → parks 6 true) ∧
     (role = true → fields = true → priv = true → isEngine i.opc = true → predSel g x.iset i ≠ g.live → parks 5 true))

/-- 01 R24, 16 R372, R373, 08 R176, 07 R146, 16 R377: the roles that may issue each major opcode, with `spill`, `fill`, `fence`,
`bclose` and `bwait` apart; the privileged words; and the engine commands, for which a partial mask is illegal. -/
def DecodeCheckTables : Prop :=
  (∀ (opc : Nat) (r : Role), opc < 256 → (roleOk opc r = true ↔
    opc ≤ 0x3F ∨ 0xD0 ≤ opc ∨ opc ∈ [0xA2, 0xA3, 0xAA, 0xC6, 0xC7] ∨
    ((0x40 ≤ opc ∧ opc ≤ 0x8F) ∧ r ∈ [Role.vector, .general]) ∨ ((0x90 ≤ opc ∧ opc ≤ 0x9F) ∧ r = .matrix) ∨
    ((0xA0 ≤ opc ∧ opc ≤ 0xBF) ∧ r ∈ [Role.vector, .general]) ∨ ((0xC0 ≤ opc ∧ opc ≤ 0xCF) ∧ r ∈ [Role.stoker, .general]))) ∧
  (∀ i : Instr, i.opc ∈ [0xA2, 0xA3, 0xAA, 0xC6, 0xC7] ↔
    match i with
    | .spill .. | .fill .. | .fence .. | .bclose .. | .bwait .. => True
    | _ => False) ∧
  (∀ i : Instr, needsPriv i = true ↔
    match i with
    | .mtol .. | .finj .. => True
    | .syswr _ n _ => n ≠ 0x009
    | _ => False) ∧
  ∀ i : Instr, isEngine i.opc = true ↔
    match i with
    | .mma .. | .mloop .. | .mmab .. | .mzero .. | .maccLd .. | .maccSt .. | .mdrain .. | .mchk .. | .mloc .. | .mfix .. | .mretry ..
    | .mtol .. => True
    | _ => False

/-- 17 R392, R393, 02 R60, R61: `trap`, `rti`, the emulation class and the fill word, and the tables of the decode checks that depend
on the group. The three parts hold. -/
def Obligations.TrapsAndReturns : Prop := TrapAndReturnWords ∧ UnexecutedWordsTrap ∧ DecodeCheckTables

/-- 02 R55, R57 and 17 R385: with SBCHK set, a lane that reads a register, its predicate or the latch while a result of its own for it is
still on its way parks with UNDERSIZED_STALL, cause 1, as every lane of a STOP word does over results that have not landed; the other
lanes get their results. With SBCHK clear no lane parks so, whatever the word. Stated of `mov`, whose check is that of every word. That
a read of the latch is early only while no other result has landed there since the pending word issued is the model's reading (log
entry 29). -/
def Obligations.EarlyReadersPark : Prop :=
  (∀ (i : Instr) (s : State) (g : Group) (m n : Mask), (s.part g.pid).sbchk = false → s.undersized i g m n = 0) ∧
  (∀ (c : Ctl) (t : Ty) (d a : Opnd) (s : State) (g : Group) (iset : Mask) (l : Nat), (s.part g.pid).sbchk = true → l < 64 →
    let i : Instr := .mov c t d a
    let meets := fun (p : Landing) (u w n : Nat) => w < u + n ∧ (u ≤ w ∨ ∃ r ∈ p.res, u < w + r.ws.length)
    let reads := fun (o : Opnd) (n : Nat) => ∃ p ∈ g.pend, (∃ r ∈ p.res, r.lane = l) ∧
      match o, p.dst with
      | .lat, _ => (g.lane l).latSeq < p.seq
      | .v u, .v w => meets p u.toNat w.toNat n
      | .o u, .o w => meets p u.toNat w.toNat n
      | _, _ => False
    (s.undersized i g iset (predSel g iset i)).getLsbD l = true ↔
      (c.pe = true ∧ iset.getLsbD l = true ∧ reads (.v c.p) 1) ∨
      (c.stop = true ∧ iset.getLsbD l = true ∧ ∃ p ∈ g.pend, p.kind = .ord ∧ p.res ≠ [] ∧ s.turn < p.due) ∨
      ((predSel g iset i).getLsbD l = true ∧ reads a t.regs)) ∧
  ∀ (c : Ctl) (t : Ty) (d a : Opnd) (s : State) (x : Issue) (g : Group),
    let i : Instr := .mov c t d a
    let early := s.undersized i g x.iset (predSel g x.iset i)
    let k := wordCtx s x g (predSel g x.iset i &&& ~~~early)
    s.issue = some x → tget s.groups x.gid = some g → s.rejects i g x.iset x.lineBad = none → g.lanes.length = 64 → g.hphase = .idle →
      ∃ u h, exec i s = .next u ∧ OnlyGroup x.gid s u ∧ tget u.groups x.gid = some h ∧
        h.pend = g.pend ++ [{ due := s.turn + 1, seq := g.seq + 1, dst := d, pc := x.pc
                              res := k.each t.regs (fun l => ((k.src s t.regs l a).toNat, 0)) }] ∧
        ∀ l, l < 64 → h.lane l = if early.getLsbD l && (g.lane l).isLive && (g.lane l).trec.isNone then
          (g.lane l).parkedAt x.pc { trap := 5, cause := 1, word := x.word } else g.lane l

/-- 16 R352, R355: PLAY reads 0xFFFFFFFF and both shadow counts read 0 after reset, and no partition holds a context. 13 R277,
R312: LIM is 1,024 and BWDOG 2^24 then, and the command OPEN keeps what the driver has written into them since (21 and 23 write
them before OPEN). 14 R292, 08 R174: OPEN leaves every semaphore at 0 and every tolerance at 0x0E01; that the tolerances start
with OPEN is the model's reading (log entry 2). -/
def Obligations.ResetAndStartValues : Prop :=
  State.reset.regRead 0x10 = 0xFFFFFFFF ∧ State.reset.regRead 0x14 = 0 ∧
  (∀ p, p < 8 → (State.reset.part p).st = .empty ∧ (State.reset.part p).fairlim = 0x400 ∧ (State.reset.part p).bwdog = 0x01000000) ∧
  ∀ (s : State) (p : Nat) (ds : Bool), p < 8 → s.parts.length = 8 → (s.part p).st = .empty → s.dev.fwok = true →
    ∃ t, exec (.openCmd p ds) s = .next t ∧ (t.part p).st = .clearing ∧ (t.part p).cstat = 0 ∧ (t.part p).fairlim = (s.part p).fairlim ∧
      (t.part p).bwdog = (s.part p).bwdog ∧ (∀ i, (t.part p).sem i = 0) ∧
      (∀ ty ∈ [Ty.bf16, .f16, .e4m3, .e5m2, .e3m2, .e2m1], (t.part p).tolOf ty = 0x0E01) ∧
      (∀ g ∈ t.groups, g.2.pid ≠ p) ∧ ∀ r ∈ t.grids, r.2.pid ≠ p

/-- The words that the spec writes out in its examples decode to the instructions they stand for, and words with a reserved
bit, an unassigned opcode or a SUB outside its space to none. -/
def Obligations.SpecWordsDecode : Prop :=
  let ok := fun (w : IWord) (i : Instr) => decode w = .ok i
  let k := fun (stop : Bool) (stall : BitVec 4) => ({ pe := false, pn := false, p := 0, stop := stop, stall := stall } : Ctl)
  ok 0x10030000000030102103C312 (.add { pe := true, pn := true, p := 12, stop := true, stall := 2 } .s32 false (.o 3) (.v 8) (.spec 1)) ∧
  ok 0x01003FFFFFFCC00000000000 (.bra (k false 0) (-13)) ∧
  ok 0x030000000000C00008000000 (.brnz (k false 0) (.v 2) 3) ∧
  ok 0x28032000000037F008050001 (.cmp (k false 1) .s32 .lt (.v 5) (.v 2) (.spec 127)) ∧
  ok 0x701811800000000008050001 (.cvt (k false 1) .e4m3 .f32 true .rn (.v 5) (.v 2)) ∧
  ok 0x821280000002806010100001 (.wfma (k false 1) true (.v 16) (.v 4) (.v 6) (.v 10)) ∧
  ok 0x901340000010008000400004 (.mma (k false 4) .bf16 true none (.v 64) (.v 0) (.v 8) (.v 64)) ∧
  ok 0x980040000000000000280001 (.mloc (k false 1) 2 (.v 40)) ∧
  ok 0xA0D000004000000008040005 (.ld (k false 5) .die .b64 none (.v 4) (.v 2) 64) ∧
  ok 0xC00008008001804008080000 (.cpy (k false 0) false 1 false true (.v 8) (.v 2) (.v 4) (.v 6)) ∧
  ok 0xC70000000000400C00000010 (.bwait (k true 0) (.spec 0) 1) ∧
  ok 0xC840000010018000080C0000 (.rmtLd (k false 0) .b32 none (.v 12) (.v 2) (.v 6) 16) ∧
  ok 0xD20000000000005010000010 (.bbar (k true 0) (.v 4) (.v 5)) ∧
  ok 0xD6000000000000000808000F (.launch (k false 15) (.v 8) (.v 2)) ∧
  ok 0xE30000000C0000000C000010 (.syswr (k true 0) 0x00C (.v 3)) ∧
  ok 0xE00000000300000000008140 (.trap { pe := true, pn := false, p := 5, stop := false, stall := 0 } 3) ∧
  ok (BitVec.allOnes 96) .fillWord ∧
  (∀ i, ¬ ok 0x10030000000030102103C332 i) ∧ (∀ i, ¬ ok 0x0D0000000000000000000000 i) ∧ ∀ i, ¬ ok 0x100B00000000000000000000 i

/-- 02 R45–R51, R61, R62: decoding the word of any well-formed instruction gives that instruction back, with every operand and
modifier at every value that its encoding admits. -/
def Obligations.DecodeOfEncode : Prop :=
  ∀ (i : Instr) (N : Nat) (w : IWord), i.wf N = true → encode i = some w → decode w = .ok i

/-- 02 R46, R47, R62: a word that decodes is the word of the instruction it gives: no bit of it is dropped. -/
def Obligations.EncodeOfDecode : Prop :=
  ∀ (i : Instr) (w : IWord), decode w = .ok i → (w.extractLsb' 88 8 ≠ 0xFF → encode i = some w) ∧ (w.extractLsb' 88 8 = 0xFF → i = .fillWord)

/-- 01 R17, 02 R39, R60-R62, 13 R270: with an issue in progress a step runs the instruction that its word decodes to and then what
follows a word. A word that is no instruction parks the lanes that reach it with ILLEGAL and its class, the role check coming before the
SUB and the fields, and then what follows a word happens. Which words those are: the emulation class but for `div` and `rem`, the
unassigned opcodes, and a SUB outside its opcode's space. The word of an issue that begins is the one at the PC of its lanes. -/
def Obligations.StepRunsTheWord : Prop :=
  (∀ (s : State) (x : Issue) (i : Instr), s.issue = some x → decode x.word = .ok i →
    step s = match exec i s with
      | .next t => .next t.finishWord
      | .fault r => .fault r
      | .refused r => .refused r) ∧
  (∀ (s : State) (x : Issue) (g : Group) (e : DecErr), s.issue = some x → decode x.word = .error e → tget s.groups x.gid = some g →
    g.lanes.length = 64 → g.hphase = .idle →
    let role := roleOk (x.word.extractLsb' 88 8).toNat g.role
    let cls := match e with
      | .emul => 3
      | .unassigned => 1
      | .sub => if role then 1 else 4
      | .reserved => if role then 2 else 4
    ∃ t h, step s = .next t.finishWord ∧ OnlyGroup x.gid s t ∧ tget t.groups x.gid = some h ∧
      t.issue = some { x with rejected := true, stall := 0 } ∧ ∀ l, l < 64 → h.lane l =
        if x.iset.getLsbD l && (g.lane l).isLive && (g.lane l).trec.isNone then
          (g.lane l).parkedAt x.pc { trap := 1, cause := cls, word := x.word } else g.lane l) ∧
  (∀ w : IWord,
    let opc := (w.extractLsb' 88 8).toNat
    let sub := w.extractLsb' 80 8
    let within := fun (l : List (Nat × Nat)) => ∃ r ∈ l, r.1 ≤ opc ∧ opc ≤ r.2
    (decode w = .error .emul ↔ within [(0xF0, 0xF7)] ∧ ¬ (opc = 0xF2 ∧ ∃ t ∈ [Ty.s32, .n32, .s64, .n64], sub &&& 0x7F#8 = t.enc)) ∧
    (decode w = .error .unassigned ↔ within [(0x0D, 0x0F), (0x2E, 0x2F), (0x37, 0x3F), (0x46, 0x4F), (0x63, 0x6F), (0x74, 0x7F),
      (0x86, 0x8F), (0x9D, 0x9F), (0xAE, 0xBF), (0xCC, 0xCF), (0xDB, 0xDF), (0xE9, 0xEF), (0xF8, 0xFE)]) ∧
    (decode w = .error .sub ↔ ∃ o : Op, o.code = opc ∧ o.subOk sub.toNat = false)) ∧
  ∀ (s t : State) (j : Nat) (g : Group) (i : Instr), s.groupTurn j g = .word i t →
    ∃ x, t.issue = some x ∧ x.gid = j ∧ decode x.word = .ok i ∧ x.word = s.wordAt g x.pc.toNat ∧
      -- the word's slot, and the next one's, have their TGT bit set
      ((s.grid g.grid).base % 64 = 0 → slotPc (s.grid g.grid).base x.pc.toNat = true → (x.tgt = true ↔ IsTarget s g x.pc.toNat) ∧
        ∀ w, x.second = some w → (x.tgt2 = true ↔ IsTarget s g (x.pc.toNat + 12)))

/-- 02 R45, R52, 13 R271, R275, 18 R401, R402: after a word, each lane of I that is live, not parked and has taken no transfer stands at the next
slot, the others stay; no register changes; the wait counts of the lanes passed over rise, and the group's next issue comes
after the stall. The signature of a lane that the word does not park is the CRC-32C of its span with the word's 12 bytes added, of a new span where the
word's slot has its TGT bit set, and of an empty span after `sigchk`; a parked lane and a lane outside I keep theirs. The second word of a pair follows
in the same issue. -/
def Obligations.LanesMovePastTheWord : Prop :=
  ∀ (s : State) (x : Issue) (g : Group), s.issue = some x → x.void = false → tget s.groups x.gid = some g → g.lanes.length = 64 →
    let base := (s.grid g.grid).base
    let moves := fun l => x.iset.getLsbD l && (g.lane l).isLive && (g.lane l).trec.isNone && !x.moved.getLsbD l
    let stays := fun (h : Group) => ∀ l, l < 64 → (h.lane l).pc = (if moves l then succPc base x.pc else (g.lane l).pc) ∧
      (h.lane l).v = (g.lane l).v ∧ (h.lane l).o = (g.lane l).o ∧ (h.lane l).lat = (g.lane l).lat ∧ (h.lane l).life = (g.lane l).life ∧
      (h.lane l).depth = (g.lane l).depth
    let signs := fun (h : Group) => ∀ l, l < 64 →
      (x.iset.getLsbD l = false ∨ ((g.lane l).isLive = true ∧ (g.lane l).trec.isSome = true) → (h.lane l).sig = (g.lane l).sig) ∧
      (x.iset.getLsbD l = true → (g.lane l).trec = none → (g.lane l).life ≠ .quenched →
        (x.word.extractLsb' 88 8 = 0x0A#8 → (h.lane l).sig = crc32c []) ∧
        (x.word.extractLsb' 88 8 ≠ 0x0A#8 → ∀ span, (g.lane l).sig = crc32c span →
          (h.lane l).sig = crc32c ((if x.tgt then [] else span) ++ toBytes 12 x.word.toNat)))
    (x.second = none → ∃ h, tget s.finishWord.groups x.gid = some h ∧ s.finishWord.issue = none ∧ stays h ∧ signs h ∧
      h.next = s.turn + 1 + x.extra + x.stall.toNat ∧
      ∀ l, l < 64 → (h.lane l).w = if x.all.getLsbD l || !g.selectable (g.lane l) then 0
        else if (g.lane l).w = 0xFFFF then 0xFFFF else (g.lane l).w + 1) ∧
    (∀ w, x.second = some w → ∃ h q, tget s.finishWord.groups x.gid = some h ∧ s.finishWord.issue = some q ∧ stays h ∧ signs h ∧ q.word = w ∧ q.pc = succPc base x.pc ∧
        q.tgt = x.tgt2 ∧
        ∀ l, l < 64 → q.iset.getLsbD l = (x.iset.getLsbD l && (g.lane l).isLive && (g.lane l).trec.isNone))

/-- The far memories keep their canonical form in every step, from every state that has it. -/
def Obligations.MemoryStaysCanonical : Prop :=
  ∀ s t, s.memOk → step s = .next t → t.memOk

/-- Block, die and spill scratch keep their canonical form in every step, from every state that has it. -/
def Obligations.ScratchStaysCanonical : Prop :=
  ∀ s t, s.scratchOk → step s = .next t → t.scratchOk

/-- All memories have their canonical form after reset. -/
def Obligations.ResetMemoryIsCanonical : Prop := State.reset.memOk ∧ State.reset.scratchOk

/-- 02 R53, 09 R187, 10 R210, 16 R374: an instruction word itself changes no memory, no register of a lane, no flag, no accumulator word and
no register of a partition; its results, stores, copies and register writes come in later steps. -/
def Obligations.WordsKeepStorage : Prop :=
  ∀ (i : Instr) (s t : State), i.ctl?.isSome = true ∨ i = .fillWord ∨ (∃ ty r, i = .div ty r ∨ i = .rem ty r) →
    exec i s = .next t → KeepsStorage s t

/-- 09 R187, R188, R192, R194, R195: a store at its bank turn. Every byte outside those it stores reads as before, in every memory; a byte
stored by one lane alone reads as that lane's byte, one stored by several as the highest-numbered lane's. A granule that the lanes together
store in full loses its poison mark, every other one keeps it, and no granule gains one. -/
def Obligations.StoresWriteTheirBytes : Prop :=
  ∀ (s : State) (x : Access) (n : Nat), s.hasSpace x.space → Memory.wf (s.ram x.space).cells = true → (∀ l ∈ x.lanes, widthOk x.space l n) →
    let t := s.applyStore x n
    (∀ a, (∀ l ∈ x.lanes, ∀ j, j < n → byteAdr x.space l j ≠ a) → memRd (t.ram x.space).cells a = memRd (s.ram x.space).cells a) ∧
    (∀ l ∈ x.lanes, (∀ m ∈ x.lanes, m ≠ l → ∀ i j, i < n → j < n → byteAdr x.space m i ≠ byteAdr x.space l j) →
      ∀ j, j < n → memRd (t.ram x.space).cells (byteAdr x.space l j) = BitVec.ofNat 8 (ofWords l.b / 256 ^ j)) ∧
    ((x.lanes.map (·.lane)).Pairwise (· < ·) → ∀ l ∈ x.lanes, ∀ j, j < n →
      (∀ m ∈ x.lanes, l.lane < m.lane → ∀ i, i < n → byteAdr x.space m i ≠ byteAdr x.space l j) →
      memRd (t.ram x.space).cells (byteAdr x.space l j) = BitVec.ofNat 8 (ofWords l.b / 256 ^ j)) ∧
    (∀ q, q ∈ (t.ram x.space).poison ↔
      q ∈ (s.ram x.space).poison ∧ ¬ ∀ i, i < 64 → ∃ l ∈ x.lanes, ∃ j, j < n ∧ byteAdr x.space l j = 64 * q + i) ∧
    (∀ sp, s.hasSpace sp → sp ≠ x.space → t.ram sp = s.ram sp) ∧ t.hbm = s.hbm ∧ t.host = s.host ∧
    ∀ g l, ((t.group g).lane l).v = ((s.group g).lane l).v

/-- The load half of a bank turn (09 R191, R194, R195): no memory changes, each lane gets the bytes that stand there, extended by its size,
and the live lanes whose bytes are poisoned are quenched with cause 1. -/
def Loads (s : State) (x : Access) (sz : Size) (t : State) : Prop :=
  (∀ sp, t.ram sp = s.ram sp) ∧ t.hbm = s.hbm ∧
  GivesRes x s t ((x.lanes.filter (fun l => !s.lanePoisoned x.space l sz.bytes)).map (fun l =>
    let v := s.laneValue x.space l sz.bytes
    { lane := l.lane, ws := toWords sz.regs (match sz with
        | .s8 => (((BitVec.ofNat 8 v).signExtend 32) : Word).toNat
        | .s16 => (((BitVec.ofNat 16 v).signExtend 32) : Word).toNat
        | _ => v) })) ∧
  (∀ l ∈ x.lanes, ((t.group x.gid).lane l.lane).life =
    if s.lanePoisoned x.space l sz.bytes ∧ ((s.group x.gid).lane l.lane).life = .live then .quenched else ((s.group x.gid).lane l.lane).life) ∧
  ((∃ l ∈ x.lanes, s.lanePoisoned x.space l sz.bytes ∧ ((s.group x.gid).lane l.lane).life = .live) → (t.group x.gid).qcause = 1)

/-- 09 R191, R194–R196: a load or `fill` at its bank turn. An atomic of one lane gives the old value and writes the new one
of R196 to its bytes alone, and one of several lanes is its lanes' atomics one after another, ascending. -/
def LoadsAndAtomics : Prop :=
  (∀ (s : State) (x : Access) (sz : Size) (g : Group), tget s.groups x.gid = some g → g.lanes.length = 64 →
    (∀ l ∈ x.lanes, l.lane < 64) → (x.lanes.map (·.lane)).Nodup →
    (∀ q, x.space = .spill q → sz.bytes % 4 = 0 ∧ ∀ l ∈ x.lanes, l.adr % 4 = 0) →
    Loads s x sz (s.applyLoad x sz) ∧
    (∀ l, l < 64 → ((s.applyLoad x sz).group x.gid).lane l = g.lane l ∨ ∃ m ∈ x.lanes, m.lane = l ∧ s.lanePoisoned x.space m sz.bytes)) ∧
  (∀ (s : State) (x : Access) (op : AOp) (l : ALane), s.hasSpace x.space → Memory.wf (s.ram x.space).cells = true → x.lanes = [l] →
    let n := 4 * op.regs
    let old := BitVec.ofNat (8 * n) (leNat (memRead (s.ram x.space).cells l.adr n))
    let b := BitVec.ofNat (8 * n) (ofWords l.b)
    let new : BitVec (8 * n) := match op with
      | .add32 | .add64 => old + b
      | .minS => if b.slt old then b else old
      | .minN => if b < old then b else old
      | .maxS => if old.slt b then b else old
      | .maxN => if old < b then b else old
      | .and => old &&& b
      | .or => old ||| b
      | .xor => old ^^^ b
      | .xchg32 | .xchg64 => b
      | .inc => if b ≤ old then 0 else old + 1
      | .dec => if old = 0 ∨ b < old then b else old - 1
      | .fadd => BitVec.ofNat (8 * n) (Fmt.f32.sum .rn [] [Fmt.f32.decode old.toNat, Fmt.f32.decode b.toNat]).1
      | .cas32 | .cas64 => if old = b then BitVec.ofNat (8 * n) (ofWords l.c) else old
    (∀ w ∈ [l.b, l.c], ofWords w < 2 ^ (8 * n)) → (s.ram x.space).poisoned l.adr n = false → ∀ ret,
      let t := s.applyAtom x op ret
      leNat (memRead (t.ram x.space).cells l.adr n) = new.toNat ∧
      (∀ a, (a < l.adr ∨ l.adr + n ≤ a) → memRd (t.ram x.space).cells a = memRd (s.ram x.space).cells a) ∧
      (ret = true → (t.group x.gid).pend = (s.group x.gid).pend.map (fun p => if p.seq == x.seq then
        { p with res := [{ lane := l.lane, ws := toWords op.regs old.toNat }] } else p))) ∧
  ∀ (s : State) (x : Access) (op : AOp) (l : ALane) (ls : List ALane), x.lanes = l :: ls → ∀ ret,
    (s.applyAtom x op ret).ram x.space = ((s.applyAtom { x with lanes := [l] } op ret).applyAtom { x with lanes := ls } op ret).ram x.space

/-- 09 R198–R200: `ldr` and `stc` at their bank turns. `ldr` loads, and each live lane that stands takes a reservation on the granule
of its address in place of any it had, held when its STARVE bit is set; those of one `ldr` are in the order of its lanes. The `stc` of
a lane writes when the lane holds a reservation on the granule and no other lane's held one stands there, but for a lane whose
own held one is earlier; it gives 1 or 0, ends the reservation, sets STARVE on failure and clears it on success, and a
write ends the other reservations on the granule. The lanes of one `stc` apply in ascending order. -/
def ReservedAccesses : Prop :=
  ∀ (s : State) (x : Access) (g : Group), tget s.groups x.gid = some g → g.lanes.length = 64 → (∀ l ∈ x.lanes, l.lane < 64) →
    (x.lanes.map (·.lane)).Nodup → (∀ q, x.space ≠ .spill q) →
    (∀ sz, let t := s.applyLdr x sz
      let now := fun (l : ALane) => (t.group x.gid).lane l.lane
      let takes := fun (l : ALane) => ¬ s.lanePoisoned x.space l sz.bytes ∧ (g.lane l.lane).life = .live ∧ (g.lane l.lane).trec = none
      Loads s x sz t ∧
      (∀ l ∈ x.lanes, takes l → ∃ o, s.ident ≤ o ∧ o < t.ident ∧
        (now l).resv = some { space := x.space, granule := l.adr / 16, held := (g.lane l.lane).starve, order := o }) ∧
      x.lanes.Pairwise (fun l m => takes l → takes m → ∀ p q, (now l).resv = some p → (now m).resv = some q → p.order < q.order) ∧
      ∀ l, l < 64 → (∀ m ∈ x.lanes, m.lane ≠ l) → (t.group x.gid).lane l = g.lane l) ∧
    (∀ (l : ALane) (n : Nat), x.lanes = [l] → s.hasSpace x.space → Memory.wf (s.ram x.space).cells = true → n = 4 ∨ n = 8 → l.adr % n = 0 →
      (s.groups.map (·.1)).Nodup →
      let t := s.applyStc x n
      let stands := fun (j m : Nat) (q : Resv) =>
        ∃ h, tget s.groups j = some h ∧ m < h.lanes.length ∧ (h.lane m).resv = some q ∧ q.space = x.space ∧ q.granule = l.adr / 16
      let ok := ∃ r, stands x.gid l.lane r ∧
        ∀ j m q, stands j m q → q.held = true → (j, m) ≠ (x.gid, l.lane) → r.held = true ∧ r.order < q.order
      let me := (t.group x.gid).lane l.lane
      me.resv = none ∧
      (ok → me.starve = false ∧ GivesRes x s t [{ lane := l.lane, ws := [1] }] ∧ MemIs (s.ram x.space).cells (t.ram x.space).cells
          [(l.adr, n, ofWords l.b % 2 ^ (8 * n))] ∧
        ∀ j m q, stands j m q → ((t.group j).lane m).resv = none) ∧
      (¬ ok → me.starve = true ∧ GivesRes x s t [{ lane := l.lane, ws := [0] }] ∧ (∀ sp, t.ram sp = s.ram sp) ∧
        ∀ j m, (j, m) ≠ (x.gid, l.lane) → ((t.group j).lane m).resv = ((s.group j).lane m).resv)) ∧
    ∀ (l : ALane) (ls : List ALane) (n : Nat), x.lanes = l :: ls → ls ≠ [] →
      let t1 := s.applyStc { x with lanes := [l] } n
      let t2 := t1.applyStc { x with lanes := ls } n
      (∀ sp, ((s.applyStc x n).ram sp).cells = (t2.ram sp).cells) ∧ (∀ j, ((s.applyStc x n).group j).lanes = (t2.group j).lanes) ∧
      ∃ a b, GivesRes x s t1 a ∧ GivesRes x t1 t2 b ∧ GivesRes x s (s.applyStc x n) (a ++ b)

/-- 09 R205–R208, 17 R385: `halloc` and `hfree` at their bank turns, by the bytes of the descriptor. A pop, a bump or a failure of one
lane; several lanes in ascending order; mode 1 is mode 0 where no lane fails, and otherwise counts one failure and parks every
lane with HEAP_EXHAUSTED, the first failing lane and its cause. A free is accepted, dropped, or of a failed result. Poison quenches or
drops the whole step, and a stack word outside the allocation is an isolation violation. (The cause CORRUPT where n is also above 2^21 is
the model's: log entry 36. The die of STK's words is log entry 26.) -/
def HeapAccesses : Prop :=
  ∀ (s : State) (x : Access) (g : Group) (a : Nat) (l : ALane), tget s.groups x.gid = some g → g.lanes.length = 64 → (∃ p ∈ g.pend, p.seq = x.seq) →
    s.hasSpace x.space → (∀ q, x.space ≠ .spill q) → Memory.wf (s.ram x.space).cells = true → x.lanes ≠ [] →
    (∀ m ∈ x.lanes, m.adr = a ∧ m.lane < 64 ∧ ofWords m.b < 2 ^ 32) →
    let m := (s.ram x.space).cells
    let cells := fun (t : State) => (t.ram x.space).cells
    let limit := heapWord m a 0
    let bump := heapWord m a 1
    let more := fun (i : Nat) => (a + 4 * i, 4, (heapWord m a i + 1) % 2 ^ 32)
    let top := heapTop m a
    let named := fun (c k : Nat) => heapWord m a 2 + 4 * (heapDepth m a * c + k)
    let top' := fun (c v : Nat) => (a + 0x10 + 2 * c, 2, v)
    let quenched := fun (t : State) => (∀ sp, t.ram sp = s.ram sp) ∧ GivesRes x s t [] ∧
      ∀ q ∈ x.lanes, (g.lane q.lane).life = .live → ((t.group x.gid).lane q.lane).life = .quenched
    let outside := fun (t : State) (e : Nat) => (∀ sp, t.ram sp = s.ram sp) ∧
      ∃ f, (t.part g.pid).faults = (s.part g.pid).faults ++ [f] ∧ f.bit = 0 ∧ f.cause = 2 ∧ f.adr = BitVec.ofNat 64 e
    let clean := (s.ram x.space).poisoned a 64 = false
    ((s.ram x.space).poisoned a 64 = true → (∀ mode1, quenched (s.applyHalloc x mode1)) ∧
      (∀ sp, (s.applyHfree x).ram sp = s.ram sp) ∧ ((s.applyHfree x).group x.gid).nrec = min (g.nrec + 1) 4095) ∧
    -- one lane
    (∀ c, x.lanes = [l] → clean → HeapClass (ofWords l.b) c →
      let n := ofWords l.b
      let t := s.applyHalloc x false
      let good := ¬ HeapCorrupt m a ∧ n ≤ 2 ^ 21
      let e := heapEntry m a c (top c - 1)
      (good → 0 < top c → HeapFits s g x.space a → (s.ram x.space).poisoned e 4 = false →
        MemIs m (cells t) [top' c (top c - 1), more 12] ∧ GivesRes x s t [{ lane := l.lane, ws := [BitVec.ofNat 32 (leNat (memRead m e 4))] }]) ∧
      (good → 0 < top c → HeapFits s g x.space a → (s.ram x.space).poisoned e 4 = true → ∀ mode1, quenched (s.applyHalloc x mode1)) ∧
      (good → 0 < top c → s.stackEnd g ≤ heapWord m a 2 ∨ s.spaceSize x.space < e + 4 → g.pid < s.parts.length →
        ∀ mode1, outside (s.applyHalloc x mode1) (named c (top c - 1))) ∧
      (good → top c = 0 → bump + 64 * 2 ^ c ≤ limit →
        MemIs m (cells t) [(a + 4, 4, bump + 64 * 2 ^ c), more 12] ∧ GivesRes x s t [{ lane := l.lane, ws := [BitVec.ofNat 32 bump] }]) ∧
      (¬ good ∨ (top c = 0 ∧ limit < bump + 64 * 2 ^ c) →
        MemIs m (cells t) [more 13] ∧ GivesRes x s t [{ lane := l.lane, ws := [0xFFFFFFFF], fl := 0x40 }])) ∧
    (x.lanes = [l] → clean → (s.grid g.grid).desc.det = false →
      let b := ofWords l.b
      let n := ofWords l.c
      let t := s.applyHfree x
      (b = 0xFFFFFFFF → ∀ sp, t.ram sp = s.ram sp) ∧
      ∀ c, b ≠ 0xFFFFFFFF → HeapClass n c →
        let good := ¬ HeapCorrupt m a ∧ n ≤ 2 ^ 21 ∧ b % 64 = 0 ∧ b + 64 * 2 ^ c ≤ limit ∧ top c ≠ heapDepth m a
        let e := heapEntry m a c (top c)
        (¬ good → MemIs m (cells t) [more 14]) ∧
        (good → HeapFits s g x.space a → MemIs m (cells t) [top' c (top c + 1), (a + 48, 4, (heapWord m a 12 + 2 ^ 32 - 1) % 2 ^ 32), (e, 4, b)]) ∧
        (good → s.stackEnd g ≤ heapWord m a 2 ∨ s.spaceSize x.space < e + 4 → g.pid < s.parts.length → outside t (named c (top c)))) ∧
    -- several lanes, and mode 1
    ((s.ram x.space).poison = [] → HeapFits s g x.space a →
      (∀ ls, x.lanes = l :: ls → ls ≠ [] →
        let t1 := s.applyHalloc { x with lanes := [l] } false
        let t2 := t1.applyHalloc { x with lanes := ls } false
        (∀ b, memRd (cells (s.applyHalloc x false)) b = memRd (cells t2) b) ∧
        (∃ p q, GivesRes x s t1 p ∧ GivesRes x t1 t2 q ∧ GivesRes x s (s.applyHalloc x false) (p ++ q)) ∧
        ((s.grid g.grid).desc.det = false → ∀ b, memRd (cells (s.applyHfree x)) b =
          memRd (cells ((s.applyHfree { x with lanes := [l] }).applyHfree { x with lanes := ls })) b)) ∧
      ∀ res, GivesRes x s (s.applyHalloc x false) res → (x.lanes.map (·.lane)).Nodup →
        ((∀ r ∈ res, r.fl = 0) → s.applyHalloc x true = s.applyHalloc x false) ∧
        ∀ before f rest, res = before ++ f :: rest → (∀ r ∈ before, r.fl = 0) → f.fl ≠ 0 →
          let t := s.applyHalloc x true
          MemIs m (cells t) [more 13] ∧ GivesRes x s t [] ∧
          (g.hphase = .idle → ∀ q ∈ x.lanes, (g.lane q.lane).life = .live → (g.lane q.lane).trec = none → ∃ r,
            ((t.group x.gid).lane q.lane).trec = some r ∧ ((t.group x.gid).lane q.lane).pc = x.pc ∧ r.trap = 8 ∧ r.info = f.lane ∧
            ∀ y ∈ x.lanes, y.lane = f.lane → (HeapCorrupt m a → r.cause = 2) ∧ (¬ HeapCorrupt m a → 2 ^ 21 < ofWords y.b → r.cause = 1) ∧
              (¬ HeapCorrupt m a → ofWords y.b ≤ 2 ^ 21 → r.cause = 3)))

/-- 14 R314, R294–R296: `launch` at its bank turn: the 64 bytes at its address are decoded; every lane gets the status word and the amount,
and the grid is accepted with the next GSEQ, or a KIND 4 record goes to the grid's stream with the status words, 95 turns on. A poisoned request
quenches the lanes. -/
def LaunchApplies : Prop :=
  (∀ (p : Nat) (s : State) (j : LateReject), p < 8 → s.parts.length = 8 → j.stream < 64 → (s.part p).rejects = [j] →
    (s.rejectsDue p = true ↔ j.due ≤ s.turn) ∧ (j.due ≤ s.turn → ((s.writeRejects p).part p).rejects = [] ∧
      RecordGoes p j.stream (({ kind := 4, tag := j.tag, lstat := j.lstat, amount := j.amount } : Rec).bytes j.stream 0) s (s.writeRejects p))) ∧
  ∀ (s : State) (x : Access) (g : Group) (l : ALane) (ls : List ALane), tget s.groups x.gid = some g → g.lanes.length = 64 → x.lanes = l :: ls →
    (∀ m ∈ x.lanes, m.lane < 64) → s.parts.length = 8 → g.pid < 8 → (s.grid g.grid).stream < 64 →
    let r := s.grid g.grid
    let bs := memRead (s.ram x.space).cells l.adr 64
    let t := s.applyLaunch x
    let gives := fun (st am : Word) => GivesRes x s t (x.lanes.map (fun m => { lane := m.lane, ws := [st, am] }))
    let clean := (s.ram x.space).poisoned l.adr 64 = false
    let next := (s.part g.pid).gctr % 65535 + 1
    ((s.ram x.space).poisoned l.adr 64 = true → GivesRes x s t [] ∧ t.grids.map (·.1) = s.grids.map (·.1) ∧
      ∀ m ∈ x.lanes, (g.lane m.lane).life = .live → ((t.group x.gid).lane m.lane).life = .quenched) ∧
    (∀ q, clean → s.launchDecode g.pid r.stream r.priv bs = .ok q →
      gives (BitVec.ofNat 32 next) 0 ∧ (t.part g.pid).gctr = next ∧ ∃ id n, n ≤ 512 + 64 * q.desc.nrange ∧
        tget t.grids id = some { q with gseq := next, acceptAt := s.turn, residentAt := some (s.turn + n) }) ∧
    (∀ res amount cause, clean → s.launchDecode g.pid r.stream r.priv bs = .error (res, amount, cause) →
      let st : Word := BitVec.ofNat 32 (2 ^ 28 + cause * 2 ^ 24 + res * 2 ^ 16)
      gives st (BitVec.ofNat 32 amount) ∧ t.grids = s.grids ∧ t.streams = s.streams ∧ t.hbm = s.hbm ∧
      (t.part g.pid).rejects = (s.part g.pid).rejects ++ [{
        due := x.bank + 95, stream := r.stream, tag := BitVec.ofNat 32 (field bs 4 4), lstat := st, amount := BitVec.ofNat 32 amount
        intr := (BitVec.ofNat 32 (field bs 0 4)).getLsbD 16 }])

/-- 09 R191, R194–R200, R205–R208, 14 R314: loads, atomics, reserved accesses, the heap and `launch` at their bank turns. -/
def Obligations.LoadsAndAtomicsApply : Prop := LoadsAndAtomics ∧ ReservedAccesses ∧ HeapAccesses ∧ LaunchApplies

/-! Events: each completes, with the effect that the spec gives it -/

/-- 02 R53, R54, 01 R36, 04 R91. A result that is due is in its registers and in the latch, and its flags are set; with the flag's trap
enabled a live lane that stands parks with ARITH, its TARG the PC of the word. So also beside a handler (17 R390), for lanes outside it and
for what the handler's own words give. Lanes without a result, results not yet due and everything outside the group stay. -/
def RegistersTakeResults : Prop :=
  ∀ (gid : Nat) (s : State) (g : Group) (p : Landing) (rest : List Landing),
    tget s.groups gid = some g → g.lanes.length = 64 → g.pend = p :: rest → p.due ≤ s.turn → (∀ q ∈ rest, s.turn < q.due) →
    (∀ q ∈ s.semq, q.gid ≠ gid) → p.quench = [] → (p.res.map (·.lane)).Nodup → (∀ r ∈ p.res, r.lane < 64) →
    (∀ r ∈ p.res, match g.hphase with
      | .idle => True
      | .capture f _ m => m.getLsbD r.lane = false ∨ (f ≠ 0 ∧ (g.lane r.lane).trec.isSome)
      | .running => (g.lane r.lane).hand = .out ∨ (g.hseq < p.seq ∧ g.te &&& r.fl.extractLsb' 0 5 = 0)
      | .restore _ => (g.lane r.lane).hand = .out) →
    Goes (.resultLand gid) s (fun t => OnlyGroup gid s t ∧ t.issue = s.issue ∧ ∃ h, tget t.groups gid = some h ∧
      h = { g with lanes := h.lanes, pend := rest, fl := h.fl } ∧ h.lanes.length = 64 ∧
      (∀ b, b < 5 → h.fl.getLsbD b = (g.fl.getLsbD b || p.res.any (fun r => r.fl.getLsbD b))) ∧
      (∀ l, (∀ r ∈ p.res, r.lane ≠ l) → h.lane l = g.lane l) ∧
      ∀ r ∈ p.res,
        let e := g.lane r.lane
        let n := h.lane r.lane
        let e' := { e with v := n.v, o := n.o, lat := r.ws.getD 1 0 ++ r.ws.getD 0 0, latSeq := g.seq,
                           qread := e.qread || r.fl.getLsbD 7, hexh := e.hexh || r.fl.getLsbD 6, wovf := e.wovf || r.fl.getLsbD 5 }
        let hit := fun (first : Option Nat) (j : Nat) (old : Option Word) =>
          match first with
          | some i => if i ≤ j ∧ j < i + r.ws.length then old.map (fun w => r.ws.getD (j - i) w) else old
          | none => old
        (∀ j, n.v[j]? = hit (match p.dst with | .v i => some i.toNat | _ => none) j e.v[j]?) ∧
        (∀ j, n.o[j]? = hit (match p.dst with | .o i => some i.toNat | _ => none) j e.o[j]?) ∧
        n = if g.te &&& r.fl.extractLsb' 0 5 ≠ 0 ∧ e.life = .live ∧ e.trec = none then
            e'.parkedAt e.pc { trap := 0x0A, cause := r.fl.toNat % 32, targ := p.pc.setWidth 32, word := s.wordAt g e.pc.toNat }
          else e')

/-- 17 R388, R390: an older result of an entry lane, and every one once the handler has ended, lands in the lane's frame and not in the
lane: in the words of its register or entry, and in those of the latch. Its flags are set, and an enabled one leaves the ARITH record with
which the lane parks at the handler's end (which results those are is log entry 68). R391: an enabled flag of a running handler's own result quenches its lane with NESTED. -/
def FramesTakeResults : Prop :=
  ∀ (gid : Nat) (s : State) (g : Group) (p : Landing) (r : LRes) (rest : List Landing),
    tget s.groups gid = some g → g.lanes.length = 64 → g.pend = p :: rest → p.due ≤ s.turn → (∀ q ∈ rest, s.turn < q.due) →
    (∀ q ∈ s.semq, q.gid ≠ gid) → p.quench = [] → p.res = [r] → r.lane < 64 →
    let e := g.lane r.lane
    let enabled := g.te &&& r.fl.extractLsb' 0 5 ≠ 0
    ((match g.hphase with
      | .idle => False
      | .capture f _ m => f = 0 ∧ m.getLsbD r.lane = true ∧ p.seq ≤ g.hseq
      | .running => e.hand ≠ .out ∧ p.seq ≤ g.hseq
      | .restore _ => e.hand ≠ .out) → Memory.wf g.spill.cells = true →
      Goes (.resultLand gid) s (fun t => OnlyGroup gid s t ∧ t.issue = s.issue ∧ ∃ h, tget t.groups gid = some h ∧
        h = { g with lanes := h.lanes, pend := rest, fl := g.fl ||| r.fl.extractLsb' 0 5, spill := { g.spill with cells := h.spill.cells } } ∧
        (∀ l, l ≠ r.lane → h.lane l = g.lane l) ∧
        h.lane r.lane = { e with
          latSeq := g.seq, qread := e.qread || r.fl.getLsbD 7, hexh := e.hexh || r.fl.getLsbD 6, wovf := e.wovf || r.fl.getLsbD 5
          late := if enabled ∧ e.late = none then
            some { trap := 0x0A, cause := r.fl.toNat % 32, targ := p.pc.setWidth 32, word := s.wordAt g e.pc.toNat } else e.late } ∧
        ∀ l j, l < 64 → frameWord h l j =
          let hit := fun (first : Nat) => if l = r.lane ∧ first ≤ j ∧ j < first + r.ws.length then r.ws.getD (j - first) 0 else frameWord g l j
          if l = r.lane ∧ (j = 9 ∨ j = 10) then r.ws.getD (j - 9) 0
          else match p.dst with
            | .v i => hit (20 + i.toNat)
            | .o i => hit (12 + i.toNat)
            | _ => frameWord g l j)) ∧
    (g.hphase = .running → e.hand ≠ .out → g.hseq < p.seq → enabled → e.life = .live → e.trec = none → (tget s.grids g.grid).isSome →
      Goes (.resultLand gid) s (fun t => ((t.group gid).lane r.lane).life = .quenched ∧ (t.group gid).qcause = 6 ∧ (t.group gid).qlane = r.lane ∧
        (t.grid g.grid).nquench = (s.grid g.grid).nquench + 1))

/-- 17 R382, R383, 10 R235: where a result quenches lanes, they are quenched with cause 3 first, and then it lands as one that
quenches none. -/
def QuenchedLanesLand : Prop :=
  ∀ (gid : Nat) (s : State) (g : Group) (p : Landing) (rest : List Landing),
    tget s.groups gid = some g → g.lanes.length = 64 → g.pend = p :: rest → p.due ≤ s.turn → (∀ q ∈ rest, s.turn < q.due) →
    (∀ q ∈ s.semq, q.gid ≠ gid) → p.quench.Nodup → (∀ l ∈ p.quench, l < 64) → g.nq ≤ 255 →
    let hit := p.quench.filter (fun l => (g.lane l).isLive)
    ∃ u h, exec (.resultLand gid) s = exec (.resultLand gid) u ∧ tget u.groups gid = some h ∧ (∀ j, j ≠ gid → tget u.groups j = tget s.groups j) ∧
      u = { s with groups := u.groups, grids := tmod s.grids g.grid (fun r => { r with nquench := r.nquench + hit.length }) } ∧
      h = { g with lanes := h.lanes, pend := { p with quench := [] } :: rest, nq := Nat.min (g.nq + hit.length) 255
                   qcause := (if hit = [] then g.qcause else 3), qlane := (if hit = [] then g.qlane else hit.getLastD 0)
                   emask := g.emask &&& ~~~maskOfList hit, live2 := g.live2 &&& ~~~maskOfList hit } ∧ h.lanes.length = 64 ∧
      ∀ l, l < 64 → h.lane l = if l ∈ hit then
        { g.lane l with life := .quenched, trec := none, wait := none, w := 0, resv := none, hand := .out, late := none } else g.lane l

/-- RESULT_LAND: 02 R53, R54, 01 R36, 04 R91, 17 R382, R390. Results land in registers or in frames, after the lanes that they quench are
gone. The three parts hold. -/
def Obligations.ResultsLand : Prop := RegistersTakeResults ∧ FramesTakeResults ∧ QuenchedLanesLand

/-- TRAP_ENTRY, TRAP_FRAME_CAPTURED, HANDLER_END and TRAP_FRAME_RESTORED: taking a group trap and returning from it. 17 R386: when no lane is selectable, the
lanes whose untaken traps have the lowest PC enter; capture starts at the later of the next turn and the turn by which
the group's results have landed. 17 R391: without a handler they are quenched with cause 5, or, with FABRIC among
them, the partition takes the context fault MANTLE. 17 R388: the frame's words. 17 R386 step 3, 18 R402: the handler starts at
B + TRAPOFS. 17 R389, R390: every lane that reached `rti` takes what its frame holds. -/
def Obligations.TrapTaking : Prop :=
  (∀ (gid : Nat) (s : State) (g : Group) (r : Grid),
    tget s.groups gid = some g → tget s.grids g.grid = some r → g.lanes.length = 64 → g.hphase = .idle → (∃ l, l < 64 ∧ g.untaken l) →
    (∀ l, l < 64 → g.selectable (g.lane l) = false) → g.ringNew s.turn = 0 →
    let enters := fun l => l < 64 ∧ g.untaken l ∧ ∀ m, m < 64 → g.untaken m → (g.lane l).pc ≤ (g.lane m).pc
    let handler := r.desc.trapofs ≠ 0xFFFFFFFF ∧ 80 + 4 * g.nregs ≤ r.desc.spill / 64
    (handler → Goes (.trapEntry gid) s (fun t => ∃ m : Mask, (∀ l, m.getLsbD l = true ↔ enters l) ∧ (t.grid g.grid).ntrap = r.ntrap + 1 ∧
      let c := max (s.turn + 1) g.settled
      tget t.groups gid = some { g with hphase := .capture c (c + (80 + 4 * g.nregs + 15) / 16) m, hseq := g.seq, stopCnt := 0 })) ∧
    (¬ handler → (∀ l, enters l → ∀ q, (g.lane l).trec = some q → q.trap ≠ 9) → Goes (.trapEntry gid) s (fun t =>
      (t.grid g.grid).ntrap = r.ntrap + 1 ∧ (t.group gid).qcause = 5 ∧ t.parts = s.parts ∧
      ∀ l, l < 64 → (enters l → (t.group gid).lane l = (g.lane l).gone .quenched) ∧ (¬ enters l → (t.group gid).lane l = g.lane l))) ∧
    (¬ handler → (∃ l q, enters l ∧ (g.lane l).trec = some q ∧ q.trap = 9) → g.pid < s.parts.length → Goes (.trapEntry gid) s (fun t =>
      (t.part g.pid).faults = (s.part g.pid).faults ++ [{ bit := 6, tick := s.now, core := g.core, qtr := g.quarter }]))) ∧
  (∀ (gid : Nat) (s : State) (g : Group) (f u : Nat) (m : Mask),
    tget s.groups gid = some g → g.lanes.length = 64 → g.hphase = .capture f u m → Memory.wf g.spill.cells = true →
    (∀ l, l < 64 → (g.lane l).v.length = g.nregs ∧ (g.lane l).o.length = 8) → ∀ l, m.getLsbD l = true →
      let e := g.lane l
      let q := e.trec.getD { trap := 0, cause := 0 }
      let w := frameWord ((s.captureFrames gid).group gid) l
      w 0 = e.pc.setWidth 32 ∧ w 1 = e.depth.setWidth 32 <<< 8 ∧ w 2 = q.w.setWidth 32 ∧
      w 3 = BitVec.ofNat 8 q.trap ++ BitVec.ofNat 8 q.cause ++ BitVec.ofNat 16 q.info ∧ w 4 = q.targ ∧ w 5 = g.flagsOf e ∧
      w 8 ++ w 7 ++ w 6 = q.word ∧ w 10 ++ w 9 = e.lat ∧ w 11 = 0 ∧
      (∀ j, j < 8 → w (12 + j) = e.o.getD j 0) ∧ ∀ j, j < g.nregs → w (20 + j) = e.v.getD j 0) ∧
  (∀ (gid : Nat) (s : State) (g : Group) (f u : Nat) (m : Mask),
    tget s.groups gid = some g → g.lanes.length = 64 → g.hphase = .capture f u m →
    let r := s.grid g.grid
    Goes (.trapFrameCaptured gid) s (fun t => OnlyGroup gid s t ∧ ∃ h, tget t.groups gid = some h ∧
      h = { g with lanes := h.lanes, hphase := .running, stopCnt := 0 } ∧
      ∀ l, l < 64 → h.lane l = if m.getLsbD l = true ∧ (g.lane l).life = .live then
          { g.lane l with pc := BitVec.ofNat 20 (r.base + r.desc.trapofs.toNat), w := 0, trec := none, resv := none, hand := .inside,
                          sigSaved := some (g.lane l).sig, handPc := (g.lane l).pc,
                          sigWord := ((g.lane l).trec.map TrapRec.word).getD 0, sig := 0 }
        else g.lane l)) ∧
  (∀ (gid : Nat) (s : State) (g : Group), tget s.groups gid = some g → g.hphase = .running → (∀ l ∈ g.lanes, l.hand ≠ .inside) →
    Goes (.handlerEnd gid) s (fun t => OnlyGroup gid s t ∧
      tget t.groups gid = some { g with hphase := .restore (s.turn + (80 + 4 * g.nregs + 15) / 16 + 1) })) ∧
  (∀ (gid : Nat) (s : State) (g : Group), tget s.groups gid = some g → g.lanes.length = 64 → (∃ u, g.hphase = .restore u) →
    (∀ l ∈ g.lanes, l.hand = .reached → l.trec = none) →
    Goes (.trapFrameRestored gid) s (fun t => (t.group gid).hphase = .idle ∧ ∀ l, l < 64 →
      let e := g.lane l
      let w := frameWord g l
      let base := (s.grid g.grid).base
      let n : Lane := { e with
        pc := (w 0).setWidth 20, depth := (w 1).extractLsb' 8 8, lat := w 10 ++ w 9, o := (List.range 8).map (fun j => w (12 + j))
        v := (List.range g.nregs).map (fun j => w (20 + j)), w := 0, hand := .out, wait := none, late := none, sigSaved := none
        sig := if (w 0).setWidth 20 = e.handPc then e.sigSaved.getD 0
               else if (w 0).setWidth 20 = succPc base e.handPc then foldSig (e.sigSaved.getD 0) e.sigWord else 0 }
      (t.group gid).lane l =
        if e.life = .live ∧ e.hand = .reached then
          if ∃ j, j < 20 + g.nregs ∧ g.spill.poisoned (spillAdr l (4 * j)) 4 = true then e.gone .quenched
          else if slotPc base ((w 0).setWidth 20 : BitVec 20).toNat = false then e.gone .quenched
          else match e.late with
            | some q => n.parkedAt n.pc { q with word := s.wordAt g n.pc.toNat }
            | none => n
        else e))

/-- ROTATION_BOUNDARY, FAIRNESS_EXCURSION, WAITC_EXPIRE and STOP_SPACING. 01 R21, R22: at a boundary a finished group gives up its
slot, a pending-ready group alone in its quarter takes slot 0 and issues from the turn after the next, and a lane goes on when its condition
was met before the turn. 13 R276: an excursion selects, of the lanes above the least key, those with the key of the one
that has waited longest. 13 R288: `waitc` is met at its tick. 02 R58: the context fault. -/
def CoreEvents : Prop :=
  (∀ (s : State), (s.groups.map (·.1)).Nodup →
    Goes .rotationBoundary s (fun t => t = { s with bdry := true, groups := t.groups } ∧ t.groups.map (·.1) = s.groups.map (·.1) ∧
      (∀ i g, tget s.groups i = some g → g.stoodFin = true → (t.group i).slot = none) ∧
      (∀ i g, tget s.groups i = some g → g.slot.isSome → g.stoodFin = false → (g.stood &&& ~~~g.ringNew s.turn) ≠ 0 → (t.group i).slot = g.slot) ∧
      (∀ i g d, tget s.groups i = some g → g.quarter < 4 → g.slot = none → g.stoodFin = false → (s.part g.pid).st = .running →
        (g.stood &&& ~~~g.ringNew s.turn) ≠ 0 → g.readySince = some d → d < 16 * s.turn →
        (∀ j h, tget s.groups j = some h → j ≠ i → ¬ (h.core = g.core ∧ h.quarter = g.quarter)) →
          (t.group i).slot = some 0 ∧ (t.group i).slotFrom = s.turn + 2) ∧
      ∀ i g, tget s.groups i = some g → (s.part g.pid).st = .running → ∀ l, l < g.lanes.length →
        let e := g.lane l
        (t.group i).lane l = match e.wait with
          | some { cond := c, since := _, met := some m } => if c ≠ .rti ∧ m < 16 * s.turn then { e with wait := none } else e
          | _ => e)) ∧
  (∀ (gid : Nat) (s : State) (g : Group), tget s.groups gid = some g → g.lanes.length = 64 → g.hphase = .idle → g.exc = false →
    let sel := fun l => l < 64 ∧ g.selectable (g.lane l) = true
    let above := fun l => sel l ∧ ∃ m, sel m ∧ (g.lane m).key < (g.lane l).key
    (∃ l, above l ∧ (g.yld = true ∨ (s.part g.pid).fairlim ≤ (g.lane l).w.toNat)) →
    Goes (.fairnessExcursion gid) s (fun t => OnlyGroup gid s t ∧ ∃ h b, tget t.groups gid = some h ∧
      h = { g with exc := true, emask := h.emask, ecnt := 0, yld := false } ∧ above b ∧
      (∀ l, above l → (g.lane l).w ≤ (g.lane b).w ∧ ((g.lane l).w = (g.lane b).w → (g.lane b).key ≤ (g.lane l).key)) ∧
      ∀ l, h.emask.getLsbD l = true ↔ above l ∧ (g.lane l).key = (g.lane b).key)) ∧
  (∀ (gid : Nat) (s : State) (g : Group), tget s.groups gid = some g →
    Goes (.waitcExpire gid) s (fun t => OnlyGroup gid s t ∧ ∃ h, tget t.groups gid = some h ∧ h = { g with lanes := h.lanes } ∧
      h.lanes.length = g.lanes.length ∧ ∀ l, l < g.lanes.length → h.lane l =
        match (g.lane l).wait with
        | some { cond := .tick n, since := a, met := none } =>
          if n ≤ 16 * s.turn + 15 then { g.lane l with wait := some { cond := .tick n, since := a, met := some n } } else g.lane l
        | _ => g.lane l)) ∧
  (∀ (gid : Nat) (s : State) (g : Group), tget s.groups gid = some g → g.pid < s.parts.length →
    Goes (.stopSpacing gid) s (fun t => tget t.groups gid = some { g with fetchHold := max g.fetchHold (s.turn + 1) } ∧
      (t.part g.pid).faults = (s.part g.pid).faults ++ [{ bit := 3, tick := 16 * s.turn + 2 * g.slot.getD 0, core := g.core, qtr := g.quarter
                                                          grp := g.index, res := g.res }]))

/-- LINE_REFETCH, FORCED_FLUSH, END_FLUSH and REDUCTION_ENTRY_APPLY. 02 R41: a line whose parity failed is read again from the image and the
group waits 32 turns (that the image is read and the line replaced in the turn of the failed fetch is log entry 67); a line that failed before in this grid raises LINE_PARITY. 12 R265, R266: what a flush takes, in
the order of 12 R264; each entry applies to the bytes as they stand, and one on a marked granule is discarded and counted. -/
def LinesAndFlushes : Prop :=
  (∀ (k line i : Nat) (s : State), s.groupAt s.pos = some i → (tget s.groups i).isSome →
    let g := s.group i
    let r := s.grid g.grid
    let idx := line - r.base / 64
    (idx ∉ r.parFails → (tget s.grids g.grid).isSome → Goes (.lineRefetch k line) s (fun t =>
      tget (t.core k).lines line = some (imageLine s.hbm r idx) ∧ tget (t.core k).refetch line = some (s.turn + 32) ∧
      (t.group i).fetchHold = max g.fetchHold (s.turn + 32) ∧ idx ∈ (t.grid g.grid).parFails ∧ (t.core k).cecnt = (s.core k).cecnt + 1)) ∧
    (idx ∈ r.parFails → g.pid < s.parts.length → Goes (.lineRefetch k line) s (fun t =>
      ∃ f ∈ (t.part g.pid).faults, f.bit = 5 ∧ f.fpc = BitVec.ofNat 32 (64 * line) ∧ f.core = g.core ∧ f.tick = 16 * s.turn + 2 * g.slot.getD 0))) ∧
  (∀ (k : Nat) (s : State), Goes (.forcedFlush k) s (fun t => Flushes k s t ∧
    ∀ e, (s.core k).rbuf.filter (fun q => q.tick < 16 * s.turn) = [e] →
      (tget s.grids (s.block (s.group e.gid).block).grid).isSome →
      (t.grid (s.block (s.group e.gid).block).grid).nforced = (s.grid (s.block (s.group e.gid).block).grid).nforced + 1)) ∧
  (∀ (b : Nat) (s : State) (x : Block), tget s.blocks b = some x →
    Goes (.endFlush b) s (fun t => Flushes x.core s t ∧ tget t.blocks b = some { x with endDone := true })) ∧
  ∀ (k n : Nat) (s : State) (e : REntry) (rest : List (Nat × REntry)), (s.core k).rflush = (n, e) :: rest → s.hasSpace e.space →
    let m := (s.ram e.space).cells
    Memory.wf m = true →
    Goes (.reductionEntryApply k) s (fun t => (t.core k).rflush = rest ∧
      ((s.ram e.space).poisoned e.adr (4 * e.op.regs) = false →
        leNat (memRead (t.ram e.space).cells e.adr (4 * e.op.regs)) =
          e.op.new (leNat (memRead m e.adr (4 * e.op.regs))) e.val.toNat 0 % 2 ^ (32 * e.op.regs) ∧
        ∀ a, (a < e.adr ∨ e.adr + 4 * e.op.regs ≤ a) → memRd (t.ram e.space).cells a = memRd m a) ∧
      ((s.ram e.space).poisoned e.adr (4 * e.op.regs) = true → (t.ram e.space) = s.ram e.space ∧
        ∀ g, tget s.groups e.gid = some g → (t.group e.gid).nrec = min (g.nrec + 1) 4095))

/-- The events inside a core. Both parts hold. -/
def Obligations.CoreEventsGo : Prop := CoreEvents ∧ LinesAndFlushes

/-- ENGINE_COMMAND_START, MLOOP_K_STEP and MATRIX_COMMAND_END. 07 R146: the oldest command starts. 07 R147, R154, R156, 08 R176: what the commands do at
their start and when their results land; 04 R95, 07 R152: an s8 product adds to each element the sum over K of A[i, k] × B[j, k] modulo 2^32. 04 R94, 08 R167: every
product, chunk by chunk, with the hem, the cuff and MAG; 08 R168: the seed of a mantle; 08 R169, R170, R173, R176: drains, fragment status and correction, which the
model has at S (log entry 34), as the order of the products of an `mmab` in the mantle is its choice (log entry 72). 07 R160, R161: a K-step of `mloop` and its
drain. 07 R163, 20 R423: at a halt, an `mdrain` whose result has not landed goes on, or is saved unstarted with its tile as it was (which of the two is
free: log entry 34). 07 R157, R163, 08 R178: the end; that `macc.st` writes under the tick, core and quarter of its issue is log entry 39. -/
def Obligations.MatrixEngineEvents : Prop :=
  (∀ (k : Nat) (s : State) (c : ECmd) (rest : List ECmd) (g : Group),
    (s.core k).eq = c :: rest → c.start = none → tget s.groups c.gid = some g → (s.core k).tiles.length = 8 →
    let tol := fun (n : Nat) => (s.part g.pid).tolOf (s.tile k n).tolTy
    Goes (.engineCommandStart k) s (fun t =>
      (∃ c', (t.core k).eq = c' :: rest ∧ c'.start = some s.turn ∧ c'.ident = c.ident ∧ c'.kind = c.kind ∧ c'.steps = c.steps) ∧
      match c.kind with
      | .mma t' m64 sc zero a b cc scr =>
        ∃ f : Nat → List Word, Resolves c.gid c.seq (s.turn + if m64 then 5 else 4) ((lanesOf c.sel).map (fun l => { lane := l, ws := f l })) s t ∧
          (t' = .s8 → sc = false → ∀ l n, l < 64 → n < (if m64 then 64 else 16) →
            let i := if m64 then l else l % 32
            let j := if m64 then n else 16 * (l / 32) + n
            let el := fun (rs : List (List Word)) (r q : Nat) =>
              let (w, b) := if m64 then (r, q) else (r + 32 * (q / 16), q % 16)
              (((rs.getD w []).getD (b / 4) 0).extractLsb' (8 * (b % 4)) 8).toInt
            (f l).getD n 0 = (if zero then 0 else (cc.getD l []).getD n 0) +
              BitVec.ofInt 32 (((List.range 32).map (fun q => el a i q * el b j q)).sum)) ∧
          (t' ∈ matrixTys → (sc = true → t' ∈ [.e4m3, .e5m2, .e3m2, .e2m1]) →
            let n := if m64 then 64 else 32
            -- the place of element (i, j) in a fragment: lane and register
            let at_ := fun i j => if m64 then (i, j) else (i + 32 * (j / 16), j % 16)
            let x0 : Sheet := { n := n, int := t' == .s8, mag := 0, hem := List.replicate n 0, cuff := List.replicate n 0
                                words := (List.range (n * n)).map (fun q => if zero then 0 else (cc.getD (at_ (q / n) (q % n)).1 []).getD (at_ (q / n) (q % n)).2 0) }
            let lines := fun (regs : List (List Word)) (lo : Nat) => (List.range n).map (mmaInputs t' m64 regs (if sc then some scr else none) lo)
            ∃ x y d, (if zero then x = x0 else Seeds (t' == .s8) x0 x) ∧ Chunks 0 0 (lines a 0) (lines b 2) (depthOf t') x y ∧
              (∀ i j, i < n → j < n → (f (at_ i j).1).getD (at_ i j).2 0 = y.words.getD (n * i + j) 0) ∧
              DrainOf y ((s.part g.pid).tolOf t') false d ∧
              (t.group c.gid).frag = BitVec.ofNat 32 (d.stat * 2 ^ 28 + 2 ^ 22 + d.ncol * 2 ^ 15 + d.nrow * 2 ^ 8))
      | .mzero n => n < 8 → (∀ i, (t.tile k n).words.getD i 0 = 0) ∧ (t.tile k n).st = .empty
      | .maccLd n sp a => n < 8 → (t.tile k n).st = .open_ ∧ Seeds (s.tile k n).int (t.tile k n).sheet (t.tile k n).sheet ∧
          ∀ i, i < 4096 → (t.tile k n).words.getD i 0 = BitVec.ofNat 32 (leNat (memRead (s.ram sp).cells (a + 4 * i) 4))
      | .mdrain n => n < 8 → Resolves c.gid c.seq (s.turn + 3) (c.give [(t.tile k n).status n]) s t ∧
          if (s.tile k n).st = .open_ then ((s.tile k n).fits (if (s.tile k n).int then .s8 else .f16) → Drained (tol n) (s.tile k n) (t.tile k n)) ∧
            (t.tile k n).st = .drained ∧ (t.tile k n).words = (s.tile k n).words else t.tile k n = s.tile k n
      | .maccSt n _ _ => n < 8 → if (s.tile k n).st = .open_ then
            ((s.tile k n).fits (if (s.tile k n).int then .s8 else .f16) → Drained (tol n) (s.tile k n) (t.tile k n)) ∧
            (t.tile k n).st = .drained ∧ (t.tile k n).words = (s.tile k n).words else t.tile k n = s.tile k n
      | .mchk n frag => Resolves c.gid c.seq (s.turn + 1) (c.give [if frag then g.frag else (s.tile k n).status n]) s t
      | .mloc n => Resolves c.gid c.seq (s.turn + 1) (c.give ((s.tile k n).location n)) s t
      | .mfix n => n < 8 → Resolves c.gid c.seq (s.turn + 3) (c.give [(t.tile k n).status n]) s t ∧
          ((s.tile k n).fits (if (s.tile k n).int then .s8 else .f16) → Corrected (tol n) (s.tile k n) (t.tile k n))
      | .mloop m retry => m.tile < 8 → c.drained = false → (t.tile k m.tile).st = .open_ ∧
          (m.acc = true → (t.tile k m.tile).words = (s.tile k m.tile).words) ∧
          (m.acc = false → (∀ i, (t.tile k m.tile).words.getD i 0 = 0 ∧ (t.tile k m.tile).hem.getD i 0 = 0 ∧ (t.tile k m.tile).cuff.getD i 0 = 0) ∧ (t.tile k m.tile).mag = 0 ∧
            (t.tile k m.tile).retries = if retry then min 3 ((s.tile k m.tile).retries + 1) else 0)
      | .mtol ty v => g.pid < s.parts.length → ∃ q, (t.part g.pid).pend = (s.part g.pid).pend ++ [q] ∧ q.due = s.turn + 8 ∧ q.tick = c.tick ∧ q.write = .tol ty (v &&& 0x3FFF)
      | .acc bit n row col => n < 8 → ∀ i, i < (s.tile k n).words.length →
          (t.tile k n).words.getD i 0 = if i = 64 * row + col then (s.tile k n).words.getD i 0 ^^^ (1#32 <<< bit) else (s.tile k n).words.getD i 0
      | .mmab ty n sc a b scr => n < 8 → (t.tile k n).st = .open_ ∧
          ((s.tile k n).fits ty → ty ∈ [.bf16, .f16, .e4m3, .e5m2, .s8] → (sc = true → ty ∈ [.e4m3, .e5m2]) →
            let lines := fun (regs : List (List Word)) (which p : Nat) => (List.range 16).map (mmabInputs ty regs (if sc then some scr else none) which p)
            (t.tile k n).stat = 5 ∧ ∃ z : Nat → Sheet, z 0 = (s.tile k n).sheet ∧ z 16 = (t.tile k n).sheet ∧
              ∀ p, p < 16 → Chunks (16 * (p / 4)) (16 * (p % 4)) (lines a 0 p) (lines b 1 p) (depthOf ty) (z p) (z (p + 1))))) ∧
  (∀ (k : Nat) (s : State) (c : ECmd) (rest : List ECmd) (m : MLoop) (retry : Bool) (a b : StepData) (da db : List StepData),
    (s.core k).eq = c :: rest → c.kind = .mloop m retry → c.da = a :: da → c.db = b :: db → m.tile < 8 → (s.core k).tiles.length = 8 →
    Goes (.mloopKStep k) s (fun t => (t.core k).eq = { c with da := da, db := db, steps := c.steps + 1 } :: rest ∧
      (t.tile k m.tile).poison = ((s.tile k m.tile).poison || a.poisoned || b.poisoned) ∧
      (∀ n, n < 8 → n ≠ m.tile → t.tile k n = s.tile k n) ∧
      ((s.tile k m.tile).fits m.t → m.t ∈ matrixTys → (m.sc = true → m.t ∈ [.e4m3, .e5m2, .e3m2, .e2m1]) →
        Chunks 0 0 ((List.range 64).map (stepInputs m.t m.sc a.bytes)) ((List.range 64).map (stepInputs m.t m.sc b.bytes)) (depthOf m.t)
          (s.tile k m.tile).sheet (t.tile k m.tile).sheet) ∧
      (m.t = .s8 → m.sc = false → (s.tile k m.tile).words.length = 4096 → ∀ i j, i < 64 → j < 64 →
        (t.tile k m.tile).words.getD (64 * i + j) 0 = (s.tile k m.tile).words.getD (64 * i + j) 0 +
          BitVec.ofInt 32 (((List.range 32).map (fun q => (a.bytes.getD (32 * i + q) 0).toInt * (b.bytes.getD (32 * j + q) 0).toInt)).sum)))) ∧
  -- the drain of an `mloop`, in the first of its two turns
  (∀ (k : Nat) (s : State) (c : ECmd) (rest : List ECmd) (m : MLoop) (retry : Bool),
    (s.core k).eq = c :: rest → c.kind = .mloop m retry → m.tile < 8 → (s.core k).tiles.length = 8 → (s.tile k m.tile).fits (if (s.tile k m.tile).int then .s8 else .f16) →
    Drained ((s.part (s.group c.gid).pid).tolOf (s.tile k m.tile).tolTy) (s.tile k m.tile) ((s.loopDrain k).tile k m.tile)) ∧
  -- a halt in the turns from S of an `mdrain` to the one before its result
  (∀ (k : Nat) (s : State) (r : DrainRun), (s.core k).drain = some r → r.n < 8 → (s.core k).tiles.length = 8 →
    let t := s.stopDrain k
    (t.core k).drain = none ∧ (∀ n, n < 8 → n ≠ r.n → t.tile k n = s.tile k n) ∧
    ((t.tile k r.n = s.tile k r.n ∧ (t.core k).eq = (s.core k).eq ∧ t.groups = s.groups) ∨
     (t.tile k r.n = r.tile ∧ (t.core k).eq = { r.cmd with issue := s.turn } :: (s.core k).eq.filter (fun c => c.ident != r.cmd.ident)))) ∧
  ∀ (k : Nat) (s : State) (c : ECmd) (rest : List ECmd) (g : Group),
    (s.core k).eq = c :: rest → tget s.groups c.gid = some g → g.lanes.length = 64 →
    Goes (.matrixCommandEnd k) s (fun t => (t.core k).eq = rest ∧ (t.core k).eEnd = s.turn ∧
      (∀ id, c.member = some id → Completes c.gid id s t ∧
        (t.group c.gid).mrec = if g.mrecSrc = some id then g.mrec ||| 0x08000000 else g.mrec) ∧
      (∀ n sp a, c.kind = .maccSt n sp a → ∃ x, t.bankQ = s.bankQ ++ [x] ∧ x.bank = s.turn ∧ x.tick = c.tick ∧ x.core = k ∧ x.quarter = g.quarter ∧ x.space = sp ∧ x.op = .bulk (s.tile k n).poison ∧
        x.lanes = [{ lane := 64, adr := a, b := (s.tile k n).words }]) ∧
      (∀ m, c.kind = .mloop m true → g.hphase = .idle → ((s.tile k m.tile).stat = 2 ∨ (s.tile k m.tile).stat = 3 ∨ (s.tile k m.tile).stat = 4) →
        2 ≤ (s.tile k m.tile).retries → ∀ l, l < 64 →
          if (g.lane l).life = .live ∧ (g.lane l).trec = none then
            ∃ r : TrapRec, r.trap = 9 ∧ r.cause = 1 ∧ r.targ = (s.tile k m.tile).status m.tile ∧ (t.group c.gid).lane l = (g.lane l).parkedAt (g.lane l).pc r
          else (t.group c.gid).lane l = g.lane l))

/-- COPY_COMMAND_START, COPY_UNIT_EFFECT, COPY_MEMBER_COMPLETE and BATCH_COMPLETE. 10 R210: S(c), E(c) and what stands between them. 10 R220, R221: a unit moves 64
bytes, with their poison. 10 R224: an element outside its range stops the command with a violation. 10 R215, 18 R407: its
member completes, for a mirrored write 152 turns after, planned so from E(c), and no earlier than its duplicates are with the partner. 10 R215, R218: a batch completes, and the lanes that wait for it go on. -/
def Obligations.CopyEngineEvents : Prop :=
  (∀ (k : Nat) (cl : CClass) (s : State) (c : CCmd) (rest : List CCmd), (s.core k).queue cl = c :: rest → c.start = none →
    Goes (.copyCommandStart k cl) s (fun t => ∃ drawn, (t.core k).queue cl =
        { c with start := some s.turn, ran := true, late := 0, asked := c.skip, drawn := drawn } :: rest ∧
      ((∀ op rng lanes ret, c.kind ≠ .atom op rng lanes ret) → drawn = c.drawn) ∧ t.hbm = s.hbm ∧ t.host = s.host ∧ t.groups = s.groups) ∧
    ∀ d, d = { c with start := some s.turn, ran := true, late := 0 } → c.skip = 0 →
      (∀ out rng far sp adr rows rlen fstr sstr, c.kind = .move out rng far sp adr rows rlen fstr sstr → cl = .H →
        d.endTurn cl = s.turn + 48 + (64 * c.units + 511) / 512) ∧
      (∀ rng src sp dst len, c.kind = .digest rng src sp dst len → cl = .S →
        d.endTurn cl = s.turn + 8 + (64 * c.units + 1023) / 1024 + (64 * c.units + 135) / 136 + 8)) ∧
  (∀ (k : Nat) (cl : CClass) (s : State) (c : CCmd) (rest : List CCmd), (s.core k).queue cl = c :: rest →
    Goes (.copyUnitEffect k cl) s (fun t =>
      (∃ c', (t.core k).queue cl = c' :: rest ∧ c'.ident = c.ident ∧ (c'.done = c.done + 1 ∨ c'.stopped = true)) ∧
      (∀ out rng far sp adr rows rlen fstr sstr e q a, c.kind = .move out rng far sp adr rows rlen fstr sstr → 0 < rlen →
        s.ext (s.group c.gid) rng = some e →
        let fa := far + 64 * fstr * (c.done / rlen) + 64 * (c.done % rlen)
        let sa := adr + 64 * sstr * (c.done / rlen) + 64 * (c.done % rlen)
        -- a row past 2^28 bytes of die scratch lies on the other die (09 R182)
        ∀ sp' so, (sp', so) = (match sp with
          | .die g d => if 2 ^ 28 ≤ sa then (Space.die g (1 - d), sa - 2 ^ 28) else (sp, sa)
          | _ => (sp, sa)) → s.hasSpace sp' →
        e.seg fa = some (q, a) → a % 64 = 0 → so % 64 = 0 → Memory.wf (s.ram sp').cells = true → s.memOk →
        let there := fun (s : State) => if q.host then s.host else s.hbm
        (out = false → memRead (t.ram sp').cells so 64 = memRead (there s).cells a 64 ∧
          (t.ram sp').poisoned so 64 = (there s).poisoned a 64 ∧
          (∀ n, (n < so ∨ so + 64 ≤ n) → memRd (t.ram sp').cells n = memRd (s.ram sp').cells n) ∧ t.hbm = s.hbm ∧ t.host = s.host) ∧
        -- the scratch bytes are those that stood at acceptance (10 R220), marked where they were then or are now (10 R221)
        let held := ((c.src.find? (fun q => q.1 == sp')).map (·.2)).getD (s.ram sp')
        (out = true → memRead (there t).cells a 64 = memRead held.cells so 64 ∧
          (there t).poisoned a 64 = (held.poisoned so 64 || (s.ram sp').poisoned so 64) ∧
          (∀ n, (n < a ∨ a + 64 ≤ n) → memRd (there t).cells n = memRd (there s).cells n) ∧ t.ram sp' = s.ram sp')) ∧
      (∀ scat rng base sp adr esz idx e, c.kind = .index scat (some rng) base sp adr esz idx → s.ext (s.group c.gid) rng = some e →
        e.size < base + (idx.getD c.done 0).toNat * 2 ^ esz + 2 ^ esz → (s.group c.gid).pid < s.parts.length →
        ∃ f, (t.part (s.group c.gid).pid).faults = (s.part (s.group c.gid).pid).faults ++ [f] ∧ f.bit = 0 ∧ f.cause = 7 ∧ f.master = 1 ∧
          f.adr = BitVec.ofNat 64 (base + (idx.getD c.done 0).toNat * 2 ^ esz) ∧ t.hbm = s.hbm ∧ t.host = s.host ∧ t.ram sp = s.ram sp) ∧
      (∀ src sp dst len, c.kind = .digest none src sp dst len → ∀ sp' o, s.locate (s.group c.gid) true (src + 64 * c.done) 64 = some (sp', o) →
        let held := ((c.src.find? (fun q => q.1 == sp')).map (·.2)).getD (s.ram sp')
        ∃ c', (t.core k).queue cl = c' :: rest ∧ c'.data = c.data ++ memRead held.cells o 64 ∧
          c'.poisoned = (c.poisoned || held.poisoned o 64 || (s.ram sp').poisoned o 64)))) ∧
  (∀ (k : Nat) (cl : CClass) (s : State) (c : CCmd) (rest : List CCmd), (s.core k).queue cl = c :: rest → (∀ q ∈ (s.core k).tail, s.turn < q.due) →
    Goes (.copyMemberComplete k cl) s (fun t => (t.core k).queue cl = rest ∧ (t.core k).lastEnd cl = s.turn ∧
      (c.mir = false → Completes c.gid c.ident s t ∧ (t.core k).tail = (s.core k).tail) ∧
      (c.mir = true → (t.core k).tail = (s.core k).tail ++ [{ due := s.turn + 152, plan := ({ c with late := 0 } : CCmd).endTurn cl + 152, gid := c.gid, ident := c.ident }] ∧ (t.group c.gid).members = (s.group c.gid).members) ∧
      ∀ rng src sp dst len, c.kind = .digest rng src sp dst len → s.hasSpace sp → Memory.wf (s.ram sp).cells = true →
        memRead (t.ram sp).cells dst 32 = sha3 c.data)) ∧
  (∀ (k : Nat) (cl : CClass) (s : State) (m : MTail) (rest : List MTail), (s.core k).tail = m :: rest → m.due ≤ s.turn → s.mirOut m.ident = false →
    Goes (.copyMemberComplete k cl) s (fun t => Completes m.gid m.ident s t ∧ (t.core k).queue cl = (s.core k).queue cl ∧
      ∀ q ∈ (t.core k).tail, q ∈ rest ∧ q.ident ≠ m.ident)) ∧
  ∀ (gid : Nat) (s : State) (g : Group), tget s.groups gid = some g → g.compl ≠ g.last →
    (∀ m ∈ g.members, m.batch = some (g.compl + 1) → m.done = true) →
    Goes (.batchComplete gid) s (fun t => OnlyGroup gid s t ∧ ∃ h, tget t.groups gid = some h ∧
      h = { g with compl := g.compl + 1, members := h.members, lanes := h.lanes } ∧
      (∀ m, m ∈ h.members ↔ m ∈ g.members ∧ m.batch ≠ some (g.compl + 1)) ∧
      h.lanes = g.lanes.map (metLane (fun c => match c with | .batch w => (g.compl + 1 - w).toNat < 2 ^ 31 | _ => false) (16 * s.turn)))

/-- REMOTE_APPLY, REMOTE_COMPLETE and EXECUTION_MISSES_BOUND go whenever there is such a request or execution. 10 R232, R235: an execution acts once on the
target's memory as it stands, a peer's request on this device's; 18 R408: no request writes a mirrored page. 10 R233, 15 R329: its result lands when it completes,
what waits for it goes on from the next turn, and a completion past the bound is schedule fault LINK. 16 R363, R365: a request acts under a lease that this device has
granted (when it grants one is log entry 81), and what it reads goes back in an open slot; 16 R369, 15 R337: none does without verified
firmware, or while only control slots carry traffic. -/
def Obligations.RemoteEvents : Prop :=
  (∀ (s : State) (r : RReq), ∃ t, exec (.remoteApply (some r)) s = .next t) ∧
  (∀ (s : State), s.nextApply.isSome → ∃ t, exec (.remoteApply none) s = .next t) ∧
  (∀ (s : State) (r : RExec), r ∈ s.remotes →
    (∃ t, exec (.remoteComplete r.ident) s = .next t) ∧ ∃ t, exec (.executionMissesBound r.ident) s = .next t) ∧
  (∀ (s : State) (r : RReq), s.dev.fwok = false ∨ s.pat.st ≠ 1 ∨ (r.kind ≠ .load ∧ ∃ l ∈ r.lanes, l.host = false ∧ s.mirroredAt (r.base + l.ofs) r.size = true) →
    exec (.remoteApply (some r)) s = .next s) ∧
  -- no lease of the device that sent it covers some lane: none with this access, with a page that holds all of it, and of class pod for an atomic
  (∀ (s : State) (r : RReq) (l : RLane), l ∈ r.lanes →
    (∀ g ∈ s.pat.granted, g.dev = r.peer → ∀ q ∈ g.ext.segs, q.host = l.host → q.phys ≤ r.base + l.ofs → r.base + l.ofs + r.size ≤ q.phys + q.len →
      (r.kind = .load ∧ g.ext.canRead = false) ∨ (r.kind ≠ .load ∧ (g.ext.canWrite = false ∨ q.mir = true)) ∨
      ((∃ o, r.kind = .atom o) ∧ (g.ext.canRead = false ∨ g.ext.atom < 2 ∨ q.atomOk < 2))) →
    exec (.remoteApply (some r)) s = .next s) ∧
  -- at its target: this device's HBM4, or its host's memory for a page of a range that lies there
  (∀ (s : State) (r : RReq) (l : RLane), r.lanes = [l] → r.base + l.ofs + r.size ≤ (if l.host then 2 ^ 64 else 384 * 2 ^ 30) → 0 < r.size → s.dev.fwok = true → s.pat.st = 1 →
    (∃ g ∈ s.pat.granted, g.dev = r.peer ∧ g.ext.acc % 4 = 3 ∧ ∃ q ∈ g.ext.segs, q.host = l.host ∧ q.mir = false ∧ q.phys ≤ r.base + l.ofs ∧
      r.base + l.ofs + r.size ≤ q.phys + q.len) →
    let a := r.base + l.ofs
    let there := fun (s : State) => if l.host then s.host else s.hbm
    (r.kind = .store → s.memOk → l.host = true ∨ s.mirroredAt a r.size = false → Goes (.remoteApply (some r)) s (fun t =>
      memRead (there t).cells a r.size = toBytes r.size l.b.toNat ∧ (∀ n, (n < a ∨ a + r.size ≤ n) → memRd (there t).cells n = memRd (there s).cells n) ∧
      t.out = s.out ∧ (l.host = false → t.host = s.host) ∧ (l.host = true → t.hbm = s.hbm))) ∧
    (r.kind = .load → r.size ≤ 4 ∨ r.size = 8 → Goes (.remoteApply (some r)) s (fun t => t.hbm = s.hbm ∧ t.host = s.host ∧ (r.peer ≠ s.selfDev →
      t = s.sendData { peer := r.peer, body := .reply [if (there s).poisoned a r.size then none else
        some (BitVec.ofNat 64 (leNat (memRead (there s).cells a r.size)))] })))) ∧
  -- on this device's own memory it is due once a release, a fence or a barrier of a lane of it stands behind it
  (∀ (s : State) (r : RExec), r ∈ s.remotes → r.applied = false → peerOf r.peer = s.selfDev → (∃ q ∈ r.lanes, r.seq ≤ ((s.group r.gid).lane q.1).front) →
    r.issue + 1 ≤ s.turn → r.floor ≤ s.turn → s.nextApply.isSome) ∧
  (∀ (s : State) (r : RExec), s.nextApply = some r →
    Goes (.remoteApply none) s (fun t =>
      (∀ q, q ∈ s.remotes → q.ident ≠ r.ident → q ∈ t.remotes) ∧ (∀ q ∈ t.remotes, q.ident = r.ident → q.applied = true) ∧
      (peerOf r.peer ≠ s.selfDev → t.hbm = s.hbm ∧ t.host = s.host ∧ (r.kind = .load → ∀ q ∈ t.remotes, q.ident = r.ident →
        q.res.length + q.quench.length = r.lanes.length ∧ ∀ l ∈ q.res.map (·.lane) ++ q.quench, l ∈ r.lanes.map (·.1))) ∧
      ∀ e l q a, peerOf r.peer = s.selfDev → s.ext (s.group r.gid) (rngOf r.peer) = some e → r.lanes = [l] → e.seg l.2.ofs = some (q, a) →
        0 < r.size → s.memOk →
        let there := fun (s : State) => if q.host then s.host else s.hbm
        (r.kind = .store → memRead (there t).cells a r.size = toBytes r.size l.2.b.toNat ∧
          ∀ n, (n < a ∨ a + r.size ≤ n) → memRd (there t).cells n = memRd (there s).cells n) ∧
        let ws := toWords (if r.size = 8 then 2 else 1) (rmtExtend r.size r.signed (leNat (memRead (there s).cells a r.size)))
        (r.kind = .load → t.hbm = s.hbm ∧ t.host = s.host ∧ ∀ x ∈ t.remotes, x.ident = r.ident →
          if (there s).poisoned a r.size then x.res = [] ∧ x.quench = [l.1]
          else x.quench = [] ∧ x.res = [{ lane := l.1, ws := ws }]))) ∧
  (∀ (s : State) (r : RExec), s.remotes.find? (fun q => q.ident == r.ident) = some r →
    Goes (.remoteComplete r.ident) s (fun t => (∀ q, q ∈ t.remotes ↔ q ∈ s.remotes ∧ q.ident ≠ r.ident) ∧
      (∀ j, j ≠ r.gid → tget t.groups j = tget s.groups j) ∧
      (let u := s.turn + 1
       let sems := ∃ q ∈ s.semq, q.gid = r.gid ∧ r.ident < q.after
       t.semq = s.semq.map (fun q => if q.gid = r.gid ∧ r.ident < q.after then { q with turn := max q.turn u } else q) ∧
       ∀ g, tget s.groups r.gid = some g → (t.group r.gid).rnext = u ∧
        (r.ident < g.rwait ∨ r.acq = true ∨ sems → (t.group r.gid).hold = max g.hold u) ∧ (¬ (r.ident < g.rwait ∨ r.acq = true ∨ sems) → (t.group r.gid).hold = g.hold)) ∧
      (r.kind = .store → ∀ g, tget s.groups r.gid = some g → (t.group r.gid).pend = g.pend ∧ (t.group r.gid).lanes = g.lanes) ∧
      (r.kind ≠ .store → ∀ g, tget s.groups r.gid = some g →
        { due := s.turn, seq := r.seq, dst := r.dst, res := r.res, pc := r.pc, kind := .rmt, quench := r.quench } ∈ (t.group r.gid).pend ∧
        ∀ p ∈ g.pend, p.seq ≠ r.seq → p ∈ (t.group r.gid).pend))) ∧
  ∀ (s : State) (r : RExec), s.remotes.find? (fun q => q.ident == r.ident) = some r →
    let h := s.hops (peerOf r.peer)
    let bound := r.issue + (if r.resent then 72 + 136 * h else 40 + 68 * h)
    (bound < s.turn → s.watches → Goes (.executionMissesBound r.ident) s (Detects 4 s)) ∧
    (s.turn ≤ bound → exec (.executionMissesBound r.ident) s = .next s)

/-- BARRIER_RELEASE, GANG_BARRIER_RELEASE, RING_RETRY and SEMAPHORE_TURN. 14 R308–R310: the condition is met at tick 16r for the waiting lanes of the groups of
a generation whose release turn has come. 14 R306, R307: a pending ring operation is tried at the bank turn, and takes
effect whole once its condition holds. 14 R292, R313: an access to the semaphore table. -/
def Obligations.SyncEvents : Prop :=
  (∀ (b : Nat) (s : State) (x : Block), tget s.blocks b = some x →
    let due := fun (q : BarGen) => ∃ r, q.release = some r ∧ r ≤ s.turn
    Goes (.barrierRelease b) s (fun t =>
      (∃ y, tget t.blocks b = some { x with bar := y } ∧ y.gen = x.bar.gen ∧ y.arrived = x.bar.arrived ∧ ∀ q, q ∈ y.closed ↔ q ∈ x.bar.closed ∧ ¬ due q) ∧
      ∀ i g, tget s.groups i = some g →
        ((∃ q ∈ x.bar.closed, due q ∧ i ∈ q.parts) →
          tget t.groups i = some { g with lanes := g.lanes.map (metLane (fun c => c == .bar) (16 * s.turn)), arrived := false }) ∧
        ((∀ q ∈ x.bar.closed, due q → i ∉ q.parts) → tget t.groups i = some g))) ∧
  (∀ (gr gang : Nat) (s : State) (r : Grid) (x : Barrier), tget s.grids gr = some r → tget r.gbars gang = some x →
    let due := fun (q : BarGen) => ∃ r, q.release = some r ∧ r ≤ s.turn
    Goes (.gangBarrierRelease gr gang) s (fun t =>
      (∃ y, tget (t.grid gr).gbars gang = some y ∧ y.gen = x.gen ∧ y.arrived = x.arrived ∧ ∀ q, q ∈ y.closed ↔ q ∈ x.closed ∧ ¬ due q) ∧
      ∀ i g, tget s.groups i = some g →
        let in_ := ∃ q ∈ x.closed, due q ∧ ∃ b ∈ q.parts, i ∈ (s.block b).groups
        (in_ → tget t.groups i = some { g with lanes := g.lanes.map (metLane (fun c => c == .gbar) (16 * s.turn)) }) ∧
        (¬ in_ → tget t.groups i = some g))) ∧
  (∀ (gid : Nat) (s : State) (g : Group) (r : RingOp), tget s.groups gid = some g → g.lanes.length = 64 → s.ringNext g.core = some (gid, r) →
    (∃ l, l < 64 ∧ r.lanes.getLsbD l = true ∧ ∃ w, (g.lane l).wait = some w ∧ w.cond = .ring r.ident) → (tget s.blocks g.block).isSome →
    let sp := Space.blk g.block
    let w := fun (s : State) (a : Nat) => leNat (memRead (s.ram sp).cells a 4)
    let n := w s r.hdr
    let hd := w s (r.hdr + 4)
    let tl := w s (r.hdr + 8)
    let ent := fun c => r.hdr + 0x40 + 8 * (c % n)
    Memory.wf (s.ram sp).cells = true → 0 < n → n ≤ 1024 → hd < 2 * n → tl < 2 * n → r.hdr + 0x40 + 8 * n ≤ s.spaceSize sp →
    let room := (hd + 2 * n - tl) % (2 * n) < n
    let full := w s (ent tl + 4) % 2 = 1 - tl / n
    let lands := fun (t : State) => (∀ q ∈ (t.group gid).rings, q.ident ≠ r.ident) ∧
      (t.group gid).lanes.map (·.wait) = (g.lanes.map (metLane (fun c => c == .ring r.ident) (16 * s.turn))).map (·.wait)
    (r.put = true → room → Goes (.ringRetry gid) s (fun t => lands t ∧ w t (ent hd) = r.val.toNat ∧ w t (ent hd + 4) % 2 = 1 - hd / n ∧
      w t (r.hdr + 4) = (hd + 1) % (2 * n) ∧ (t.group gid).hs = max g.hs s.turn ∧
      ∀ a, (a < ent hd ∨ ent hd + 8 ≤ a) → (a < r.hdr + 4 ∨ r.hdr + 8 ≤ a) → memRd (t.ram sp).cells a = memRd (s.ram sp).cells a)) ∧
    (r.put = false → full → Goes (.ringRetry gid) s (fun t => lands t ∧ w t (r.hdr + 8) = (tl + 1) % (2 * n) ∧
      (∀ a, (a < r.hdr + 8 ∨ r.hdr + 12 ≤ a) → memRd (t.ram sp).cells a = memRd (s.ram sp).cells a) ∧
      ∃ p, (t.group gid).pend = g.pend ++ [p] ∧ p.due = s.turn + 1 ∧ p.dst = r.dst ∧ ∀ q ∈ p.res, q.ws = [BitVec.ofNat 32 (w s (ent tl))])) ∧
    ((r.put = true ∧ ¬ room) ∨ (r.put = false ∧ ¬ full) → Goes (.ringRetry gid) s (fun t => t.ram sp = s.ram sp ∧ (t.group gid).lanes = g.lanes ∧
      (t.group gid).rings = g.rings.map (fun q => if q.ident = r.ident then { q with tried := s.turn } else q)))) ∧
  ∀ (s : State) (q : SemAcc), s.semq.find? (fun y => y.ident == q.ident) = some q → q.pid < s.parts.length →
    let sem := (s.part q.pid).sem
    (q.kind ≠ 2 → ((s.part q.pid).sems.map (·.1)).Nodup → Goes (.semaphoreTurn q.ident) s (fun t =>
      (∀ j, (t.part q.pid).sem j = if j = q.sem then sem j + q.val else sem j) ∧ (∀ y, y ∈ t.semq ↔ y ∈ s.semq ∧ y.ident ≠ q.ident) ∧
      (q.kind = 1 → ∃ r : Rec, RecordGoes q.pid (s.grid (s.group q.gid).grid).stream (r.bytes (s.grid (s.group q.gid).grid).stream 0) s t ∧
        r.kind = 2 ∧ r.tag = q.val ∧ r.lstat = BitVec.ofNat 32 q.sem ∧ r.amount = sem q.sem + q.val ∧
        r.start = (s.block (s.group q.gid).block).blockId + 2 ^ 32 * (s.group q.gid).index))) ∧
    (q.kind = 2 → Goes (.semaphoreTurn q.ident) s (fun t => (t.part q.pid).sems = (s.part q.pid).sems ∧
      (t.group q.gid).pend = (s.group q.gid).pend.map (fun p => if p.seq = q.seq then
        { p with res := (lanesOf q.sel).map (fun l => { lane := l, ws := [if (sem q.sem - q.val).toNat < 2 ^ 31 then 1 else 0] }) } else p)))

/-- WATCHDOG, CONTEXT_FAULT, STOP_RECORDS_WRITTEN, SNAPT_MATCH and HALT_COMPLETE. 14 R312, 21 R425: the tick at which the watchdog fires, counted from a first arrival; 17 R394, R395, 16 R353: the halt line rises at the fault's tick T and the partition reads FROZEN at T + 6144,
its registers holding the fault; 16 R355, 14 R317; 18 R414; 17 R398. -/
def Obligations.StopEvents : Prop :=
  ∀ (p : Nat) (s : State), p < 8 → s.parts.length = 8 →
    let q := s.part p
    let lim := q.bwdog.toNat
    Goes (.watchdog p) s (fun t => ∃ f, (t.part p).faults = q.faults ++ [f] ∧ f.bit = 2 ∧ 16 * s.turn ≤ f.tick ∧
      -- the tick BWDOG after the first arrival of the generation, or the start of the wait, that has waited longest
      (∀ a ∈ s.watchStarts p, (∀ b ∈ s.watchStarts p, a ≤ b) → q.bwdogAt ≤ a + lim → 16 * s.turn ≤ a + lim → f.tick = a + lim) ∧
      -- the tick of a write of BWDOG that finds it waited longer
      (∀ a ∈ s.watchStarts p, (∀ b ∈ s.watchStarts p, a ≤ b) → a + lim ≤ q.bwdogAt → 16 * s.turn ≤ q.bwdogAt → f.tick = q.bwdogAt) ∧
      -- no generation of `bar` or `gbar` that is open, nor a lane at `bbar`, waits longer
      (∀ b x a, (b, x) ∈ s.blocks → (s.grid x.grid).pid = p → x.released = false → x.bar.first = some a → f.tick ≤ max s.now (max (a + lim) q.bwdogAt)) ∧
      (∀ gr r k x a, (gr, r) ∈ s.grids → r.pid = p → (k, x) ∈ r.gbars → x.first = some a → f.tick ≤ max s.now (max (a + lim) q.bwdogAt)) ∧
      ∀ i g l w e n, (i, g) ∈ s.groups → g.pid = p → l ∈ g.lanes → l.wait = some w → w.cond = .bbar e n → w.met = none →
        f.tick ≤ max s.now (max (w.since + lim) q.bwdogAt)) ∧
    (∀ f, s.faultsDue p = [f] → q.st = .running → f.bit < 7 → Goes (.contextFault p) s (fun t =>
      let u := t.part p
      u.st = .stopping ∧ u.haltBy = false ∧ u.haltTick = some f.tick ∧ u.freezeAt = f.tick + 6144 ∧ u.fsum = 1#7 <<< f.bit ∧
      (∀ x, x ∈ u.faults ↔ x ∈ q.faults ∧ x ≠ f) ∧
      (f.bit = 0 → u.fcause = f.cause ∧ u.fmaster = f.master ∧ u.fcore = f.core ∧ u.fqtr = f.qtr ∧ u.fgrp = f.grp ∧ u.fpc = f.fpc ∧ u.fadr = f.adr ∧
        u.fpeer = f.peer ∧ u.fmore = 0) ∧
      (f.bit ≠ 0 → u.fcause = 0 ∧ u.fadr = 0) ∧
      (f.bit = 4 → u.sgcause = f.cause ∧ u.sgcore = f.core ∧ u.sgqtr = f.qtr ∧ u.sgres = f.res ∧ u.sgpc = f.fpc ∧ u.sgexp = f.exp ∧ u.sggot = f.got ∧
        u.scsig = if q.scsig = 0xFFFFFFFF then q.scsig else q.scsig + 1) ∧
      ∀ i g, tget s.groups i = some g → tget t.groups i = some (if g.pid = p ∧ g.haltDone = false then { g with stime := f.tick, haltDone := true } else g))) ∧
    (s.faultsDue p = [] → Goes (.contextFault p) s (fun t => t.part p = q)) ∧
    Goes (.stopRecordsWritten p) s (fun t => (t.part p).st = .frozen ∧ (t.part p).freezeAt = 0 ∧ (∃ mid, t.out = s.out ++ mid ++ [.msix q.ivec]) ∧
      t.groups = s.groups ∧ ((s.grids.map (·.1)).Nodup → ∀ i r, tget s.grids i = some r → r.pid = p → r.phase = .started → (t.grid i).recorded = true)) ∧
    (q.snheld = false → Goes (.snaptMatch p) s (fun t => (t.part p).snapt = 0 ∧ (t.part p).snheld = true ∧
      ((s.blocks.map (·.1)).Nodup → ∀ b x, tget s.blocks b = some x → x.released = false → (s.grid x.grid).pid = p →
        tget t.blocks b = some { x with snap := s.blockSnap b 2 q.snapt.toNat }) ∧
      ((s.blocks.map (·.1)).Nodup → ∀ b x, tget s.blocks b = some x → x.released = true → (s.grid x.grid).pid = p →
        tget t.blocks b = some { x with snap := [] }))) ∧
    (q.snheld = true → q.snTrig ≠ q.snapt.toNat → Goes (.snaptMatch p) s (fun t => (t.part p).snapt = 0 ∧ (t.part p).snmiss = min (q.snmiss + 1) 65535 ∧
      t.blocks = s.blocks)) ∧
    Goes (.haltComplete p) s (fun t => (t.part p).st = .halted ∧ (t.part p).haltBy = false ∧ t.out = s.out ++ [.msix q.ivec] ∧
      t.groups = s.groups ∧ t.grids = s.grids)

/-- The packet events of a command stream and CTIME_EXPIRE. 14 R289–R292: what each packet does, a packet retiring as SRD rises by 1; 14 R290: a bad packet stops
its stream; 14 R294–R296: a launch is accepted with the next GSEQ or leaves a KIND 4 record; 14 R318. -/
def Obligations.StreamEvents : Prop :=
  ∀ (p i : Nat) (s : State) (bs : List Byte), p < 8 → i < 64 → s.parts.length = 8 → (s.stream p i).pkt = some bs → ((s.part p).sems.map (·.1)).Nodup →
    let x := s.stream p i
    let retired := fun (t : State) => (t.stream p i).srd = x.srd + 1 ∧ (t.stream p i).pkt = none
    let num := field bs 8 4 % 1024
    let val := BitVec.ofNat 32 (field bs 0xC 4)
    let met := ((s.part p).sem num - val).toNat < 2 ^ 31
    Goes (.nopPacket p i) s (fun t => retired t ∧ t.parts = s.parts ∧ t.hbm = s.hbm ∧ t.grids = s.grids ∧ t.out = s.out) ∧
    (met → Goes (.semwaitPacket p i) s retired ∧ Goes (.semwaitMet p i) s retired) ∧
    (¬ met → Goes (.semwaitPacket p i) s (fun t => (t.stream p i) = { x with semw := true })) ∧
    Goes (.semsigPacket p i) s (fun t => retired t ∧ RecordGoes p i (({ kind := 3, tag := x.curTag } : Rec).bytes i 0) s t ∧
      ∀ j, (t.part p).sem j = if j = num then (s.part p).sem j + val else (s.part p).sem j) ∧
    (∀ g, s.launchDecode p i x.spriv bs = .ok g → Goes (.launchPacket p i) s (fun t => retired t ∧
      (t.part p).gctr = (s.part p).gctr % 65535 + 1 ∧ ∃ id n, n ≤ 512 + 64 * g.desc.nrange ∧
        tget t.grids id = some { g with gseq := (s.part p).gctr % 65535 + 1, acceptAt := s.turn, residentAt := some (s.turn + n) })) ∧
    (∀ res amount cause, s.launchDecode p i x.spriv bs = .error (res, amount, cause) → Goes (.launchPacket p i) s (fun t => retired t ∧ t.grids = s.grids ∧
      RecordGoes p i (({ kind := 4, tag := BitVec.ofNat 32 (field bs 4 4), lstat := BitVec.ofNat 32 (2 ^ 28 + cause * 2 ^ 24 + res * 2 ^ 16),
                         amount := BitVec.ofNat 32 amount } : Rec).bytes i 0) s t)) ∧
    Goes (.invalidPacket p i) s (fun t => (t.stream p i).stopped = true ∧ (t.stream p i).pkt = none ∧ (t.stream p i).srd = x.srd ∧
      RecordGoes p i (({ kind := 3, status := 1, tag := x.curTag } : Rec).bytes i 0) s t) ∧
    Goes (.serialRelease p i) s (fun t => ∃ b, t.stream p i = { x with pkt := some b } ∧ b.length = bs.length ∧
      ∀ j, b[j]? = if j = 2 then bs[j]?.map (· &&& 0xFD) else bs[j]?) ∧
    (let n := field bs 0x18 4
     ∀ s1 a, s.translate p (field bs 8 8) n 1 0 = (s1, a) →
      (∀ va, a = .miss va → Goes (.copyPacket p i) s (fun t => (t.stream p i).missed = true ∧ (t.stream p i).pkt = some bs ∧ (t.part p).pgv = true ∧
        t.out = s.out ++ [.msix (s.part p).ivec])) ∧
      (a = .bad → Goes (.copyPacket p i) s (fun t => (t.stream p i).stopped = true)) ∧
      ∀ src s2 dst, a = .ok src → s1.translate p (field bs 0x10 8) n 2 0 = (s2, .ok dst) → (∀ q ∈ src ++ dst, q.host = false ∧ q.mir = false) →
        Goes (.copyPacket p i) s (fun t => (t.stream p i) = { x with copyAt := some (s.turn + 48 + (n + 511) / 512), copySegs := (src, dst) })) ∧
    -- to a mirrored page the data move first, and the packet retires once the partner has acknowledged the duplicates, 152 turns on at the earliest
    (∀ a b na nb mir, x.copyBy = 0 → x.copySegs = ([{ ofs := 0, len := na, phys := a, host := false, atomOk := 0, mir := false }],
        [{ ofs := 0, len := nb, phys := b, host := false, atomOk := 0, mir := mir }]) → field bs 0x18 4 = 64 → 64 ≤ na → 64 ≤ nb → s.memOk →
      let moved := fun (t : State) => memRead t.hbm.cells b 64 = memRead s.hbm.cells a 64 ∧ ∀ n, (n < b ∨ b + 64 ≤ n) → memRd t.hbm.cells n = memRd s.hbm.cells n
      (mir = false → Goes (.copyPacketDone p i) s (fun t => retired t ∧ RecordGoes p i (({ kind := 3, tag := x.curTag } : Rec).bytes i 0) s t ∧
        (x.full = true → moved t))) ∧
      (mir = true → Goes (.copyPacketDone p i) s (fun t => moved t ∧ t.stream p i = { x with copyAt := some (s.turn + 152), copyBy := s.ident }))) ∧
    (x.copyBy ≠ 0 → Goes (.copyPacketDone p i) s (fun t => retired t ∧ RecordGoes p i (({ kind := 3, tag := x.curTag } : Rec).bytes i 0) s t ∧
        (x.full = true → t.hbm = s.hbm))) ∧
    (x.copyBy ≠ 0 → s.mirOut x.copyBy = true → s.streamNext p i ≠ some (some (.copyPacketDone p i))) ∧
    Goes (.ctimeExpire p i) s (fun t => t.out = s.out ++ [.msix x.svec] ∧ t.stream p i = { x with unsig := 0, oldest := none })

/-- The scheduler's events. 14 R296, R297, 16 R361: a grid becomes ready and starts, its image in every core of the partition; 14 R300: a
block is dispatched, its groups take their quarters, and their lanes stand at B; 01 R14, 14 R317: release and completion. That a grid's
start fills die scratch with its data image from memory as it then stands is the model's choice (log entry 8: 03 R68 gives only the end of
that time). -/
def Obligations.SchedulerEvents : Prop :=
  (∀ (gr : Nat) (s : State) (r : Grid), tget s.grids gr = some r →
    (r.phase = .accepted → r.missed = false → r.req.start ≤ s.now → r.req.wen = false →
      ((∀ e ∈ r.exts, e.segs ≠ []) → Goes (.gridReady gr) s (fun t => tget t.grids gr = some { r with phase := .ready } ∧ t.blocks = s.blocks)) ∧
      (∀ e s1 segs, r.exts = [e] → e.segs = [] → s.translate r.pid e.base e.size e.acc e.atom = (s1, .ok segs) → segs ≠ [] →
        Goes (.gridReady gr) s (fun t => tget t.grids gr = some { r with exts := [{ e with segs := segs }], phase := .ready })) ∧
      (∀ e s1 va, r.exts = [e] → e.segs = [] → r.pid < s.parts.length → s.translate r.pid e.base e.size e.acc e.atom = (s1, .miss va) →
        Goes (.gridReady gr) s (fun t => tget t.grids gr = some { r with missed := true } ∧ (t.part r.pid).pgv = true))) ∧
    Goes (.gridStart gr) s (fun t => t.blocks = s.blocks ∧ t.hbm = s.hbm ∧
      (∀ c, c ∈ s.coresOf r.pid → ∀ n, n < r.desc.nlines → tget (t.core c).lines (r.base / 64 + n) = some (imageLine s.hbm r n)) ∧
      ∃ q, tget t.grids gr = some q ∧ q.phase = .started ∧ q.start = s.now ∧ q.base = r.base ∧ q.desc = r.desc ∧
        (∀ d, d < 2 → (if d = 0 then q.scr0 else q.scr1).cells = if d ∈ s.diesOf r.pid then dataImage s.hbm r 2 r.desc.ddat r.desc.ddatsz else [])) ∧
    (∀ q bid pl, s.dispatchDue r = some q → q.places = [(bid, pl)] → r.desc.det = false → s.ident ∉ s.blocks.map (·.1) → Goes (.blockDispatch gr) s (fun t =>
      (t.grid gr).nextUnit = r.nextUnit + 1 ∧ ∃ id b, tget t.blocks id = some b ∧ b.grid = gr ∧ b.blockId = bid ∧ b.core = pl.core ∧ b.q0 = pl.q0 ∧
        b.disp = s.turn ∧ b.dispTick = s.now ∧ b.loadAt = s.turn + 8 + (r.desc.bdatsz + 511) / 512 ∧ b.loaded = false ∧ b.released = false ∧ b.groups.length = r.desc.ngrp ∧
        b.scr.cells = dataImage s.hbm r 1 r.desc.bdat r.desc.bdatsz ∧
        ∀ j, j < r.desc.ngrp → ∃ gid g, b.groups[j]? = some gid ∧ tget t.groups gid = some g ∧ g.pid = r.pid ∧ g.grid = gr ∧ g.block = id ∧ g.index = j ∧
          g.core = pl.core ∧ g.quarter = (pl.q0 + j) % 4 ∧ g.nregs = r.desc.nregs ∧ g.slot = none ∧ g.readyAt = b.loadAt ∧ g.lanes.length = 64 ∧
          ∀ l ∈ g.lanes, l.life = .live ∧ l.pc = BitVec.ofNat 20 r.base ∧ l.depth = 0 ∧ l.w = 0 ∧ l.wait = none ∧ l.trec = none ∧ l.sig = 0 ∧
            l.v.length = r.desc.nregs ∧ l.o.length = 8)) ∧
    (((s.part r.pid).sems.map (·.1)).Nodup → r.pid < s.parts.length → Goes (.gridComplete gr) s (fun t =>
      (t.grid gr).recorded = true ∧ (t.grid gr).phase = .done ∧ (t.grid gr).leases = [] ∧ (∀ e ∈ (t.grid gr).exts, e.segs = []) ∧
      (r.desc.det = false → RecordGoes r.pid r.stream ((s.gridRec gr 0 0).bytes r.stream 0) s t) ∧
      ∀ j, (t.part r.pid).sem j = if r.req.sen = true ∧ j = r.req.ssem then (s.part r.pid).sem j + r.req.sval else (s.part r.pid).sem j))) ∧
  ∀ (b : Nat) (s : State) (x : Block), tget s.blocks b = some x →
    Goes (.blockDataLoaded b) s (fun t => tget t.blocks b = some { x with loaded := true } ∧ ∀ i g, tget s.groups i = some g →
      tget t.groups i = some (if i ∈ x.groups then { g with readySince := some (16 * s.turn) } else g)) ∧
    (s.releaseDue b x = true → Goes (.blockRelease b) s (fun t => tget t.blocks b = some { x with released := true } ∧ t.groups = s.groups))

/-- COLLECTIVE_STEP, CHUNK_LAND and COLLECTIVE_RETIRE. 15 R343: a stretch of the source is read, 64 bytes at a time; the next CH bytes of the result land,
and the landing counter of the block that receives them rises by their number; 14 R311: the lanes whose `bbar` it meets; 15 R338: the tick of a planned tick;
15 R346: once every version is here, they are compared, and one that differs stops it, with the lowest differing rank in the fault and its slots
idle; a rank that stops has told its own version (that this is the turn of the
last one, and that the stop record of the grid's stream takes the rank, is log entry 48). -/
def Obligations.CollectiveEvents : Prop :=
  ∀ (gr : Nat) (s : State) (r : Grid) (c : Coll) (e : CollEntry), tget s.grids gr = some r → r.coll = some c → s.collEntry c = some e →
    -- the versions are to be compared: VCHK, not yet compared, and those of all other ranks are here
    let compare := c.vchk = true ∧ c.versOk = false ∧ ∀ q, q < e.ndev → q ≠ e.rank → (tget c.vers q).isSome
    -- this rank's version has gone out to the other ranks
    let told := fun (t : State) => c.told = false → ∀ d ∈ e.devs, d ≠ s.selfDev → ∃ p : Place, Emit.flit d p.frame p.slot p.port false (.version e.ident e.rank c.ver) ∈ t.out
    let other := fun (q : Nat) => q < e.ndev ∧ q ≠ e.rank ∧ ∃ v, tget c.vers q = some v ∧ v ≠ c.ver
    (∀ st, e.reads[c.step]? = some st → ¬ compare → Goes (.collectiveStep gr) s (fun t =>
      ∃ d, (t.grid gr).coll = some d ∧ d.step = c.step + 1 ∧ d.landed = c.landed ∧ d.retired = c.retired ∧ t.hbm = s.hbm ∧ t.blocks = s.blocks ∧
        ∀ x, st.len = 64 → st.ofs + 64 ≤ c.len → c.ssp = false → r.exts[c.srng]? = some x →
          ∀ q a, x.seg (c.src + st.ofs) = some (q, a) → q.host = false → ∀ j, j < 64 → tget d.own (st.ofs + j) = some (memRd s.hbm.cells (a + j)))) ∧
    (∀ k, compare → other k → (∀ q, q < k → ¬ other q) → r.pid < s.parts.length → Goes (.collectiveStep gr) s (fun t =>
      (∃ d, (t.grid gr).coll = some d ∧ d.retired = true) ∧ told t ∧
      -- its slots stay idle
      (∀ f ∈ t.pat.held, ∀ q, f.op ≠ .coll e.ident q) ∧
      (t.part r.pid).faults = (s.part r.pid).faults ++ [{ bit := 1, tick := s.now, cause := 6, master := r.stream, adr := BitVec.ofNat 64 k }])) ∧
    (compare → (∀ q, ¬ other q) → Goes (.collectiveStep gr) s (fun t => (t.grid gr).coll = some { c with versOk := true, told := true } ∧ told t ∧ t.parts = s.parts)) ∧
    (∀ at_ b x, e.lands[c.landed]? = some at_ → s.collBlock gr c = some b → tget s.blocks b = some x → Goes (.chunkLand gr) s (fun t =>
      let n := min e.chunk (collSize c.op c.len e.ndev - c.landed * e.chunk)
      (∃ d, (t.grid gr).coll = some d ∧ d.landed = c.landed + 1) ∧
      (∀ j, j < x.lc.length → (t.block b).lc.getD j 0 = if j = c.lci then x.lc.getD j 0 + BitVec.ofNat 32 n else x.lc.getD j 0) ∧
      ∀ i g, tget s.groups i = some g → i ∈ x.groups → (t.group i).lanes.map (·.wait) = (g.lanes.map (metLane (fun w => match w with
        | .bbar k v => ((t.block b).lc.getD k 0 - v).toNat < 2 ^ 31
        | _ => false) (s.collTick r e at_))).map (·.wait))) ∧
    (∀ st n, e.reads.head? = some st → 16 * r.acceptAt ≤ 65536 * s.pat.pshift + st.tick → s.collTick r e n = 65536 * s.pat.pshift + n) ∧
    Goes (.collectiveRetire gr) s (fun t => (t.grid gr).coll = some { c with retired := true } ∧ t.blocks = s.blocks)

/-- The commands and requests of the driver. 16 R353, R355–R357: the states that each command takes a partition through, and BADSTATE or BUSY elsewhere;
13 R277, 14 R312: OPEN leaves FAIRLIM and BWDOG as they were written; 16 R358, R359: what an image holds, and the turns (how an image is recognised is log entry 12); 16 R361, R362: pages, with the recalls
of granted leases (log entry 81); 16 R369; 18 R414. That groups go on no earlier than the turn after RESUME is the model's reading (log entry
19), and so is that a saved image holds the tolerances (log entry 54: R358 does not list them). -/
def Obligations.DriverCommands : Prop :=
  ∀ (p : Nat) (s : State) (ds : Bool), p < 8 → s.parts.length = 8 →
    (s.dev.fwok = false → ∀ i ∈ [Instr.openCmd p ds, .haltCmd p ds, .resumeCmd p ds, .saveCmd p ds, .restoreCmd p ds, .terminateCmd p ds, .pgack p, .snack p],
      exec i s = .next s) ∧
    (s.dev.fwok = true →
    let q := s.part p
    let refused := fun (t : State) => t = { s with parts := t.parts } ∧
      t.part p = { q with cstat := if q.st = .stopping ∨ q.st = .saving ∨ q.st = .restoring ∨ q.st = .clearing then 2 else 1 }
    let within := fun (t : State) (lo hi : Nat) => (t.part p).cstat = 0 ∧ s.turn + lo ≤ (t.part p).cmdDone ∧ (t.part p).cmdDone ≤ s.turn + hi
    let bare := fun (t : State) => (∀ i g, tget t.groups i = some g → g.pid ≠ p) ∧ (∀ i r, tget t.grids i = some r → r.pid ≠ p) ∧
      (t.part p).sems = [] ∧ (t.part p).gctr = 0 ∧ (t.part p).stops = []
    let bound := 1856 + ((q.dsh0 + q.dsh1) * 2 ^ 20 + 2048 * max (s.coresOf p).length 1 - 1) / (2048 * max (s.coresOf p).length 1)
    (q.st = .empty → Goes (.openCmd p ds) s (fun t => (t.part p).st = .clearing ∧ (t.part p).cmdOpen = true ∧ within t 1 bound ∧ bare t ∧
      (t.part p).fairlim = q.fairlim ∧ (t.part p).bwdog = q.bwdog ∧ (t.part p).sbchk = false)) ∧
    (q.st ≠ .empty → Goes (.openCmd p ds) s refused ∧ Goes (.restoreCmd p ds) s refused) ∧
    (q.st = .running → Goes (.haltCmd p ds) s (fun t => (t.part p).st = .stopping ∧ (t.part p).haltBy = true ∧ (t.part p).haltTick = some s.now ∧
      (t.part p).cstat = 0 ∧ t.hbm = s.hbm ∧ t.blocks = s.blocks)) ∧
    (q.st ≠ .running → Goes (.haltCmd p ds) s refused) ∧
    (q.st = .halted → Goes (.resumeCmd p ds) s (fun t => (t.part p).st = .running ∧ (t.part p).cstat = 0 ∧ t.out = s.out ++ [.msix q.ivec] ∧ t.hbm = s.hbm ∧
      ∀ i g, tget s.groups i = some g → g.pid = p → s.turn + 1 ≤ (t.group i).next ∧ (t.group i).haltDone = false ∧ (t.group i).lanes = g.lanes)) ∧
    (q.st ≠ .halted → Goes (.resumeCmd p ds) s refused ∧ Goes (.saveCmd p ds) s refused) ∧
    (q.st = .halted → s.imageOk p = true → Goes (.saveCmd p ds) s (fun t => (t.part p).st = .saving ∧ (t.part p).cmdDs = ds ∧ t.groups = s.groups ∧
      let b := s.moveBounds p (if ds then s.dieBytes p (s.gridsOf p) else 0) 0
      within t b.1 (max b.1 b.2))) ∧
    (q.st = .halted → s.imageOk p = false → Goes (.saveCmd p ds) s (fun t => t.part p = { q with cstat := 3 } ∧ t.out = s.out ++ [.msix q.ivec])) ∧
    (q.st = .empty → Goes (.restoreCmd p ds) s (fun t => (t.part p).st = .restoring ∧ (t.part p).cmdDs = ds ∧
      ∀ m, s.imageAt p ds = some m →
        let b := s.moveBounds p (if ds then s.dieBytes p m.grids else 0) m.lines
        within t b.1 (max b.1 b.2))) ∧
    (q.st = .halted ∨ q.st = .frozen → Goes (.terminateCmd p ds) s (fun t => (t.part p).st = .clearing ∧ (t.part p).cmdOpen = false ∧ within t 1 bound ∧ bare t)) ∧
    (q.st ≠ .halted → q.st ≠ .frozen → Goes (.terminateCmd p ds) s refused) ∧
    Goes (.clearingDone p) s (fun t => t.part p = { q with st := if q.cmdOpen then .running else .empty, cmdOpen := false, cmdDone := 0 } ∧
      t.out = s.out ++ [.msix q.ivec]) ∧
    (∀ l, s.imageLoc p = some l → Goes (.saveComplete p) s (fun t => (t.part p).st = .clearing ∧ (t.part p).cmdOpen = false ∧ bare t ∧ ∃ m, t.images = s.images ++ [m] ∧
      m.devseq = s.dev.devseq ∧ m.mask = s.unitMask p ∧ m.sems = q.sems ∧ m.gctr = q.gctr ∧ m.tol = q.tol ∧ m.ds = q.cmdDs ∧ m.stops = q.stops ∧
      ∀ i g, (i, g) ∈ m.groups ↔ (i, g) ∈ s.groups ∧ g.pid = p)) ∧
    (s.imageLoc p = none → Goes (.saveComplete p) s (fun t => t.part p = { q with st := .halted, cstat := 3, cmdDone := 0 } ∧ t.groups = s.groups ∧
      t.out = s.out ++ [.msix q.ivec])) ∧
    (∀ m, s.imageAt p q.cmdDs = some m → s.imageGood p m = true → Goes (.restoreComplete p) s (fun t => (t.part p).st = .halted ∧ (t.part p).sems = m.sems ∧
      (t.part p).gctr = m.gctr ∧ (t.part p).stops = m.stops ∧ t.out = s.out ++ [.msix q.ivec])) ∧
    ((∀ m, s.imageAt p q.cmdDs = some m → s.imageGood p m = false) → Goes (.restoreComplete p) s (fun t =>
      t.part p = { q with st := .empty, cstat := 3, cmdDone := 0 } ∧ t.groups = s.groups ∧ t.out = s.out ++ [.msix q.ivec])) ∧
    ((∀ r ∈ s.grids, r.2.missed = false) → (∀ i, i < 64 → (s.stream p i).en = false) →
      Goes (.pgack p) s (fun t => t.part p = { q with pgv := false } ∧ ∀ i, i < 64 → (t.stream p i).missed = false)) ∧
    (∀ va : DWord, (s.leased p va.toNat = true → Goes (.invva p va) s (fun t => va.toNat ∈ (t.part p).invbusy ∧ (t.part p).tcache = q.tcache)) ∧
      (s.leased p va.toNat = false → Goes (.invva p va) s (fun t => (t.part p).invbusy = q.invbusy ∧
        ∀ e, e ∈ (t.part p).tcache ↔ e ∈ q.tcache ∧ ¬ (e.base ≤ va.toNat ∧ va.toNat < e.base + e.size))) ∧
      Goes (.invva p va) s (fun t => t.pat.granted.length = s.pat.granted.length ∧
        ∀ g ∈ s.pat.granted, g.pid = p → g.recalled = [] → ∀ sg ∈ g.ext.segs, ({ g.ext with segs := [sg] } : Extent).onPage va.toNat = true →
          -- a notice goes in a control slot
          ∃ q : Place, s.now ≤ q.tick ∧ Emit.recall g.dev q g.grid g.rng (sg.ofs / 65536) ((sg.ofs + sg.len + 65535) / 65536 - sg.ofs / 65536) ∈ t.out)) ∧
    Goes (.invalidationDone p) s (fun t => (∀ va, va ∈ (t.part p).invbusy ↔ va ∈ q.invbusy ∧ s.leased p va = true) ∧
      ∀ e, e ∈ (t.part p).tcache ↔ e ∈ q.tcache ∧ ∀ va ∈ q.invbusy, s.leased p va = false → ¬ (e.base ≤ va ∧ va < e.base + e.size)) ∧
    Goes (.snack p) s (fun t => t.part p = { q with snheld := false }))

/-- The registers of BAR0 and the host's accesses. 16 R349: PLAY changes only units of EMPTY partitions; 16 R352: SHADOW; 16 R354: stream registers;
16 R351, R353: a listed register reads what was written, PGACK and INVVA act as they are written (each half of INVVA, log entry 73), an unlisted offset ignores it; 16 R369: without verified
firmware none takes a write; 16 R368, 18 R407: HBM4 from outside. -/
def Obligations.RegisterAndHostAccesses : Prop :=
  (∀ (s : State) (p i ofs : Nat) (v : Word), s.dev.fwok = false → p < 8 → i < 64 →
    ∀ x ∈ [Instr.play v, .shadow v, .registerWrite ofs v, .streamEn p i v, .restart p i v], exec x s = .next s) ∧
  (∀ (s : State) (v : Word), s.dev.fwok = true →
    let u := fun (w : Word) (i : Nat) => (w.extractLsb' (4 * i) 4).toNat
    let held := fun n => n < 8 ∧ (s.part n).st ≠ .empty
    let ok := ∀ i, i < 8 → ¬ (8 ≤ u v i ∧ u v i ≤ 14) ∧ (u s.dev.play i ≠ u v i → ¬ held (u s.dev.play i) ∧ ¬ held (u v i))
    (ok → Goes (.play v) s (fun t => t = { s with dev := { s.dev with play := v } })) ∧
    (¬ ok → Goes (.play v) s (fun t => t = { s with dev := { s.dev with playerr := true } }))) ∧
  (∀ (s : State) (v : Word), s.dev.fwok = true →
    let n0 := v.toNat % 4
    let n1 := v.toNat / 16 % 4
    let sum := fun (f : Part → Nat) => (s.parts.map f).sum
    (n0 ≠ 3 → n1 ≠ 3 → sum Part.dsh0 + 97 * n0 ≤ 256 → sum Part.dsh1 + 97 * n1 ≤ 256 → (∀ q ∈ s.parts, q.st = .empty ∨ q.csel < 4) →
      Goes (.shadow v) s (fun t => t = { s with dev := { s.dev with nsh0 := n0, nsh1 := n1 } })) ∧
    (n0 = 3 ∨ n1 = 3 ∨ 256 < sum Part.dsh0 + 97 * n0 ∨ 256 < sum Part.dsh1 + 97 * n1 →
      Goes (.shadow v) s (fun t => t = { s with dev := { s.dev with sherr := true } }))) ∧
  (∀ (p i : Nat) (s : State) (v : Word), s.dev.fwok = true → p < 8 → i < 64 → s.parts.length = 8 →
    let x := s.stream p i
    let y := { x with en := v.getLsbD 0, spriv := v.getLsbD 1, svec := v.toNat / 2 ^ 8 % 2 ^ 8 }
    Goes (.streamEn p i v) s (fun t => (t.stream p i).en = v.getLsbD 0 ∧ (t.stream p i).spriv = v.getLsbD 1 ∧ (t.stream p i).svec = v.toNat / 2 ^ 8 % 2 ^ 8 ∧
      (v.getLsbD 0 = false ∨ x.en = true → t.stream p i = y ∧ t.parts = s.parts)) ∧
    (v.getLsbD 0 = false ∨ x.en = true → Goes (.restart p i v) s (fun t => t.stream p i = if v.getLsbD 2 = true ∧ x.stopped = true then
      { y with stopped := false, srd := x.srd + 1, pkt := none, curHdr := 0, curTag := 0 } else y)) ∧
    (∀ o ∈ [0x08, 0x0C, 0x58, 0x5C, 0x60, 0x68], Goes (.registerWrite (0x1000000 + 0x100000 * p + o) v) s (fun t =>
      t.regRead (0x1000000 + 0x100000 * p + o) = v ∧ t.groups = s.groups ∧ t.hbm = s.hbm ∧ t.streams = s.streams)) ∧
    (∀ o ∈ [0x00, 0x04, 0x08, 0x10, 0x18, 0x1C, 0x20, 0x30], Goes (.registerWrite (0x1000000 + 0x100000 * p + 0x1000 + 64 * i + o) v) s (fun t =>
      t.regRead (0x1000000 + 0x100000 * p + 0x1000 + 64 * i + o) = v ∧ t.groups = s.groups ∧ t.hbm = s.hbm ∧ t.parts = s.parts)) ∧
    (v.getLsbD 0 = true → exec (.registerWrite (0x1000000 + 0x100000 * p + 0x38) v) s = exec (.pgack p) s) ∧
    exec (.registerWrite (0x1000000 + 0x100000 * p + 0x70) v) s = exec (.invva p ((s.part p).invva.extractLsb' 32 32 ++ v)) s ∧
    exec (.registerWrite (0x1000000 + 0x100000 * p + 0x74) v) s = exec (.invva p (v ++ (s.part p).invva.extractLsb' 0 32)) s ∧
    Goes (.registerWrite (0x1000000 + 0x100000 * p + 0x18) v) s (fun t =>
      (t.part p).fairlim = if v.toNat % 2 ^ 15 = 0 then (s.part p).fairlim else v.toNat % 2 ^ 15) ∧
    Goes (.registerWrite (0x1000000 + 0x100000 * p + 0x1C) v) s (fun t => (t.part p).bwdog = if v = 0 then (s.part p).bwdog else v)) ∧
  (∀ (s : State) (v : Word) (ofs : Nat), (0x10000 ≤ ofs ∧ ofs < 0x1000000) ∨ 0x1800000 ≤ ofs → exec (.registerWrite ofs v) s = .next s) ∧
  ∀ (s : State) (a n : Nat) (bs : List Byte) (bad : Bool),
    let inside := fun n => s.dev.fwok = true ∧ s.dev.power = true ∧ a + n ≤ 384 * 2 ^ 30 - 4352 * s.pat.pspill.toNat
    (inside n → Goes (.hostRead a n) s (fun t => t = { s with out := s.out ++ [.hostData a (memRead s.hbm.cells a n) (s.hbm.poisoned a n)] })) ∧
    (¬ inside n → Goes (.hostRead a n) s (fun t => t = { s with out := s.out ++ [.hostUr a] })) ∧
    (inside bs.length → s.memOk → Goes (.hostWrite a bs bad) s (fun t => memRead t.hbm.cells a bs.length = bs ∧
      (∀ m, (m < a ∨ a + bs.length ≤ m) → memRd t.hbm.cells m = memRd s.hbm.cells m) ∧ t.host = s.host ∧ t.groups = s.groups ∧
      (∀ m, m < bs.length → bad = true → t.hbm.poisoned (a + m) 1 = true) ∧
      (s.mirroredAt a bs.length = false → t.out = s.out ++ [.hostAck a]) ∧
      (s.mirroredAt a bs.length = true → t.out = s.out ∧ t.pat.mirPend = s.pat.mirPend ++ [{ due := s.turn + 152, adr := a, ident := s.ident }]))) ∧
    (¬ inside bs.length → Goes (.hostWrite a bs bad) s (fun t => t = { s with out := s.out ++ [.hostUr a] }))

/-- Flits, links and schedule faults. 15 R323, R324, R327, R328: a flit of a slot that the pattern gives acts once by its sequence number, and is answered in its
acknowledgement slot; one that is not acknowledged is sent again with its sequence number, a third sending being LINK; 15 R319–R321, R329, R332–R337: what is a
schedule fault, and what this device does on one of its own and on a peer's announcement; 15 R320: the exchange of PTP messages; 16 R369: without verified firmware it takes none of this. The forms of flits and of the pattern's record, and the records that LATE
counts, are the model's (log entries 15, 16, 76), as are the ticks of PTP messages (80) and what a peer's lease covers (81). -/
def Obligations.FlitsAndScheduleFaults : Prop :=
  (∀ (pair fr sl port : Nat) (bs : List Byte) (lost bad : Bool) (body : Payload) (rx : FlitIn) (m : PtpTimes) (ports : List Nat) (s : State), s.dev.fwok = false →
    ∀ i ∈ [Instr.acknowledgement pair ⟨[(fr, sl)], bs⟩ lost, .flitReceive pair fr sl rx bad body, .linkFailed port, .ptpSync m, .timingPortLockLoss ports],
      exec i s = .next s) ∧
  (∀ (pair fr sl : Nat) (bs : List Byte) (lost : Bool) (s : State) (fs : List SentFlit) (f : SentFlit), s.dev.fwok = true → tget s.pat.acks pair = some fs →
    -- a flit that has been sent
    fs.find? (fun f => (f.gone || f.again != 0) && f.frame == fr && f.slot == sl) = some f →
    let good := lost = false ∧ field bs 60 4 % 2 = 1 ∧ BitVec.ofNat 32 (field bs 0 4) = f.crc
    let x := Instr.acknowledgement pair ⟨[(fr, sl)], bs⟩ lost
    (good → Goes x s (fun t => t = ({ s with pat := { s.pat with acks := tset s.pat.acks pair (fs.filter (fun q => q != f)) } } : State).sendHeld)) ∧
    -- it goes again in the pair's next ease slot on its port, or in a backup slot of its failed link, when that slot begins
    (¬ good → ¬ (f.gone = true ∧ 1 ≤ f.again) → ∀ p, s.again pair f = some p → Goes x s (fun t => ∃ u : State, t = u.sendHeld ∧ u.out = s.out ∧
      tget u.pat.acks pair = some (fs.map (fun q => if q = f then
        { q with again := 1, gone := false, port := p.port, atFrame := p.frame, atSlot := p.slot, tick := p.tick } else q)) ∧
      ((s.remotes.map (·.ident)).Nodup → (∀ r ∈ s.remotes, r.ident = f.ident → r.apply ≠ 2 ^ 60) → ∀ r ∈ u.remotes, r.ident = f.ident → r.resent = true ∧
        (r.applied = false → p.tick + 540 * s.hops (peerOf r.peer) ≤ 16 * r.apply)))) ∧
    (∀ p, s.slots ≠ [] → s.again pair f = some p → s.now ≤ p.tick ∧ ∃ q ∈ s.slots, q.out = true ∧ q.peer = pair ∧ q.port = p.port ∧ q.index = p.slot ∧
      (f.port ∉ s.pat.failed → q.port = f.port ∧ slotKind q = .ease) ∧ (f.port ∈ s.pat.failed → slotKind q = .backup f.port)) ∧
    (¬ good → ¬ (f.gone = true ∧ 1 ≤ f.again) → s.again pair f = none → Goes x s (fun t => t = s.sendHeld)) ∧
    (¬ good → f.gone = true → 1 ≤ f.again → s.watches → Goes x s (fun t => ∃ u : State, t = u.sendHeld ∧ Detects 4 s u))) ∧
  (∀ (pair fr sl : Nat) (bad : Bool) (body : Payload) (rx : FlitIn) (s : State),
    let x := Instr.flitReceive pair fr sl rx bad body
    let on := fun (y : Slot) (p : Nat) => ∀ k, y.frame = some k → k = p % s.frames
    let from_ := fun (y : Slot) => y ∈ s.slots ∧ y.out = false ∧ y.peer = pair
    (s.slotIn pair rx.port rx.index fr = none → exec x s = .next s) ∧
    ∀ q, s.dev.fwok = true → s.slotIn pair rx.port rx.index fr = some q →
      -- the entry of the slot, in the frame that the flit's number names, or a re-sent one's in this frame or the last
      (q.port = rx.port ∧ q.index = rx.index ∧ (rx.index % 120 = 0 → slotKind q = .control) ∧ (rx.index % 120 ≠ 0 → from_ q ∧
        ((slotKind q = .ease ∨ ∃ p, slotKind q = .backup p) ∧ (on q s.pframe ∨ on q (s.pframe + s.frames - 1)) ∨ on q fr))) ∧
      let tied := fun (a : Nat × Nat) (y : Slot) => y.out = true ∧ y.peer = pair ∧ slotKind y = .ack ∧ y.port = a.1 ∧ y.index = a.2
      -- the answer waits for the next acknowledgement slot to which the pattern ties the flit's slot
      let answers := fun (t : State) (ok : Bool) (crc : Word → Prop) => (q.ack = none → t.pat.ackq = s.pat.ackq) ∧
        ∀ a y, q.ack = some a → s.slots.filter (fun y => y.out && y.peer == pair && slotKind y == .ack && y.port == a.1 && y.index == a.2) = [y] →
          (s.occurs y 0).tick ≤ s.now + 1024 → tied a y ∧ ∃ c, crc c ∧ t.pat.ackq = s.pat.ackq ++
            [{ pair := pair, tick := (s.occurs y 0).tick, port := y.port, slot := y.index, ok := ok, crc := c }]
      let keeps := fun (t : State) => t.hbm = s.hbm ∧ t.grids = s.grids ∧ t.out = s.out
      let counted := fun (t : State) => tget t.pat.lost rx.port = some ((if s.pat.lostIn = s.pframe then (tget s.pat.lost rx.port).getD 0 else 0) + 1)
      let seen := (tget s.pat.seen pair).getD []
      -- while only control slots carry traffic
      (s.pat.st ≠ 1 → slotIsData q = true → exec x s = .next s) ∧
      (rx.how = .lost → s.pat.st = 1 ∨ slotIsData q = false → Goes x s (fun t => keeps t ∧ t.pat.seen = s.pat.seen ∧ counted t ∧
        (slotIsData q = true → answers t false (fun c => c = 0)) ∧ (slotIsData q = false → t.pat.ackq = s.pat.ackq))) ∧
      (rx.how ≠ .lost → s.pat.st = 1 → slotIsData q = true →
        -- what a flit is, the entry of the slot of its first sending says
        (∀ m, s.meaning q pair fr sl = some m → (slotKind q = .planned ∨ slotKind q = .open_ → m = q) ∧
          (slotKind q = .ease → from_ m ∧ m.port = q.port ∧ m.index = sl ∧ on m fr) ∧
          (∀ p, slotKind q = .backup p → if q.index = sl ∧ on q fr then m = q else from_ m ∧ m.port = p ∧ m.index = sl ∧ on m fr)) ∧
        -- 64 bytes of a flit of an operation are its data
        let crc := fun (c : Word) => ∀ bs, body = .data bs → c = crc32c bs
        ((fr, sl) ∈ seen → Goes x s (fun t => keeps t ∧ t.pat.seen = s.pat.seen ∧ answers t true crc)) ∧
        ((fr, sl) ∉ seen → Goes x s (fun t => (fr, sl) ∈ (tget t.pat.seen pair).getD [] ∧ answers t true crc ∧
          (s.meaning q pair fr sl = none → keeps t) ∧
          ∀ m, s.meaning q pair fr sl = some m →
            let open_ := slotKind m = .open_ ∨ ∃ p, slotKind m = .backup p ∧ m.op = .none
            let planned := slotKind m = .planned ∨ ∃ p, slotKind m = .backup p
            -- a slot of an operation carries its data alone, an open one what names itself
            (¬ open_ → (∀ bs, body ≠ .data bs) → keeps t) ∧ ((∃ bs, body = .data bs) → ¬ planned → keeps t) ∧
            (∀ r l, body = .request r → open_ → r.kind = .store → r.lanes = [l] → l.host = false → r.base + l.ofs + r.size ≤ 384 * 2 ^ 30 → 0 < r.size → s.memOk →
              s.grantCovers r.peer .store false (r.base + l.ofs) r.size = true →
              s.mirroredAt (r.base + l.ofs) r.size = false → memRead t.hbm.cells (r.base + l.ofs) r.size = toBytes r.size l.b.toNat) ∧
            -- what a planned flit is, the entry of its slot says
            (∀ bs, body = .data bs → planned → s.memOk →
              (m.op = .copy → s.mirroredAt m.place bs.length = false → memRead t.hbm.cells m.place bs.length = bs) ∧
              (m.op = .mirror → memRead t.hbm.cells m.place bs.length = bs) ∧
              (∀ e k gr r c, m.op = .coll e k → tget s.grids gr = some r → r.coll = some c → c.pent = e → c.retired = false → bs.length = 64 → m.place % 64 = 0 →
                ∃ d, (t.grid gr).coll = some d ∧ (∀ j, j < 64 → ((tget d.peers k).bind (fun z => tget z (m.place + j))) = bs[j]?) ∧
                  (bad = true → m.place / 64 ∈ (tget d.peerPoison k).getD []))) ∧
            (∀ a bs, (body = .mirrorWrite a bs ∨ (body = .copy a bs ∧ s.mirroredAt a bs.length = false)) → open_ → s.memOk →
              memRead t.hbm.cells a bs.length = bs ∧ (∀ n, n < bs.length → bad = true → t.hbm.poisoned (a + n) 1 = true))))) ∧
      (∀ e k v, rx.how ≠ .lost → body = .version e k v → slotKind q = .control → Goes x s (fun t =>
        t.hbm = s.hbm ∧ ∀ gr r c, tget s.grids gr = some r → r.coll = some c → c.pent = e → c.retired = false →
          tget t.grids gr = some { r with coll := some { c with vers := tset c.vers k v } }))) ∧
  (∀ (s : State) (port : Nat), s.dev.fwok = true →
    (port ∈ s.pat.failed → exec (.linkFailed port) s = .next s) ∧
    -- a notice in the next control slot of a port that works, and backup slots from the next superslot
    (port ∉ s.pat.failed → Goes (.linkFailed port) s (fun t => ∃ p, NextControl s p ∧ p ∈ t.pat.ctl ∧
      ((∃ i, i < 12 ∧ i ≠ port ∧ i ∉ s.pat.failed) → p.port < 12 ∧ p.port ≠ port ∧ p.port ∉ s.pat.failed) ∧
      t = { s with out := s.out ++ [.linkNotice p port], pat := { s.pat with
        failed := insNat s.pat.failed port, backups := s.pat.backups ++ [(port, 64 * (s.now / 64) + 64)], ctl := t.pat.ctl } }))) ∧
  -- a delay request to the grandmaster after its Sync on the timing port, and the offset once the response is there
  (∀ (s : State) (src port t1 t4 corr : Nat) (b : PtpBody), s.dev.fwok = true →
    let master := (∃ c, s.pat.cur = some c ∧ c.grandmaster = src) ∧ src ≠ s.selfDev ∧ port = s.pat.port
    (b ≠ .request → ¬ master → exec (.ptpSync ⟨src, port, b⟩) s = .next s) ∧
    let sends := fun (t : State) (p : Place) => NextControl s p ∧ p.port = port ∧ p ∈ t.pat.ctl
    (master → Goes (.ptpSync ⟨src, port, .sync t1 corr⟩) s (fun t => ∃ p, sends t p ∧
      t = { s with pat := { s.pat with ptp := some ((s.now : Int) - t1 - corr, p.tick), ctl := t.pat.ctl }, out := s.out ++ [.delayRequest src p] })) ∧
    (s.pat.ptp = none → exec (.ptpSync ⟨src, port, .response t4 corr⟩) s = .next s) ∧
    (∀ d t3, s.pat.ptp = some (d, t3) → master →
      let twice : Int := d - ((t4 : Int) - corr - t3)
      let recent := (s.pat.syncs ++ [twice]).drop (s.pat.syncs.length - 15)
      let skew := recent.length = 16 ∧ (recent.sum < -64 ∨ 64 < recent.sum)
      (¬ skew → Goes (.ptpSync ⟨src, port, .response t4 corr⟩) s (fun t => t = { s with pat := { s.pat with ptp := none, syncs := recent } })) ∧
      (skew → s.watches → Goes (.ptpSync ⟨src, port, .response t4 corr⟩) s (Detects 3 s))) ∧
    ((∃ c, s.pat.cur = some c ∧ c.grandmaster = s.selfDev) →
      Goes (.ptpSync ⟨src, port, .request⟩) s (fun t => ∃ p, sends t p ∧
        t = { s with pat := { s.pat with ctl := t.pat.ctl }, out := s.out ++ [.delayResponse src p s.now] })) ∧
    ((∀ c, s.pat.cur = some c → c.grandmaster ≠ s.selfDev) → exec (.ptpSync ⟨src, port, .request⟩) s = .next s)) ∧
  (∀ (s : State) (ports : List Nat), s.dev.fwok = true → s.pat.port < 12 →
    let held := (List.range 12).map (fun i => ports.contains i)
    -- a link that has lost lock is declared failed
    let lost := fun (i : Nat) => i < 12 ∧ s.pat.locked.getD i false = true ∧ i ∉ ports
    let fails := fun (u : State) => (∀ i, i ∈ u.pat.failed ↔ i ∈ s.pat.failed ∨ lost i) ∧
      ∀ i, lost i → i ∉ s.pat.failed → (i, 64 * (s.now / 64) + 64) ∈ u.pat.backups ∧ ∃ p : Place, s.now ≤ p.tick ∧ .linkNotice p i ∈ u.out
    let after := fun (u : State) (port : Nat) => fails u ∧ u = { s with
      out := u.out, pat := { s.pat with locked := held, port := port, failed := u.pat.failed, backups := u.pat.backups, ctl := u.pat.ctl } }
    (s.pat.port ∈ ports → Goes (.timingPortLockLoss ports) s (fun t => after t s.pat.port)) ∧
    -- the next locked port in ascending number, after port 11 from port 0 on
    (∀ i, s.pat.port ∉ ports → i ∈ ports → i < 12 → s.pat.port < i → (∀ j, s.pat.port < j → j < i → j ∉ ports) →
      Goes (.timingPortLockLoss ports) s (fun t => after t i)) ∧
    (∀ i, s.pat.port ∉ ports → i ∈ ports → i < s.pat.port → (∀ j, j < 12 → j ∈ ports → i ≤ j ∧ j < s.pat.port) →
      Goes (.timingPortLockLoss ports) s (fun t => after t i)) ∧
    ((∀ i, i < 12 → i ∉ ports) → s.watches → Goes (.timingPortLockLoss ports) s (fun t => ∃ u, after u s.pat.port ∧ Detects 3 u t))) ∧
  -- a flit takes a slot of its kind, of its operation and place where it is planned, and waits where there is none
  (∀ (s : State) (f : HeldFlit),
    let waits := s.sendData f = { s with pat := { s.pat with held := s.pat.held ++ [f] } }
    (s.pat.st ≠ 1 → waits) ∧ (s.place f.peer true (s.serves f) = none → waits) ∧
    ∀ p, s.pat.st = 1 → s.place f.peer true (s.serves f) = some p → ∃ x : SentFlit,
      s.sendData f = { s with free := s.free + 1, pat := { s.pat with acks := tset s.pat.acks f.peer ((tget s.pat.acks f.peer).getD [] ++ [x]) } } ∧
      x = { ident := f.ident, frame := p.frame, slot := p.slot, port := p.port, crc := x.crc, tick := p.tick, copy := f } ∧
      (∀ bs, f.body = .data bs → x.crc = crc32c bs) ∧
      (s.slots ≠ [] → s.now ≤ p.tick ∧ (∀ q ∈ s.pat.acks, ∀ y ∈ q.2, ¬ (y.port = p.port ∧ y.atFrame = p.frame ∧ y.atSlot = p.slot)) ∧
        ∃ q ∈ s.slots, q.out = true ∧ q.peer = f.peer ∧ q.port = p.port ∧ q.index = p.slot ∧
          ((slotKind q = f.kind ∧ q.port ∉ s.pat.failed) ∨ ∃ b, slotKind q = .backup b ∧ b ∈ s.pat.failed) ∧
          if f.kind = .planned then q.op = f.op ∧ q.place = f.place else q.op = .none)) ∧
  -- and goes out when the slot begins
  (∀ (s : State),
    let begins := fun (f : SentFlit) => s.pat.st = 1 ∧ f.gone = false ∧ f.tick ≤ s.now
    s.launchFlits = { s with
      out := s.launchFlits.out
      pat := { s.pat with acks := s.pat.acks.map (fun q => (q.1, q.2.map (fun f => if begins f then { f with gone := true } else f))) } } ∧
    ∀ e, e ∈ s.launchFlits.out ↔ e ∈ s.out ∨ ∃ q ∈ s.pat.acks, ∃ f ∈ q.2, begins f ∧
      e = if f.again = 0 then .flit q.1 f.atFrame f.atSlot f.port f.copy.poison f.copy.body else .resend q.1 f.frame f.slot f.port f.atFrame f.atSlot) ∧
  (∀ (s : State) (c : Pattern), s.pat.cur = some c →
    (∀ i e, c.planned[i]? = some e →
      (s.plannedLate i e = none → exec (.late (.planned i)) s = .next s) ∧
      ∀ d, s.plannedLate i e = some d → s.watchesAt d → Goes (.late (.planned i)) s (fun t => DetectsAt 1 d s t ∧ tget t.pat.lateSeen (2 * i) = some d)) ∧
    (∀ i e, c.colls.find? (fun e => e.ident == i) = some e →
      (s.collLate e = none → exec (.late (.coll i)) s = .next s) ∧
      ∀ d, s.collLate e = some d → s.watchesAt d → Goes (.late (.coll i)) s (fun t => DetectsAt 1 d s t ∧ tget t.pat.lateSeen (2 * i + 1) = some d)) ∧
    -- a planned grid is late once the last deadline of it has come with no record of it since its planned start
    (∀ i (e : PlannedGrid) b d, s.lastPlanned e s.now = some (b, d) → tget s.pat.lateSeen (2 * i) ≠ some d →
      (s.plannedLate i e = some d ↔ ∀ q ∈ s.pat.recs, q.1 = e.stream → q.2.1 = e.tag → q.2.2 < b ∨ d < q.2.2))) ∧
  (∀ (s : State) (gr n : Nat), s.watches →
    ((tget s.grids gr).isSome → Goes (.late (.grid gr)) s (fun t => Detects 1 s t ∧ (t.grid gr).late = true)) ∧
    Goes (.ease n) s (fun t => Detects 2 s t ∧ t.dram.maint = s.dram.maint.filter (fun m => !(m.row.ch == n && m.limit ≤ s.now)))) ∧
  ∀ (s : State) (dev frame tick : Nat) (c : SFault),
    let halts := fun (t : State) => t.out = s.out ∧
      ∀ p, p < 8 → (t.part p).faults = (s.part p).faults ++ (if s.runsPlanned p then [{ bit := 1, tick := s.now }] else [])
    (s.dev.fwok = false ∨ s.pat.cur = none ∨ dev = s.selfDev ∨ s.domainOf dev ≠ s.domainOf s.selfDev → exec (.peer dev frame c tick) s = .next s) ∧
    (s.dev.fwok = true → s.watchesAt tick → dev ≠ s.selfDev → s.domainOf dev = s.domainOf s.selfDev → Goes (.peer dev frame c tick) s (fun t =>
      t.pat.cause = 5 ∧ t.pat.pfdev = BitVec.ofNat 32 dev ∧ t.pat.pftick = tick ∧ halts t)) ∧
    -- a device that has faulted takes no second cause; the lowest-numbered device and its tick are recorded
    (∀ f, s.dev.fwok = true → s.pat.cur.isSome → s.parts.length = 8 → dev ≠ s.selfDev → s.domainOf dev = s.domainOf s.selfDev → s.pat.fault = some f → tick / 65536 ≤ f →
      Goes (.peer dev frame c tick) s (fun t => halts t ∧
        t.pat = if dev ≤ s.pat.pfdev.toNat then { s.pat with pfdev := BitVec.ofNat 32 dev, pftick := tick } else s.pat))

/-- The pattern's own events and leases. 15 R337, R338: quiet frames, alignment, the rejoin; 15 R319, R330, R345, R347, R348: loading and effect; 15 R331, R332, 16 R367, 18 R409:
ease windows and alerts; 16 R363: leases; 18 R405, R410: checkpoints. What load rejects beyond R348, and the form of maintenance, are the model's (log
entries 15, 18, 78), as is when this device grants leases (81); that PCKPT reads 0 from the effect of a pattern on, and PSPILL the larger count while one waits, are log entry 79's. -/
def Obligations.PatternAndLeases : Prop :=
  (∀ (s : State), Goes .quietFrames s (fun t => t.pat = { s.pat with st := 2, seen := [], acks := [], ackq := [], syncs := [], ptp := none, syncAt := 64 * ((s.now + 63) / 64), held := t.pat.held } ∧
    -- a flit whose slot has not begun does not go, and the executions that need it have no turns; of planned ones, duplicates of mirrored writes stay,
    -- and those that have gone out and are not acknowledged go again, with what stands in the page
    let back := fun (f : HeldFlit) => ∃ q ∈ s.pat.acks, ∃ x ∈ q.2, (x.gone = false ∧ x.copy = f) ∨ (x.gone = true ∧ x.copy.op = .mirror ∧ s.freshDup x.copy = f)
    (∀ f, f ∈ t.pat.held ↔ (f ∈ s.pat.held ∨ back f) ∧ (f.kind = .planned → f.op = .mirror)) ∧
    (∀ r ∈ t.remotes, r.applied = false → (∃ f, back f ∧ f.ident = r.ident) → r.apply = 2 ^ 60) ∧ t.parts = s.parts ∧ t.hbm = s.hbm)) ∧
  (∀ (s : State) (f : HeldFlit) (c : Pattern) (m : MirrorPage) (bs : List Byte), s.pat.cur = some c → f.body = .data bs →
    c.mirrors.find? (fun m => m.device == f.peer && m.partner == f.place / 65536) = some m →
    let a := 65536 * m.page + f.place % 65536
    s.freshDup f = { f with body := .data (memRead s.hbm.cells a bs.length), poison := s.hbm.poisoned a bs.length }) ∧
  (∀ (s : State), (s.pat.skewed = false → Goes .alignmentCheck s (fun t => t = { s with pat := { s.pat with aligned := true } })) ∧
    (s.pat.skewed = true → s.watches → Goes .alignmentCheck s (Detects 3 s))) ∧
  (∀ (s : State),
    -- c is the latest checkpoint at or before the frame of the fault
    let back := fun (c : Nat) => ((∀ f, s.pat.fault = some f → s.pat.pckptAt ≤ f) → c = s.pat.pckpt) ∧ ∀ f, s.pat.fault = some f → f < s.pat.pckptAt → c = s.pat.pckptOld
    Goes .rejoin s (fun t => t.pat.st = 1 ∧ ∃ ck, back ck ∧ t.pat.pshift = s.pat.pjoin - ck ∧ t.pat.pjoin = 0 ∧ t.pat.fault = none ∧
    t.pat.since = 65536 * s.pat.pjoin ∧ t.pat.cause = s.pat.cause ∧ t.parts = s.parts ∧
    -- a pattern that waits takes effect at a boundary of the frames that now run
    ∀ c q, s.pat.cur = some c → s.pat.nxt = some q → 0 < c.nf → ck ≤ s.pat.pjoin →
      65536 * s.pat.pjoin ≤ t.pat.nxtAt ∧ t.pat.nxtAt % 65536 = 0 ∧ (t.pat.nxtAt / 65536 - t.pat.pshift) % c.nf = 0)) ∧
  (∀ (s : State) (q : Pattern), (patternBad s.pat.gens s.pat.cur q = true ∨ s.dev.fwok = false → exec (.patternLoad q) s = .next s) ∧
    -- an all-reduce of at most 4 KiB that lands later than 2,160 ticks after its send tick
    (∀ e ∈ q.colls, e.op = 0 → e.len ≤ 4096 → (∃ n ∈ e.lands, e.send + 2160 < n) → patternBad s.pat.gens s.pat.cur q = true) ∧
    -- a reuse of a GID by another generation than the next one
    (∀ e ∈ q.colls, ∀ n, (e.gid, n) ∈ s.pat.gens → e.gen ≠ (n + 1) % 256 → (∀ c, s.pat.cur = some c → ∀ o ∈ c.colls, o.gid = e.gid → o.gen ≠ e.gen) →
      patternBad s.pat.gens s.pat.cur q = true) ∧
    -- a reuse while a slot of the old owner lies in the last 2,160 ticks of the period
    (∀ c, s.pat.cur = some c → ∀ e ∈ q.colls, ∀ o ∈ c.colls, o.gid = e.gid → 65536 * c.nf ≤ o.last + 2160 → (∀ o ∈ c.colls, o.gid = e.gid → o.gen ≠ e.gen) →
      patternBad s.pat.gens s.pat.cur q = true) ∧
    -- an ease period longer than the standard's refresh interval
    (∀ ch, ch < 256 → Config.refreshInterval < ewper q ch → patternBad s.pat.gens s.pat.cur q = true) ∧
    (patternBad s.pat.gens s.pat.cur q = false → s.dev.fwok = true → s.pat.cur = none → Goes (.patternLoad q) s (fun t => t.pat.nxt = some q ∧ t.pat.nxtAt % 65536 = 0 ∧
      s.now ≤ t.pat.nxtAt ∧ t.pat.nxtAt < s.now + 65536 ∧ t.pat.cur = none ∧ t.pat.pspill = BitVec.ofNat 32 (q.peers - 1024))) ∧
    (patternBad s.pat.gens s.pat.cur q = false → s.dev.fwok = true → ∀ c, s.pat.cur = some c → s.pat.st ≠ 3 → 65536 * s.pat.pshift ≤ s.now → 0 < c.nf → Goes (.patternLoad q) s (fun t =>
      t.pat.nxt = some q ∧ (t.pat.nxtAt / 65536 - s.pat.pshift) % c.nf = 0 ∧ t.pat.nxtAt % 65536 = 0 ∧ s.now < t.pat.nxtAt ∧
      t.pat.nxtAt ≤ s.now + 65536 * c.nf ∧ t.pat.pspill = BitVec.ofNat 32 (max (c.peers - 1024) (q.peers - 1024)))) ∧
    (s.pat.nxt = some q → (∃ i, i < 12 ∧ s.pat.locked.getD i false = true) → Goes .patternEffect s (fun t => t.pat.cur = some q ∧ t.pat.nxt = none ∧
      t.pat.st = 1 ∧ t.pat.dom = q.dom ∧ t.pat.pshift = s.pat.nxtAt / 65536 ∧ t.pat.attempt = 0 ∧ t.pat.cause = s.pat.cause ∧ t.pat.pckpt = 0 ∧
      t.pat.pjoin = 0 ∧ t.pat.since = s.pat.nxtAt ∧ (s.pat.locked.getD q.timingPort false = true → t.pat.port = q.timingPort) ∧
      (t.pat.locked.getD t.pat.port false = true) ∧
      -- the GEN of a GID is kept while no pattern uses it; the resident ranges are granted to the other devices of the domain
      (∀ e ∈ q.colls, (e.gid, e.gen) ∈ t.pat.gens) ∧
      (∀ gid n, (gid, n) ∈ s.pat.gens → (∀ e ∈ q.colls, e.gid ≠ gid) → (gid, n) ∈ t.pat.gens) ∧
      ∀ gr r d i e, (gr, r) ∈ s.grids → r.resident = true → r.recorded = false → r.phase ≠ .accepted → d < q.devices → d ≠ q.device →
        q.domainOf.getD d q.dom = q.domainOf.getD q.device q.dom → r.exts[i]? = some e → ∃ g ∈ t.pat.granted, g.dev = d ∧ g.grid = gr ∧ g.rng = i)) ∧
    (s.pat.nxt = some q → (∀ i, s.pat.locked.getD i false = false) → Goes .patternEffect s (fun t => t.pat.cur = some q ∧ t.pat.cause = 3))) ∧
  (∀ (gr peer rng page : Nat) (place : List LPage) (s : State) (r : Grid), tget s.grids gr = some r →
    let mine := fun (l : Lease) => l.peer = peer ∧ l.rng = rng
    (s.domainOf peer = s.domainOf s.selfDev → Goes (.leaseGrant gr peer ⟨rng, place⟩) s (fun t => ∃ l, mine l ∧ l.state = 1 ∧ l.pages = [] ∧ l.place = place ∧
      ∀ x, x ∈ (t.grid gr).leases ↔ x = l ∨ (x ∈ r.leases ∧ ¬ mine x))) ∧
    (s.domainOf peer ≠ s.domainOf s.selfDev → exec (.leaseGrant gr peer ⟨rng, place⟩) s = .next s) ∧
    Goes (.leaseRecall gr peer rng page) s (fun t => (t.grid gr).leases = r.leases.map (fun l => if mine l ∧ (l.state = 1 ∨ l.state = 2) then
      { l with state := 2, pages := insNat l.pages page, answering := true } else l)) ∧
    (∀ l ∈ r.leases, mine l → l.answering = true → s.recallBusy gr l = false → Goes (.recallAnswer gr peer rng) s (fun t =>
      (t.grid gr).leases = r.leases.map (fun l => if mine l then { l with state := 3, answering := false } else l) ∧ t.out = s.out ++ [.recallDone gr peer rng]))) ∧
  (∀ (s : State), s.pat.cur = none ∨ s.dram.easeAt = [] → exec .easeWindow s = .next s) ∧
  (∀ (s : State) (ch at_ : Nat) (c : Pattern), s.pat.cur = some c → (ch, at_) ∈ s.dram.easeAt →
    -- the window that comes next, and of several the lowest channel's
    (∀ q ∈ s.dram.easeAt, at_ < q.2 ∨ (q.2 = at_ ∧ ch ≤ q.1)) →
    let mine := s.dram.maint.filter (fun m => m.row.ch == ch)
    Goes .easeWindow s (fun t =>
      tget t.dram.easeAt ch = some (at_ + max (ewper c ch) 1) ∧
      (∀ m, m.row.ch ≠ ch → (m ∈ t.dram.maint ↔ m ∈ s.dram.maint)) ∧
      -- maintenance that does not fit is deferred, and what fits is done
      ((∀ m ∈ mine, ewlen c ch < maintTicks c m.kind) → (∀ m ∈ mine, m ∈ t.dram.maint) ∧ t.hbm = s.hbm) ∧
      ∀ m, mine = [m] → maintTicks c m.kind ≤ ewlen c ch → m ∉ t.dram.maint ∧
        (m.kind = .refresh → tget t.dram.acts m.row.key = some 0) ∧
        ∀ g, m.kind = .repair g → g ∈ s.hbm.poison → s.mirroredAt (64 * g) 64 = true → g ∉ s.pat.partnerBad → s.memOk →
          g ∉ t.hbm.poison ∧ ∀ i b, i < 64 → tget s.pat.partner (64 * g + i) = some b → memRd t.hbm.cells (64 * g + i) = b)) ∧
  (∀ (s : State) (ch bank row : Nat), Goes (.rowActivationAlert ch ⟨bank, row⟩) s (fun t =>
    ({ ch := ch, bank := bank, row := row } : HRow).key ∈ t.dram.alerts ∧ t.hbm = s.hbm ∧
    (s.pat.cur.isSome = true → t.dram.maint = s.dram.maint ++ [{ row := { ch := ch, bank := bank, row := row }, kind := .manage, limit := s.now + Config.refreshPostpone }]) ∧
    (s.pat.cur = none → t.dram.maint = s.dram.maint))) ∧
  -- a duplicate that waits for its slot, or for its acknowledgement
  (∀ (s : State) (f : HeldFlit), f.op = .mirror → f ∈ s.pat.held ∨ (∃ q ∈ s.pat.acks, ∃ x ∈ q.2, x.copy = f) → (∀ q ∈ s.pat.mirPend, q.ident ≠ f.ident) →
    s.mirOut f.ident = true ∧ s.durable = false) ∧
  ∀ (s : State), (s.durable = true → Goes .checkpoint s (fun t => t.pat.pckpt = s.pframe ∧ t.pat.pckptOld = s.pat.pckpt ∧
      (s.pat.pckpt < s.pframe → ∀ p, t.part p = { s.part p with scmant := 0, scsig := 0, scce := 0 }) ∧
      (s.pframe ≤ s.pat.pckpt → t.parts = s.parts))) ∧
    (s.durable = false → s.watches → Goes .checkpoint s (Detects 1 s))

/-- The device as a whole. 18 R416–R418: a core is marked and replaced; 16 R352, R370: what cold start leaves (its DEVSEQ is free); 16 R369: firmware; 16 R371: management and
power. The values that cold start leaves in the registers of the device (log entry 1), of partitions and streams (2), of the pattern block (3) and in memory (5) are the model's
where the spec states none; a standby core's images are log entry 55. -/
def Obligations.DeviceEvents : Prop :=
  (∀ (s : State) (k : Nat), k < 192 → Goes (.coreMark k) s (fun t => (t.core k).marked = true ∧ ((s.core k).marked = false → t.dev.rq = true) ∧
    (∀ j, j ≠ k → t.core j = s.core j) ∧ t.groups = s.groups)) ∧
  (∀ (s : State) (k : Nat), s.substitutable k = true → Goes (.standbySubstitution k) s (fun t =>
      (t.core k).marked = false ∧ (t.core k).cecnt = 0 ∧ (t.core k).tiles = List.replicate 8 {} ∧
      -- every word of its instruction scratch is zero; the images of started grids follow (14 R297, assumption 55)
      (∀ i g pc l, g.core = k → tget t.groups i = some g → t.lineAt g pc = some l → l.lw = 0 ∧ ∀ w ∈ l.slots, w = 0) ∧
      (∀ gr r, s.grids = [(gr, r)] → r.pid = s.partOf k → r.phase = .started → r.recorded = false → ∀ n, n < r.desc.nlines →
        tget ((t.reimage k).core k).lines (r.base / 64 + n) = some (imageLine s.hbm r n)) ∧
      (k < 96 → t.dev.sb0 = s.dev.sb0 - 1 ∧ t.dev.sb1 = s.dev.sb1) ∧ (96 ≤ k → k < 192 → t.dev.sb1 = s.dev.sb1 - 1 ∧ t.dev.sb0 = s.dev.sb0)) ∧
    s.dev.standby (dieOf k) ≠ 0) ∧
  (∀ (s : State), Goes .coldStart s (fun t => t.groups = [] ∧ t.blocks = [] ∧ t.grids = [] ∧ t.cores = [] ∧ t.streams = [] ∧ t.hbm = {} ∧ t.host = s.host ∧
    t.parts = List.replicate 8 {} ∧ t.images = [] ∧ t.pat = {} ∧ t.dram = {} ∧ t.dev.fwver = s.dev.fwver ∧ t.dev.rbcnt = s.dev.rbcnt ∧ t.dev.play = 0xFFFFFFFF)) ∧
  (∀ (s : State) (ver rb : Word) (te : BitVec 8) (n d : Nat),
    Goes (.firmwareLoad true ver rb ⟨te, n⟩ d) s (fun t => t = { s with dev := { s.dev with fwok := true, fwver := ver, rbcnt := rb, testEn := te, cethr := n, fwdigest := d } }) ∧
    Goes (.firmwareLoad false ver rb ⟨te, n⟩ d) s (fun t => t.dev.fwok = false ∧ t.groups = [] ∧ ∀ p, (t.part p).st = .empty)) ∧
  (∀ (s : State), Goes .spdmRequest s (fun t => ∃ c, t = { s with out := s.out ++ [.measure s.dev.fwdigest s.dev.rbcnt c] } ∧ ∀ q, s.pat.cur = some q → c = q.digest)) ∧
  (∀ (s : State) (p k : Nat), p < s.parts.length →
    Goes (.managementRequest (.readSnapshots p)) s (fun t => t = { s with out := s.out ++ [.mgmt (if (s.part p).snheld then s.snapshots p else [])] }) ∧
    Goes (.managementRequest .power) s (fun t => ∃ bs, t = { s with out := s.out ++ [.mgmt bs], free := t.free }) ∧
    (k < 192 → Goes (.managementRequest (.retire k)) s (fun t => (t.core k).marked = true)) ∧
    Goes (.managementRequest (.snack p)) s (fun t => t.part p = { s.part p with snheld := false } ∧ t.blocks = s.blocks)) ∧
  ∀ (s : State) (i : Instr), i = .thermalTrip ∨ i = .mainRailDrop → Goes i s (fun t =>
    t.dev.power = false ∧ t.hbm = {} ∧ t.groups = [] ∧ t.grids = [] ∧ t.cores = [] ∧ t.images = [] ∧ t.host = s.host ∧ (∀ p, (t.part p).st = .empty) ∧
    t.out = s.out ++ (List.range 12).map (fun n => .linkDown n))
end

