-- ==== Sys2Proof/Laws/Memory.lean ====
section
/-! SUPPORT. The laws of memories: reading after writing, and the canonical form, which every memory operation keeps. -/

namespace Sys2Proof.Machine

/-- The head of a memory in canonical form lies below the rest. -/
theorem Memory.wf_cons (k : Nat) (b : Byte) (m : Mem) :
    Memory.wf ((k, b) :: m) = true ↔ b ≠ 0 ∧ (∀ p ∈ m, k < p.1) ∧ Memory.wf m = true := by
  induction m generalizing k b with
  | nil => simp [Memory.wf]
  | cons p t ih =>
    obtain ⟨k', b'⟩ := p
    rw [Memory.wf]
    simp only [Bool.and_eq_true, decide_eq_true_eq, bne_iff_ne, List.mem_cons, forall_eq_or_imp]
    constructor
    · rintro ⟨⟨hb, hk⟩, hw⟩
      refine ⟨hb, ⟨hk, fun q hq => ?_⟩, hw⟩
      exact Nat.lt_trans hk (((ih k' b').1 hw).2.1 q hq)
    · rintro ⟨hb, ⟨hk, -⟩, hw⟩
      exact ⟨⟨hb, hk⟩, hw⟩

/-- Addresses of a memory after a write are among the old ones and the written one. -/
theorem mem_memWr {m : Mem} {n : Nat} {x : Byte} {p : Nat × Byte} (h : p ∈ memWr m n x) : p ∈ m ∨ p.1 = n := by
  induction m with
  | nil =>
    by_cases hx : x = 0#8 <;> simp [memWr, hx] at h
    exact .inr (by simp [h])
  | cons q t ih =>
    obtain ⟨k, b⟩ := q
    by_cases h1 : n < k
    · by_cases hx : x = 0#8 <;> simp [memWr, h1, hx] at h ⊢
      · tauto
      · rcases h with h | h | h <;> simp [h]
    · by_cases h2 : n = k
      · subst h2
        by_cases hx : x = 0#8 <;> simp [memWr, hx] at h ⊢
        · tauto
        · rcases h with h | h <;> simp [h]
      · simp [memWr, h1, h2] at h ⊢
        rcases h with h | h
        · tauto
        · rcases ih h with h | h <;> tauto

/-- A byte write keeps the canonical form. -/
theorem Memory.wf_memWr {m : Mem} (n : Nat) (x : Byte) (h : Memory.wf m = true) : Memory.wf (memWr m n x) = true := by
  induction m with
  | nil => by_cases hx : x = 0#8 <;> simp [memWr, hx, Memory.wf]
  | cons q t ih =>
    obtain ⟨k, b⟩ := q
    have h' := (Memory.wf_cons k b t).1 h
    by_cases h1 : n < k
    · by_cases hx : x = 0#8
      · simp [memWr, h1, hx, h]
      · rw [memWr, if_pos h1, if_neg (by simpa using hx)]
        refine (Memory.wf_cons _ _ _).2 ⟨hx, ?_, h⟩
        intro p hp
        rcases List.mem_cons.1 hp with rfl | hp
        · exact h1
        · exact Nat.lt_trans h1 (h'.2.1 p hp)
    · by_cases h2 : n = k
      · subst h2
        by_cases hx : x = 0#8
        · simpa [memWr, hx] using h'.2.2
        · rw [memWr, if_neg h1, if_pos (by simp), if_neg (by simpa using hx)]
          exact (Memory.wf_cons _ _ _).2 ⟨hx, h'.2⟩
      · simp only [memWr, h1, if_false, beq_iff_eq, h2]
        refine (Memory.wf_cons _ _ _).2 ⟨h'.1, ?_, ih h'.2.2⟩
        intro p hp
        rcases mem_memWr hp with hp | hp
        · exact h'.2.1 p hp
        · omega

/-- A write of several bytes keeps the canonical form. -/
theorem Memory.wf_memWrite (bs : List Byte) : ∀ {m : Mem} (a : Nat), Memory.wf m = true → Memory.wf (memWrite m a bs) = true := by
  induction bs with
  | nil => intro m a h; exact h
  | cons b t ih => intro m a h; exact ih (a + 1) (Memory.wf_memWr a b h)

@[simp] theorem Ram.mark_cells (r : Ram) (gs : List Nat) : (r.mark gs).cells = r.cells := rfl
@[simp] theorem Ram.unmark_cells (r : Ram) (gs : List Nat) : (r.unmark gs).cells = r.cells := rfl
@[simp] theorem Ram.write_cells (r : Ram) (a : Nat) (bs : List Byte) (bad : Bool) :
    (r.write a bs bad).cells = memWrite r.cells a bs := by
  unfold Ram.write; cases bad <;> rfl

/-- A write of one unit keeps the canonical form. -/
theorem Memory.wf_write {r : Ram} (a : Nat) (bs : List Byte) (bad : Bool) (h : Memory.wf r.cells = true) :
    Memory.wf (r.write a bs bad).cells = true := by
  simpa using Memory.wf_memWrite bs a h

/-- Below every listed address a memory reads 0. -/
theorem memRd_of_lt {m : Mem} {n : Nat} (h : ∀ p ∈ m, n < p.1) : memRd m n = 0 := by
  cases m with
  | nil => rfl
  | cons q t =>
    obtain ⟨k, b⟩ := q
    have := h (k, b) (by simp)
    have hk : ¬ k = n := by simp at this; omega
    simp at this
    simp [memRd, hk, this]

/-- The byte just written is the one read. -/
theorem memRd_memWr_self {m : Mem} (n : Nat) (x : Byte) (h : Memory.wf m = true) : memRd (memWr m n x) n = x := by
  induction m with
  | nil => by_cases hx : x = 0#8 <;> simp [memWr, hx, memRd]
  | cons q t ih =>
    obtain ⟨k, b⟩ := q
    have h' := (Memory.wf_cons k b t).1 h
    by_cases h1 : n < k
    · by_cases hx : x = 0#8
      · have hk : ¬ k = n := by omega
        simp [memWr, h1, hx, memRd, hk]
      · simp [memWr, h1, hx, memRd]
    · by_cases h2 : n = k
      · subst h2
        by_cases hx : x = 0#8
        · simp only [memWr, Nat.lt_irrefl, if_false, beq_self_eq_true, if_true, hx]
          exact memRd_of_lt h'.2.1
        · simp [memWr, hx, memRd]
      · have hk : ¬ k = n := fun e => h2 e.symm
        simp [memWr, h1, h2, memRd, hk, ih h'.2.2]

/-- A byte write leaves every other byte. -/
theorem memRd_memWr_of_ne {m : Mem} {n a : Nat} (x : Byte) (h : Memory.wf m = true) (ha : a ≠ n) :
    memRd (memWr m n x) a = memRd m a := by
  induction m with
  | nil => by_cases hx : x = 0#8 <;> simp [memWr, hx, memRd, Ne.symm ha]
  | cons q t ih =>
    obtain ⟨k, b⟩ := q
    have h' := (Memory.wf_cons k b t).1 h
    by_cases h1 : n < k
    · by_cases hx : x = 0#8
      · simp [memWr, h1, hx]
      · rw [memWr, if_pos h1, if_neg (by simpa using hx), memRd, if_neg (by simpa using Ne.symm ha)]
        by_cases hl : a < n
        · have hk : ¬ k = a := by omega
          have : a < k := Nat.lt_trans hl h1
          simp [hl, memRd, hk, this]
        · simp [hl]
    · by_cases h2 : n = k
      · subst h2
        by_cases hx : x = 0#8
        · simp only [memWr, Nat.lt_irrefl, if_false, beq_self_eq_true, if_true, hx, memRd, beq_iff_eq, Ne.symm ha]
          by_cases hl : a < n
          · simp only [hl, if_true]
            exact memRd_of_lt (fun p hp => Nat.lt_trans hl (h'.2.1 p hp))
          · simp [hl]
        · simp [memWr, hx, memRd, Ne.symm ha]
      · simp only [memWr, h1, if_false, beq_iff_eq, h2, memRd, ih h'.2.2]

/-- A write of several bytes leaves every byte outside them. -/
theorem memRd_memWrite_of_out (bs : List Byte) : ∀ {m : Mem} {p a : Nat}, Memory.wf m = true → (a < p ∨ p + bs.length ≤ a) →
    memRd (memWrite m p bs) a = memRd m a := by
  induction bs with
  | nil => intro m p a _ _; rfl
  | cons b t ih =>
    intro m p a h ho
    simp only [List.length_cons] at ho
    rw [memWrite, ih (Memory.wf_memWr p b h) (by omega), memRd_memWr_of_ne b h (by omega)]

/-- A byte inside the written range reads as written. -/
theorem memRd_memWrite_in (bs : List Byte) : ∀ {m : Mem} {p i : Nat}, Memory.wf m = true → i < bs.length →
    memRd (memWrite m p bs) (p + i) = bs.getD i 0 := by
  induction bs with
  | nil => intro m p i _ hi; simp at hi
  | cons b t ih =>
    intro m p i h hi
    cases i with
    | zero =>
      rw [Nat.add_zero, memWrite, memRd_memWrite_of_out t (Memory.wf_memWr p b h) (by omega), memRd_memWr_self p b h]
      rfl
    | succ i =>
      have := ih (m := memWr m p b) (p := p + 1) (i := i) (Memory.wf_memWr p b h) (by simpa using hi)
      rw [memWrite, show p + (i + 1) = p + 1 + i by omega, this]
      rfl

end Sys2Proof.Machine
end

