-- ==== Sys2Proof/Laws/State.lean ====
section
/-! SUPPORT. What each update of the state leaves of each field, by rfl: one lemma for each update and each field that it
does not write. -/

namespace Sys2Proof.Machine

@[simp] theorem State.setGroup_turn (s : State) (g : Nat) (x : Group) : (s.setGroup g x).turn = s.turn := rfl
@[simp] theorem State.setGroup_pos (s : State) (g : Nat) (x : Group) : (s.setGroup g x).pos = s.pos := rfl
@[simp] theorem State.setGroup_bdry (s : State) (g : Nat) (x : Group) : (s.setGroup g x).bdry = s.bdry := rfl
@[simp] theorem State.setGroup_issue (s : State) (g : Nat) (x : Group) : (s.setGroup g x).issue = s.issue := rfl
@[simp] theorem State.setGroup_blocks (s : State) (g : Nat) (x : Group) : (s.setGroup g x).blocks = s.blocks := rfl
@[simp] theorem State.setGroup_grids (s : State) (g : Nat) (x : Group) : (s.setGroup g x).grids = s.grids := rfl
@[simp] theorem State.setGroup_cores (s : State) (g : Nat) (x : Group) : (s.setGroup g x).cores = s.cores := rfl
@[simp] theorem State.setGroup_parts (s : State) (g : Nat) (x : Group) : (s.setGroup g x).parts = s.parts := rfl
@[simp] theorem State.setGroup_streams (s : State) (g : Nat) (x : Group) : (s.setGroup g x).streams = s.streams := rfl
@[simp] theorem State.setGroup_bankQ (s : State) (g : Nat) (x : Group) : (s.setGroup g x).bankQ = s.bankQ := rfl
@[simp] theorem State.setGroup_remotes (s : State) (g : Nat) (x : Group) : (s.setGroup g x).remotes = s.remotes := rfl
@[simp] theorem State.setGroup_semq (s : State) (g : Nat) (x : Group) : (s.setGroup g x).semq = s.semq := rfl
@[simp] theorem State.setGroup_images (s : State) (g : Nat) (x : Group) : (s.setGroup g x).images = s.images := rfl
@[simp] theorem State.setGroup_hbm (s : State) (g : Nat) (x : Group) : (s.setGroup g x).hbm = s.hbm := rfl
@[simp] theorem State.setGroup_host (s : State) (g : Nat) (x : Group) : (s.setGroup g x).host = s.host := rfl
@[simp] theorem State.setGroup_dev (s : State) (g : Nat) (x : Group) : (s.setGroup g x).dev = s.dev := rfl
@[simp] theorem State.setGroup_pat (s : State) (g : Nat) (x : Group) : (s.setGroup g x).pat = s.pat := rfl
@[simp] theorem State.setGroup_inputs (s : State) (g : Nat) (x : Group) : (s.setGroup g x).inputs = s.inputs := rfl
@[simp] theorem State.setGroup_dram (s : State) (g : Nat) (x : Group) : (s.setGroup g x).dram = s.dram := rfl
@[simp] theorem State.setGroup_haps (s : State) (g : Nat) (x : Group) : (s.setGroup g x).haps = s.haps := rfl
@[simp] theorem State.setGroup_out (s : State) (g : Nat) (x : Group) : (s.setGroup g x).out = s.out := rfl
@[simp] theorem State.setGroup_free (s : State) (g : Nat) (x : Group) : (s.setGroup g x).free = s.free := rfl
@[simp] theorem State.setGroup_ident (s : State) (g : Nat) (x : Group) : (s.setGroup g x).ident = s.ident := rfl
@[simp] theorem State.setGroup_shadows (s : State) (g : Nat) (x : Group) : (s.setGroup g x).shadows = s.shadows := rfl
@[simp] theorem State.setGroup_groups (s : State) (g : Nat) (x : Group) : (s.setGroup g x).groups = tset s.groups g x := rfl

@[simp] theorem State.modGroup_turn (s : State) (g : Nat) (f : Group → Group) : (s.modGroup g f).turn = s.turn := rfl
@[simp] theorem State.modGroup_pos (s : State) (g : Nat) (f : Group → Group) : (s.modGroup g f).pos = s.pos := rfl
@[simp] theorem State.modGroup_bdry (s : State) (g : Nat) (f : Group → Group) : (s.modGroup g f).bdry = s.bdry := rfl
@[simp] theorem State.modGroup_issue (s : State) (g : Nat) (f : Group → Group) : (s.modGroup g f).issue = s.issue := rfl
@[simp] theorem State.modGroup_blocks (s : State) (g : Nat) (f : Group → Group) : (s.modGroup g f).blocks = s.blocks := rfl
@[simp] theorem State.modGroup_grids (s : State) (g : Nat) (f : Group → Group) : (s.modGroup g f).grids = s.grids := rfl
@[simp] theorem State.modGroup_cores (s : State) (g : Nat) (f : Group → Group) : (s.modGroup g f).cores = s.cores := rfl
@[simp] theorem State.modGroup_parts (s : State) (g : Nat) (f : Group → Group) : (s.modGroup g f).parts = s.parts := rfl
@[simp] theorem State.modGroup_streams (s : State) (g : Nat) (f : Group → Group) : (s.modGroup g f).streams = s.streams := rfl
@[simp] theorem State.modGroup_bankQ (s : State) (g : Nat) (f : Group → Group) : (s.modGroup g f).bankQ = s.bankQ := rfl
@[simp] theorem State.modGroup_remotes (s : State) (g : Nat) (f : Group → Group) : (s.modGroup g f).remotes = s.remotes := rfl
@[simp] theorem State.modGroup_semq (s : State) (g : Nat) (f : Group → Group) : (s.modGroup g f).semq = s.semq := rfl
@[simp] theorem State.modGroup_images (s : State) (g : Nat) (f : Group → Group) : (s.modGroup g f).images = s.images := rfl
@[simp] theorem State.modGroup_hbm (s : State) (g : Nat) (f : Group → Group) : (s.modGroup g f).hbm = s.hbm := rfl
@[simp] theorem State.modGroup_host (s : State) (g : Nat) (f : Group → Group) : (s.modGroup g f).host = s.host := rfl
@[simp] theorem State.modGroup_dev (s : State) (g : Nat) (f : Group → Group) : (s.modGroup g f).dev = s.dev := rfl
@[simp] theorem State.modGroup_pat (s : State) (g : Nat) (f : Group → Group) : (s.modGroup g f).pat = s.pat := rfl
@[simp] theorem State.modGroup_inputs (s : State) (g : Nat) (f : Group → Group) : (s.modGroup g f).inputs = s.inputs := rfl
@[simp] theorem State.modGroup_dram (s : State) (g : Nat) (f : Group → Group) : (s.modGroup g f).dram = s.dram := rfl
@[simp] theorem State.modGroup_haps (s : State) (g : Nat) (f : Group → Group) : (s.modGroup g f).haps = s.haps := rfl
@[simp] theorem State.modGroup_out (s : State) (g : Nat) (f : Group → Group) : (s.modGroup g f).out = s.out := rfl
@[simp] theorem State.modGroup_free (s : State) (g : Nat) (f : Group → Group) : (s.modGroup g f).free = s.free := rfl
@[simp] theorem State.modGroup_ident (s : State) (g : Nat) (f : Group → Group) : (s.modGroup g f).ident = s.ident := rfl
@[simp] theorem State.modGroup_shadows (s : State) (g : Nat) (f : Group → Group) : (s.modGroup g f).shadows = s.shadows := rfl
@[simp] theorem State.modGroup_groups (s : State) (g : Nat) (f : Group → Group) : (s.modGroup g f).groups = tmod s.groups g f := rfl

@[simp] theorem State.modBlock_turn (s : State) (b : Nat) (f : Block → Block) : (s.modBlock b f).turn = s.turn := rfl
@[simp] theorem State.modBlock_pos (s : State) (b : Nat) (f : Block → Block) : (s.modBlock b f).pos = s.pos := rfl
@[simp] theorem State.modBlock_bdry (s : State) (b : Nat) (f : Block → Block) : (s.modBlock b f).bdry = s.bdry := rfl
@[simp] theorem State.modBlock_issue (s : State) (b : Nat) (f : Block → Block) : (s.modBlock b f).issue = s.issue := rfl
@[simp] theorem State.modBlock_groups (s : State) (b : Nat) (f : Block → Block) : (s.modBlock b f).groups = s.groups := rfl
@[simp] theorem State.modBlock_grids (s : State) (b : Nat) (f : Block → Block) : (s.modBlock b f).grids = s.grids := rfl
@[simp] theorem State.modBlock_cores (s : State) (b : Nat) (f : Block → Block) : (s.modBlock b f).cores = s.cores := rfl
@[simp] theorem State.modBlock_parts (s : State) (b : Nat) (f : Block → Block) : (s.modBlock b f).parts = s.parts := rfl
@[simp] theorem State.modBlock_streams (s : State) (b : Nat) (f : Block → Block) : (s.modBlock b f).streams = s.streams := rfl
@[simp] theorem State.modBlock_bankQ (s : State) (b : Nat) (f : Block → Block) : (s.modBlock b f).bankQ = s.bankQ := rfl
@[simp] theorem State.modBlock_remotes (s : State) (b : Nat) (f : Block → Block) : (s.modBlock b f).remotes = s.remotes := rfl
@[simp] theorem State.modBlock_semq (s : State) (b : Nat) (f : Block → Block) : (s.modBlock b f).semq = s.semq := rfl
@[simp] theorem State.modBlock_images (s : State) (b : Nat) (f : Block → Block) : (s.modBlock b f).images = s.images := rfl
@[simp] theorem State.modBlock_hbm (s : State) (b : Nat) (f : Block → Block) : (s.modBlock b f).hbm = s.hbm := rfl
@[simp] theorem State.modBlock_host (s : State) (b : Nat) (f : Block → Block) : (s.modBlock b f).host = s.host := rfl
@[simp] theorem State.modBlock_dev (s : State) (b : Nat) (f : Block → Block) : (s.modBlock b f).dev = s.dev := rfl
@[simp] theorem State.modBlock_pat (s : State) (b : Nat) (f : Block → Block) : (s.modBlock b f).pat = s.pat := rfl
@[simp] theorem State.modBlock_inputs (s : State) (b : Nat) (f : Block → Block) : (s.modBlock b f).inputs = s.inputs := rfl
@[simp] theorem State.modBlock_dram (s : State) (b : Nat) (f : Block → Block) : (s.modBlock b f).dram = s.dram := rfl
@[simp] theorem State.modBlock_haps (s : State) (b : Nat) (f : Block → Block) : (s.modBlock b f).haps = s.haps := rfl
@[simp] theorem State.modBlock_out (s : State) (b : Nat) (f : Block → Block) : (s.modBlock b f).out = s.out := rfl
@[simp] theorem State.modBlock_free (s : State) (b : Nat) (f : Block → Block) : (s.modBlock b f).free = s.free := rfl
@[simp] theorem State.modBlock_ident (s : State) (b : Nat) (f : Block → Block) : (s.modBlock b f).ident = s.ident := rfl
@[simp] theorem State.modBlock_shadows (s : State) (b : Nat) (f : Block → Block) : (s.modBlock b f).shadows = s.shadows := rfl
@[simp] theorem State.modBlock_blocks (s : State) (b : Nat) (f : Block → Block) : (s.modBlock b f).blocks = tmod s.blocks b f := rfl

@[simp] theorem State.modGrid_turn (s : State) (g : Nat) (f : Grid → Grid) : (s.modGrid g f).turn = s.turn := rfl
@[simp] theorem State.modGrid_pos (s : State) (g : Nat) (f : Grid → Grid) : (s.modGrid g f).pos = s.pos := rfl
@[simp] theorem State.modGrid_bdry (s : State) (g : Nat) (f : Grid → Grid) : (s.modGrid g f).bdry = s.bdry := rfl
@[simp] theorem State.modGrid_issue (s : State) (g : Nat) (f : Grid → Grid) : (s.modGrid g f).issue = s.issue := rfl
@[simp] theorem State.modGrid_groups (s : State) (g : Nat) (f : Grid → Grid) : (s.modGrid g f).groups = s.groups := rfl
@[simp] theorem State.modGrid_blocks (s : State) (g : Nat) (f : Grid → Grid) : (s.modGrid g f).blocks = s.blocks := rfl
@[simp] theorem State.modGrid_cores (s : State) (g : Nat) (f : Grid → Grid) : (s.modGrid g f).cores = s.cores := rfl
@[simp] theorem State.modGrid_parts (s : State) (g : Nat) (f : Grid → Grid) : (s.modGrid g f).parts = s.parts := rfl
@[simp] theorem State.modGrid_streams (s : State) (g : Nat) (f : Grid → Grid) : (s.modGrid g f).streams = s.streams := rfl
@[simp] theorem State.modGrid_bankQ (s : State) (g : Nat) (f : Grid → Grid) : (s.modGrid g f).bankQ = s.bankQ := rfl
@[simp] theorem State.modGrid_remotes (s : State) (g : Nat) (f : Grid → Grid) : (s.modGrid g f).remotes = s.remotes := rfl
@[simp] theorem State.modGrid_semq (s : State) (g : Nat) (f : Grid → Grid) : (s.modGrid g f).semq = s.semq := rfl
@[simp] theorem State.modGrid_images (s : State) (g : Nat) (f : Grid → Grid) : (s.modGrid g f).images = s.images := rfl
@[simp] theorem State.modGrid_hbm (s : State) (g : Nat) (f : Grid → Grid) : (s.modGrid g f).hbm = s.hbm := rfl
@[simp] theorem State.modGrid_host (s : State) (g : Nat) (f : Grid → Grid) : (s.modGrid g f).host = s.host := rfl
@[simp] theorem State.modGrid_dev (s : State) (g : Nat) (f : Grid → Grid) : (s.modGrid g f).dev = s.dev := rfl
@[simp] theorem State.modGrid_pat (s : State) (g : Nat) (f : Grid → Grid) : (s.modGrid g f).pat = s.pat := rfl
@[simp] theorem State.modGrid_inputs (s : State) (g : Nat) (f : Grid → Grid) : (s.modGrid g f).inputs = s.inputs := rfl
@[simp] theorem State.modGrid_dram (s : State) (g : Nat) (f : Grid → Grid) : (s.modGrid g f).dram = s.dram := rfl
@[simp] theorem State.modGrid_haps (s : State) (g : Nat) (f : Grid → Grid) : (s.modGrid g f).haps = s.haps := rfl
@[simp] theorem State.modGrid_out (s : State) (g : Nat) (f : Grid → Grid) : (s.modGrid g f).out = s.out := rfl
@[simp] theorem State.modGrid_free (s : State) (g : Nat) (f : Grid → Grid) : (s.modGrid g f).free = s.free := rfl
@[simp] theorem State.modGrid_ident (s : State) (g : Nat) (f : Grid → Grid) : (s.modGrid g f).ident = s.ident := rfl
@[simp] theorem State.modGrid_shadows (s : State) (g : Nat) (f : Grid → Grid) : (s.modGrid g f).shadows = s.shadows := rfl
@[simp] theorem State.modGrid_grids (s : State) (g : Nat) (f : Grid → Grid) : (s.modGrid g f).grids = tmod s.grids g f := rfl

@[simp] theorem State.setCore_turn (s : State) (c : Nat) (x : Core) : (s.setCore c x).turn = s.turn := rfl
@[simp] theorem State.setCore_pos (s : State) (c : Nat) (x : Core) : (s.setCore c x).pos = s.pos := rfl
@[simp] theorem State.setCore_bdry (s : State) (c : Nat) (x : Core) : (s.setCore c x).bdry = s.bdry := rfl
@[simp] theorem State.setCore_issue (s : State) (c : Nat) (x : Core) : (s.setCore c x).issue = s.issue := rfl
@[simp] theorem State.setCore_groups (s : State) (c : Nat) (x : Core) : (s.setCore c x).groups = s.groups := rfl
@[simp] theorem State.setCore_blocks (s : State) (c : Nat) (x : Core) : (s.setCore c x).blocks = s.blocks := rfl
@[simp] theorem State.setCore_grids (s : State) (c : Nat) (x : Core) : (s.setCore c x).grids = s.grids := rfl
@[simp] theorem State.setCore_parts (s : State) (c : Nat) (x : Core) : (s.setCore c x).parts = s.parts := rfl
@[simp] theorem State.setCore_streams (s : State) (c : Nat) (x : Core) : (s.setCore c x).streams = s.streams := rfl
@[simp] theorem State.setCore_bankQ (s : State) (c : Nat) (x : Core) : (s.setCore c x).bankQ = s.bankQ := rfl
@[simp] theorem State.setCore_remotes (s : State) (c : Nat) (x : Core) : (s.setCore c x).remotes = s.remotes := rfl
@[simp] theorem State.setCore_semq (s : State) (c : Nat) (x : Core) : (s.setCore c x).semq = s.semq := rfl
@[simp] theorem State.setCore_images (s : State) (c : Nat) (x : Core) : (s.setCore c x).images = s.images := rfl
@[simp] theorem State.setCore_hbm (s : State) (c : Nat) (x : Core) : (s.setCore c x).hbm = s.hbm := rfl
@[simp] theorem State.setCore_host (s : State) (c : Nat) (x : Core) : (s.setCore c x).host = s.host := rfl
@[simp] theorem State.setCore_dev (s : State) (c : Nat) (x : Core) : (s.setCore c x).dev = s.dev := rfl
@[simp] theorem State.setCore_pat (s : State) (c : Nat) (x : Core) : (s.setCore c x).pat = s.pat := rfl
@[simp] theorem State.setCore_inputs (s : State) (c : Nat) (x : Core) : (s.setCore c x).inputs = s.inputs := rfl
@[simp] theorem State.setCore_dram (s : State) (c : Nat) (x : Core) : (s.setCore c x).dram = s.dram := rfl
@[simp] theorem State.setCore_haps (s : State) (c : Nat) (x : Core) : (s.setCore c x).haps = s.haps := rfl
@[simp] theorem State.setCore_out (s : State) (c : Nat) (x : Core) : (s.setCore c x).out = s.out := rfl
@[simp] theorem State.setCore_free (s : State) (c : Nat) (x : Core) : (s.setCore c x).free = s.free := rfl
@[simp] theorem State.setCore_ident (s : State) (c : Nat) (x : Core) : (s.setCore c x).ident = s.ident := rfl
@[simp] theorem State.setCore_shadows (s : State) (c : Nat) (x : Core) : (s.setCore c x).shadows = s.shadows := rfl
@[simp] theorem State.setCore_cores (s : State) (c : Nat) (x : Core) : (s.setCore c x).cores = tset s.cores c x := rfl

@[simp] theorem State.modCore_turn (s : State) (c : Nat) (f : Core → Core) : (s.modCore c f).turn = s.turn := rfl
@[simp] theorem State.modCore_pos (s : State) (c : Nat) (f : Core → Core) : (s.modCore c f).pos = s.pos := rfl
@[simp] theorem State.modCore_bdry (s : State) (c : Nat) (f : Core → Core) : (s.modCore c f).bdry = s.bdry := rfl
@[simp] theorem State.modCore_issue (s : State) (c : Nat) (f : Core → Core) : (s.modCore c f).issue = s.issue := rfl
@[simp] theorem State.modCore_groups (s : State) (c : Nat) (f : Core → Core) : (s.modCore c f).groups = s.groups := rfl
@[simp] theorem State.modCore_blocks (s : State) (c : Nat) (f : Core → Core) : (s.modCore c f).blocks = s.blocks := rfl
@[simp] theorem State.modCore_grids (s : State) (c : Nat) (f : Core → Core) : (s.modCore c f).grids = s.grids := rfl
@[simp] theorem State.modCore_parts (s : State) (c : Nat) (f : Core → Core) : (s.modCore c f).parts = s.parts := rfl
@[simp] theorem State.modCore_streams (s : State) (c : Nat) (f : Core → Core) : (s.modCore c f).streams = s.streams := rfl
@[simp] theorem State.modCore_bankQ (s : State) (c : Nat) (f : Core → Core) : (s.modCore c f).bankQ = s.bankQ := rfl
@[simp] theorem State.modCore_remotes (s : State) (c : Nat) (f : Core → Core) : (s.modCore c f).remotes = s.remotes := rfl
@[simp] theorem State.modCore_semq (s : State) (c : Nat) (f : Core → Core) : (s.modCore c f).semq = s.semq := rfl
@[simp] theorem State.modCore_images (s : State) (c : Nat) (f : Core → Core) : (s.modCore c f).images = s.images := rfl
@[simp] theorem State.modCore_hbm (s : State) (c : Nat) (f : Core → Core) : (s.modCore c f).hbm = s.hbm := rfl
@[simp] theorem State.modCore_host (s : State) (c : Nat) (f : Core → Core) : (s.modCore c f).host = s.host := rfl
@[simp] theorem State.modCore_dev (s : State) (c : Nat) (f : Core → Core) : (s.modCore c f).dev = s.dev := rfl
@[simp] theorem State.modCore_pat (s : State) (c : Nat) (f : Core → Core) : (s.modCore c f).pat = s.pat := rfl
@[simp] theorem State.modCore_inputs (s : State) (c : Nat) (f : Core → Core) : (s.modCore c f).inputs = s.inputs := rfl
@[simp] theorem State.modCore_dram (s : State) (c : Nat) (f : Core → Core) : (s.modCore c f).dram = s.dram := rfl
@[simp] theorem State.modCore_haps (s : State) (c : Nat) (f : Core → Core) : (s.modCore c f).haps = s.haps := rfl
@[simp] theorem State.modCore_out (s : State) (c : Nat) (f : Core → Core) : (s.modCore c f).out = s.out := rfl
@[simp] theorem State.modCore_free (s : State) (c : Nat) (f : Core → Core) : (s.modCore c f).free = s.free := rfl
@[simp] theorem State.modCore_ident (s : State) (c : Nat) (f : Core → Core) : (s.modCore c f).ident = s.ident := rfl
@[simp] theorem State.modCore_shadows (s : State) (c : Nat) (f : Core → Core) : (s.modCore c f).shadows = s.shadows := rfl
@[simp] theorem State.modCore_cores (s : State) (c : Nat) (f : Core → Core) : (s.modCore c f).cores = tset s.cores c (f (s.core c)) := rfl

@[simp] theorem State.modPart_turn (s : State) (p : Nat) (f : Part → Part) : (s.modPart p f).turn = s.turn := rfl
@[simp] theorem State.modPart_pos (s : State) (p : Nat) (f : Part → Part) : (s.modPart p f).pos = s.pos := rfl
@[simp] theorem State.modPart_bdry (s : State) (p : Nat) (f : Part → Part) : (s.modPart p f).bdry = s.bdry := rfl
@[simp] theorem State.modPart_issue (s : State) (p : Nat) (f : Part → Part) : (s.modPart p f).issue = s.issue := rfl
@[simp] theorem State.modPart_groups (s : State) (p : Nat) (f : Part → Part) : (s.modPart p f).groups = s.groups := rfl
@[simp] theorem State.modPart_blocks (s : State) (p : Nat) (f : Part → Part) : (s.modPart p f).blocks = s.blocks := rfl
@[simp] theorem State.modPart_grids (s : State) (p : Nat) (f : Part → Part) : (s.modPart p f).grids = s.grids := rfl
@[simp] theorem State.modPart_cores (s : State) (p : Nat) (f : Part → Part) : (s.modPart p f).cores = s.cores := rfl
@[simp] theorem State.modPart_streams (s : State) (p : Nat) (f : Part → Part) : (s.modPart p f).streams = s.streams := rfl
@[simp] theorem State.modPart_bankQ (s : State) (p : Nat) (f : Part → Part) : (s.modPart p f).bankQ = s.bankQ := rfl
@[simp] theorem State.modPart_remotes (s : State) (p : Nat) (f : Part → Part) : (s.modPart p f).remotes = s.remotes := rfl
@[simp] theorem State.modPart_semq (s : State) (p : Nat) (f : Part → Part) : (s.modPart p f).semq = s.semq := rfl
@[simp] theorem State.modPart_images (s : State) (p : Nat) (f : Part → Part) : (s.modPart p f).images = s.images := rfl
@[simp] theorem State.modPart_hbm (s : State) (p : Nat) (f : Part → Part) : (s.modPart p f).hbm = s.hbm := rfl
@[simp] theorem State.modPart_host (s : State) (p : Nat) (f : Part → Part) : (s.modPart p f).host = s.host := rfl
@[simp] theorem State.modPart_dev (s : State) (p : Nat) (f : Part → Part) : (s.modPart p f).dev = s.dev := rfl
@[simp] theorem State.modPart_pat (s : State) (p : Nat) (f : Part → Part) : (s.modPart p f).pat = s.pat := rfl
@[simp] theorem State.modPart_inputs (s : State) (p : Nat) (f : Part → Part) : (s.modPart p f).inputs = s.inputs := rfl
@[simp] theorem State.modPart_dram (s : State) (p : Nat) (f : Part → Part) : (s.modPart p f).dram = s.dram := rfl
@[simp] theorem State.modPart_haps (s : State) (p : Nat) (f : Part → Part) : (s.modPart p f).haps = s.haps := rfl
@[simp] theorem State.modPart_out (s : State) (p : Nat) (f : Part → Part) : (s.modPart p f).out = s.out := rfl
@[simp] theorem State.modPart_free (s : State) (p : Nat) (f : Part → Part) : (s.modPart p f).free = s.free := rfl
@[simp] theorem State.modPart_ident (s : State) (p : Nat) (f : Part → Part) : (s.modPart p f).ident = s.ident := rfl
@[simp] theorem State.modPart_shadows (s : State) (p : Nat) (f : Part → Part) : (s.modPart p f).shadows = s.shadows := rfl
@[simp] theorem State.modPart_parts (s : State) (p : Nat) (f : Part → Part) : (s.modPart p f).parts = lmod s.parts p f := rfl

@[simp] theorem State.modStream_turn (s : State) (p i : Nat) (f : Stream → Stream) : (s.modStream p i f).turn = s.turn := rfl
@[simp] theorem State.modStream_pos (s : State) (p i : Nat) (f : Stream → Stream) : (s.modStream p i f).pos = s.pos := rfl
@[simp] theorem State.modStream_bdry (s : State) (p i : Nat) (f : Stream → Stream) : (s.modStream p i f).bdry = s.bdry := rfl
@[simp] theorem State.modStream_issue (s : State) (p i : Nat) (f : Stream → Stream) : (s.modStream p i f).issue = s.issue := rfl
@[simp] theorem State.modStream_groups (s : State) (p i : Nat) (f : Stream → Stream) : (s.modStream p i f).groups = s.groups := rfl
@[simp] theorem State.modStream_blocks (s : State) (p i : Nat) (f : Stream → Stream) : (s.modStream p i f).blocks = s.blocks := rfl
@[simp] theorem State.modStream_grids (s : State) (p i : Nat) (f : Stream → Stream) : (s.modStream p i f).grids = s.grids := rfl
@[simp] theorem State.modStream_cores (s : State) (p i : Nat) (f : Stream → Stream) : (s.modStream p i f).cores = s.cores := rfl
@[simp] theorem State.modStream_parts (s : State) (p i : Nat) (f : Stream → Stream) : (s.modStream p i f).parts = s.parts := rfl
@[simp] theorem State.modStream_bankQ (s : State) (p i : Nat) (f : Stream → Stream) : (s.modStream p i f).bankQ = s.bankQ := rfl
@[simp] theorem State.modStream_remotes (s : State) (p i : Nat) (f : Stream → Stream) : (s.modStream p i f).remotes = s.remotes := rfl
@[simp] theorem State.modStream_semq (s : State) (p i : Nat) (f : Stream → Stream) : (s.modStream p i f).semq = s.semq := rfl
@[simp] theorem State.modStream_images (s : State) (p i : Nat) (f : Stream → Stream) : (s.modStream p i f).images = s.images := rfl
@[simp] theorem State.modStream_hbm (s : State) (p i : Nat) (f : Stream → Stream) : (s.modStream p i f).hbm = s.hbm := rfl
@[simp] theorem State.modStream_host (s : State) (p i : Nat) (f : Stream → Stream) : (s.modStream p i f).host = s.host := rfl
@[simp] theorem State.modStream_dev (s : State) (p i : Nat) (f : Stream → Stream) : (s.modStream p i f).dev = s.dev := rfl
@[simp] theorem State.modStream_pat (s : State) (p i : Nat) (f : Stream → Stream) : (s.modStream p i f).pat = s.pat := rfl
@[simp] theorem State.modStream_inputs (s : State) (p i : Nat) (f : Stream → Stream) : (s.modStream p i f).inputs = s.inputs := rfl
@[simp] theorem State.modStream_dram (s : State) (p i : Nat) (f : Stream → Stream) : (s.modStream p i f).dram = s.dram := rfl
@[simp] theorem State.modStream_haps (s : State) (p i : Nat) (f : Stream → Stream) : (s.modStream p i f).haps = s.haps := rfl
@[simp] theorem State.modStream_out (s : State) (p i : Nat) (f : Stream → Stream) : (s.modStream p i f).out = s.out := rfl
@[simp] theorem State.modStream_free (s : State) (p i : Nat) (f : Stream → Stream) : (s.modStream p i f).free = s.free := rfl
@[simp] theorem State.modStream_ident (s : State) (p i : Nat) (f : Stream → Stream) : (s.modStream p i f).ident = s.ident := rfl
@[simp] theorem State.modStream_shadows (s : State) (p i : Nat) (f : Stream → Stream) : (s.modStream p i f).shadows = s.shadows := rfl

@[simp] theorem State.emit_turn (s : State) (e : Emit) : (s.emit e).turn = s.turn := rfl
@[simp] theorem State.emit_pos (s : State) (e : Emit) : (s.emit e).pos = s.pos := rfl
@[simp] theorem State.emit_bdry (s : State) (e : Emit) : (s.emit e).bdry = s.bdry := rfl
@[simp] theorem State.emit_issue (s : State) (e : Emit) : (s.emit e).issue = s.issue := rfl
@[simp] theorem State.emit_groups (s : State) (e : Emit) : (s.emit e).groups = s.groups := rfl
@[simp] theorem State.emit_blocks (s : State) (e : Emit) : (s.emit e).blocks = s.blocks := rfl
@[simp] theorem State.emit_grids (s : State) (e : Emit) : (s.emit e).grids = s.grids := rfl
@[simp] theorem State.emit_cores (s : State) (e : Emit) : (s.emit e).cores = s.cores := rfl
@[simp] theorem State.emit_parts (s : State) (e : Emit) : (s.emit e).parts = s.parts := rfl
@[simp] theorem State.emit_streams (s : State) (e : Emit) : (s.emit e).streams = s.streams := rfl
@[simp] theorem State.emit_bankQ (s : State) (e : Emit) : (s.emit e).bankQ = s.bankQ := rfl
@[simp] theorem State.emit_remotes (s : State) (e : Emit) : (s.emit e).remotes = s.remotes := rfl
@[simp] theorem State.emit_semq (s : State) (e : Emit) : (s.emit e).semq = s.semq := rfl
@[simp] theorem State.emit_images (s : State) (e : Emit) : (s.emit e).images = s.images := rfl
@[simp] theorem State.emit_hbm (s : State) (e : Emit) : (s.emit e).hbm = s.hbm := rfl
@[simp] theorem State.emit_host (s : State) (e : Emit) : (s.emit e).host = s.host := rfl
@[simp] theorem State.emit_dev (s : State) (e : Emit) : (s.emit e).dev = s.dev := rfl
@[simp] theorem State.emit_pat (s : State) (e : Emit) : (s.emit e).pat = s.pat := rfl
@[simp] theorem State.emit_inputs (s : State) (e : Emit) : (s.emit e).inputs = s.inputs := rfl
@[simp] theorem State.emit_dram (s : State) (e : Emit) : (s.emit e).dram = s.dram := rfl
@[simp] theorem State.emit_haps (s : State) (e : Emit) : (s.emit e).haps = s.haps := rfl
@[simp] theorem State.emit_free (s : State) (e : Emit) : (s.emit e).free = s.free := rfl
@[simp] theorem State.emit_ident (s : State) (e : Emit) : (s.emit e).ident = s.ident := rfl
@[simp] theorem State.emit_shadows (s : State) (e : Emit) : (s.emit e).shadows = s.shadows := rfl
@[simp] theorem State.emit_out (s : State) (e : Emit) : (s.emit e).out = s.out ++ [e] := rfl

@[simp] theorem State.raise_turn (s : State) (p : Nat) (f : CFault) : (s.raise p f).turn = s.turn := rfl
@[simp] theorem State.raise_pos (s : State) (p : Nat) (f : CFault) : (s.raise p f).pos = s.pos := rfl
@[simp] theorem State.raise_bdry (s : State) (p : Nat) (f : CFault) : (s.raise p f).bdry = s.bdry := rfl
@[simp] theorem State.raise_issue (s : State) (p : Nat) (f : CFault) : (s.raise p f).issue = s.issue := rfl
@[simp] theorem State.raise_groups (s : State) (p : Nat) (f : CFault) : (s.raise p f).groups = s.groups := rfl
@[simp] theorem State.raise_blocks (s : State) (p : Nat) (f : CFault) : (s.raise p f).blocks = s.blocks := rfl
@[simp] theorem State.raise_grids (s : State) (p : Nat) (f : CFault) : (s.raise p f).grids = s.grids := rfl
@[simp] theorem State.raise_cores (s : State) (p : Nat) (f : CFault) : (s.raise p f).cores = s.cores := rfl
@[simp] theorem State.raise_streams (s : State) (p : Nat) (f : CFault) : (s.raise p f).streams = s.streams := rfl
@[simp] theorem State.raise_bankQ (s : State) (p : Nat) (f : CFault) : (s.raise p f).bankQ = s.bankQ := rfl
@[simp] theorem State.raise_remotes (s : State) (p : Nat) (f : CFault) : (s.raise p f).remotes = s.remotes := rfl
@[simp] theorem State.raise_semq (s : State) (p : Nat) (f : CFault) : (s.raise p f).semq = s.semq := rfl
@[simp] theorem State.raise_images (s : State) (p : Nat) (f : CFault) : (s.raise p f).images = s.images := rfl
@[simp] theorem State.raise_hbm (s : State) (p : Nat) (f : CFault) : (s.raise p f).hbm = s.hbm := rfl
@[simp] theorem State.raise_host (s : State) (p : Nat) (f : CFault) : (s.raise p f).host = s.host := rfl
@[simp] theorem State.raise_dev (s : State) (p : Nat) (f : CFault) : (s.raise p f).dev = s.dev := rfl
@[simp] theorem State.raise_pat (s : State) (p : Nat) (f : CFault) : (s.raise p f).pat = s.pat := rfl
@[simp] theorem State.raise_inputs (s : State) (p : Nat) (f : CFault) : (s.raise p f).inputs = s.inputs := rfl
@[simp] theorem State.raise_dram (s : State) (p : Nat) (f : CFault) : (s.raise p f).dram = s.dram := rfl
@[simp] theorem State.raise_haps (s : State) (p : Nat) (f : CFault) : (s.raise p f).haps = s.haps := rfl
@[simp] theorem State.raise_out (s : State) (p : Nat) (f : CFault) : (s.raise p f).out = s.out := rfl
@[simp] theorem State.raise_free (s : State) (p : Nat) (f : CFault) : (s.raise p f).free = s.free := rfl
@[simp] theorem State.raise_ident (s : State) (p : Nat) (f : CFault) : (s.raise p f).ident = s.ident := rfl
@[simp] theorem State.raise_shadows (s : State) (p : Nat) (f : CFault) : (s.raise p f).shadows = s.shadows := rfl

@[simp] theorem State.modIssue_turn (s : State) (f : Issue → Issue) : (s.modIssue f).turn = s.turn := rfl
@[simp] theorem State.modIssue_pos (s : State) (f : Issue → Issue) : (s.modIssue f).pos = s.pos := rfl
@[simp] theorem State.modIssue_bdry (s : State) (f : Issue → Issue) : (s.modIssue f).bdry = s.bdry := rfl
@[simp] theorem State.modIssue_groups (s : State) (f : Issue → Issue) : (s.modIssue f).groups = s.groups := rfl
@[simp] theorem State.modIssue_blocks (s : State) (f : Issue → Issue) : (s.modIssue f).blocks = s.blocks := rfl
@[simp] theorem State.modIssue_grids (s : State) (f : Issue → Issue) : (s.modIssue f).grids = s.grids := rfl
@[simp] theorem State.modIssue_cores (s : State) (f : Issue → Issue) : (s.modIssue f).cores = s.cores := rfl
@[simp] theorem State.modIssue_parts (s : State) (f : Issue → Issue) : (s.modIssue f).parts = s.parts := rfl
@[simp] theorem State.modIssue_streams (s : State) (f : Issue → Issue) : (s.modIssue f).streams = s.streams := rfl
@[simp] theorem State.modIssue_bankQ (s : State) (f : Issue → Issue) : (s.modIssue f).bankQ = s.bankQ := rfl
@[simp] theorem State.modIssue_remotes (s : State) (f : Issue → Issue) : (s.modIssue f).remotes = s.remotes := rfl
@[simp] theorem State.modIssue_semq (s : State) (f : Issue → Issue) : (s.modIssue f).semq = s.semq := rfl
@[simp] theorem State.modIssue_images (s : State) (f : Issue → Issue) : (s.modIssue f).images = s.images := rfl
@[simp] theorem State.modIssue_hbm (s : State) (f : Issue → Issue) : (s.modIssue f).hbm = s.hbm := rfl
@[simp] theorem State.modIssue_host (s : State) (f : Issue → Issue) : (s.modIssue f).host = s.host := rfl
@[simp] theorem State.modIssue_dev (s : State) (f : Issue → Issue) : (s.modIssue f).dev = s.dev := rfl
@[simp] theorem State.modIssue_pat (s : State) (f : Issue → Issue) : (s.modIssue f).pat = s.pat := rfl
@[simp] theorem State.modIssue_inputs (s : State) (f : Issue → Issue) : (s.modIssue f).inputs = s.inputs := rfl
@[simp] theorem State.modIssue_dram (s : State) (f : Issue → Issue) : (s.modIssue f).dram = s.dram := rfl
@[simp] theorem State.modIssue_haps (s : State) (f : Issue → Issue) : (s.modIssue f).haps = s.haps := rfl
@[simp] theorem State.modIssue_out (s : State) (f : Issue → Issue) : (s.modIssue f).out = s.out := rfl
@[simp] theorem State.modIssue_free (s : State) (f : Issue → Issue) : (s.modIssue f).free = s.free := rfl
@[simp] theorem State.modIssue_ident (s : State) (f : Issue → Issue) : (s.modIssue f).ident = s.ident := rfl
@[simp] theorem State.modIssue_shadows (s : State) (f : Issue → Issue) : (s.modIssue f).shadows = s.shadows := rfl
@[simp] theorem State.modIssue_issue (s : State) (f : Issue → Issue) : (s.modIssue f).issue = s.issue.map f := rfl

@[simp] theorem State.voidIssue_turn (s : State) : (s.voidIssue).turn = s.turn := rfl
@[simp] theorem State.voidIssue_pos (s : State) : (s.voidIssue).pos = s.pos := rfl
@[simp] theorem State.voidIssue_bdry (s : State) : (s.voidIssue).bdry = s.bdry := rfl
@[simp] theorem State.voidIssue_groups (s : State) : (s.voidIssue).groups = s.groups := rfl
@[simp] theorem State.voidIssue_blocks (s : State) : (s.voidIssue).blocks = s.blocks := rfl
@[simp] theorem State.voidIssue_grids (s : State) : (s.voidIssue).grids = s.grids := rfl
@[simp] theorem State.voidIssue_cores (s : State) : (s.voidIssue).cores = s.cores := rfl
@[simp] theorem State.voidIssue_parts (s : State) : (s.voidIssue).parts = s.parts := rfl
@[simp] theorem State.voidIssue_streams (s : State) : (s.voidIssue).streams = s.streams := rfl
@[simp] theorem State.voidIssue_bankQ (s : State) : (s.voidIssue).bankQ = s.bankQ := rfl
@[simp] theorem State.voidIssue_remotes (s : State) : (s.voidIssue).remotes = s.remotes := rfl
@[simp] theorem State.voidIssue_semq (s : State) : (s.voidIssue).semq = s.semq := rfl
@[simp] theorem State.voidIssue_images (s : State) : (s.voidIssue).images = s.images := rfl
@[simp] theorem State.voidIssue_hbm (s : State) : (s.voidIssue).hbm = s.hbm := rfl
@[simp] theorem State.voidIssue_host (s : State) : (s.voidIssue).host = s.host := rfl
@[simp] theorem State.voidIssue_dev (s : State) : (s.voidIssue).dev = s.dev := rfl
@[simp] theorem State.voidIssue_pat (s : State) : (s.voidIssue).pat = s.pat := rfl
@[simp] theorem State.voidIssue_inputs (s : State) : (s.voidIssue).inputs = s.inputs := rfl
@[simp] theorem State.voidIssue_dram (s : State) : (s.voidIssue).dram = s.dram := rfl
@[simp] theorem State.voidIssue_haps (s : State) : (s.voidIssue).haps = s.haps := rfl
@[simp] theorem State.voidIssue_out (s : State) : (s.voidIssue).out = s.out := rfl
@[simp] theorem State.voidIssue_free (s : State) : (s.voidIssue).free = s.free := rfl
@[simp] theorem State.voidIssue_ident (s : State) : (s.voidIssue).ident = s.ident := rfl
@[simp] theorem State.voidIssue_shadows (s : State) : (s.voidIssue).shadows = s.shadows := rfl

@[simp] theorem State.began_turn (s : State) (i : Instr) (x : Issue) (g : Group) (sel : Mask) : (s.began i x g sel).turn = s.turn := rfl
@[simp] theorem State.began_pos (s : State) (i : Instr) (x : Issue) (g : Group) (sel : Mask) : (s.began i x g sel).pos = s.pos := rfl
@[simp] theorem State.began_bdry (s : State) (i : Instr) (x : Issue) (g : Group) (sel : Mask) : (s.began i x g sel).bdry = s.bdry := rfl
@[simp] theorem State.began_blocks (s : State) (i : Instr) (x : Issue) (g : Group) (sel : Mask) : (s.began i x g sel).blocks = s.blocks := rfl
@[simp] theorem State.began_grids (s : State) (i : Instr) (x : Issue) (g : Group) (sel : Mask) : (s.began i x g sel).grids = s.grids := rfl
@[simp] theorem State.began_cores (s : State) (i : Instr) (x : Issue) (g : Group) (sel : Mask) : (s.began i x g sel).cores = s.cores := rfl
@[simp] theorem State.began_parts (s : State) (i : Instr) (x : Issue) (g : Group) (sel : Mask) : (s.began i x g sel).parts = s.parts := rfl
@[simp] theorem State.began_streams (s : State) (i : Instr) (x : Issue) (g : Group) (sel : Mask) : (s.began i x g sel).streams = s.streams := rfl
@[simp] theorem State.began_bankQ (s : State) (i : Instr) (x : Issue) (g : Group) (sel : Mask) : (s.began i x g sel).bankQ = s.bankQ := rfl
@[simp] theorem State.began_remotes (s : State) (i : Instr) (x : Issue) (g : Group) (sel : Mask) : (s.began i x g sel).remotes = s.remotes := rfl
@[simp] theorem State.began_semq (s : State) (i : Instr) (x : Issue) (g : Group) (sel : Mask) : (s.began i x g sel).semq = s.semq := rfl
@[simp] theorem State.began_images (s : State) (i : Instr) (x : Issue) (g : Group) (sel : Mask) : (s.began i x g sel).images = s.images := rfl
@[simp] theorem State.began_hbm (s : State) (i : Instr) (x : Issue) (g : Group) (sel : Mask) : (s.began i x g sel).hbm = s.hbm := rfl
@[simp] theorem State.began_host (s : State) (i : Instr) (x : Issue) (g : Group) (sel : Mask) : (s.began i x g sel).host = s.host := rfl
@[simp] theorem State.began_dev (s : State) (i : Instr) (x : Issue) (g : Group) (sel : Mask) : (s.began i x g sel).dev = s.dev := rfl
@[simp] theorem State.began_pat (s : State) (i : Instr) (x : Issue) (g : Group) (sel : Mask) : (s.began i x g sel).pat = s.pat := rfl
@[simp] theorem State.began_inputs (s : State) (i : Instr) (x : Issue) (g : Group) (sel : Mask) : (s.began i x g sel).inputs = s.inputs := rfl
@[simp] theorem State.began_dram (s : State) (i : Instr) (x : Issue) (g : Group) (sel : Mask) : (s.began i x g sel).dram = s.dram := rfl
@[simp] theorem State.began_haps (s : State) (i : Instr) (x : Issue) (g : Group) (sel : Mask) : (s.began i x g sel).haps = s.haps := rfl
@[simp] theorem State.began_out (s : State) (i : Instr) (x : Issue) (g : Group) (sel : Mask) : (s.began i x g sel).out = s.out := rfl
@[simp] theorem State.began_free (s : State) (i : Instr) (x : Issue) (g : Group) (sel : Mask) : (s.began i x g sel).free = s.free := rfl
@[simp] theorem State.began_ident (s : State) (i : Instr) (x : Issue) (g : Group) (sel : Mask) : (s.began i x g sel).ident = s.ident := rfl
@[simp] theorem State.began_shadows (s : State) (i : Instr) (x : Issue) (g : Group) (sel : Mask) : (s.began i x g sel).shadows = s.shadows := rfl

@[simp] theorem State.logNrec_turn (s : State) (g : Nat) : (s.logNrec g).turn = s.turn := rfl
@[simp] theorem State.logNrec_pos (s : State) (g : Nat) : (s.logNrec g).pos = s.pos := rfl
@[simp] theorem State.logNrec_bdry (s : State) (g : Nat) : (s.logNrec g).bdry = s.bdry := rfl
@[simp] theorem State.logNrec_issue (s : State) (g : Nat) : (s.logNrec g).issue = s.issue := rfl
@[simp] theorem State.logNrec_blocks (s : State) (g : Nat) : (s.logNrec g).blocks = s.blocks := rfl
@[simp] theorem State.logNrec_grids (s : State) (g : Nat) : (s.logNrec g).grids = s.grids := rfl
@[simp] theorem State.logNrec_cores (s : State) (g : Nat) : (s.logNrec g).cores = s.cores := rfl
@[simp] theorem State.logNrec_parts (s : State) (g : Nat) : (s.logNrec g).parts = s.parts := rfl
@[simp] theorem State.logNrec_streams (s : State) (g : Nat) : (s.logNrec g).streams = s.streams := rfl
@[simp] theorem State.logNrec_bankQ (s : State) (g : Nat) : (s.logNrec g).bankQ = s.bankQ := rfl
@[simp] theorem State.logNrec_remotes (s : State) (g : Nat) : (s.logNrec g).remotes = s.remotes := rfl
@[simp] theorem State.logNrec_semq (s : State) (g : Nat) : (s.logNrec g).semq = s.semq := rfl
@[simp] theorem State.logNrec_images (s : State) (g : Nat) : (s.logNrec g).images = s.images := rfl
@[simp] theorem State.logNrec_hbm (s : State) (g : Nat) : (s.logNrec g).hbm = s.hbm := rfl
@[simp] theorem State.logNrec_host (s : State) (g : Nat) : (s.logNrec g).host = s.host := rfl
@[simp] theorem State.logNrec_dev (s : State) (g : Nat) : (s.logNrec g).dev = s.dev := rfl
@[simp] theorem State.logNrec_pat (s : State) (g : Nat) : (s.logNrec g).pat = s.pat := rfl
@[simp] theorem State.logNrec_inputs (s : State) (g : Nat) : (s.logNrec g).inputs = s.inputs := rfl
@[simp] theorem State.logNrec_dram (s : State) (g : Nat) : (s.logNrec g).dram = s.dram := rfl
@[simp] theorem State.logNrec_haps (s : State) (g : Nat) : (s.logNrec g).haps = s.haps := rfl
@[simp] theorem State.logNrec_out (s : State) (g : Nat) : (s.logNrec g).out = s.out := rfl
@[simp] theorem State.logNrec_free (s : State) (g : Nat) : (s.logNrec g).free = s.free := rfl
@[simp] theorem State.logNrec_ident (s : State) (g : Nat) : (s.logNrec g).ident = s.ident := rfl
@[simp] theorem State.logNrec_shadows (s : State) (g : Nat) : (s.logNrec g).shadows = s.shadows := rfl

@[simp] theorem State.result_turn (s : State) (c : Ctx) (lat : Nat) (d : Opnd) (res : List LRes) (k : RKindL) : (s.result c lat d res k).turn = s.turn := rfl
@[simp] theorem State.result_pos (s : State) (c : Ctx) (lat : Nat) (d : Opnd) (res : List LRes) (k : RKindL) : (s.result c lat d res k).pos = s.pos := rfl
@[simp] theorem State.result_bdry (s : State) (c : Ctx) (lat : Nat) (d : Opnd) (res : List LRes) (k : RKindL) : (s.result c lat d res k).bdry = s.bdry := rfl
@[simp] theorem State.result_issue (s : State) (c : Ctx) (lat : Nat) (d : Opnd) (res : List LRes) (k : RKindL) : (s.result c lat d res k).issue = s.issue := rfl
@[simp] theorem State.result_blocks (s : State) (c : Ctx) (lat : Nat) (d : Opnd) (res : List LRes) (k : RKindL) : (s.result c lat d res k).blocks = s.blocks := rfl
@[simp] theorem State.result_grids (s : State) (c : Ctx) (lat : Nat) (d : Opnd) (res : List LRes) (k : RKindL) : (s.result c lat d res k).grids = s.grids := rfl
@[simp] theorem State.result_cores (s : State) (c : Ctx) (lat : Nat) (d : Opnd) (res : List LRes) (k : RKindL) : (s.result c lat d res k).cores = s.cores := rfl
@[simp] theorem State.result_parts (s : State) (c : Ctx) (lat : Nat) (d : Opnd) (res : List LRes) (k : RKindL) : (s.result c lat d res k).parts = s.parts := rfl
@[simp] theorem State.result_streams (s : State) (c : Ctx) (lat : Nat) (d : Opnd) (res : List LRes) (k : RKindL) : (s.result c lat d res k).streams = s.streams := rfl
@[simp] theorem State.result_bankQ (s : State) (c : Ctx) (lat : Nat) (d : Opnd) (res : List LRes) (k : RKindL) : (s.result c lat d res k).bankQ = s.bankQ := rfl
@[simp] theorem State.result_remotes (s : State) (c : Ctx) (lat : Nat) (d : Opnd) (res : List LRes) (k : RKindL) : (s.result c lat d res k).remotes = s.remotes := rfl
@[simp] theorem State.result_semq (s : State) (c : Ctx) (lat : Nat) (d : Opnd) (res : List LRes) (k : RKindL) : (s.result c lat d res k).semq = s.semq := rfl
@[simp] theorem State.result_images (s : State) (c : Ctx) (lat : Nat) (d : Opnd) (res : List LRes) (k : RKindL) : (s.result c lat d res k).images = s.images := rfl
@[simp] theorem State.result_hbm (s : State) (c : Ctx) (lat : Nat) (d : Opnd) (res : List LRes) (k : RKindL) : (s.result c lat d res k).hbm = s.hbm := rfl
@[simp] theorem State.result_host (s : State) (c : Ctx) (lat : Nat) (d : Opnd) (res : List LRes) (k : RKindL) : (s.result c lat d res k).host = s.host := rfl
@[simp] theorem State.result_dev (s : State) (c : Ctx) (lat : Nat) (d : Opnd) (res : List LRes) (k : RKindL) : (s.result c lat d res k).dev = s.dev := rfl
@[simp] theorem State.result_pat (s : State) (c : Ctx) (lat : Nat) (d : Opnd) (res : List LRes) (k : RKindL) : (s.result c lat d res k).pat = s.pat := rfl
@[simp] theorem State.result_inputs (s : State) (c : Ctx) (lat : Nat) (d : Opnd) (res : List LRes) (k : RKindL) : (s.result c lat d res k).inputs = s.inputs := rfl
@[simp] theorem State.result_dram (s : State) (c : Ctx) (lat : Nat) (d : Opnd) (res : List LRes) (k : RKindL) : (s.result c lat d res k).dram = s.dram := rfl
@[simp] theorem State.result_haps (s : State) (c : Ctx) (lat : Nat) (d : Opnd) (res : List LRes) (k : RKindL) : (s.result c lat d res k).haps = s.haps := rfl
@[simp] theorem State.result_out (s : State) (c : Ctx) (lat : Nat) (d : Opnd) (res : List LRes) (k : RKindL) : (s.result c lat d res k).out = s.out := rfl
@[simp] theorem State.result_free (s : State) (c : Ctx) (lat : Nat) (d : Opnd) (res : List LRes) (k : RKindL) : (s.result c lat d res k).free = s.free := rfl
@[simp] theorem State.result_ident (s : State) (c : Ctx) (lat : Nat) (d : Opnd) (res : List LRes) (k : RKindL) : (s.result c lat d res k).ident = s.ident := rfl
@[simp] theorem State.result_shadows (s : State) (c : Ctx) (lat : Nat) (d : Opnd) (res : List LRes) (k : RKindL) : (s.result c lat d res k).shadows = s.shadows := rfl

@[simp] theorem State.reserve_turn (s : State) (c : Ctx) (due : Nat) (d : Opnd) (n : Nat) (k : RKindL) : (s.reserve c due d n k).turn = s.turn := rfl
@[simp] theorem State.reserve_pos (s : State) (c : Ctx) (due : Nat) (d : Opnd) (n : Nat) (k : RKindL) : (s.reserve c due d n k).pos = s.pos := rfl
@[simp] theorem State.reserve_bdry (s : State) (c : Ctx) (due : Nat) (d : Opnd) (n : Nat) (k : RKindL) : (s.reserve c due d n k).bdry = s.bdry := rfl
@[simp] theorem State.reserve_issue (s : State) (c : Ctx) (due : Nat) (d : Opnd) (n : Nat) (k : RKindL) : (s.reserve c due d n k).issue = s.issue := rfl
@[simp] theorem State.reserve_blocks (s : State) (c : Ctx) (due : Nat) (d : Opnd) (n : Nat) (k : RKindL) : (s.reserve c due d n k).blocks = s.blocks := rfl
@[simp] theorem State.reserve_grids (s : State) (c : Ctx) (due : Nat) (d : Opnd) (n : Nat) (k : RKindL) : (s.reserve c due d n k).grids = s.grids := rfl
@[simp] theorem State.reserve_cores (s : State) (c : Ctx) (due : Nat) (d : Opnd) (n : Nat) (k : RKindL) : (s.reserve c due d n k).cores = s.cores := rfl
@[simp] theorem State.reserve_parts (s : State) (c : Ctx) (due : Nat) (d : Opnd) (n : Nat) (k : RKindL) : (s.reserve c due d n k).parts = s.parts := rfl
@[simp] theorem State.reserve_streams (s : State) (c : Ctx) (due : Nat) (d : Opnd) (n : Nat) (k : RKindL) : (s.reserve c due d n k).streams = s.streams := rfl
@[simp] theorem State.reserve_bankQ (s : State) (c : Ctx) (due : Nat) (d : Opnd) (n : Nat) (k : RKindL) : (s.reserve c due d n k).bankQ = s.bankQ := rfl
@[simp] theorem State.reserve_remotes (s : State) (c : Ctx) (due : Nat) (d : Opnd) (n : Nat) (k : RKindL) : (s.reserve c due d n k).remotes = s.remotes := rfl
@[simp] theorem State.reserve_semq (s : State) (c : Ctx) (due : Nat) (d : Opnd) (n : Nat) (k : RKindL) : (s.reserve c due d n k).semq = s.semq := rfl
@[simp] theorem State.reserve_images (s : State) (c : Ctx) (due : Nat) (d : Opnd) (n : Nat) (k : RKindL) : (s.reserve c due d n k).images = s.images := rfl
@[simp] theorem State.reserve_hbm (s : State) (c : Ctx) (due : Nat) (d : Opnd) (n : Nat) (k : RKindL) : (s.reserve c due d n k).hbm = s.hbm := rfl
@[simp] theorem State.reserve_host (s : State) (c : Ctx) (due : Nat) (d : Opnd) (n : Nat) (k : RKindL) : (s.reserve c due d n k).host = s.host := rfl
@[simp] theorem State.reserve_dev (s : State) (c : Ctx) (due : Nat) (d : Opnd) (n : Nat) (k : RKindL) : (s.reserve c due d n k).dev = s.dev := rfl
@[simp] theorem State.reserve_pat (s : State) (c : Ctx) (due : Nat) (d : Opnd) (n : Nat) (k : RKindL) : (s.reserve c due d n k).pat = s.pat := rfl
@[simp] theorem State.reserve_inputs (s : State) (c : Ctx) (due : Nat) (d : Opnd) (n : Nat) (k : RKindL) : (s.reserve c due d n k).inputs = s.inputs := rfl
@[simp] theorem State.reserve_dram (s : State) (c : Ctx) (due : Nat) (d : Opnd) (n : Nat) (k : RKindL) : (s.reserve c due d n k).dram = s.dram := rfl
@[simp] theorem State.reserve_haps (s : State) (c : Ctx) (due : Nat) (d : Opnd) (n : Nat) (k : RKindL) : (s.reserve c due d n k).haps = s.haps := rfl
@[simp] theorem State.reserve_out (s : State) (c : Ctx) (due : Nat) (d : Opnd) (n : Nat) (k : RKindL) : (s.reserve c due d n k).out = s.out := rfl
@[simp] theorem State.reserve_free (s : State) (c : Ctx) (due : Nat) (d : Opnd) (n : Nat) (k : RKindL) : (s.reserve c due d n k).free = s.free := rfl
@[simp] theorem State.reserve_ident (s : State) (c : Ctx) (due : Nat) (d : Opnd) (n : Nat) (k : RKindL) : (s.reserve c due d n k).ident = s.ident := rfl
@[simp] theorem State.reserve_shadows (s : State) (c : Ctx) (due : Nat) (d : Opnd) (n : Nat) (k : RKindL) : (s.reserve c due d n k).shadows = s.shadows := rfl

@[simp] theorem State.fillRes_turn (s : State) (g n : Nat) (res : List LRes) : (s.fillRes g n res).turn = s.turn := rfl
@[simp] theorem State.fillRes_pos (s : State) (g n : Nat) (res : List LRes) : (s.fillRes g n res).pos = s.pos := rfl
@[simp] theorem State.fillRes_bdry (s : State) (g n : Nat) (res : List LRes) : (s.fillRes g n res).bdry = s.bdry := rfl
@[simp] theorem State.fillRes_issue (s : State) (g n : Nat) (res : List LRes) : (s.fillRes g n res).issue = s.issue := rfl
@[simp] theorem State.fillRes_blocks (s : State) (g n : Nat) (res : List LRes) : (s.fillRes g n res).blocks = s.blocks := rfl
@[simp] theorem State.fillRes_grids (s : State) (g n : Nat) (res : List LRes) : (s.fillRes g n res).grids = s.grids := rfl
@[simp] theorem State.fillRes_cores (s : State) (g n : Nat) (res : List LRes) : (s.fillRes g n res).cores = s.cores := rfl
@[simp] theorem State.fillRes_parts (s : State) (g n : Nat) (res : List LRes) : (s.fillRes g n res).parts = s.parts := rfl
@[simp] theorem State.fillRes_streams (s : State) (g n : Nat) (res : List LRes) : (s.fillRes g n res).streams = s.streams := rfl
@[simp] theorem State.fillRes_bankQ (s : State) (g n : Nat) (res : List LRes) : (s.fillRes g n res).bankQ = s.bankQ := rfl
@[simp] theorem State.fillRes_remotes (s : State) (g n : Nat) (res : List LRes) : (s.fillRes g n res).remotes = s.remotes := rfl
@[simp] theorem State.fillRes_semq (s : State) (g n : Nat) (res : List LRes) : (s.fillRes g n res).semq = s.semq := rfl
@[simp] theorem State.fillRes_images (s : State) (g n : Nat) (res : List LRes) : (s.fillRes g n res).images = s.images := rfl
@[simp] theorem State.fillRes_hbm (s : State) (g n : Nat) (res : List LRes) : (s.fillRes g n res).hbm = s.hbm := rfl
@[simp] theorem State.fillRes_host (s : State) (g n : Nat) (res : List LRes) : (s.fillRes g n res).host = s.host := rfl
@[simp] theorem State.fillRes_dev (s : State) (g n : Nat) (res : List LRes) : (s.fillRes g n res).dev = s.dev := rfl
@[simp] theorem State.fillRes_pat (s : State) (g n : Nat) (res : List LRes) : (s.fillRes g n res).pat = s.pat := rfl
@[simp] theorem State.fillRes_inputs (s : State) (g n : Nat) (res : List LRes) : (s.fillRes g n res).inputs = s.inputs := rfl
@[simp] theorem State.fillRes_dram (s : State) (g n : Nat) (res : List LRes) : (s.fillRes g n res).dram = s.dram := rfl
@[simp] theorem State.fillRes_haps (s : State) (g n : Nat) (res : List LRes) : (s.fillRes g n res).haps = s.haps := rfl
@[simp] theorem State.fillRes_out (s : State) (g n : Nat) (res : List LRes) : (s.fillRes g n res).out = s.out := rfl
@[simp] theorem State.fillRes_free (s : State) (g n : Nat) (res : List LRes) : (s.fillRes g n res).free = s.free := rfl
@[simp] theorem State.fillRes_ident (s : State) (g n : Nat) (res : List LRes) : (s.fillRes g n res).ident = s.ident := rfl
@[simp] theorem State.fillRes_shadows (s : State) (g n : Nat) (res : List LRes) : (s.fillRes g n res).shadows = s.shadows := rfl

@[simp] theorem State.dueRes_turn (s : State) (g n due : Nat) : (s.dueRes g n due).turn = s.turn := rfl
@[simp] theorem State.dueRes_pos (s : State) (g n due : Nat) : (s.dueRes g n due).pos = s.pos := rfl
@[simp] theorem State.dueRes_bdry (s : State) (g n due : Nat) : (s.dueRes g n due).bdry = s.bdry := rfl
@[simp] theorem State.dueRes_issue (s : State) (g n due : Nat) : (s.dueRes g n due).issue = s.issue := rfl
@[simp] theorem State.dueRes_blocks (s : State) (g n due : Nat) : (s.dueRes g n due).blocks = s.blocks := rfl
@[simp] theorem State.dueRes_grids (s : State) (g n due : Nat) : (s.dueRes g n due).grids = s.grids := rfl
@[simp] theorem State.dueRes_cores (s : State) (g n due : Nat) : (s.dueRes g n due).cores = s.cores := rfl
@[simp] theorem State.dueRes_parts (s : State) (g n due : Nat) : (s.dueRes g n due).parts = s.parts := rfl
@[simp] theorem State.dueRes_streams (s : State) (g n due : Nat) : (s.dueRes g n due).streams = s.streams := rfl
@[simp] theorem State.dueRes_bankQ (s : State) (g n due : Nat) : (s.dueRes g n due).bankQ = s.bankQ := rfl
@[simp] theorem State.dueRes_remotes (s : State) (g n due : Nat) : (s.dueRes g n due).remotes = s.remotes := rfl
@[simp] theorem State.dueRes_semq (s : State) (g n due : Nat) : (s.dueRes g n due).semq = s.semq := rfl
@[simp] theorem State.dueRes_images (s : State) (g n due : Nat) : (s.dueRes g n due).images = s.images := rfl
@[simp] theorem State.dueRes_hbm (s : State) (g n due : Nat) : (s.dueRes g n due).hbm = s.hbm := rfl
@[simp] theorem State.dueRes_host (s : State) (g n due : Nat) : (s.dueRes g n due).host = s.host := rfl
@[simp] theorem State.dueRes_dev (s : State) (g n due : Nat) : (s.dueRes g n due).dev = s.dev := rfl
@[simp] theorem State.dueRes_pat (s : State) (g n due : Nat) : (s.dueRes g n due).pat = s.pat := rfl
@[simp] theorem State.dueRes_inputs (s : State) (g n due : Nat) : (s.dueRes g n due).inputs = s.inputs := rfl
@[simp] theorem State.dueRes_dram (s : State) (g n due : Nat) : (s.dueRes g n due).dram = s.dram := rfl
@[simp] theorem State.dueRes_haps (s : State) (g n due : Nat) : (s.dueRes g n due).haps = s.haps := rfl
@[simp] theorem State.dueRes_out (s : State) (g n due : Nat) : (s.dueRes g n due).out = s.out := rfl
@[simp] theorem State.dueRes_free (s : State) (g n due : Nat) : (s.dueRes g n due).free = s.free := rfl
@[simp] theorem State.dueRes_ident (s : State) (g n due : Nat) : (s.dueRes g n due).ident = s.ident := rfl
@[simp] theorem State.dueRes_shadows (s : State) (g n due : Nat) : (s.dueRes g n due).shadows = s.shadows := rfl

@[simp] theorem State.waitLane_turn (s : State) (c : Ctx) (l : Nat) (k : Cond) (t : Nat) : (s.waitLane c l k t).turn = s.turn := rfl
@[simp] theorem State.waitLane_pos (s : State) (c : Ctx) (l : Nat) (k : Cond) (t : Nat) : (s.waitLane c l k t).pos = s.pos := rfl
@[simp] theorem State.waitLane_bdry (s : State) (c : Ctx) (l : Nat) (k : Cond) (t : Nat) : (s.waitLane c l k t).bdry = s.bdry := rfl
@[simp] theorem State.waitLane_issue (s : State) (c : Ctx) (l : Nat) (k : Cond) (t : Nat) : (s.waitLane c l k t).issue = s.issue := rfl
@[simp] theorem State.waitLane_blocks (s : State) (c : Ctx) (l : Nat) (k : Cond) (t : Nat) : (s.waitLane c l k t).blocks = s.blocks := rfl
@[simp] theorem State.waitLane_grids (s : State) (c : Ctx) (l : Nat) (k : Cond) (t : Nat) : (s.waitLane c l k t).grids = s.grids := rfl
@[simp] theorem State.waitLane_cores (s : State) (c : Ctx) (l : Nat) (k : Cond) (t : Nat) : (s.waitLane c l k t).cores = s.cores := rfl
@[simp] theorem State.waitLane_parts (s : State) (c : Ctx) (l : Nat) (k : Cond) (t : Nat) : (s.waitLane c l k t).parts = s.parts := rfl
@[simp] theorem State.waitLane_streams (s : State) (c : Ctx) (l : Nat) (k : Cond) (t : Nat) : (s.waitLane c l k t).streams = s.streams := rfl
@[simp] theorem State.waitLane_bankQ (s : State) (c : Ctx) (l : Nat) (k : Cond) (t : Nat) : (s.waitLane c l k t).bankQ = s.bankQ := rfl
@[simp] theorem State.waitLane_remotes (s : State) (c : Ctx) (l : Nat) (k : Cond) (t : Nat) : (s.waitLane c l k t).remotes = s.remotes := rfl
@[simp] theorem State.waitLane_semq (s : State) (c : Ctx) (l : Nat) (k : Cond) (t : Nat) : (s.waitLane c l k t).semq = s.semq := rfl
@[simp] theorem State.waitLane_images (s : State) (c : Ctx) (l : Nat) (k : Cond) (t : Nat) : (s.waitLane c l k t).images = s.images := rfl
@[simp] theorem State.waitLane_hbm (s : State) (c : Ctx) (l : Nat) (k : Cond) (t : Nat) : (s.waitLane c l k t).hbm = s.hbm := rfl
@[simp] theorem State.waitLane_host (s : State) (c : Ctx) (l : Nat) (k : Cond) (t : Nat) : (s.waitLane c l k t).host = s.host := rfl
@[simp] theorem State.waitLane_dev (s : State) (c : Ctx) (l : Nat) (k : Cond) (t : Nat) : (s.waitLane c l k t).dev = s.dev := rfl
@[simp] theorem State.waitLane_pat (s : State) (c : Ctx) (l : Nat) (k : Cond) (t : Nat) : (s.waitLane c l k t).pat = s.pat := rfl
@[simp] theorem State.waitLane_inputs (s : State) (c : Ctx) (l : Nat) (k : Cond) (t : Nat) : (s.waitLane c l k t).inputs = s.inputs := rfl
@[simp] theorem State.waitLane_dram (s : State) (c : Ctx) (l : Nat) (k : Cond) (t : Nat) : (s.waitLane c l k t).dram = s.dram := rfl
@[simp] theorem State.waitLane_haps (s : State) (c : Ctx) (l : Nat) (k : Cond) (t : Nat) : (s.waitLane c l k t).haps = s.haps := rfl
@[simp] theorem State.waitLane_out (s : State) (c : Ctx) (l : Nat) (k : Cond) (t : Nat) : (s.waitLane c l k t).out = s.out := rfl
@[simp] theorem State.waitLane_free (s : State) (c : Ctx) (l : Nat) (k : Cond) (t : Nat) : (s.waitLane c l k t).free = s.free := rfl
@[simp] theorem State.waitLane_ident (s : State) (c : Ctx) (l : Nat) (k : Cond) (t : Nat) : (s.waitLane c l k t).ident = s.ident := rfl
@[simp] theorem State.waitLane_shadows (s : State) (c : Ctx) (l : Nat) (k : Cond) (t : Nat) : (s.waitLane c l k t).shadows = s.shadows := rfl

end Sys2Proof.Machine
end

