-- ==== Sys2Proof/Laws/Upkeep.lean ====
section
/-! SUPPORT. What the maintenance of HBM4 and the happenings from outside do to the two memories: they keep the canonical form, and
only a repair writes HBM4 and only the host's own write its memory. -/

namespace Sys2Proof.Machine

/-- A driver's access acts as it stands while verified firmware runs, and not otherwise (16 R369). -/
theorem State.served_of_fwok {s : State} (h : s.dev.fwok = true) (f : State → State) : s.served f = f s := by simp [State.served, h]
theorem State.served_of_not_fwok {s : State} (h : s.dev.fwok = false) (f : State → State) : s.served f = s := by simp [State.served, h]

/-- The two memories hold the same bytes. -/
def SameMem (s t : State) : Prop := t.hbm.cells = s.hbm.cells ∧ t.host.cells = s.host.cells

theorem SameMem.memOk {s t : State} (h : SameMem s t) (k : s.memOk) : t.memOk := ⟨h.1 ▸ k.1, h.2 ▸ k.2⟩

theorem State.hbmCorrected_same (s : State) (g : Nat) : SameMem s (s.hbmCorrected g) := by
  unfold State.hbmCorrected
  generalize s.usersOf g = ps
  induction ps generalizing s with
  | nil => exact ⟨rfl, rfl⟩
  | cons p ps ih => exact ih (s.modPart p _)

theorem State.correctable_same (s : State) (k : Nat) : SameMem s (s.correctable k) := by
  simp only [State.correctable, State.markCore, SameMem]
  repeat' split <;> simp_all

theorem State.mirrorRepair_memOk {s : State} (g : Nat) (h : s.memOk) : (s.mirrorRepair g).memOk := by
  unfold State.mirrorRepair
  split
  · refine (State.hbmCorrected_same _ g).memOk ?_
    simp only [State.memOk]
    exact ⟨Memory.wf_write _ _ _ h.1, h.2⟩
  · exact h

theorem State.rowRemap_same (s : State) (r : HRow) : SameMem s (s.rowRemap r) := by
  unfold State.rowRemap
  dsimp only
  repeat' split
  all_goals exact ⟨rfl, rfl⟩

/-- Maintenance keeps the canonical form. -/
theorem State.maintain_memOk {s : State} (m : Maint) (h : s.memOk) : (s.maintain m).memOk := by
  unfold State.maintain
  split
  · exact h
  · exact h
  · exact h
  · exact State.mirrorRepair_memOk _ h
  · exact (s.rowRemap_same _).memOk h

theorem State.queueMaint_memOk {s : State} (r : HRow) (k : MaintKind) (h : s.memOk) : (s.queueMaint r k).memOk := by
  unfold State.queueMaint
  split
  · split <;> exact h
  · exact State.maintain_memOk _ h

theorem State.hbmError_memOk {s : State} (r : HRow) (g : Nat) (bad : Bool) (h : s.memOk) : (s.hbmError r g bad).memOk := by
  unfold State.hbmError
  have hm : ({ s with hbm := s.hbm.mark [g] } : State).memOk := h
  dsimp only
  split
  · have := State.queueMaint_memOk r .remap hm
    split
    · exact State.queueMaint_memOk _ _ this
    · exact this
  · have hc : (({ s with dram := { s.dram with fixed := tset s.dram.fixed r.key ((tget s.dram.fixed r.key).getD 0 + 1) } } : State).hbmCorrected g).memOk :=
      (State.hbmCorrected_same _ g).memOk h
    split
    · exact State.queueMaint_memOk _ _ hc
    · exact hc

theorem State.modRam_same (s : State) (sp : Space) (f : Ram → Ram) : SameMem s (s.modRam sp f) := by
  cases sp <;> exact ⟨rfl, rfl⟩

theorem State.modCopy_same (s : State) (k : Nat) (cl : CClass) (f : CCmd → CCmd) : SameMem s (s.modCopy k cl f) := ⟨rfl, rfl⟩

/-- A happening keeps the canonical form of both memories. -/
theorem State.happen_memOk {s : State} (p : Hap) (h : s.memOk) : (s.happen p).memOk := by
  cases p with
  | scratchError k sp g bad =>
    cases bad
    · exact (s.correctable_same k).memOk h
    · exact (s.modRam_same sp (fun m => m.mark [g])).memOk h
  | hbmError r g bad => exact State.hbmError_memOk r g bad h
  | activate r => exact h
  | refreshDue r => exact State.queueMaint_memOk r _ h
  | retry r => exact State.queueMaint_memOk r _ h
  | fallBehind k cl n => exact (s.modCopy_same k cl _).memOk h
  | lateAck k n => exact h
  | hostMem a bs bad => exact ⟨h.1, Memory.wf_write _ _ _ h.2⟩
  | recallAnswered dev gr rng => exact h

end Sys2Proof.Machine
end

