-- ==== Sys2Proof/Laws/Flits.lean ====
section
/-! SUPPORT. What the sending of flits can do: where a flit goes, and what a send, a resend and the planning of executions leave alone. -/

namespace Sys2Proof.Machine

/-- `t` differs from `s` only in the pattern block, the free counter, the remote executions and what goes out. -/
def OnlyFabric (s t : State) : Prop := t = { s with pat := t.pat, free := t.free, remotes := t.remotes, out := t.out }

theorem OnlyFabric.rfl (s : State) : OnlyFabric s s := Eq.refl _
theorem OnlyFabric.trans {s t u : State} (h : OnlyFabric s t) (k : OnlyFabric t u) : OnlyFabric s u := by
  unfold OnlyFabric at *; rw [k, h]
theorem OnlyFabric.memOk {s t : State} (h : OnlyFabric s t) (k : s.memOk) : t.memOk := by rw [h]; exact k
theorem OnlyFabric.foldl {α : Type} (f : State → α → State) (h : ∀ s a, OnlyFabric s (f s a)) (l : List α) (s : State) :
    OnlyFabric s (l.foldl f s) := by
  induction l generalizing s with
  | nil => exact OnlyFabric.rfl s
  | cons a l ih => exact (h s a).trans (ih _)

/-- A slot of an entry begins no earlier than now. -/
theorem State.occurs_tick (s : State) (q : Slot) (k : Nat) : s.now ≤ (s.occurs q k).tick := by
  unfold State.occurs
  dsimp only
  split <;> split <;> omega

/-- What is found with one entry more: what was found before, or a place of that entry that will do. -/
theorem State.sooner_cases {s : State} {ok : Place → Bool} {b : Option Place} {q : Slot} {p : Place} (h : s.sooner ok b q = some p) :
    b = some p ∨ (ok p = true ∧ ∃ k, p = s.occurs q k) := by
  unfold State.sooner at h
  split at h
  · exact .inl h
  · rename_i z hz
    have good : ok z = true ∧ ∃ k, z = s.occurs q k := by
      obtain ⟨k, -, rfl⟩ := List.mem_map.1 (List.mem_of_find?_eq_some hz)
      exact ⟨List.find?_some hz, k, Eq.refl _⟩
    cases b with
    | none => cases h; exact .inr good
    | some y =>
      by_cases hc : z.tick < y.tick <;> simp only [hc, if_true, if_false] at h <;> cases h
      · exact .inr good
      · exact .inl (Eq.refl _)

theorem State.soonest_cases {s : State} {ok : Place → Bool} {p : Place} (l : List Slot) {b : Option Place}
    (h : l.foldl (s.sooner ok) b = some p) : b = some p ∨ (ok p = true ∧ ∃ q ∈ l, ∃ k, p = s.occurs q k) := by
  induction l generalizing b with
  | nil => exact .inl h
  | cons q l ih =>
    rcases ih h with h | ⟨h, x, hx, k, hk⟩
    · rcases State.sooner_cases h with h | ⟨h, k, hk⟩
      · exact .inl h
      · exact .inr ⟨h, q, List.mem_cons_self .., k, hk⟩
    · exact .inr ⟨h, x, List.mem_cons_of_mem _ hx, k, hk⟩

/-- A place is a slot of an entry that is wanted, to the device it is for, not yet taken, and for a first sending one whose sequence
number no flit of the pair has (15 R322-R326). -/
theorem State.place_spec {s : State} {peer : Nat} {fresh : Bool} {want : Slot → Bool} {p : Place} (hs : s.slots ≠ [])
    (h : s.place peer fresh want = some p) :
    s.now ≤ p.tick ∧ s.vacant p = true ∧ (fresh = true → s.freshSeq peer p = true) ∧
      ∃ q ∈ s.slots, q.out = true ∧ q.peer = peer ∧ want q = true ∧ q.port = p.port ∧ q.index = p.slot := by
  have he : s.slots.isEmpty = false := by cases h' : s.slots <;> simp_all
  simp only [State.place, he] at h
  rcases State.soonest_cases _ h with h | ⟨hok, q, hq, k, rfl⟩
  · cases h
  · simp only [List.mem_filter, Bool.and_eq_true, beq_iff_eq] at hq
    simp only [Bool.and_eq_true, Bool.or_eq_true, Bool.not_eq_true'] at hok
    exact ⟨s.occurs_tick q k, hok.1, fun hf => by simpa [hf] using hok.2, q, hq.1, hq.2.1.1, hq.2.1.2, hq.2.2, Eq.refl _, Eq.refl _⟩

theorem State.drawFor_fabric (s : State) (g : Group) (tags : List Nat) (n : Nat) : OnlyFabric s (s.drawFor g tags n).2 := by
  unfold State.drawFor
  dsimp only
  split <;> exact Eq.refl _

/-- A flit goes to its slot or waits: nothing but the fabric's own state changes. -/
theorem State.sendData_fabric (s : State) (f : HeldFlit) : OnlyFabric s (s.sendData f) := by
  unfold State.sendData
  split <;> exact Eq.refl _

/-- Pieces of an operation go to slots or wait. -/
theorem State.sendNamed_fabric (s : State) (f : HeldFlit) (bs : List Byte) (named : Nat → List Byte → Payload) :
    OnlyFabric s (s.sendNamed f bs named) := OnlyFabric.foldl _ (fun s _ => s.sendData_fabric _) _ s

theorem State.sendPiece_fabric (s : State) (ident peer : Nat) (bad planned : Bool) (op : SlotOp) (place : Nat) (whole bs : List Byte)
    (named : Nat → List Byte → Payload) : OnlyFabric s (s.sendPiece ident peer bad planned op place whole bs named) := by
  unfold State.sendPiece
  dsimp only
  split
  · exact OnlyFabric.rfl s
  · split
    · exact s.sendData_fabric _
    · exact s.sendNamed_fabric ..

theorem State.sendControl_fabric (s : State) (port : Nat) (msg : Place → Emit) : OnlyFabric s (s.sendControl port msg) := Eq.refl _

/-- Flits that go out leave all else. -/
theorem State.launchFlits_fabric (s : State) : OnlyFabric s s.launchFlits :=
  OnlyFabric.trans (t := { s with pat := { s.pat with
      acks := s.pat.acks.map (fun q => (q.1, q.2.map (fun f => { f with gone := f.gone || s.flitBegins f }))) } }) (Eq.refl _)
    (OnlyFabric.foldl _ (fun s _ => OnlyFabric.foldl _ (fun s _ => show OnlyFabric s (s.emit _) from Eq.refl _) _ s) _ _)

theorem State.unplan_fabric (s : State) (l : List Nat) : OnlyFabric s (s.unplan l) := Eq.refl _
theorem State.withdraw_fabric (s : State) (w : SentFlit → Bool) : OnlyFabric s (s.withdraw w) := Eq.refl _

/-- Of more distinct things than a list holds, one is not in it. -/
theorem exists_free {α : Type} [DecidableEq α] (l : List α) (f : Nat → α) (hf : Function.Injective f) :
    ∃ k, k < l.length + 1 ∧ f k ∉ l := by
  by_contra h
  push Not at h
  have hs : ((List.range (l.length + 1)).map f).toFinset ⊆ l.toFinset := by
    intro x hx
    simp only [List.mem_toFinset, List.mem_map, List.mem_range] at hx
    obtain ⟨k, hk, rfl⟩ := hx
    exact List.mem_toFinset.2 (h k hk)
  have hc := Finset.card_le_card hs
  rw [List.toFinset_card_of_nodup (List.nodup_range.map hf)] at hc
  have := l.toFinset_card_le
  simp at hc
  omega

/-- The entry of a list that is found first, with the places before it. -/
theorem find_range {α : Type} {n : Nat} {f : Nat → α} {p : α → Bool} {x : α} (h : ((List.range n).map f).find? p = some x) :
    p x = true ∧ ∃ k, k < n ∧ f k = x ∧ ∀ j, j < k → p (f j) = false := by
  rw [List.find?_map] at h
  obtain ⟨k, hk, rfl⟩ := Option.map_eq_some_iff.1 h
  rw [List.find?_range_eq_some] at hk
  exact ⟨hk.1, k, List.mem_range.1 hk.2.1, Eq.refl _, fun j hj => by simpa using hk.2.2 j hj⟩

/-- Of several entries' slots and one more place, the earliest that will do comes out: none later than what was found before. -/
theorem State.soonest_le {s : State} {ok : Place → Bool} (l : List Slot) {z : Place} : ∃ p, l.foldl (s.sooner ok) (some z) = some p ∧ p.tick ≤ z.tick := by
  induction l generalizing z with
  | nil => exact ⟨z, Eq.refl _, Nat.le_refl _⟩
  | cons q l ih =>
    have hq : ∃ p, s.sooner ok (some z) q = some p ∧ p.tick ≤ z.tick := by
      unfold State.sooner
      split
      · exact ⟨z, Eq.refl _, Nat.le_refl _⟩
      · rename_i p _
        by_cases hc : p.tick < z.tick
        · exact ⟨p, by simp [hc], by omega⟩
        · exact ⟨z, by simp [hc], Nat.le_refl _⟩
    obtain ⟨p, hp, hle⟩ := hq
    obtain ⟨r, hr, hle'⟩ := ih (z := p)
    exact ⟨r, by rw [List.foldl_cons, hp, hr], by omega⟩

/-- What `controlPlace` can answer: the next control slot of the port that no message has taken (15 R323). -/
theorem State.controlPlace_spec (s : State) (port : Nat) : NextControl s (s.controlPlace port) ∧ (s.controlPlace port).port = port := by
  unfold State.controlPlace
  extract_lets free zero z
  have hinj : Function.Injective zero := by
    intro i j h
    have := congrArg Place.tick h
    simp only [zero] at this
    omega
  obtain ⟨i, hi, hz⟩ := exists_free s.pat.ctl zero hinj
  have hfind : ∃ x, ((List.range (s.pat.ctl.length + 1)).map zero).find? free = some x := by
    refine Option.isSome_iff_exists.1 (List.find?_isSome.2 ⟨zero i, List.mem_map.2 ⟨i, List.mem_range.2 hi, Eq.refl _⟩, ?_⟩)
    simpa [free] using hz
  obtain ⟨x, hx⟩ := hfind
  have hzx : z = x := by simp only [z, hx, Option.getD_some]
  obtain ⟨hfree, k, -, hk, hbefore⟩ := find_range hx
  obtain ⟨p, hp, hle⟩ := s.soonest_le (ok := free) (s.slots.filter (fun q => q.out && q.port == port && slotKind q == .control)) (z := z)
  rw [hp, Option.getD_some]
  have hzt : z.tick = 64 * (ceilDiv s.now 64 + k) := by rw [hzx, ← hk]
  have before : ∀ j, s.now ≤ 64 * j → 64 * j < p.tick → ∃ q ∈ s.pat.ctl, q.port = port ∧ q.tick = 64 * j := by
    intro j hj hlt
    have hc : ceilDiv s.now 64 ≤ j := by unfold ceilDiv; omega
    have := hbefore (j - ceilDiv s.now 64) (by omega)
    refine ⟨zero (j - ceilDiv s.now 64), by simpa [free] using this, Eq.refl _, ?_⟩
    simp only [zero]
    omega
  rcases State.soonest_cases _ hp with h | ⟨hok, q, hq, n, rfl⟩
  · cases h
    have hnow : s.now ≤ z.tick := by rw [hzt]; unfold ceilDiv; omega
    have hport : z.port = port := by rw [hzx, ← hk]
    have hslot : z.slot % 120 = 0 := by rw [hzx, ← hk]; simp only [zero]; omega
    exact ⟨⟨hnow, by simpa [free, hzx] using hfree, .inl hslot, fun j hj hlt => by rw [hport]; exact before j hj hlt⟩, hport⟩
  · simp only [List.mem_filter, Bool.and_eq_true, beq_iff_eq] at hq
    have hport : (s.occurs q n).port = port := hq.2.1.2
    exact ⟨⟨s.occurs_tick q n, by simpa [free] using hok, .inr ⟨q, hq.1, hq.2.1.1, Eq.refl _, Eq.refl _, hq.2.2⟩,
      fun j hj hlt => by rw [hport]; exact before j hj hlt⟩, hport⟩

theorem State.planExec_fabric (s : State) (r : RExec) : OnlyFabric s (s.planExec r) := by
  unfold State.planExec
  dsimp only
  exact ((s.drawFor_fabric _ _ _).trans ((s.drawFor _ _ _).2.drawFor_fabric _ _ _)).trans (Eq.refl _)

theorem State.planExecs_fabric (s : State) : OnlyFabric s s.planExecs := by
  refine OnlyFabric.foldl _ (fun s r => ?_) _ s
  split
  · exact s.planExec_fabric r
  · exact OnlyFabric.rfl s

/-- Waiting flits that are sent change nothing but the fabric's own state. -/
theorem State.sendHeld_fabric (s : State) : OnlyFabric s s.sendHeld :=
  OnlyFabric.trans (OnlyFabric.trans (t := { s with pat := { s.pat with held := [] } }) (Eq.refl _)
    (OnlyFabric.foldl _ State.sendData_fabric _ _)) (State.planExecs_fabric _)

theorem State.delayExec_fabric (s : State) (r : RExec) (n : Nat) : OnlyFabric s (s.delayExec r n) := by
  unfold State.delayExec
  dsimp only
  exact (s.drawFor_fabric _ _ _).trans (Eq.refl _)

/-- A flit that is sent again goes to a slot of the pair: an ease slot of its port, or a backup slot of its failed link (15 R328, R329). -/
theorem State.again_spec {s : State} {pair : Nat} {f : SentFlit} {p : Place} (hs : s.slots ≠ []) (h : s.again pair f = some p) :
    s.now ≤ p.tick ∧ s.vacant p = true ∧ ∃ q ∈ s.slots, q.out = true ∧ q.peer = pair ∧ q.port = p.port ∧ q.index = p.slot ∧
      (f.port ∉ s.pat.failed → q.port = f.port ∧ slotKind q = .ease) ∧ (f.port ∈ s.pat.failed → slotKind q = .backup f.port) := by
  obtain ⟨ht, hv, -, q, hq, ho, hp, hw, hport, hidx⟩ := State.place_spec hs h
  refine ⟨ht, hv, q, hq, ho, hp, hport, hidx, fun hf => ?_, fun hf => ?_⟩
  · simpa [hf] using hw
  · simp [hf] at hw; exact hw.1

end Sys2Proof.Machine
end

