-- ==== Sys2Proof/Laws/Tables.lean ====
section
/-! SUPPORT. What the table and list operations of Ops.lean do. -/

namespace Sys2Proof.Machine

@[simp] theorem tget_nil {α : Type} (n : Nat) : tget ([] : Tbl α) n = none := rfl

/-- The entry just set is the one read. -/
@[simp] theorem tget_tset_self {α : Type} (t : Tbl α) (n : Nat) (a : α) : tget (tset t n a) n = some a := by
  induction t with
  | nil => simp [tset, tget]
  | cons p t ih =>
    obtain ⟨k, b⟩ := p
    by_cases h1 : n < k
    · simp [tset, tget, h1]
    · by_cases h2 : n = k
      · simp [tset, tget, h2]
      · simp [tset, tget, h1, h2, ih, Ne.symm h2]

/-- Setting one entry leaves every other entry. -/
theorem tget_tset_of_ne {α : Type} (t : Tbl α) {n m : Nat} (a : α) (h : m ≠ n) : tget (tset t n a) m = tget t m := by
  induction t with
  | nil => simp [tset, tget, Ne.symm h]
  | cons p t ih =>
    obtain ⟨k, b⟩ := p
    by_cases h1 : n < k
    · simp [tset, tget, h1, Ne.symm h]
    · by_cases h2 : n = k
      · subst h2; simp [tset, tget, Ne.symm h]
      · simp [tset, tget, h1, h2, ih]

/-- Changing an entry is reading the changed entry. -/
theorem tget_tmod_self {α : Type} (t : Tbl α) (n : Nat) (f : α → α) : tget (tmod t n f) n = (tget t n).map f := by
  induction t with
  | nil => rfl
  | cons p t ih =>
    obtain ⟨k, b⟩ := p
    by_cases h : k = n <;> simp [tmod, tget, h, ih]

/-- Changing one entry leaves every other entry. -/
theorem tget_tmod_of_ne {α : Type} (t : Tbl α) {n m : Nat} (f : α → α) (h : m ≠ n) : tget (tmod t n f) m = tget t m := by
  induction t with
  | nil => rfl
  | cons p t ih =>
    obtain ⟨k, b⟩ := p
    by_cases h1 : k = n
    · subst h1; simp [tmod, tget, Ne.symm h]
    · simp [tmod, tget, h1, ih]

/-- An entry set and then changed is set to the changed value. -/
@[simp] theorem tmod_tset {α : Type} (t : Tbl α) (n : Nat) (a : α) (f : α → α) : tmod (tset t n a) n f = tset t n (f a) := by
  induction t with
  | nil => simp [tset, tmod]
  | cons p t ih =>
    obtain ⟨k, b⟩ := p
    by_cases h1 : n < k
    · simp [tset, tmod, h1]
    · by_cases h2 : n = k
      · simp [tset, tmod, h2]
      · simp [tset, tmod, h1, h2, ih, Ne.symm h2]

/-- An entry set twice holds the second value. -/
@[simp] theorem tset_tset {α : Type} (t : Tbl α) (n : Nat) (a b : α) : tset (tset t n a) n b = tset t n b := by
  induction t with
  | nil => simp [tset]
  | cons p t ih =>
    obtain ⟨k, c⟩ := p
    by_cases h1 : n < k
    · simp [tset, h1]
    · by_cases h2 : n = k
      · simp [tset, h2]
      · simp [tset, h1, h2, ih]

/-- Two changes of one entry. -/
@[simp] theorem tmod_tmod {α : Type} (t : Tbl α) (n : Nat) (f g : α → α) : tmod (tmod t n f) n g = tmod t n (fun a => g (f a)) := by
  induction t with
  | nil => rfl
  | cons p t ih =>
    obtain ⟨k, c⟩ := p
    by_cases h : k = n <;> simp [tmod, h, ih]

@[simp] theorem length_lmod {α : Type} (l : List α) (i : Nat) (f : α → α) : (lmod l i f).length = l.length := by
  induction l generalizing i with
  | nil => rfl
  | cons a t ih => cases i <;> simp [lmod, ih]

theorem getD_lmod {α : Type} (l : List α) (i j : Nat) (f : α → α) (d : α) :
    (lmod l i f).getD j d = if i = j ∧ j < l.length then f (l.getD j d) else l.getD j d := by
  induction l generalizing i j with
  | nil => simp [lmod]
  | cons a t ih =>
    cases i <;> cases j <;> simp [lmod]
    · simpa using ih _ _

@[simp] theorem length_mapFrom {α β : Type} (f : Nat → α → β) (i : Nat) (l : List α) : (mapFrom f i l).length = l.length := by
  induction l generalizing i with
  | nil => rfl
  | cons a t ih => simp [mapFrom, ih]

theorem getElem?_mapFrom {α β : Type} (f : Nat → α → β) (i j : Nat) (l : List α) :
    (mapFrom f i l)[j]? = (l[j]?).map (f (i + j)) := by
  induction l generalizing i j with
  | nil => simp [mapFrom]
  | cons a t ih =>
    cases j with
    | zero => simp [mapFrom]
    | succ j => simp [mapFrom, ih, Nat.add_assoc, Nat.add_comm 1 j]

@[simp] theorem lanesOf_zero : lanesOf 0 = [] := by simp [lanesOf]

/-- A lane is listed when its bit is set. -/
theorem mem_lanesOf (m : Mask) (i : Nat) : i ∈ lanesOf m ↔ m.getLsbD i = true := by
  simp only [lanesOf, List.mem_filter, List.mem_range, and_iff_right_iff_imp]
  intro h
  exact BitVec.lt_of_getLsbD h

end Sys2Proof.Machine
end

