-- ==== Sys2Proof/Laws/Words.lean ====
section
/-! SUPPORT. What the frame of every word's meaning does: an accepted word runs its own effect in the state in which it
begins, and a register result joins the results on their way. -/

namespace Sys2Proof.Machine

theorem mask_and_not_zero (m : Mask) : m &&& ~~~0 = m := by
  rw [show ~~~(0 : Mask) = BitVec.allOnes 64 from rfl]
  exact BitVec.and_allOnes

theorem State.parkMask_zero (s : State) (g : Nat) (pc : BitVec 20) (r : TrapRec) : s.parkMask g 0 pc r = s := by
  rw [State.parkMask, lanesOf_zero]
  rfl

/-- An accepted word below the emulation class is well-formed in its kernel. -/
theorem Accepts.wf {i : Instr} {s : State} {x : Issue} {g : Group} (h : Accepts i s x g) (ho : Nat.blt i.opc 0xF0 = true := by rfl) :
    i.wf g.nregs = true := by
  have hp := h.pass
  have ho' : i.opc < 0xF0 := by simpa [Nat.blt_eq] using ho
  unfold State.rejects at hp
  rw [if_neg (by omega)] at hp
  split at hp
  · simp at hp
  · split at hp
    · simp at hp
    · rename_i hf
      have h2 : i.wf g.nregs ≠ false := by
        intro e
        exact hf (by simp [fieldsOk, e])
      simpa using h2

/-- The SUB of an accepted word is in its opcode's space. -/
theorem Accepts.sub {i : Instr} {s : State} {x : Issue} {g : Group} (h : Accepts i s x g) (ho : Nat.blt i.opc 0xF0 = true := by rfl) : i.subOk = true := by
  have := h.wf ho
  simp only [Instr.wf, Bool.and_eq_true] at this
  exact this.1.1

/-- The modifiers of an accepted word are legal. -/
theorem Accepts.mods {i : Instr} {s : State} {x : Issue} {g : Group} (h : Accepts i s x g) (ho : Nat.blt i.opc 0xF0 = true := by rfl) : i.modsOk = true := by
  have := h.wf ho
  simp only [Instr.wf, Instr.fieldsWf, Bool.and_eq_true] at this
  exact this.1.2.1

/-- An accepted word answers the state that its own effect leaves. -/
theorem withIssue_of_accepts {i : Instr} {s : State} {x : Issue} {g : Group} (h : Accepts i s x g) (body : Ctx → State → State) :
    withIssue i s body = .next (body (ctxOf i s x g) (s.began i x g (predSel g x.iset i))) := by
  have e : withIssue i s body = .next (runWord i x g s body) := by simp only [withIssue, h.issue, h.group]
  rw [e, runWord, h.pass]
  simp only [h.early, mask_and_not_zero, State.parkMask_zero, ctxOf]

/-- A word that the decode checks reject parks every lane of I with ILLEGAL. -/
theorem withIssue_of_rejects {i : Instr} {s : State} {x : Issue} {g : Group} {cls : Nat} {keeps : Bool} (hx : s.issue = some x)
    (hg : tget s.groups x.gid = some g) (h : s.rejects i g x.iset x.lineBad = some (cls, keeps)) (body : Ctx → State → State) :
    withIssue i s body = .next { s.parkMask x.gid x.iset x.pc { illegal cls with word := x.word } with
      issue := some { x with rejected := x.rejected || !keeps
                             stall := if keeps then (i.ctl?.map Ctl.stall).getD 0 else 0
                             stop := x.stop || (keeps && (i.ctl?.map Ctl.stop).getD false) } } := by
  have e : withIssue i s body = .next (runWord i x g s body) := by simp only [withIssue, hx, hg]
  rw [e, runWord, h]

/-- A word that ends no reservation and has no remote execution of its lanes take effect before it begins with its place in program
order and nothing else. -/
theorem State.began_of_not_ends (s : State) {i : Instr} (h : endsHeld i.opc = false) (x : Issue) (g : Group) (sel : Mask)
    (hf : i.front = (false, false) := by rfl) (hu : (unitOf i.opc == 5) = false := by rfl) :
    s.began i x g sel = { s with groups := tset s.groups x.gid { g with seq := g.seq + 1 }, issue := some (x.ran i) } := by
  simp only [State.began, Group.noteWord, h, hf, hu]
  rfl

/-- The result of a word that ends no reservation. -/
theorem State.began_result (s : State) {i : Instr} (h : endsHeld i.opc = false) (x : Issue) (g : Group) (lat : Nat) (d : Opnd)
    (res : List LRes) (hf : i.front = (false, false) := by rfl) (hu : (unitOf i.opc == 5) = false := by rfl) :
    (s.began i x g (predSel g x.iset i)).result (ctxOf i s x g) lat d res = s.resultOf i x g lat d res := by
  rw [State.began_of_not_ends s h _ _ _ hf hu]
  simp only [State.result, State.modGroup, ctxOf, wordCtx, tmod_tset]
  rfl

/-- A source is read from the group as it stands at the issue: the word's own beginning does not change it. -/
theorem Ctx.src_began (s : State) (i : Instr) (x : Issue) (g : Group) (sel : Mask) (c : Ctx) (n l : Nat) (o : Opnd) :
    c.src (s.began i x g sel) n l o = c.src s n l o := rfl

theorem Ctx.src32_began (s : State) (i : Instr) (x : Issue) (g : Group) (sel : Mask) (c : Ctx) (l : Nat) (o : Opnd) :
    c.src32 (s.began i x g sel) l o = c.src32 s l o := rfl

theorem Ctx.fbits_began (s : State) (i : Instr) (x : Issue) (g : Group) (sel : Mask) (c : Ctx) (t : Ty) (l : Nat) (o : Opnd) :
    c.fbits (s.began i x g sel) t l o = c.fbits s t l o := rfl

theorem Ctx.srcWords_began (s : State) (i : Instr) (x : Issue) (g : Group) (sel : Mask) (c : Ctx) (n l : Nat) (o : Opnd) :
    c.srcWords (s.began i x g sel) n l o = c.srcWords s n l o := rfl

theorem Ctx.opWords_began (s : State) (i : Instr) (x : Issue) (g : Group) (sel : Mask) (c : Ctx) (op : AOp) (n l : Nat) (o : Opnd) :
    c.opWords (s.began i x g sel) op n l o = c.opWords s op n l o := rfl

/-- A word whose meaning is one register result completes with that result. -/
theorem yields_of {i : Instr} {lat : Nat} {d : Opnd} {n : Nat} {f f' : State → Ctx → Nat → Nat × BitVec 8}
    (h : endsHeld i.opc = false)
    (he : ∀ s, exec i s = withIssue i s (fun k s => s.putF k lat d n (f s k)))
    (hf : ∀ s x g, Accepts i s x g → ∀ l, f (s.began i x g (predSel g x.iset i)) (ctxOf i s x g) l = f' s (ctxOf i s x g) l)
    (hr : i.front = (false, false) := by rfl) (hu : (unitOf i.opc == 5) = false := by rfl) :
    Yields i lat d n f' := by
  intro s x g ha
  rw [he, withIssue_of_accepts ha]
  simp only [State.putF, State.began_result s h x g _ _ _ hr hu]
  rw [show f (s.began i x g (predSel g x.iset i)) (ctxOf i s x g) = f' s (ctxOf i s x g) from funext (hf s x g ha)]

end Sys2Proof.Machine
end

