-- ==== Sys2Proof/Laws/Integers.lean ====
section
/-! SUPPORT. The integer reading of sources and results. -/

namespace Sys2Proof.Machine

/-- The model's reading of a source at a type is the two's-complement reading of its low bits. -/
theorem Ty.val_eq (t : Ty) (x : DWord) : t.val x = asInt t x := by
  unfold Ty.val asInt
  by_cases hs : t.isSigned = true
  · have hb : 2 * 2 ^ (t.bits - 1) = 2 ^ t.bits := by cases t <;> simp_all [Ty.bits, Ty.isSigned]
    rw [if_pos hs, BitVec.toInt_eq_toNat_cond, BitVec.toNat_setWidth]
    by_cases h : 2 ^ (t.bits - 1) ≤ x.toNat % 2 ^ t.bits
    · simp only [hs, h, Bool.true_and, decide_true, if_true]
      rw [if_neg (by omega)]
      simp
    · simp only [hs, h, Bool.true_and, decide_false, Bool.false_eq_true, if_false]
      rw [if_pos (by omega)]
  · rw [if_neg hs, BitVec.toNat_setWidth]
    simp [hs]

theorem Ty.int4_cases {t : Ty} (h : Ty.int4.contains t = true) : t = .s32 ∨ t = .n32 ∨ t = .s64 ∨ t = .n64 := by
  cases t <;> simp_all [Ty.int4]

theorem Ty.bit2_cases {t : Ty} (h : Ty.bit2.contains t = true) : t = .b32 ∨ t = .b64 := by
  cases t <;> simp_all [Ty.bit2]

theorem Ty.int2_cases {t : Ty} (h : Ty.int2.contains t = true) : t = .s32 ∨ t = .n32 := by
  cases t <;> simp_all [Ty.int2]

/-- A 32-bit source is zero-extended. -/
theorem Ctx.src_one_lt (s : State) (k : Ctx) (l : Nat) (o : Opnd) : (k.src s 1 l o).toNat < 2 ^ 32 := by
  unfold Ctx.src Ctx.srcT
  cases o with
  | v i => simp; rw [BitVec.toNat_append]; simp; omega
  | o i => simp; rw [BitVec.toNat_append]; simp; omega
  | lat => simp; omega
  | spec i => simp; omega

/-- The result of a sum at an integer type. -/
theorem addOut_eq {t : Ty} (h : Ty.int4.contains t = true) (sat : Bool) (x : Int) :
    addOut t sat x = modBits (32 * t.regs) (if sat then max (leastOf t) (min (greatestOf t) x) else x) := by
  rcases Ty.int4_cases h with rfl | rfl | rfl | rfl <;>
  · cases sat
    · simp [addOut, Ty.out, Ty.wrap, Ty.val, modBits, Ty.regs, Ty.bits, Ty.isSigned, BitVec.toNat_ofInt]
      omega
    · simp [addOut, Ty.out, Ty.sat, Ty.minVal, Ty.maxVal, modBits, leastOf, greatestOf, Ty.regs, Ty.bits, Ty.isSigned]
      congr 2
      split <;> [skip; split] <;> omega

end Sys2Proof.Machine
end

