-- ==== Sys2Proof/Laws/PerInstr.lean ====
section
/-! SUPPORT. Facts of the syntax, one lemma for each instruction. `Opcode`: the word that encodes an instruction holds
the instruction's opcode in bits [95:88] and its predicate, STOP and STALL in bits [15:0] (02 R46). -/

namespace Sys2Proof.Laws

theorem pack_getLsbD (r : Raw) (i : Nat) :
    r.pack.getLsbD i = BitVec.getLsbD (r.opc ++ r.sub ++ r.x ++ r.c ++ r.b ++ r.a ++ r.d ++ r.ctl) i := rfl

theorem pack_opc (r : Raw) : r.pack.extractLsb' 88 8 = r.opc := by
  apply BitVec.eq_of_getLsbD_eq
  intro i hi
  simp only [BitVec.getLsbD_extractLsb', hi, decide_true, Bool.true_and]
  rw [pack_getLsbD]
  repeat rw [BitVec.getLsbD_append, if_neg (by omega)]
  congr 1; omega

theorem pack_ctl (r : Raw) : r.pack.extractLsb' 0 16 = r.ctl := by
  apply BitVec.eq_of_getLsbD_eq
  intro i hi
  simp only [BitVec.getLsbD_extractLsb', hi, decide_true, Bool.true_and]
  rw [pack_getLsbD, BitVec.getLsbD_append, if_pos (by omega)]
  congr 1; omega

/-- The opcode and the control bits stand in the encoded word. An event has no word. -/
def Opcode.Statement (i : Instr) : Prop :=
  ∀ w, encode i = some w → (w.extractLsb' 88 8).toNat = i.opc ∧ ∀ c, i.ctl? = some c → w.extractLsb' 0 16 = c.enc

theorem Opcode.ofRaw {i : Instr} {r : Raw} (h : i.raw = some r) (he : encode i = some r.pack)
    (hc : ∀ c, i.ctl? = some c → r.ctl = c.enc) : Opcode.Statement i := by
  intro w hw
  obtain rfl : r.pack = w := by simpa [he] using hw
  exact ⟨by simp [pack_opc, Instr.opc, h], fun c h => by rw [pack_ctl, hc c h]⟩

theorem Opcode.ofEvent {i : Instr} (h : encode i = none) : Opcode.Statement i := by
  intro w hw
  simp [h] at hw

theorem Opcode.ofEmul (s : BitVec 8) (rest : BitVec 80) : ((0xF2#8 ++ s ++ rest : IWord).extractLsb' 88 8) = 0xF2#8 := by
  apply BitVec.eq_of_getLsbD_eq
  intro i hi
  have h : (0xF2#8 ++ s ++ rest : IWord).getLsbD (88 + i) = BitVec.getLsbD (0xF2#8 ++ s ++ rest) (88 + i) := rfl
  simp only [BitVec.getLsbD_extractLsb', hi, decide_true, Bool.true_and]
  rw [h, BitVec.getLsbD_append, if_neg (by omega), BitVec.getLsbD_append, if_neg (by omega)]
  congr 1; omega

theorem Opcode.nop (a) : Opcode.Statement (.nop a) :=
  Opcode.ofRaw rfl rfl (fun _ h => congrArg Ctl.enc (Option.some.inj h))
theorem Opcode.bra (a b) : Opcode.Statement (.bra a b) :=
  Opcode.ofRaw rfl rfl (fun _ h => congrArg Ctl.enc (Option.some.inj h))
theorem Opcode.brz (a b c) : Opcode.Statement (.brz a b c) :=
  Opcode.ofRaw rfl rfl (fun _ h => congrArg Ctl.enc (Option.some.inj h))
theorem Opcode.brnz (a b c) : Opcode.Statement (.brnz a b c) :=
  Opcode.ofRaw rfl rfl (fun _ h => congrArg Ctl.enc (Option.some.inj h))
theorem Opcode.call (a b c) : Opcode.Statement (.call a b c) :=
  Opcode.ofRaw rfl rfl (fun _ h => congrArg Ctl.enc (Option.some.inj h))
theorem Opcode.ret (a b) : Opcode.Statement (.ret a b) :=
  Opcode.ofRaw rfl rfl (fun _ h => congrArg Ctl.enc (Option.some.inj h))
theorem Opcode.jmp (a b) : Opcode.Statement (.jmp a b) :=
  Opcode.ofRaw rfl rfl (fun _ h => congrArg Ctl.enc (Option.some.inj h))
theorem Opcode.jcall (a b c) : Opcode.Statement (.jcall a b c) :=
  Opcode.ofRaw rfl rfl (fun _ h => congrArg Ctl.enc (Option.some.inj h))
theorem Opcode.exit (a) : Opcode.Statement (.exit a) :=
  Opcode.ofRaw rfl rfl (fun _ h => congrArg Ctl.enc (Option.some.inj h))
theorem Opcode.yield (a) : Opcode.Statement (.yield a) :=
  Opcode.ofRaw rfl rfl (fun _ h => congrArg Ctl.enc (Option.some.inj h))
theorem Opcode.sigchk (a b) : Opcode.Statement (.sigchk a b) :=
  Opcode.ofRaw rfl rfl (fun _ h => congrArg Ctl.enc (Option.some.inj h))
theorem Opcode.stopmark (a) : Opcode.Statement (.stopmark a) :=
  Opcode.ofRaw rfl rfl (fun _ h => congrArg Ctl.enc (Option.some.inj h))
theorem Opcode.waitc (a b) : Opcode.Statement (.waitc a b) :=
  Opcode.ofRaw rfl rfl (fun _ h => congrArg Ctl.enc (Option.some.inj h))
theorem Opcode.add (a b c d e f) : Opcode.Statement (.add a b c d e f) :=
  Opcode.ofRaw rfl rfl (fun _ h => congrArg Ctl.enc (Option.some.inj h))
theorem Opcode.sub (a b c d e f) : Opcode.Statement (.sub a b c d e f) :=
  Opcode.ofRaw rfl rfl (fun _ h => congrArg Ctl.enc (Option.some.inj h))
theorem Opcode.addImm (a b c d e f) : Opcode.Statement (.addImm a b c d e f) :=
  Opcode.ofRaw rfl rfl (fun _ h => congrArg Ctl.enc (Option.some.inj h))
theorem Opcode.subImm (a b c d e f) : Opcode.Statement (.subImm a b c d e f) :=
  Opcode.ofRaw rfl rfl (fun _ h => congrArg Ctl.enc (Option.some.inj h))
theorem Opcode.mulLo (a b c d e) : Opcode.Statement (.mulLo a b c d e) :=
  Opcode.ofRaw rfl rfl (fun _ h => congrArg Ctl.enc (Option.some.inj h))
theorem Opcode.mulLoImm (a b c d e) : Opcode.Statement (.mulLoImm a b c d e) :=
  Opcode.ofRaw rfl rfl (fun _ h => congrArg Ctl.enc (Option.some.inj h))
theorem Opcode.mulHi (a b c d e) : Opcode.Statement (.mulHi a b c d e) :=
  Opcode.ofRaw rfl rfl (fun _ h => congrArg Ctl.enc (Option.some.inj h))
theorem Opcode.mad (a b c d e f) : Opcode.Statement (.mad a b c d e f) :=
  Opcode.ofRaw rfl rfl (fun _ h => congrArg Ctl.enc (Option.some.inj h))
theorem Opcode.min (a b c d e) : Opcode.Statement (.min a b c d e) :=
  Opcode.ofRaw rfl rfl (fun _ h => congrArg Ctl.enc (Option.some.inj h))
theorem Opcode.max (a b c d e) : Opcode.Statement (.max a b c d e) :=
  Opcode.ofRaw rfl rfl (fun _ h => congrArg Ctl.enc (Option.some.inj h))
theorem Opcode.abs (a b c d e) : Opcode.Statement (.abs a b c d e) :=
  Opcode.ofRaw rfl rfl (fun _ h => congrArg Ctl.enc (Option.some.inj h))
theorem Opcode.and (a b c d e) : Opcode.Statement (.and a b c d e) :=
  Opcode.ofRaw rfl rfl (fun _ h => congrArg Ctl.enc (Option.some.inj h))
theorem Opcode.or (a b c d e) : Opcode.Statement (.or a b c d e) :=
  Opcode.ofRaw rfl rfl (fun _ h => congrArg Ctl.enc (Option.some.inj h))
theorem Opcode.xor (a b c d e) : Opcode.Statement (.xor a b c d e) :=
  Opcode.ofRaw rfl rfl (fun _ h => congrArg Ctl.enc (Option.some.inj h))
theorem Opcode.andImm (a b c d e) : Opcode.Statement (.andImm a b c d e) :=
  Opcode.ofRaw rfl rfl (fun _ h => congrArg Ctl.enc (Option.some.inj h))
theorem Opcode.orImm (a b c d e) : Opcode.Statement (.orImm a b c d e) :=
  Opcode.ofRaw rfl rfl (fun _ h => congrArg Ctl.enc (Option.some.inj h))
theorem Opcode.xorImm (a b c d e) : Opcode.Statement (.xorImm a b c d e) :=
  Opcode.ofRaw rfl rfl (fun _ h => congrArg Ctl.enc (Option.some.inj h))
theorem Opcode.andn (a b c d e) : Opcode.Statement (.andn a b c d e) :=
  Opcode.ofRaw rfl rfl (fun _ h => congrArg Ctl.enc (Option.some.inj h))
theorem Opcode.not (a b c d) : Opcode.Statement (.not a b c d) :=
  Opcode.ofRaw rfl rfl (fun _ h => congrArg Ctl.enc (Option.some.inj h))
theorem Opcode.shl (a b c d e) : Opcode.Statement (.shl a b c d e) :=
  Opcode.ofRaw rfl rfl (fun _ h => congrArg Ctl.enc (Option.some.inj h))
theorem Opcode.shr (a b c d e) : Opcode.Statement (.shr a b c d e) :=
  Opcode.ofRaw rfl rfl (fun _ h => congrArg Ctl.enc (Option.some.inj h))
theorem Opcode.sar (a b c d e) : Opcode.Statement (.sar a b c d e) :=
  Opcode.ofRaw rfl rfl (fun _ h => congrArg Ctl.enc (Option.some.inj h))
theorem Opcode.rot (a b c d e) : Opcode.Statement (.rot a b c d e) :=
  Opcode.ofRaw rfl rfl (fun _ h => congrArg Ctl.enc (Option.some.inj h))
theorem Opcode.bfe (a b c d e f) : Opcode.Statement (.bfe a b c d e f) :=
  Opcode.ofRaw rfl rfl (fun _ h => congrArg Ctl.enc (Option.some.inj h))
theorem Opcode.bfi (a b c d e) : Opcode.Statement (.bfi a b c d e) :=
  Opcode.ofRaw rfl rfl (fun _ h => congrArg Ctl.enc (Option.some.inj h))
theorem Opcode.popc (a b c d) : Opcode.Statement (.popc a b c d) :=
  Opcode.ofRaw rfl rfl (fun _ h => congrArg Ctl.enc (Option.some.inj h))
theorem Opcode.clz (a b c d) : Opcode.Statement (.clz a b c d) :=
  Opcode.ofRaw rfl rfl (fun _ h => congrArg Ctl.enc (Option.some.inj h))
theorem Opcode.ctz (a b c d) : Opcode.Statement (.ctz a b c d) :=
  Opcode.ofRaw rfl rfl (fun _ h => congrArg Ctl.enc (Option.some.inj h))
theorem Opcode.brev (a b c d) : Opcode.Statement (.brev a b c d) :=
  Opcode.ofRaw rfl rfl (fun _ h => congrArg Ctl.enc (Option.some.inj h))
theorem Opcode.sel (a b c d e f) : Opcode.Statement (.sel a b c d e f) :=
  Opcode.ofRaw rfl rfl (fun _ h => congrArg Ctl.enc (Option.some.inj h))
theorem Opcode.cmp (a b c d e f) : Opcode.Statement (.cmp a b c d e f) :=
  Opcode.ofRaw rfl rfl (fun _ h => congrArg Ctl.enc (Option.some.inj h))
theorem Opcode.lea (a b c d e f g) : Opcode.Statement (.lea a b c d e f g) :=
  Opcode.ofRaw rfl rfl (fun _ h => congrArg Ctl.enc (Option.some.inj h))
theorem Opcode.ext (a b c d e) : Opcode.Statement (.ext a b c d e) :=
  Opcode.ofRaw rfl rfl (fun _ h => congrArg Ctl.enc (Option.some.inj h))
theorem Opcode.trunc (a b c d e f) : Opcode.Statement (.trunc a b c d e f) :=
  Opcode.ofRaw rfl rfl (fun _ h => congrArg Ctl.enc (Option.some.inj h))
theorem Opcode.mov (a b c d) : Opcode.Statement (.mov a b c d) :=
  Opcode.ofRaw rfl rfl (fun _ h => congrArg Ctl.enc (Option.some.inj h))
theorem Opcode.movImm (a b c d) : Opcode.Statement (.movImm a b c d) :=
  Opcode.ofRaw rfl rfl (fun _ h => congrArg Ctl.enc (Option.some.inj h))
theorem Opcode.movs (a b c d) : Opcode.Statement (.movs a b c d) :=
  Opcode.ofRaw rfl rfl (fun _ h => congrArg Ctl.enc (Option.some.inj h))
theorem Opcode.shfl (a b c d e f) : Opcode.Statement (.shfl a b c d e f) :=
  Opcode.ofRaw rfl rfl (fun _ h => congrArg Ctl.enc (Option.some.inj h))
theorem Opcode.vote (a b c d) : Opcode.Statement (.vote a b c d) :=
  Opcode.ofRaw rfl rfl (fun _ h => congrArg Ctl.enc (Option.some.inj h))
theorem Opcode.bcast (a b c d) : Opcode.Statement (.bcast a b c d) :=
  Opcode.ofRaw rfl rfl (fun _ h => congrArg Ctl.enc (Option.some.inj h))
theorem Opcode.matchAny (a b c d) : Opcode.Statement (.matchAny a b c d) :=
  Opcode.ofRaw rfl rfl (fun _ h => congrArg Ctl.enc (Option.some.inj h))
theorem Opcode.scanAdd (a b c d e) : Opcode.Statement (.scanAdd a b c d e) :=
  Opcode.ofRaw rfl rfl (fun _ h => congrArg Ctl.enc (Option.some.inj h))
theorem Opcode.lanemask (a b c d) : Opcode.Statement (.lanemask a b c d) :=
  Opcode.ofRaw rfl rfl (fun _ h => congrArg Ctl.enc (Option.some.inj h))
theorem Opcode.fadd (a b c d e f) : Opcode.Statement (.fadd a b c d e f) :=
  Opcode.ofRaw rfl rfl (fun _ h => congrArg Ctl.enc (Option.some.inj h))
theorem Opcode.fsub (a b c d e f) : Opcode.Statement (.fsub a b c d e f) :=
  Opcode.ofRaw rfl rfl (fun _ h => congrArg Ctl.enc (Option.some.inj h))
theorem Opcode.fmul (a b c d e f) : Opcode.Statement (.fmul a b c d e f) :=
  Opcode.ofRaw rfl rfl (fun _ h => congrArg Ctl.enc (Option.some.inj h))
theorem Opcode.ffma (a b c d e f g) : Opcode.Statement (.ffma a b c d e f g) :=
  Opcode.ofRaw rfl rfl (fun _ h => congrArg Ctl.enc (Option.some.inj h))
theorem Opcode.fdot2 (a b c d e f g) : Opcode.Statement (.fdot2 a b c d e f g) :=
  Opcode.ofRaw rfl rfl (fun _ h => congrArg Ctl.enc (Option.some.inj h))
theorem Opcode.fmin (a b c d e f) : Opcode.Statement (.fmin a b c d e f) :=
  Opcode.ofRaw rfl rfl (fun _ h => congrArg Ctl.enc (Option.some.inj h))
theorem Opcode.fmax (a b c d e f) : Opcode.Statement (.fmax a b c d e f) :=
  Opcode.ofRaw rfl rfl (fun _ h => congrArg Ctl.enc (Option.some.inj h))
theorem Opcode.fcmp (a b c d e f) : Opcode.Statement (.fcmp a b c d e f) :=
  Opcode.ofRaw rfl rfl (fun _ h => congrArg Ctl.enc (Option.some.inj h))
theorem Opcode.fclass (a b c d) : Opcode.Statement (.fclass a b c d) :=
  Opcode.ofRaw rfl rfl (fun _ h => congrArg Ctl.enc (Option.some.inj h))
theorem Opcode.frcp (a b c d e) : Opcode.Statement (.frcp a b c d e) :=
  Opcode.ofRaw rfl rfl (fun _ h => congrArg Ctl.enc (Option.some.inj h))
theorem Opcode.frsq (a b c d e) : Opcode.Statement (.frsq a b c d e) :=
  Opcode.ofRaw rfl rfl (fun _ h => congrArg Ctl.enc (Option.some.inj h))
theorem Opcode.fsqrt (a b c d e) : Opcode.Statement (.fsqrt a b c d e) :=
  Opcode.ofRaw rfl rfl (fun _ h => congrArg Ctl.enc (Option.some.inj h))
theorem Opcode.fexp2 (a b c d) : Opcode.Statement (.fexp2 a b c d) :=
  Opcode.ofRaw rfl rfl (fun _ h => congrArg Ctl.enc (Option.some.inj h))
theorem Opcode.flog2 (a b c d) : Opcode.Statement (.flog2 a b c d) :=
  Opcode.ofRaw rfl rfl (fun _ h => congrArg Ctl.enc (Option.some.inj h))
theorem Opcode.fsin (a b c d) : Opcode.Statement (.fsin a b c d) :=
  Opcode.ofRaw rfl rfl (fun _ h => congrArg Ctl.enc (Option.some.inj h))
theorem Opcode.fcos (a b c d) : Opcode.Statement (.fcos a b c d) :=
  Opcode.ofRaw rfl rfl (fun _ h => congrArg Ctl.enc (Option.some.inj h))
theorem Opcode.fround (a b c d e) : Opcode.Statement (.fround a b c d e) :=
  Opcode.ofRaw rfl rfl (fun _ h => congrArg Ctl.enc (Option.some.inj h))
theorem Opcode.fldexp (a b c d e f) : Opcode.Statement (.fldexp a b c d e f) :=
  Opcode.ofRaw rfl rfl (fun _ h => congrArg Ctl.enc (Option.some.inj h))
theorem Opcode.ffrexp (a b c d e) : Opcode.Statement (.ffrexp a b c d e) :=
  Opcode.ofRaw rfl rfl (fun _ h => congrArg Ctl.enc (Option.some.inj h))
theorem Opcode.cvt (a b c d e f g) : Opcode.Statement (.cvt a b c d e f g) :=
  Opcode.ofRaw rfl rfl (fun _ h => congrArg Ctl.enc (Option.some.inj h))
theorem Opcode.cvtSr (a b c d e f g) : Opcode.Statement (.cvtSr a b c d e f g) :=
  Opcode.ofRaw rfl rfl (fun _ h => congrArg Ctl.enc (Option.some.inj h))
theorem Opcode.bpack (a b c d) : Opcode.Statement (.bpack a b c d) :=
  Opcode.ofRaw rfl rfl (fun _ h => congrArg Ctl.enc (Option.some.inj h))
theorem Opcode.bunpack (a b c d) : Opcode.Statement (.bunpack a b c d) :=
  Opcode.ofRaw rfl rfl (fun _ h => congrArg Ctl.enc (Option.some.inj h))
theorem Opcode.wclr (a b) : Opcode.Statement (.wclr a b) :=
  Opcode.ofRaw rfl rfl (fun _ h => congrArg Ctl.enc (Option.some.inj h))
theorem Opcode.wbase (a b c d) : Opcode.Statement (.wbase a b c d) :=
  Opcode.ofRaw rfl rfl (fun _ h => congrArg Ctl.enc (Option.some.inj h))
theorem Opcode.wfma (a b c d e f) : Opcode.Statement (.wfma a b c d e f) :=
  Opcode.ofRaw rfl rfl (fun _ h => congrArg Ctl.enc (Option.some.inj h))
theorem Opcode.wadd (a b c d e) : Opcode.Statement (.wadd a b c d e) :=
  Opcode.ofRaw rfl rfl (fun _ h => congrArg Ctl.enc (Option.some.inj h))
theorem Opcode.wsign (a b c) : Opcode.Statement (.wsign a b c) :=
  Opcode.ofRaw rfl rfl (fun _ h => congrArg Ctl.enc (Option.some.inj h))
theorem Opcode.wrnd (a b c d e) : Opcode.Statement (.wrnd a b c d e) :=
  Opcode.ofRaw rfl rfl (fun _ h => congrArg Ctl.enc (Option.some.inj h))
theorem Opcode.mma (a b c d e f g h) : Opcode.Statement (.mma a b c d e f g h) :=
  Opcode.ofRaw rfl rfl (fun _ h => congrArg Ctl.enc (Option.some.inj h))
theorem Opcode.mloop (a b c d e f g h i j k l) : Opcode.Statement (.mloop a b c d e f g h i j k l) :=
  Opcode.ofRaw rfl rfl (fun _ h => congrArg Ctl.enc (Option.some.inj h))
theorem Opcode.mmab (a b c d e f) : Opcode.Statement (.mmab a b c d e f) :=
  Opcode.ofRaw rfl rfl (fun _ h => congrArg Ctl.enc (Option.some.inj h))
theorem Opcode.mzero (a b) : Opcode.Statement (.mzero a b) :=
  Opcode.ofRaw rfl rfl (fun _ h => congrArg Ctl.enc (Option.some.inj h))
theorem Opcode.maccLd (a b c d e) : Opcode.Statement (.maccLd a b c d e) :=
  Opcode.ofRaw rfl rfl (fun _ h => congrArg Ctl.enc (Option.some.inj h))
theorem Opcode.maccSt (a b c d e) : Opcode.Statement (.maccSt a b c d e) :=
  Opcode.ofRaw rfl rfl (fun _ h => congrArg Ctl.enc (Option.some.inj h))
theorem Opcode.mdrain (a b c) : Opcode.Statement (.mdrain a b c) :=
  Opcode.ofRaw rfl rfl (fun _ h => congrArg Ctl.enc (Option.some.inj h))
theorem Opcode.mchk (a b c d) : Opcode.Statement (.mchk a b c d) :=
  Opcode.ofRaw rfl rfl (fun _ h => congrArg Ctl.enc (Option.some.inj h))
theorem Opcode.mloc (a b c) : Opcode.Statement (.mloc a b c) :=
  Opcode.ofRaw rfl rfl (fun _ h => congrArg Ctl.enc (Option.some.inj h))
theorem Opcode.mfix (a b c) : Opcode.Statement (.mfix a b c) :=
  Opcode.ofRaw rfl rfl (fun _ h => congrArg Ctl.enc (Option.some.inj h))
theorem Opcode.mretry (a b c) : Opcode.Statement (.mretry a b c) :=
  Opcode.ofRaw rfl rfl (fun _ h => congrArg Ctl.enc (Option.some.inj h))
theorem Opcode.mprog (a b) : Opcode.Statement (.mprog a b) :=
  Opcode.ofRaw rfl rfl (fun _ h => congrArg Ctl.enc (Option.some.inj h))
theorem Opcode.mtol (a b c) : Opcode.Statement (.mtol a b c) :=
  Opcode.ofRaw rfl rfl (fun _ h => congrArg Ctl.enc (Option.some.inj h))
theorem Opcode.ld (a b c d e f g) : Opcode.Statement (.ld a b c d e f g) :=
  Opcode.ofRaw rfl rfl (fun _ h => congrArg Ctl.enc (Option.some.inj h))
theorem Opcode.st (a b c d e f g) : Opcode.Statement (.st a b c d e f g) :=
  Opcode.ofRaw rfl rfl (fun _ h => congrArg Ctl.enc (Option.some.inj h))
theorem Opcode.spill (a b c d e) : Opcode.Statement (.spill a b c d e) :=
  Opcode.ofRaw rfl rfl (fun _ h => congrArg Ctl.enc (Option.some.inj h))
theorem Opcode.fill (a b c d e) : Opcode.Statement (.fill a b c d e) :=
  Opcode.ofRaw rfl rfl (fun _ h => congrArg Ctl.enc (Option.some.inj h))
theorem Opcode.atomBlk (a b c d e f g h) : Opcode.Statement (.atomBlk a b c d e f g h) :=
  Opcode.ofRaw rfl rfl (fun _ h => congrArg Ctl.enc (Option.some.inj h))
theorem Opcode.atomDie (a b c d e f g h) : Opcode.Statement (.atomDie a b c d e f g h) :=
  Opcode.ofRaw rfl rfl (fun _ h => congrArg Ctl.enc (Option.some.inj h))
theorem Opcode.redBlk (a b c d e) : Opcode.Statement (.redBlk a b c d e) :=
  Opcode.ofRaw rfl rfl (fun _ h => congrArg Ctl.enc (Option.some.inj h))
theorem Opcode.redDie (a b c d e) : Opcode.Statement (.redDie a b c d e) :=
  Opcode.ofRaw rfl rfl (fun _ h => congrArg Ctl.enc (Option.some.inj h))
theorem Opcode.ldr (a b c d e f g) : Opcode.Statement (.ldr a b c d e f g) :=
  Opcode.ofRaw rfl rfl (fun _ h => congrArg Ctl.enc (Option.some.inj h))
theorem Opcode.stc (a b c d e f g h) : Opcode.Statement (.stc a b c d e f g h) :=
  Opcode.ofRaw rfl rfl (fun _ h => congrArg Ctl.enc (Option.some.inj h))
theorem Opcode.fence (a b c) : Opcode.Statement (.fence a b c) :=
  Opcode.ofRaw rfl rfl (fun _ h => congrArg Ctl.enc (Option.some.inj h))
theorem Opcode.aflush (a b) : Opcode.Statement (.aflush a b) :=
  Opcode.ofRaw rfl rfl (fun _ h => congrArg Ctl.enc (Option.some.inj h))
theorem Opcode.halloc (a b c d e) : Opcode.Statement (.halloc a b c d e) :=
  Opcode.ofRaw rfl rfl (fun _ h => congrArg Ctl.enc (Option.some.inj h))
theorem Opcode.hfree (a b c d) : Opcode.Statement (.hfree a b c d) :=
  Opcode.ofRaw rfl rfl (fun _ h => congrArg Ctl.enc (Option.some.inj h))
theorem Opcode.cpy (a b c d e f g h i) : Opcode.Statement (.cpy a b c d e f g h i) :=
  Opcode.ofRaw rfl rfl (fun _ h => congrArg Ctl.enc (Option.some.inj h))
theorem Opcode.cpy2d (a b c d e f g h i) : Opcode.Statement (.cpy2d a b c d e f g h i) :=
  Opcode.ofRaw rfl rfl (fun _ h => congrArg Ctl.enc (Option.some.inj h))
theorem Opcode.gather (a b c d e f g h i) : Opcode.Statement (.gather a b c d e f g h i) :=
  Opcode.ofRaw rfl rfl (fun _ h => congrArg Ctl.enc (Option.some.inj h))
theorem Opcode.scatter (a b c d e f g h i) : Opcode.Statement (.scatter a b c d e f g h i) :=
  Opcode.ofRaw rfl rfl (fun _ h => congrArg Ctl.enc (Option.some.inj h))
theorem Opcode.cpyAtom (a b c d e f g h i) : Opcode.Statement (.cpyAtom a b c d e f g h i) :=
  Opcode.ofRaw rfl rfl (fun _ h => congrArg Ctl.enc (Option.some.inj h))
theorem Opcode.cpyDigest (a b c d e f g) : Opcode.Statement (.cpyDigest a b c d e f g) :=
  Opcode.ofRaw rfl rfl (fun _ h => congrArg Ctl.enc (Option.some.inj h))
theorem Opcode.bclose (a b c) : Opcode.Statement (.bclose a b c) :=
  Opcode.ofRaw rfl rfl (fun _ h => congrArg Ctl.enc (Option.some.inj h))
theorem Opcode.bwait (a b c) : Opcode.Statement (.bwait a b c) :=
  Opcode.ofRaw rfl rfl (fun _ h => congrArg Ctl.enc (Option.some.inj h))
theorem Opcode.rmtLd (a b c d e f g) : Opcode.Statement (.rmtLd a b c d e f g) :=
  Opcode.ofRaw rfl rfl (fun _ h => congrArg Ctl.enc (Option.some.inj h))
theorem Opcode.rmtSt (a b c d e f g) : Opcode.Statement (.rmtSt a b c d e f g) :=
  Opcode.ofRaw rfl rfl (fun _ h => congrArg Ctl.enc (Option.some.inj h))
theorem Opcode.rmtAtom (a b c d e f g h) : Opcode.Statement (.rmtAtom a b c d e f g h) :=
  Opcode.ofRaw rfl rfl (fun _ h => congrArg Ctl.enc (Option.some.inj h))
theorem Opcode.rmtWait (a) : Opcode.Statement (.rmtWait a) :=
  Opcode.ofRaw rfl rfl (fun _ h => congrArg Ctl.enc (Option.some.inj h))
theorem Opcode.bar (a) : Opcode.Statement (.bar a) :=
  Opcode.ofRaw rfl rfl (fun _ h => congrArg Ctl.enc (Option.some.inj h))
theorem Opcode.gbar (a) : Opcode.Statement (.gbar a) :=
  Opcode.ofRaw rfl rfl (fun _ h => congrArg Ctl.enc (Option.some.inj h))
theorem Opcode.bbar (a b c) : Opcode.Statement (.bbar a b c) :=
  Opcode.ofRaw rfl rfl (fun _ h => congrArg Ctl.enc (Option.some.inj h))
theorem Opcode.ringPut (a b c) : Opcode.Statement (.ringPut a b c) :=
  Opcode.ofRaw rfl rfl (fun _ h => congrArg Ctl.enc (Option.some.inj h))
theorem Opcode.ringGet (a b c) : Opcode.Statement (.ringGet a b c) :=
  Opcode.ofRaw rfl rfl (fun _ h => congrArg Ctl.enc (Option.some.inj h))
theorem Opcode.ringPeek (a b c) : Opcode.Statement (.ringPeek a b c) :=
  Opcode.ofRaw rfl rfl (fun _ h => congrArg Ctl.enc (Option.some.inj h))
theorem Opcode.launch (a b c) : Opcode.Statement (.launch a b c) :=
  Opcode.ofRaw rfl rfl (fun _ h => congrArg Ctl.enc (Option.some.inj h))
theorem Opcode.signal (a b c d) : Opcode.Statement (.signal a b c d) :=
  Opcode.ofRaw rfl rfl (fun _ h => congrArg Ctl.enc (Option.some.inj h))
theorem Opcode.semWait (a b c d) : Opcode.Statement (.semWait a b c d) :=
  Opcode.ofRaw rfl rfl (fun _ h => congrArg Ctl.enc (Option.some.inj h))
theorem Opcode.semPost (a b c) : Opcode.Statement (.semPost a b c) :=
  Opcode.ofRaw rfl rfl (fun _ h => congrArg Ctl.enc (Option.some.inj h))
theorem Opcode.podt (a b) : Opcode.Statement (.podt a b) :=
  Opcode.ofRaw rfl rfl (fun _ h => congrArg Ctl.enc (Option.some.inj h))
theorem Opcode.trap (a b) : Opcode.Statement (.trap a b) :=
  Opcode.ofRaw rfl rfl (fun _ h => congrArg Ctl.enc (Option.some.inj h))
theorem Opcode.rti (a) : Opcode.Statement (.rti a) :=
  Opcode.ofRaw rfl rfl (fun _ h => congrArg Ctl.enc (Option.some.inj h))
theorem Opcode.sysrd (a b c) : Opcode.Statement (.sysrd a b c) :=
  Opcode.ofRaw rfl rfl (fun _ h => congrArg Ctl.enc (Option.some.inj h))
theorem Opcode.syswr (a b c) : Opcode.Statement (.syswr a b c) :=
  Opcode.ofRaw rfl rfl (fun _ h => congrArg Ctl.enc (Option.some.inj h))
theorem Opcode.quench (a) : Opcode.Statement (.quench a) :=
  Opcode.ofRaw rfl rfl (fun _ h => congrArg Ctl.enc (Option.some.inj h))
theorem Opcode.snap (a) : Opcode.Statement (.snap a) :=
  Opcode.ofRaw rfl rfl (fun _ h => congrArg Ctl.enc (Option.some.inj h))
theorem Opcode.finj (a b c d) : Opcode.Statement (.finj a b c d) :=
  Opcode.ofRaw rfl rfl (fun _ h => congrArg Ctl.enc (Option.some.inj h))
theorem Opcode.leaseChk (a b c) : Opcode.Statement (.leaseChk a b c) :=
  Opcode.ofRaw rfl rfl (fun _ h => congrArg Ctl.enc (Option.some.inj h))
theorem Opcode.evt (a b c) : Opcode.Statement (.evt a b c) :=
  Opcode.ofRaw rfl rfl (fun _ h => congrArg Ctl.enc (Option.some.inj h))
theorem Opcode.div (a b) : Opcode.Statement (.div a b) := by
  intro w hw
  obtain rfl := Option.some.inj hw
  exact ⟨by rw [Opcode.ofEmul]; rfl, fun _ h => nomatch h⟩
theorem Opcode.rem (a b) : Opcode.Statement (.rem a b) := by
  intro w hw
  obtain rfl := Option.some.inj hw
  exact ⟨by rw [Opcode.ofEmul]; rfl, fun _ h => nomatch h⟩
theorem Opcode.fillWord : Opcode.Statement .fillWord := by
  intro w hw
  obtain rfl := Option.some.inj hw
  exact ⟨by decide, fun _ h => nomatch h⟩
theorem Opcode.resultLand (a) : Opcode.Statement (.resultLand a) := Opcode.ofEvent rfl
theorem Opcode.lineRefetch (a b) : Opcode.Statement (.lineRefetch a b) := Opcode.ofEvent rfl
theorem Opcode.rotationBoundary : Opcode.Statement .rotationBoundary := Opcode.ofEvent rfl
theorem Opcode.fairnessExcursion (a) : Opcode.Statement (.fairnessExcursion a) := Opcode.ofEvent rfl
theorem Opcode.waitcExpire (a) : Opcode.Statement (.waitcExpire a) := Opcode.ofEvent rfl
theorem Opcode.engineCommandStart (a) : Opcode.Statement (.engineCommandStart a) := Opcode.ofEvent rfl
theorem Opcode.mloopKStep (a) : Opcode.Statement (.mloopKStep a) := Opcode.ofEvent rfl
theorem Opcode.matrixCommandEnd (a) : Opcode.Statement (.matrixCommandEnd a) := Opcode.ofEvent rfl
theorem Opcode.copyCommandStart (a b) : Opcode.Statement (.copyCommandStart a b) := Opcode.ofEvent rfl
theorem Opcode.copyUnitEffect (a b) : Opcode.Statement (.copyUnitEffect a b) := Opcode.ofEvent rfl
theorem Opcode.copyMemberComplete (a b) : Opcode.Statement (.copyMemberComplete a b) := Opcode.ofEvent rfl
theorem Opcode.batchComplete (a) : Opcode.Statement (.batchComplete a) := Opcode.ofEvent rfl
theorem Opcode.remoteApply (a) : Opcode.Statement (.remoteApply a) := Opcode.ofEvent rfl
theorem Opcode.remoteComplete (a) : Opcode.Statement (.remoteComplete a) := Opcode.ofEvent rfl
theorem Opcode.ringRetry (a) : Opcode.Statement (.ringRetry a) := Opcode.ofEvent rfl
theorem Opcode.barrierRelease (a) : Opcode.Statement (.barrierRelease a) := Opcode.ofEvent rfl
theorem Opcode.gangBarrierRelease (a b) : Opcode.Statement (.gangBarrierRelease a b) := Opcode.ofEvent rfl
theorem Opcode.semaphoreTurn (a) : Opcode.Statement (.semaphoreTurn a) := Opcode.ofEvent rfl
theorem Opcode.forcedFlush (a) : Opcode.Statement (.forcedFlush a) := Opcode.ofEvent rfl
theorem Opcode.endFlush (a) : Opcode.Statement (.endFlush a) := Opcode.ofEvent rfl
theorem Opcode.reductionEntryApply (a) : Opcode.Statement (.reductionEntryApply a) := Opcode.ofEvent rfl
theorem Opcode.trapEntry (a) : Opcode.Statement (.trapEntry a) := Opcode.ofEvent rfl
theorem Opcode.trapFrameCaptured (a) : Opcode.Statement (.trapFrameCaptured a) := Opcode.ofEvent rfl
theorem Opcode.handlerEnd (a) : Opcode.Statement (.handlerEnd a) := Opcode.ofEvent rfl
theorem Opcode.trapFrameRestored (a) : Opcode.Statement (.trapFrameRestored a) := Opcode.ofEvent rfl
theorem Opcode.stopSpacing (a) : Opcode.Statement (.stopSpacing a) := Opcode.ofEvent rfl
theorem Opcode.watchdog (a) : Opcode.Statement (.watchdog a) := Opcode.ofEvent rfl
theorem Opcode.contextFault (a) : Opcode.Statement (.contextFault a) := Opcode.ofEvent rfl
theorem Opcode.stopRecordsWritten (a) : Opcode.Statement (.stopRecordsWritten a) := Opcode.ofEvent rfl
theorem Opcode.snaptMatch (a) : Opcode.Statement (.snaptMatch a) := Opcode.ofEvent rfl
theorem Opcode.launchPacket (a b) : Opcode.Statement (.launchPacket a b) := Opcode.ofEvent rfl
theorem Opcode.nopPacket (a b) : Opcode.Statement (.nopPacket a b) := Opcode.ofEvent rfl
theorem Opcode.semwaitPacket (a b) : Opcode.Statement (.semwaitPacket a b) := Opcode.ofEvent rfl
theorem Opcode.semwaitMet (a b) : Opcode.Statement (.semwaitMet a b) := Opcode.ofEvent rfl
theorem Opcode.semsigPacket (a b) : Opcode.Statement (.semsigPacket a b) := Opcode.ofEvent rfl
theorem Opcode.copyPacket (a b) : Opcode.Statement (.copyPacket a b) := Opcode.ofEvent rfl
theorem Opcode.copyPacketDone (a b) : Opcode.Statement (.copyPacketDone a b) := Opcode.ofEvent rfl
theorem Opcode.invalidPacket (a b) : Opcode.Statement (.invalidPacket a b) := Opcode.ofEvent rfl
theorem Opcode.serialRelease (a b) : Opcode.Statement (.serialRelease a b) := Opcode.ofEvent rfl
theorem Opcode.gridReady (a) : Opcode.Statement (.gridReady a) := Opcode.ofEvent rfl
theorem Opcode.gridStart (a) : Opcode.Statement (.gridStart a) := Opcode.ofEvent rfl
theorem Opcode.blockDispatch (a) : Opcode.Statement (.blockDispatch a) := Opcode.ofEvent rfl
theorem Opcode.blockDataLoaded (a) : Opcode.Statement (.blockDataLoaded a) := Opcode.ofEvent rfl
theorem Opcode.blockRelease (a) : Opcode.Statement (.blockRelease a) := Opcode.ofEvent rfl
theorem Opcode.gridComplete (a) : Opcode.Statement (.gridComplete a) := Opcode.ofEvent rfl
theorem Opcode.ctimeExpire (a b) : Opcode.Statement (.ctimeExpire a b) := Opcode.ofEvent rfl
theorem Opcode.collectiveStep (a) : Opcode.Statement (.collectiveStep a) := Opcode.ofEvent rfl
theorem Opcode.chunkLand (a) : Opcode.Statement (.chunkLand a) := Opcode.ofEvent rfl
theorem Opcode.collectiveRetire (a) : Opcode.Statement (.collectiveRetire a) := Opcode.ofEvent rfl
theorem Opcode.openCmd (a b) : Opcode.Statement (.openCmd a b) := Opcode.ofEvent rfl
theorem Opcode.haltCmd (a b) : Opcode.Statement (.haltCmd a b) := Opcode.ofEvent rfl
theorem Opcode.resumeCmd (a b) : Opcode.Statement (.resumeCmd a b) := Opcode.ofEvent rfl
theorem Opcode.saveCmd (a b) : Opcode.Statement (.saveCmd a b) := Opcode.ofEvent rfl
theorem Opcode.restoreCmd (a b) : Opcode.Statement (.restoreCmd a b) := Opcode.ofEvent rfl
theorem Opcode.terminateCmd (a b) : Opcode.Statement (.terminateCmd a b) := Opcode.ofEvent rfl
theorem Opcode.haltComplete (a) : Opcode.Statement (.haltComplete a) := Opcode.ofEvent rfl
theorem Opcode.saveComplete (a) : Opcode.Statement (.saveComplete a) := Opcode.ofEvent rfl
theorem Opcode.restoreComplete (a) : Opcode.Statement (.restoreComplete a) := Opcode.ofEvent rfl
theorem Opcode.clearingDone (a) : Opcode.Statement (.clearingDone a) := Opcode.ofEvent rfl
theorem Opcode.pgack (a) : Opcode.Statement (.pgack a) := Opcode.ofEvent rfl
theorem Opcode.invva (a b) : Opcode.Statement (.invva a b) := Opcode.ofEvent rfl
theorem Opcode.invalidationDone (a) : Opcode.Statement (.invalidationDone a) := Opcode.ofEvent rfl
theorem Opcode.snack (a) : Opcode.Statement (.snack a) := Opcode.ofEvent rfl
theorem Opcode.play (a) : Opcode.Statement (.play a) := Opcode.ofEvent rfl
theorem Opcode.shadow (a) : Opcode.Statement (.shadow a) := Opcode.ofEvent rfl
theorem Opcode.streamEn (a b c) : Opcode.Statement (.streamEn a b c) := Opcode.ofEvent rfl
theorem Opcode.restart (a b c) : Opcode.Statement (.restart a b c) := Opcode.ofEvent rfl
theorem Opcode.registerWrite (a b) : Opcode.Statement (.registerWrite a b) := Opcode.ofEvent rfl
theorem Opcode.hostRead (a b) : Opcode.Statement (.hostRead a b) := Opcode.ofEvent rfl
theorem Opcode.hostWrite (a b c) : Opcode.Statement (.hostWrite a b c) := Opcode.ofEvent rfl
theorem Opcode.acknowledgement (a b c) : Opcode.Statement (.acknowledgement a b c) := Opcode.ofEvent rfl
theorem Opcode.flitReceive (a b c d e f) : Opcode.Statement (.flitReceive a b c d e f) := Opcode.ofEvent rfl
theorem Opcode.linkFailed (a) : Opcode.Statement (.linkFailed a) := Opcode.ofEvent rfl
theorem Opcode.ptpSync (a) : Opcode.Statement (.ptpSync a) := Opcode.ofEvent rfl
theorem Opcode.timingPortLockLoss (a) : Opcode.Statement (.timingPortLockLoss a) := Opcode.ofEvent rfl
theorem Opcode.late (a) : Opcode.Statement (.late a) := Opcode.ofEvent rfl
theorem Opcode.ease (a) : Opcode.Statement (.ease a) := Opcode.ofEvent rfl
theorem Opcode.peer (a b c d) : Opcode.Statement (.peer a b c d) := Opcode.ofEvent rfl
theorem Opcode.quietFrames : Opcode.Statement .quietFrames := Opcode.ofEvent rfl
theorem Opcode.alignmentCheck : Opcode.Statement .alignmentCheck := Opcode.ofEvent rfl
theorem Opcode.rejoin : Opcode.Statement .rejoin := Opcode.ofEvent rfl
theorem Opcode.patternLoad (a) : Opcode.Statement (.patternLoad a) := Opcode.ofEvent rfl
theorem Opcode.patternEffect : Opcode.Statement .patternEffect := Opcode.ofEvent rfl
theorem Opcode.leaseRecall (a b c d) : Opcode.Statement (.leaseRecall a b c d) := Opcode.ofEvent rfl
theorem Opcode.recallAnswer (a b c) : Opcode.Statement (.recallAnswer a b c) := Opcode.ofEvent rfl
theorem Opcode.easeWindow : Opcode.Statement .easeWindow := Opcode.ofEvent rfl
theorem Opcode.rowActivationAlert (a b) : Opcode.Statement (.rowActivationAlert a b) := Opcode.ofEvent rfl
theorem Opcode.checkpoint : Opcode.Statement .checkpoint := Opcode.ofEvent rfl
theorem Opcode.coreMark (a) : Opcode.Statement (.coreMark a) := Opcode.ofEvent rfl
theorem Opcode.standbySubstitution (a) : Opcode.Statement (.standbySubstitution a) := Opcode.ofEvent rfl
theorem Opcode.coldStart : Opcode.Statement .coldStart := Opcode.ofEvent rfl
theorem Opcode.firmwareLoad (a b c d e) : Opcode.Statement (.firmwareLoad a b c d e) := Opcode.ofEvent rfl
theorem Opcode.spdmRequest : Opcode.Statement .spdmRequest := Opcode.ofEvent rfl
theorem Opcode.managementRequest (a) : Opcode.Statement (.managementRequest a) := Opcode.ofEvent rfl
theorem Opcode.thermalTrip : Opcode.Statement .thermalTrip := Opcode.ofEvent rfl
theorem Opcode.leaseGrant (a b c) : Opcode.Statement (.leaseGrant a b c) := Opcode.ofEvent rfl
theorem Opcode.executionMissesBound (a) : Opcode.Statement (.executionMissesBound a) := Opcode.ofEvent rfl
theorem Opcode.mainRailDrop : Opcode.Statement .mainRailDrop := Opcode.ofEvent rfl

end Sys2Proof.Laws
end

