-- ==== Sys2Proof/Tests/Slice0.lean ====
section
/-! SUPPORT. Tests of single words and single steps, and for each obligation a state that meets its hypotheses. Expected
values come from the spec's own examples and tables, named beside each test. -/

namespace Sys2Proof.Tests

open Sys2Proof.Machine
open Host (Outcome)

set_option maxRecDepth 100000

/-! Helpers -/

/-- Control bits with no predicate, no STOP and no stall. -/
def k0 : Ctl := { pe := false, pn := false, p := 0, stop := false, stall := 0 }
/-- The bench of withFetchWord at the issue of the word `i`, every slot of its line a valid target. -/
def atWord (i : Instr) : State :=
  let w := (encode i).getD 0
  let l : Line := { slots := w :: List.replicate 4 (BitVec.allOnes 96), lw := lineWord (w :: List.replicate 4 (BitVec.allOnes 96)) 0 31 }
  { State.reset.bench (roleFor i.opc) l with
    issue := some { gid := 0, pc := 0, iset := BitVec.allOnes 64, word := w, all := BitVec.allOnes 64 } }
/-- The same with changes to the group. -/
def atWordWith (f : Group → Group) (i : Instr) : State :=
  let s := atWord i
  { s with groups := tmod s.groups 0 f }
/-- The issue and the group of a bench state. -/
def issueOf (s : State) : Issue := s.issue.getD { gid := 0, pc := 0, iset := 0, word := 0 }
def groupOf (s : State) : Group := s.group 0
/-- What a word sees on the bench. -/
def seen (i : Instr) (s : State) : Ctx := ctxOf i s (issueOf s) (groupOf s)

/-- `Accepts` on a bench state, as a test. -/
def accepted (i : Instr) (s : State) : Bool :=
  s.issue.isSome && (issueOf s).gid == 0 && (tget s.groups 0).isSome &&
  (s.rejects i (groupOf s) (issueOf s).iset (issueOf s).lineBad).isNone &&
  s.undersized i (groupOf s) (issueOf s).iset (predSel (groupOf s) (issueOf s).iset i) == 0

theorem accepts_of_accepted {i : Instr} {s : State} (h : accepted i s = true) : Accepts i s (issueOf s) (groupOf s) := by
  simp only [accepted, Bool.and_eq_true, beq_iff_eq, Option.isNone_iff_eq_none] at h
  obtain ⟨⟨⟨⟨hi, hg⟩, ht⟩, hr⟩, hu⟩ := h
  obtain ⟨x, hx⟩ := Option.isSome_iff_exists.mp hi
  obtain ⟨g, hgr⟩ := Option.isSome_iff_exists.mp ht
  have e : issueOf s = x := by simp [issueOf, hx]
  have e' : groupOf s = g := by simp [groupOf, State.group, hgr]
  exact ⟨by rw [hx, e], by rw [hg, e']; exact hgr, hr, hu⟩

/-- Every instruction of a list is accepted on its bench. -/
theorem accepts_all {is : List Instr} (h : is.all (fun i => accepted i (atWord i)) = true) :
    ∀ i ∈ is, Accepts i (atWord i) (issueOf (atWord i)) (groupOf (atWord i)) :=
  fun i hi => accepts_of_accepted (List.all_eq_true.mp h i hi)

/-- The general hypotheses of the statements about words that join a queue. -/
def ready (i : Instr) (s : State) : Bool :=
  accepted i s && (seen i s).sel != 0 && (s.core 0).eq.length < 4 && (groupOf s).members.length < 32 &&
  (groupOf s).lanes.length == 64 && (groupOf s).hphase == .idle

/-- The first digest bytes of no data: a7ffc6f8 (FIPS 202, which 10 R226 names). -/
theorem test_sha3 : (sha3 []).take 4 = [0xA7#8, 0xFF#8, 0xC6#8, 0xF8#8] := by decide

/-! Decoding: words that the spec writes out bit by bit, one or more for each family -/

/-- The word is the encoding of the instruction, and decodes to it. -/
def isWord (w : Nat) (i : Instr) : Bool :=
  (match decode (BitVec.ofNat 96 w) with | .ok j => j == i | .error _ => false) && encode i == some (BitVec.ofNat 96 w)

/-- 02, Examples 1, 2 and 4 (`add` of three levels, `bra`, `brnz`), and 05, Example 3 (`cmp.lt.s32 v5, v2, -1 | st=1`). -/
theorem test_words_integer_control :
    (isWord 0x10030000000030102103C312 (.add { pe := true, pn := true, p := 12, stop := true, stall := 2 } .s32 false (.o 3) (.v 8) (.spec 1)) &&
     isWord 0x01003FFFFFFCC00000000000 (.bra k0 (-13)) && isWord 0x030000000000C00008000000 (.brnz k0 (.v 2) 3) &&
     isWord 0x28032000000037F008050001 (.cmp { k0 with stall := 1 } .s32 .lt (.v 5) (.v 2) (.spec 127))) = true := by decide

/-- 06: `cvt.sat.e4m3.f32 v5, v2 | st=1` and a `wfma` with .neg; 07: `mma.bf16`; 08: `mloc`. -/
theorem test_words_float_matrix :
    (isWord 0x701811800000000008050001 (.cvt { k0 with stall := 1 } .e4m3 .f32 true .rn (.v 5) (.v 2)) &&
     isWord 0x821280000002806010100001 (.wfma { k0 with stall := 1 } true (.v 16) (.v 4) (.v 6) (.v 10)) &&
     isWord 0x901340000010008000400004 (.mma { k0 with stall := 4 } .bf16 true none (.v 64) (.v 0) (.v 8) (.v 64)) &&
     isWord 0x980040000000000000280001 (.mloc { k0 with stall := 1 } 2 (.v 40))) = true := by decide

/-- 09: `ld.die.b64`; 10: `cpy.in`, `bwait`, `rmt.ld`; 14: `bbar`, `launch`. -/
theorem test_words_memory_sync :
    (isWord 0xA0D000004000000008040005 (.ld { k0 with stall := 5 } .die .b64 none (.v 4) (.v 2) 64) &&
     isWord 0xC00008008001804008080000 (.cpy k0 false 1 false true (.v 8) (.v 2) (.v 4) (.v 6)) &&
     isWord 0xC70000000000400C00000010 (.bwait { k0 with stop := true } (.spec 0) 1) &&
     isWord 0xC840000010018000080C0000 (.rmtLd k0 .b32 none (.v 12) (.v 2) (.v 6) 16) &&
     isWord 0xD20000000000005010000010 (.bbar { k0 with stop := true } (.v 4) (.v 5)) &&
     isWord 0xD6000000000000000808000F (.launch { k0 with stall := 15 } (.v 8) (.v 2))) = true := by decide

/-- 16: `syswr`; 17: `trap`; 02 R61: the fill word is all ones. -/
theorem test_words_system :
    (isWord 0xE30000000C0000000C000010 (.syswr { k0 with stop := true } 0x00C (.v 3)) &&
     isWord 0xE00000000300000000008140 (.trap { pe := true, pn := false, p := 5, stop := false, stall := 0 } 3) &&
     isWord 0xFFFFFFFFFFFFFFFFFFFFFFFF .fillWord) = true := by decide

/-- Words written out from the field layout of 02 R46 and the opcode of each entry: OPC [95:88], SUB [87:80], X [79:56],
C [55:46], B [45:36], A [35:26], D [25:16]. `vote.ballot v10, v2` (05 R118), `fadd.f32 v1, v2, v3` (06 R126), `bar` (14 R308),
`mov.b32` (05 R111), `fence.ar.dev` (02 R51), `rem.s32` (02 R60). -/
theorem test_words_from_fields :
    (isWord (0x41 * 2 ^ 88 + 2 * 2 ^ 80 + 2 * 2 ^ 26 + 10 * 2 ^ 16) (.vote k0 .ballot (.v 10) (.v 2)) &&
     isWord (0x50 * 2 ^ 88 + 0x11 * 2 ^ 80 + 3 * 2 ^ 36 + 2 * 2 ^ 26 + 1 * 2 ^ 16) (.fadd k0 .f32 .rn (.v 1) (.v 2) (.v 3)) &&
     isWord (0xD0 * 2 ^ 88) (.bar k0) &&
     isWord (0x2C * 2 ^ 88 + 9 * 2 ^ 80 + 2 * 2 ^ 26 + 1 * 2 ^ 16) (.mov k0 .b32 (.v 1) (.v 2)) &&
     isWord (0xAA * 2 ^ 88 + 0x34 * 2 ^ 80) (.fence k0 .ar .dev) && isWord (0xF2 * 2 ^ 88 + 0x83 * 2 ^ 80) (.rem .s32 0)) = true := by decide

/-! WellFormed: an ill-formed instruction for each check, which the check refuses (02 R62 checks 5 and 6) -/

/-- SUB outside its opcode's space: an integer add of a float type, and a store of a signed byte. -/
theorem test_wf_sub : (Instr.add k0 .f32 false (.v 1) (.v 2) (.v 3)).subWf = false ∧ (Instr.st k0 .blk .s8 none (.v 1) (.v 2) 0).subWf = false := by decide
/-- A modifier that breaks its entry's rule: `cmp.lt.b32` (05 R109), and a predicate named with PE clear (02 R47). -/
theorem test_wf_fields : (Instr.cmp k0 .b32 .lt (.v 1) (.v 2) (.v 3)).fieldsWf = false ∧ (Instr.nop { k0 with p := 3 }).fieldsWf = false := by decide
/-- A register at or above N (02 R31), an odd pair (02 R32), and a predicate register at or above N. -/
theorem test_wf_limits : (Instr.mov k0 .b32 (.v 8) (.v 0)).limitsWf 8 = false ∧ (Instr.mov k0 .b64 (.v 1) (.v 0)).limitsWf 8 = false ∧
    (Instr.nop { k0 with pe := true, p := 8 }).limitsWf 8 = false := by decide
/-- A well-formed word is none of these. -/
theorem test_wf_good : (Instr.mov k0 .b64 (.v 2) (.v 0)).wf 8 = true := by decide

/-! One step from the bench: the results of the spec's examples -/

/-- The state after one step from the reset state with a word placed. -/
def runs (i : Instr) : State :=
  match step (State.reset.withFetchWord 96 ((encode i).getD 0).toNat) with
  | .next t => t
  | _ => State.reset
/-- The words that lane 0 of the group has on their way after the word acted on a bench whose registers `f` sets. -/
def sends (i : Instr) (f : List Word) : List (List Word) :=
  match exec i (atWordWith (fun g => { g with lanes := g.lanes.map (fun l => { l with v := f ++ l.v.drop f.length }) }) i) with
  | .next t => (t.group 0).pend.map (fun p => (p.res.headD { lane := 0, ws := [] }).ws)
  | _ => []

/-- 01 R17, 02 R39: a placed word is the first to run; its lanes move to the next slot and its result is on its way. -/
theorem test_step_runs_word : ((runs (.movImm k0 .b32 (.v 3) 0x1234)).group 0).pend.length = 1 ∧
    (((runs (.movImm k0 .b32 (.v 3) 0x1234)).group 0).lane 5).pc = 12 := by decide
/-- 05, Example 1: `mul.hi.s32 v3, v1, v2` with v1 = 0xFFFFFFFE and v2 = 3. -/
theorem test_mul_hi_s32 : sends (.mulHi k0 .s32 (.v 3) (.v 1) (.v 2)) [0, 0xFFFFFFFE, 3] = [[0xFFFFFFFF]] := by decide
/-- 05, Example 1: `mul.hi.n32`. -/
theorem test_mul_hi_n32 : sends (.mulHi k0 .n32 (.v 3) (.v 1) (.v 2)) [0, 0xFFFFFFFE, 3] = [[2]] := by decide
/-- 05, Example 1: `add.sat.s32 v3, v1, 0x7FFF_FFFF` and `add.sat.n32 v3, v1, 16`. -/
theorem test_add_sat : sends (.addImm k0 .s32 true (.v 3) (.v 1) 0x7FFFFFFF) [0, 0xFFFFFFFE] = [[0x7FFFFFFD]] ∧
    sends (.addImm k0 .n32 true (.v 3) (.v 1) 16) [0, 0xFFFFFFFE] = [[0xFFFFFFFF]] := by decide
/-- 05, Example 2: `bfe.s32 v3, v1, 8, 8` of 0x0000F5A0. -/
theorem test_bfe_signed : sends (.bfe k0 .s32 (.v 3) (.v 1) (.spec 8) (.spec 8)) [0, 0xF5A0] = [[0xFFFFFFF5]] := by decide
/-- 05, Example 2: `bfi.b32 v3, v2, v4, v5`. -/
theorem test_bfi : sends (.bfi k0 (.v 3) (.v 2) (.v 4) (.v 5)) [0, 0, 0x12345678, 0, 0xAB, 0x80C] = [[0x123AB678]] := by decide
/-- 05, Example 4: `lea.x8.sx.n64 v10, v8, v4` and `trunc.sat.s8.s32 v5, v1`. -/
theorem test_lea_trunc : sends (.lea k0 .n64 3 true (.v 10) (.v 8) (.v 4)) [0, 0, 0, 0, 0xFFFFFFFF, 0, 0, 0, 0x40, 1] = [[0x38, 1]] ∧
    sends (.trunc k0 .s8 .s32 true (.v 5) (.v 1)) [0, 0x190] = [[0x7F]] := by decide

/-! Witnesses: for each obligation about words, instructions that the bench accepts -/

theorem test_witness_SumsAndExtremes : ∀ i ∈ [Instr.add k0 .s32 false (.v 1) (.v 2) (.v 3), .sub k0 .n64 true (.v 2) (.v 4) (.v 6), .addImm k0 .n32 true (.v 1) (.v 2) 9, .subImm k0 .s64 false (.v 2) (.v 4) (-1), .min k0 .s32 (.v 1) (.v 2) (.o 3), .max k0 .n64 (.v 2) (.v 4) (.v 6), .abs k0 .s32 true (.v 1) (.v 2)],
    Accepts i (atWord i) (issueOf (atWord i)) (groupOf (atWord i)) := accepts_all (by decide)
theorem test_witness_MultiplyResults : ∀ i ∈ [Instr.mulLo k0 .s32 (.v 1) (.v 2) (.v 3), .mulLoImm k0 .n32 (.v 1) (.v 2) 7, .mulHi k0 .n32 (.v 1) (.v 2) (.v 3), .mad k0 .s64 (.v 4) (.v 1) (.v 2) (.v 6)],
    Accepts i (atWord i) (issueOf (atWord i)) (groupOf (atWord i)) := accepts_all (by decide)
theorem test_witness_BitwiseResults : ∀ i ∈ [Instr.and k0 .b32 (.v 1) (.v 2) (.v 3), .or k0 .b64 (.v 2) (.v 4) (.v 6), .xor k0 .b32 (.v 1) (.v 2) (.v 3), .andImm k0 .b32 (.v 1) (.v 2) 3, .orImm k0 .b64 (.v 2) (.v 4) 3, .xorImm k0 .b32 (.v 1) (.v 2) 3, .andn k0 .b32 (.v 1) (.v 2) (.v 3), .not k0 .b64 (.v 2) (.v 4),
      .shl k0 .b32 (.v 1) (.v 2) (.spec 32), .shr k0 .b64 (.v 2) (.v 4) (.v 6), .sar k0 .s32 (.v 1) (.v 2) (.v 3), .rot k0 .b32 (.v 1) (.v 2) (.v 3), .bfe k0 .s32 (.v 1) (.v 2) (.v 3) (.v 4), .bfi k0 (.v 1) (.v 2) (.v 3) (.v 4), .popc k0 .b64 (.v 1) (.v 2), .clz k0 .b32 (.v 1) (.v 2), .ctz k0 .b32 (.v 1) (.v 2), .brev k0 .b64 (.v 2) (.v 4)],
    Accepts i (atWord i) (issueOf (atWord i)) (groupOf (atWord i)) := accepts_all (by decide)
theorem test_witness_SelectMoveResults : ∀ i ∈ [Instr.cmp k0 .s32 .lt (.v 1) (.v 2) (.v 3), .sel k0 .b64 (.v 2) (.v 4) (.v 6) (.v 8), .mov k0 .b32 (.o 1) (.v 2), .movImm k0 .b32 (.v 1) 5],
    Accepts i (atWord i) (issueOf (atWord i)) (groupOf (atWord i)) := accepts_all (by decide)
theorem test_witness_AddressWidthResults : ∀ i ∈ [Instr.lea k0 .n64 3 true (.v 2) (.v 4) (.v 6), .ext k0 .s64 .s16 (.v 2) (.v 4), .trunc k0 .s8 .s32 true (.v 1) (.v 2)],
    Accepts i (atWord i) (issueOf (atWord i)) (groupOf (atWord i)) := accepts_all (by decide)
theorem test_witness_SelectMoveResults_movs : ∀ i ∈ [Instr.movs k0 0 0 (.v 1), .movs k0 7 0 (.v 2), .movs k0 0x0D 0x13 (.v 1), .movs k0 0x0E 0 (.v 1)],
    Accepts i (atWord i) (issueOf (atWord i)) (groupOf (atWord i)) := accepts_all (by decide)
theorem test_witness_LanesExchange : ∀ i ∈ [Instr.shfl k0 .idx true (.v 2) (.v 4) (.v 6), .shfl k0 .down false (.v 1) (.v 2) (.v 3), .vote k0 .any (.v 1) (.v 2), .vote k0 .all (.v 1) (.v 2), .vote k0 .ballot (.v 2) (.v 4), .bcast k0 .b32 (.v 1) (.v 2), .matchAny k0 .b64 (.v 2) (.v 4), .scanAdd k0 .n32 true (.v 1) (.v 2), .lanemask k0 false (.v 2) (.v 4), .lanemask k0 true (.v 2) (.v 4)],
    Accepts i (atWord i) (issueOf (atWord i)) (groupOf (atWord i)) := accepts_all (by decide)
theorem test_witness_LanesExchange_sbchk : ((atWord (.shfl k0 .idx true (.v 2) (.v 4) (.v 6))).part 0).sbchk = false := by decide
theorem test_witness_RoundIsRoundOfR87 : Fmt.e2m1 ∈ floatFmts ∧ Fmt.f64 ∈ floatFmts ∧ 0 < (1 : Nat) := by decide
theorem test_witness_SumOfTerms :
    -- NaN and zero times infinity; the two infinities; one; a zero sum; and a sum that is not zero
    Fmt.f32 ∈ floatFmts ∧ FV.isNan (.nan true) = true ∧ ((FV.num false 0 0).isZero && (FV.inf true).isInf) = true ∧
    FV.inf false ∈ [FV.inf false, .inf true] ∧ FV.inf true ∈ [FV.inf false, .inf true] ∧
    FV.inf true ∉ [FV.inf false, .num false 1 0] ∧ ([FV.num false 1 0, .num true 1 0].map ratOf).sum = 0 ∧ ([FV.num false 1 0].map ratOf).sum ≠ 0 := by
  refine ⟨by decide, by decide, by decide, by decide, by decide, by decide, ?_, ?_⟩ <;> norm_num [ratOf]
theorem test_witness_FloatArithmeticResults : ∀ i ∈ [Instr.fadd k0 .f32 .rn (.v 1) (.v 2) (.v 3), .fsub k0 .f16x2 .rz (.v 1) (.v 2) (.v 3), .fmul k0 .f64 .ru (.v 2) (.v 4) (.v 6), .ffma k0 .bf16 .rd (.v 1) (.v 2) (.v 3) (.v 4), .fdot2 k0 .bf16x2 .rn (.v 1) (.v 2) (.v 3) (.v 4)],
    Accepts i (atWord i) (issueOf (atWord i)) (groupOf (atWord i)) := accepts_all (by decide)
theorem test_witness_FloatCompareResults : ∀ i ∈ [Instr.fmin k0 .f32 true (.v 1) (.v 2) (.v 3), .fmax k0 .bf16x2 false (.v 1) (.v 2) (.v 3), .fcmp k0 .f64 .nan (.v 1) (.v 2) (.v 4)],
    Accepts i (atWord i) (issueOf (atWord i)) (groupOf (atWord i)) := accepts_all (by decide)
theorem test_witness_FloatPartResults : ∀ i ∈ [Instr.fclass k0 .f16 (.v 1) (.v 2), .fround k0 .f32 .ru (.v 1) (.v 2), .fldexp k0 .f64 .rn (.v 2) (.v 4) (.v 6), .ffrexp k0 .f32 false (.v 1) (.v 2), .ffrexp k0 .f64 true (.v 1) (.v 2)],
    Accepts i (atWord i) (issueOf (atWord i)) (groupOf (atWord i)) := accepts_all (by decide)
theorem test_witness_FloatFunctionResults : ∀ i ∈ [Instr.frcp k0 .f32 .rn (.v 1) (.v 2), .frsq k0 .f64 .rz (.v 2) (.v 4), .fsqrt k0 .f32 .ru (.v 1) (.v 2), .fexp2 k0 .f32 (.v 1) (.v 2), .flog2 k0 .f64 (.v 2) (.v 4), .fsin k0 .f32 (.v 1) (.v 2), .fcos k0 .f32 (.v 1) (.v 2)],
    Accepts i (atWord i) (issueOf (atWord i)) (groupOf (atWord i)) := accepts_all (by decide)
/-- 2^−126 is the f32 number with the encoding 0x00800000, neither zero nor negative. -/
theorem test_witness_FloatFunctionResults_number : (Ty.f32).fmt.decode 0x00800000 = .num false (2 ^ 23) (-149) := by decide
theorem test_witness_ConversionResults : ∀ i ∈ [Instr.cvt k0 .s8 .n32 true .rn (.v 1) (.v 2), .cvt k0 .n64 .f32 false .rd (.v 2) (.v 4), .cvt k0 .f16 .s64 true .rz (.v 1) (.v 2), .cvt k0 .e4m3 .f32 true .rn (.v 1) (.v 2), .cvt k0 .f32 .e8m0 false .rn (.v 1) (.v 2), .cvt k0 .b32 .f32 false .rn (.v 1) (.v 2), .cvt k0 .b64 .n64 false .rn (.v 2) (.v 4), .cvtSr k0 .e2m1 .f32 true (.v 1) (.v 2) (.v 3)],
    Accepts i (atWord i) (issueOf (atWord i)) (groupOf (atWord i)) := accepts_all (by decide)
theorem test_witness_BlockScaleResults : ∀ i ∈ [Instr.bpack k0 .e4m3 (.v 1) (.v 2), .bunpack k0 .e2m1 (.v 1) (.v 2)],
    Accepts i (atWord i) (issueOf (atWord i)) (groupOf (atWord i)) := accepts_all (by decide)
theorem test_witness_WideAccumulatorResults : ∀ i ∈ [Instr.wclr k0 (.v 16), .wbase k0 (.v 1) (.v 2) (.v 4), .wfma k0 true (.v 16) (.v 2) (.v 4) (.v 6), .wadd k0 false (.v 16) (.v 2) (.v 4), .wsign k0 (.v 1) (.v 16), .wrnd k0 .rn (.v 2) (.v 16) (.v 4)],
    Accepts i (atWord i) (issueOf (atWord i)) (groupOf (atWord i)) := accepts_all (by decide)

/-- `sigchk` of the bench: every lane's signature is 0, so an immediate of 0 passes, and 1 differs first in lane 0. -/
theorem test_witness_ControlWords : ∀ i ∈ [Instr.nop k0, .stopmark { k0 with stop := true }, .yield k0, .exit k0, .sigchk k0 0, .sigchk k0 1],
    Accepts i (atWord i) (issueOf (atWord i)) (groupOf (atWord i)) := accepts_all (by decide)
theorem test_witness_ControlWords_sig : (∀ l ∈ (seen (.sigchk k0 0) (atWord (.sigchk k0 0))).lanes, ((groupOf (atWord (.sigchk k0 0))).lane l).sig = 0) ∧
    0 ∈ (seen (.sigchk k0 1) (atWord (.sigchk k0 1))).lanes ∧ ((groupOf (atWord (.sigchk k0 1))).lane 0).sig ≠ 1 := by decide

/-- A branch of 0 slots stays in slot 0 and of 4 goes to slot 4, both valid targets on the bench; −1 names no slot. -/
theorem test_witness_BranchResults : (∀ i ∈ [Instr.bra k0 4, .brz k0 (.v 1) 4, .brnz k0 (.v 1) 0, .bra k0 (-1)],
      Accepts i (atWord i) (issueOf (atWord i)) (groupOf (atWord i))) ∧
    IsSlotAfter (seen (.bra k0 4) (atWord (.bra k0 4))) 4 48 ∧ (atWord (.bra k0 4)).validTarget (groupOf (atWord (.bra k0 4))) 48 = true ∧
    (∀ u, ¬ IsSlotAfter (seen (.bra k0 (-1)) (atWord (.bra k0 (-1)))) (-1) u) ∧
    (groupOf (atWord (.bra k0 4))).lanes.length = 64 ∧ (groupOf (atWord (.bra k0 4))).hphase = .idle := by
  refine ⟨accepts_all (by decide), ⟨4, by decide, by decide⟩, by decide, ?_, by decide, by decide⟩
  rintro u ⟨n, hn, -⟩
  have h : ((5 * (((seen (.bra k0 (-1)) (atWord (.bra k0 (-1)))).pc.toNat - (seen (.bra k0 (-1)) (atWord (.bra k0 (-1)))).base) / 64) +
    ((seen (.bra k0 (-1)) (atWord (.bra k0 (-1)))).pc.toNat - (seen (.bra k0 (-1)) (atWord (.bra k0 (-1)))).base) % 64 / 12 : Nat)) = 0 := by decide
  rw [h] at hn
  omega

theorem test_witness_JumpResults : ∀ i ∈ [Instr.jmp k0 (.v 1), .ret k0 (.v 1)],
    Accepts i (atWord i) (issueOf (atWord i)) (groupOf (atWord i)) := accepts_all (by decide)
/-- A lane at depth 0 and one at depth 1, both with a valid target. -/
theorem test_witness_JumpResults_depth : ((groupOf (atWord (.ret k0 (.v 1)))).lane 0).depth = 0 ∧
    (atWord (.ret k0 (.v 1))).validTarget (groupOf (atWord (.ret k0 (.v 1)))) ((seen (.ret k0 (.v 1)) (atWord (.ret k0 (.v 1)))).src32 (atWord (.ret k0 (.v 1))) 0 (.v 1)).toNat = true := by decide
theorem test_witness_CallResults : (∀ i ∈ [Instr.call k0 (.v 1) 2, .jcall k0 (.v 1) (.v 2)],
      Accepts i (atWord i) (issueOf (atWord i)) (groupOf (atWord i))) ∧ IsSlotAfter (seen (.call k0 (.v 1) 2) (atWord (.call k0 (.v 1) 2))) 2 24 :=
  ⟨accepts_all (by decide), ⟨2, by decide, by decide⟩⟩
/-- −1 names no slot for a call in slot 0. -/
theorem test_witness_CallResults_below : Accepts (.call k0 (.v 1) (-1)) (atWord (.call k0 (.v 1) (-1)))
      (issueOf (atWord (.call k0 (.v 1) (-1)))) (groupOf (atWord (.call k0 (.v 1) (-1)))) ∧
    (∀ u, ¬ IsSlotAfter (seen (.call k0 (.v 1) (-1)) (atWord (.call k0 (.v 1) (-1)))) (-1) u) := by
  refine ⟨accepts_all (is := [.call k0 (.v 1) (-1)]) (by decide) _ (by simp), ?_⟩
  rintro u ⟨n, hn, -⟩
  have h : ((5 * (((seen (.call k0 (.v 1) (-1)) (atWord (.call k0 (.v 1) (-1)))).pc.toNat - (seen (.call k0 (.v 1) (-1)) (atWord (.call k0 (.v 1) (-1)))).base) / 64) +
    ((seen (.call k0 (.v 1) (-1)) (atWord (.call k0 (.v 1) (-1)))).pc.toNat - (seen (.call k0 (.v 1) (-1)) (atWord (.call k0 (.v 1) (-1)))).base) % 64 / 12 : Nat)) = 0 := by decide
  rw [h] at hn
  omega

/-- A bench with changes to the whole state. -/
def atWordIn (h : State → State) (i : Instr) : State := h (atWord i)
/-- The bench's grid with a different descriptor or ranges, as a change of the state. -/
def gridOf (f : Grid → Grid) (s : State) : State := { s with grids := tmod s.grids 0 f }
/-- The bench's group changed. -/
def groupWith (f : Group → Group) (s : State) : State := { s with groups := tmod s.groups 0 f }
/-- Lane registers of the bench set to the same values in every lane. -/
def regs (f : List Word) (s : State) : State :=
  groupWith (fun g => { g with lanes := g.lanes.map (fun l => { l with v := f ++ l.v.drop f.length }) }) s
/-- Every instruction of a list is ready on the bench changed by `h`. -/
theorem ready_all (h : State → State) {is : List Instr} (p : is.all (fun i => ready i (atWordIn h i)) = true) :
    ∀ i ∈ is, Accepts i (atWordIn h i) (issueOf (atWordIn h i)) (groupOf (atWordIn h i)) ∧ (seen i (atWordIn h i)).sel ≠ 0 ∧
      ((atWordIn h i).core 0).eq.length < 4 ∧ (groupOf (atWordIn h i)).members.length < 32 ∧
      (groupOf (atWordIn h i)).lanes.length = 64 ∧ (groupOf (atWordIn h i)).hphase = .idle := by
  intro i hi
  have := List.all_eq_true.mp p i hi
  simp only [ready, Bool.and_eq_true, bne_iff_ne, ne_eq, decide_eq_true_eq, beq_iff_eq] at this
  obtain ⟨⟨⟨⟨⟨a, b⟩, c⟩, d⟩, e⟩, f⟩ := this
  exact ⟨accepts_of_accepted a, b, c, d, e, f⟩

/-- The waiting words: `bbar` of index 0 and, with v1 = 16, of a bad index; `bwait` of a batch that is not ahead and, with
v1 = 5, of one that is. -/
theorem test_witness_WaitsAndOrder : (∀ i ∈ [Instr.waitc k0 (.v 2), .bar k0, .gbar k0, .bbar k0 (.v 1) (.v 2), .bwait k0 (.v 1) 0, .mprog k0 (.v 1), .podt k0 (.v 2), .bclose k0 .blk (.v 1), .fence k0 .ar .dev, .fence k0 .acq .blk, .rmtWait k0, .aflush k0 (.v 1)],
      Accepts i (atWordIn id i) (issueOf (atWordIn id i)) (groupOf (atWordIn id i)) ∧ (seen i (atWordIn id i)).sel ≠ 0 ∧
      ((atWordIn id i).core 0).eq.length < 4 ∧ (groupOf (atWordIn id i)).members.length < 32 ∧
      (groupOf (atWordIn id i)).lanes.length = 64 ∧ (groupOf (atWordIn id i)).hphase = .idle) ∧
    ((seen (.bbar k0 (.v 1) (.v 2)) (atWordIn id (.bbar k0 (.v 1) (.v 2)))).low32 (atWordIn id (.bbar k0 (.v 1) (.v 2))) (.v 1)).toNat = 0 ∧
    ((seen (.bbar k0 (.v 1) (.v 2)) (atWordIn (regs [0, 16]) (.bbar k0 (.v 1) (.v 2)))).low32 (atWordIn (regs [0, 16]) (.bbar k0 (.v 1) (.v 2))) (.v 1)).toNat = 16 ∧
    ((seen (.bwait k0 (.v 1) 0) (atWordIn (regs [0, 5]) (.bwait k0 (.v 1) 0))).src32 (atWordIn (regs [0, 5]) (.bwait k0 (.v 1) 0)) 0 (.v 1)) - 0 = 5 :=
  ⟨ready_all id (by decide), by decide, by decide, by decide⟩
/-- A deterministic grid, for `aflush`. -/
theorem test_witness_WaitsAndOrder_det : ready (.aflush k0 (.v 1)) (atWordIn (gridOf (fun r => { r with desc := { r.desc with det := true } })) (.aflush k0 (.v 1))) = true ∧
    ((atWordIn (gridOf (fun r => { r with desc := { r.desc with det := true } })) (.aflush k0 (.v 1))).grid 0).desc.det = true := by decide

/-- Block and die scratch of 64 KiB. -/
def roomy (s : State) : State := gridOf (fun r => { r with desc := { r.desc with bscr := 65536, dscr := 65536 } }) s
theorem test_witness_EngineWordsJoin : ∀ i ∈ [Instr.mma k0 .bf16 true none (.v 64) (.v 0) (.v 8) (.v 64), .mmab k0 .bf16 1 none (.v 0) (.v 32), .mzero k0 0, .mdrain k0 1 (.v 3), .mchk k0 0 true (.v 3), .mloc k0 2 (.v 40), .mfix k0 7 (.v 3), .mtol k0 .bf16 (.v 1),
      .mloop k0 .s8 0 false true false false true (.v 1) (.v 2) (.v 4) (.v 5), .mretry k0 0 true, .maccLd k0 0 false false (.v 1), .maccSt k0 7 true true (.v 1)],
    Accepts i (atWordIn roomy i) (issueOf (atWordIn roomy i)) (groupOf (atWordIn roomy i)) ∧ (seen i (atWordIn roomy i)).sel ≠ 0 ∧
      ((atWordIn roomy i).core 0).eq.length < 4 ∧ (groupOf (atWordIn roomy i)).members.length < 32 ∧
      (groupOf (atWordIn roomy i)).lanes.length = 64 ∧ (groupOf (atWordIn roomy i)).hphase = .idle := ready_all roomy (by decide)
/-- The place of a `macc`, free, in both scratches; and a tile that holds a retry record. -/
theorem test_witness_EngineWordsJoin_place :
    (let i : Instr := .maccSt k0 7 true true (.v 1)
     (atWordIn roomy i).locate (groupOf (atWordIn roomy i)) true 0 16384 = some (.die 0 0, 0) ∧ (atWordIn roomy i).busy (.die 0 0) 0 16384 true = false) ∧
    (let m : MLoop := { tile := 0, t := .s8, sc := false, acc := true, adie := false, bdie := false, abase := 0, bbase := 0, ainc := 0, binc := 0, nk := 1, rl := 4 }
     let s := { atWord (.mretry k0 0 true) with cores := [(0, { tiles := { retry := some m } :: List.replicate 7 {} })] }
     (s.tile 0 0).retry = some m) := by
  refine ⟨⟨by decide, by decide⟩, rfl⟩

/-- An engine command that no engine would refuse, for tests. -/
def someCmd (kind : EKind) : ECmd := { ident := 1, gid := 0, kind := kind, sel := BitVec.allOnes 64, dst := .spec 0, seq := 1, pc := 0, issue := 0 }
theorem test_witness_MatrixTraps :
    (∀ i ∈ [Instr.mma k0 .bf16 true none (.v 64) (.v 0) (.v 8) (.v 64), .mmab k0 .bf16 1 none (.v 0) (.v 32), .mzero k0 0, .mdrain k0 1 (.v 3), .mchk k0 0 false (.v 3), .mloc k0 2 (.v 40), .mfix k0 7 (.v 3), .mtol k0 .bf16 (.v 1),
      .mloop k0 .s8 0 false true false false true (.v 1) (.v 2) (.v 4) (.v 5), .mretry k0 0 true, .maccLd k0 0 false false (.v 1), .maccSt k0 7 true true (.v 1)],
      Accepts i (atWord i) (issueOf (atWord i)) (groupOf (atWord i))) ∧
    (let s := { atWord (.mzero k0 0) with cores := [(0, { eq := List.replicate 4 (someCmd (.mzero 0)) })] }
     accepted (.mzero k0 0) s = true ∧ 4 ≤ (s.core 0).eq.length) ∧
    ((atWord (.mretry k0 0 true)).tile 0 0).retry = none :=
  ⟨accepts_all (by decide), by decide, rfl⟩

/-- `ScratchOk` as a test. -/
def scratchOk (k : Ctx) (q : AccShape) (adr : Nat → Word) (sp : Space) (s : State) : Bool :=
  k.sel != 0 && k.lanes.all (fun l => (s.locate k.g q.die (adr l).toNat q.n).map (·.1) == some sp) &&
  (!(q.die && q.writes) || k.lanes.all (fun l => (s.grid k.g.grid).mayWrite (s.block k.g.block).blockId true 0 (s.offsetOf k.g q.die (adr l) q.n) q.n)) &&
  k.lanes.all (fun l => s.offsetOf k.g q.die (adr l) q.n % q.n == 0) && k.lanes.all (fun l => adr l >>> 8 == adr k.low >>> 8) &&
  k.lanes.all (fun l => !s.busy sp (s.offsetOf k.g q.die (adr l) q.n) q.n q.writes) && q.words.all (fun w => !s.busy sp w 4 q.writes) && q.beyond.isNone && q.foreign.isNone && orderOk k.g q (s.turn + bankDelay k.g sp)
theorem scratchOk_of {k : Ctx} {q : AccShape} {adr : Nat → Word} {sp : Space} {s : State} (h : scratchOk k q adr sp s = true) : ScratchOk k q adr sp s := by
  simp only [scratchOk, Bool.and_eq_true, List.all_eq_true, bne_iff_ne, ne_eq, beq_iff_eq, Bool.not_eq_true', Bool.or_eq_true] at h
  obtain ⟨⟨⟨⟨⟨⟨⟨⟨⟨a, b⟩, c⟩, d⟩, e⟩, f⟩, w⟩, n⟩, o⟩, g⟩ := h
  refine ⟨a, fun l hl => ?_, fun h1 h2 => ?_, d, fun _ _ => e, f, w, Option.isNone_iff_eq_none.1 n, Option.isNone_iff_eq_none.1 o, g⟩
  · obtain ⟨⟨sp', o⟩, ho, hs⟩ := Option.map_eq_some_iff.mp (b l hl)
    exact ⟨o, by rw [ho]; exact congrArg some (Prod.ext hs rfl)⟩
  · rcases c with c | c
    · simp [h1, h2] at c
    · exact c

/-- Addresses of 4 bytes for each lane. -/
def lane4 (s : State) : State :=
  groupWith (fun g => { g with lanes := mapFrom (fun j l => { l with v := [0, BitVec.ofNat 32 (4 * j)] ++ l.v.drop 2 }) 0 g.lanes }) s
theorem test_witness_ScratchWordsEnter :
    (∀ i ∈ [Instr.ld k0 .blk .b32 none (.v 3) (.v 1) 0, .st k0 .die .b32 (some .blk) (.v 1) (.v 2) 0, .atomBlk k0 .add32 none (.v 3) (.v 1) (.v 2) (.v 0) 0, .atomDie k0 .add32 (some .gang) (.v 3) (.v 1) (.v 2) (.v 0) 0, .redBlk k0 .add32 (.v 1) (.v 2) 0, .redDie k0 .add32 (.v 1) (.v 2) 0, .ldr k0 .blk false none (.v 3) (.v 1) 0, .stc k0 .die false none (.v 3) (.v 1) (.v 2) 0],
      Accepts i (atWordIn lane4 i) (issueOf (atWordIn lane4 i)) (groupOf (atWordIn lane4 i)) ∧ (seen i (atWordIn lane4 i)).sel ≠ 0 ∧
      ((atWordIn lane4 i).core 0).eq.length < 4 ∧ (groupOf (atWordIn lane4 i)).members.length < 32 ∧
      (groupOf (atWordIn lane4 i)).lanes.length = 64 ∧ (groupOf (atWordIn lane4 i)).hphase = .idle) ∧
    (let i : Instr := .ld k0 .blk .b32 none (.v 3) (.v 1) 0
     let s := atWordIn lane4 i
     ScratchOk (seen i s) { die := false, n := 4, reads := true, writes := false } (fun l => (seen i s).src32 s l (.v 1)) (.blk 0) (s.entered i (issueOf s) (groupOf s))) ∧
    (let i : Instr := .redDie k0 .add32 (.v 1) (.v 2) 0
     let s := gridOf (fun r => { r with desc := { r.desc with det := true }, owns := [{ block := 0, die := true, rng := 0, ofs := 0, len := 64 }] }) (atWordIn lane4 i)
     (s.grid 0).desc.det = true ∧
     ScratchOk (seen i s) { die := true, n := 4, reads := false, writes := true, turnless := true } (fun l => (seen i s).src32 s l (.v 1)) (.die 0 0) (s.entered i (issueOf s) (groupOf s))) :=
  ⟨ready_all lane4 (by decide), scratchOk_of (by decide), by decide, scratchOk_of (by decide)⟩

/-- What an access of the bench sees. -/
def nopCtx : Ctx := seen (.nop k0) (atWord (.nop k0))
/-- Scratch checks at their edges: the first address past the allocation, an odd one, another 256-byte segment, a busy
byte, and an order requirement above the bank turn. -/
theorem test_witness_AccessChecks :
    (let s := atWord (.nop k0)
     let q : AccShape := { die := true, n := 4, reads := false, writes := true }
     0 ∈ nopCtx.lanes ∧ (s.locate nopCtx.g true 4096 4).isNone = true ∧ (s.locate nopCtx.g true 4092 4).isNone = false ∧
     s.offsetOf nopCtx.g true 2 4 % 4 ≠ 0 ∧ (256 : Word) >>> 8 ≠ (0 : Word) >>> 8 ∧
     (groupWith (fun g => { g with members := [{ ident := 1, batch := none, done := false, busy := [{ space := .die 0 0, adr := 0, len := 64, all := true }] }] }) s).busy (.die 0 0) 60 4 true = true ∧
     orderOk { nopCtx.g with reqs := [{ writesOnly := true, above := 9 }] } q 3 = false) ∧
    -- bytes that another block owns in a deterministic grid
    (({ desc := { det := true }, req := { nown := 1 }, owns := [{ block := 7, die := true, rng := 0, ofs := 0, len := 1 }] } : Grid).mayWrite 0 true 0 0 4 = false) ∧
    -- copies: a range that is not there; alignment; length; a busy byte; a full batch; and none of these
    (let s := atWord (.nop k0)
     nopCtx.sel ≠ 0 ∧ s.copyViolation nopCtx.g { rng := some 0, farRd := [(0, 64)] } = some (1, 0) ∧
     s.copyViolation nopCtx.g { rng := none, scr := [(true, 0, 64, true)] } = none ∧
     32 ≤ ({ nopCtx.g with members := List.replicate 32 { ident := 1, batch := none, done := false, busy := [] } } : Group).members.length ∧
     nopCtx.g.members.length < 32) := by decide

/-- The first check of a copy at its edges: a range that is not there, the last 64 bytes of one and the first that are past it, scratch at and past the
end of the allocation, and die scratch that the block owns or does not. -/
theorem test_witness_AccessChecks_copies :
    (let s := gridOf (fun r => { r with
       desc := { r.desc with det := true, dscr := 65536 }
       exts := [{ base := 0, size := 65536, acc := 3, atom := 2, segs := [{ ofs := 0, len := 65536, phys := 1048576, host := true, atomOk := 3, mir := false }] }]
       owns := [{ block := 0, die := true, rng := 0, ofs := 0, len := 1 }] }) (atWord (.nop k0))
     let v := s.copyViolation nopCtx.g
     (s.ext nopCtx.g 0).isSome = true ∧ s.ext nopCtx.g 1 = none ∧ v { rng := some 1, farRd := [(128, 64)] } = some (1, 128) ∧
     v { rng := some 0, farRd := [(0, 64), (65472, 64)] } = none ∧ v { rng := some 0, farRd := [(0, 64), (65473, 64)] } = some (1, 65473) ∧
     v { rng := some 0, farWr := [(0, 4)], atomic := true } = some (1, 0) ∧ v { rng := some 0, farWr := [(64, 64)] } = some (3, 64) ∧
     v { rng := none, scr := [(true, 65472, 64, false)] } = none ∧ v { rng := none, scr := [(true, 65473, 64, false)] } = some (2, 65473) ∧
     v { rng := none, scr := [(true, 0, 64, true)] } = none ∧ v { rng := none, scr := [(true, 0, 64, true), (true, 64, 64, true)] } = some (3, 64)) := by decide

theorem test_witness_StackAndStepWords :
    (∀ i ∈ [Instr.spill k0 .b32 (.v 1) (.v 2) 0, .fill k0 .b64 (.v 2) (.v 1) 0, .halloc k0 true (.v 3) (.v 1) (.v 2), .hfree k0 (.v 1) (.v 2) (.v 3), .launch k0 (.v 4) (.v 1)],
      Accepts i (atWordIn id i) (issueOf (atWordIn id i)) (groupOf (atWordIn id i)) ∧ (seen i (atWordIn id i)).sel ≠ 0 ∧
      ((atWordIn id i).core 0).eq.length < 4 ∧ (groupOf (atWordIn id i)).members.length < 32 ∧
      (groupOf (atWordIn id i)).lanes.length = 64 ∧ (groupOf (atWordIn id i)).hphase = .idle) ∧
    -- the last word that fits in the share of 1,024 bytes, the first that does not, and one that is misaligned
    ((atWord (.nop k0)).grid 0).desc.spill / 64 = 1024 ∧ 1020 + 4 ≤ 1024 ∧ ¬ (1024 + 4 ≤ 1024) ∧ 1018 % 4 ≠ 0 ∧
    (let i : Instr := .halloc k0 true (.v 3) (.v 1) (.v 2)
     let s := atWord i
     ScratchOk (seen i s) ((s.entered i (issueOf s) (groupOf s)).heapShape (seen i s) (.v 1) (fun r room o => r.allocs room o ((seen i s).requests s (.v 2) none))) (fun _ => (seen i s).low32 s (.v 1)) (.die 0 0) (s.entered i (issueOf s) (groupOf s))) ∧
    (let i : Instr := .launch k0 (.v 4) (.v 1)
     let s := atWord i
     ScratchOk (seen i s) { die := false, n := 64, reads := true, writes := false } (fun _ => (seen i s).low32 s (.v 1)) (.blk 0) (s.entered i (issueOf s) (groupOf s))) ∧
    (let i : Instr := .hfree k0 (.v 1) (.v 2) (.v 3)
     let s := atWord i
     let u := s.entered i (issueOf s) (groupOf s)
     ScratchOk (seen i s) { u.heapShape (seen i s) (.v 1) (fun r room o => r.frees room o ((seen i s).requests s (.v 2) (some (.v 3)))) with foreign := u.freeForeign (seen i s) (.v 1) (.v 2) (.v 3) }
       (fun _ => (seen i s).low32 s (.v 1)) (.die 0 0) u) :=
  ⟨ready_all id (by decide), by decide, by decide, by decide, by decide, scratchOk_of (by decide), scratchOk_of (by decide), scratchOk_of (by decide)⟩

/-- A ring of one entry at 0 of block scratch. -/
def ringAt (s : State) : State := { s with blocks := tmod s.blocks 0 (fun b => { b with scr := { cells := [(0, 1)] } }) }
theorem test_witness_RingWordsGo :
    (∀ i ∈ [Instr.ringPut k0 (.v 1) (.v 2), .ringGet k0 (.v 3) (.v 1), .ringPeek k0 (.v 4) (.v 1)],
      Accepts i (atWordIn ringAt i) (issueOf (atWordIn ringAt i)) (groupOf (atWordIn ringAt i)) ∧ (seen i (atWordIn ringAt i)).sel ≠ 0 ∧
      ((atWordIn ringAt i).core 0).eq.length < 4 ∧ (groupOf (atWordIn ringAt i)).members.length < 32 ∧
      (groupOf (atWordIn ringAt i)).lanes.length = 64 ∧ (groupOf (atWordIn ringAt i)).hphase = .idle) ∧
    (let i : Instr := .ringPut k0 (.v 1) (.v 2)
     let s := (atWordIn ringAt i).entered i (issueOf (atWordIn ringAt i)) (groupOf (atWordIn ringAt i))
     ringWord (s.ram (.blk 0)) 0 0 = 1 ∧ ringWord (s.ram (.blk 0)) 0 1 < 2 ∧ ringWord (s.ram (.blk 0)) 0 2 < 2 ∧
     0 + 0x40 + 8 * 1 ≤ ((atWord i).grid 0).desc.bscr ∧ s.busy (.blk 0) 0 12 true = false ∧ s.busy (.blk 0) 0x40 8 true = false ∧
     orderOk (groupOf (atWordIn ringAt i)) { die := false, n := 64, reads := false, writes := true, rel := true } (s.turn + 1) = true) :=
  ⟨ready_all ringAt (by decide), by decide⟩

/-- Two ranges of 64 KiB, in HBM and in host memory, which a block may read, write and use for atomics. -/
def ranged (s : State) : State :=
  gridOf (fun r => { r with
    desc := { r.desc with bscr := 65536, dscr := 65536 }
    exts := [{ base := 0, size := 65536, acc := 3, atom := 3, segs := [{ ofs := 0, len := 65536, phys := 1048576, host := false, atomOk := 3, mir := false }] },
             { base := 0, size := 65536, acc := 3, atom := 3, segs := [{ ofs := 0, len := 65536, phys := 0, host := true, atomOk := 3, mir := false }] }] }) s
/-- Registers for the copies: a length of 64 bytes in v6, one row of one unit in v8:v9, one element in v10. -/
def copyRegs (s : State) : State := regs [0, 0, 0, 0, 0, 0, 64, 0, 0x10001, 0, 1] (ranged s)
theorem test_witness_CopyWordsJoin :
    (∀ i ∈ [Instr.cpy k0 false 0 false true (.v 12) (.v 2) (.v 4) (.v 6), .cpy2d k0 true 1 false true (.v 12) (.v 2) (.v 4) (.v 8), .gather k0 (some 0) true 2 false (.v 12) (.v 2) (.v 4) (.v 10), .scatter k0 none false 2 false (.v 12) (.v 2) (.v 4) (.v 10), .cpyAtom k0 .add32 0 true false (.v 12) (.v 2) (.v 4) (.v 5), .cpyDigest k0 (some 0) true (.v 12) (.v 2) (.v 4) (.v 6), .cpyDigest k0 none true (.v 12) (.v 2) (.v 4) (.v 6)],
      Accepts i (atWordIn copyRegs i) (issueOf (atWordIn copyRegs i)) (groupOf (atWordIn copyRegs i)) ∧ (seen i (atWordIn copyRegs i)).sel ≠ 0 ∧
      ((atWordIn copyRegs i).core 0).eq.length < 4 ∧ (groupOf (atWordIn copyRegs i)).members.length < 32 ∧
      (groupOf (atWordIn copyRegs i)).lanes.length = 64 ∧ (groupOf (atWordIn copyRegs i)).hphase = .idle) ∧
    (let i : Instr := .cpy k0 false 0 false true (.v 12) (.v 2) (.v 4) (.v 6)
     let s := atWordIn copyRegs i
     let k := seen i s
     (k.src s 2 k.low (.v 2)).toNat = 0 ∧ (k.low32 s (.v 4)).toNat = 0 ∧ (k.low32 s (.v 6)).toNat = 64 ∧
     s.locate (groupOf s) false 0 64 = some (.blk 0, 0) ∧ s.busy (.blk 0) 0 64 true = false ∧
     ∃ e, s.ext (groupOf s) 0 = some e ∧ s.copyFar (groupOf s) e 0 0 64 false) ∧
    (let i : Instr := .cpy2d k0 true 1 false true (.v 12) (.v 2) (.v 4) (.v 8)
     let s := atWordIn copyRegs i
     let k := seen i s
     (k.src s 2 k.low (.v 8)).toNat = 0x10001 ∧ ∃ e, s.ext (groupOf s) 1 = some e ∧ s.copyFar (groupOf s) e 1 0 64 true) ∧
    (let i : Instr := .cpyAtom k0 .add32 0 true false (.v 12) (.v 2) (.v 4) (.v 5)
     let s := atWordIn copyRegs i
     let k := seen i s
     (∀ l ∈ k.lanes, (k.src s 2 l (.v 2)).toNat = 0) ∧ (∀ l ∈ k.lanes, s.locate (groupOf s) false (0 + 4 * l) 4 = some (.blk 0, 0 + 4 * l)) ∧
     ∃ e, s.ext (groupOf s) 0 = some e ∧ e.canRead = true ∧ (if e.cls 0 = .X then 3 else 1) ≤ e.atom ∧ s.copyFar (groupOf s) e 0 0 4 true) := by
  refine ⟨ready_all copyRegs (by decide), ⟨by decide, by decide, by decide, by decide, by decide, _, rfl, by decide, by decide, by decide⟩,
    ⟨by decide, _, rfl, by decide, by decide, by decide⟩, ⟨by decide, by decide, _, rfl, by decide, by decide, by decide, by decide, by decide⟩⟩

/-- Element 0 of a scatter to die scratch, in a deterministic grid that gives the block none of it. -/
theorem test_witness_CopyWordsJoin_scatter :
    (let i : Instr := .scatter k0 none false 2 false (.v 12) (.v 2) (.v 4) (.v 10)
     let s := gridOf (fun r => { r with desc := { r.desc with det := true } }) (atWordIn copyRegs i)
     let s0 := s.entered i (issueOf s) (groupOf s)
     Accepts i s (issueOf s) (groupOf s) ∧ (seen i s).sel ≠ 0 ∧ s0.locate (groupOf s) false 0 (4 * 1) = some (.blk 0, 0) ∧
     ((seen i s).low32 s (.v 10)).toNat = 1 ∧ toWords 1 ((s0.ram (.blk 0)).nat 0 (4 * 1)) = [0] ∧ s0.locate (groupOf s) true 0 4 = some (.die 0 0, 0) ∧
     (s.grid 0).mayWrite (s.block 0).blockId true 0 0 4 = false) := by
  refine ⟨accepts_of_accepted (by decide), by decide, by decide, by decide, by decide, by decide, by decide⟩

/-- A remote store behind a narrow `fence.rel` over accesses up to turn 5 acts from turn 6 on. -/
theorem test_witness_RemoteWordsGo_fence :
    (let i : Instr := .rmtSt k0 .b64 none (.v 2) (.v 6) (.v 4) 8
     let s := groupWith (fun g => { g with reqs := [{ writesOnly := true, above := 5 }] }) (atWordIn ranged i)
     (match exec i s with | .next t => ((groupOf t).runq.map (·.floor)) == [6] | _ => false) = true) := by decide
/-- The last slot of the bench's line, one byte past it, and the first byte past the image. -/
theorem test_targets :
    (let s := atWord (.nop k0)
     let g := groupOf s
     (s.validTarget g 48, s.validTarget g 49, s.validTarget g (64 * (s.grid 0).desc.nlines))) = (true, false, false) := by decide
/-- The slot at 12 of a line whose TGT bits are 1 is no target (02 R43). -/
theorem test_targets_bit :
    (let l : Line := { slots := List.replicate 5 (BitVec.allOnes 96), lw := lineWord (List.replicate 5 (BitVec.allOnes 96)) 0 1 }
     let s := State.reset.bench .general l
     (s.validTarget (groupOf s) 0, s.validTarget (groupOf s) 12)) = (true, false) := by decide

/-- With no pattern there is one device, number 0, whose own ranges a remote word of peer 0 names. -/
theorem test_witness_RemoteWordsGo :
    (∀ i ∈ [Instr.rmtLd k0 .b32 none (.v 12) (.v 2) (.v 4) 0, .rmtSt k0 .b64 none (.v 2) (.v 6) (.v 4) 8, .rmtAtom k0 .add32 (some .dev) (.v 12) (.v 2) (.v 6) (.v 4) 0],
      Accepts i (atWordIn ranged i) (issueOf (atWordIn ranged i)) (groupOf (atWordIn ranged i)) ∧ (seen i (atWordIn ranged i)).sel ≠ 0 ∧
      ((atWordIn ranged i).core 0).eq.length < 4 ∧ (groupOf (atWordIn ranged i)).members.length < 32 ∧
      (groupOf (atWordIn ranged i)).lanes.length = 64 ∧ (groupOf (atWordIn ranged i)).hphase = .idle) ∧
    (let i : Instr := .rmtSt k0 .b64 none (.v 2) (.v 6) (.v 4) 8
     let s := atWordIn ranged i
     let k := seen i s
     (∀ l ∈ k.lanes, s.peerOk (k.src32 s l (.v 4)) = true ∧ s.rmtViolation (groupOf s) .store (k.src32 s l (.v 4)) (k.src32 s l (.v 2) + (8 : BitVec 24).signExtend 32).toNat 8 = none ∧
       (k.src32 s l (.v 2) + (8 : BitVec 24).signExtend 32).toNat % 8 = 0) ∧
     (s.remotes.filter (fun r => r.gid == 0)).length + (distinctWords (k.lanes.map (fun l => k.src32 s l (.v 4)))).length ≤ 64) :=
  ⟨ready_all ranged (by decide), by decide⟩

theorem test_witness_SemaphoreWords :
    (∀ i ∈ [Instr.semPost k0 (.v 1) (.v 2), .signal k0 true (.v 1) (.v 2), .semWait k0 (.v 3) (.v 1) (.v 2)],
      Accepts i (atWordIn id i) (issueOf (atWordIn id i)) (groupOf (atWordIn id i)) ∧ (seen i (atWordIn id i)).sel ≠ 0 ∧
      ((atWordIn id i).core 0).eq.length < 4 ∧ (groupOf (atWordIn id i)).members.length < 32 ∧
      (groupOf (atWordIn id i)).lanes.length = 64 ∧ (groupOf (atWordIn id i)).hphase = .idle) ∧
    -- the last index with a semaphore, and the first without one
    (let i : Instr := .semPost k0 (.v 1) (.v 2)
     ((seen i (atWordIn (regs [0, 1023]) i)).low32 (atWordIn (regs [0, 1023]) i) (.v 1)).toNat ≤ 1023 ∧
     1023 < ((seen i (atWordIn (regs [0, 1024]) i)).low32 (atWordIn (regs [0, 1024]) i) (.v 1)).toNat) :=
  ⟨ready_all id (by decide), by decide⟩

theorem test_witness_SystemInstructions :
    (∀ i ∈ [Instr.sysrd k0 0x100 (.v 1), .sysrd k0 0x105 (.v 2), .sysrd k0 7 (.v 2), .syswr k0 9 (.v 1), .syswr k0 0x0C (.v 1), .snap k0, .evt k0 (.v 1) (.v 2), .leaseChk k0 (.v 1) (.v 2), .quench k0, .finj k0 .poison false (.v 1), .finj k0 .parity false (.v 1), .finj k0 .cevt false (.v 1)],
      Accepts i (atWordIn id i) (issueOf (atWordIn id i)) (groupOf (atWordIn id i)) ∧ (seen i (atWordIn id i)).sel ≠ 0 ∧
      ((atWordIn id i).core 0).eq.length < 4 ∧ (groupOf (atWordIn id i)).members.length < 32 ∧
      (groupOf (atWordIn id i)).lanes.length = 64 ∧ (groupOf (atWordIn id i)).hphase = .idle) ∧
    (groupOf (atWord (.quench k0))).nq ≤ 255 ∧
    (let i : Instr := .leaseChk k0 (.v 1) (.v 2)
     (∀ l ∈ (seen i (atWord i)).lanes, (atWord i).peerOk ((seen i (atWord i)).src32 (atWord i) l (.v 2)) = true) ∧
     0 ∈ (seen i (atWordIn (regs [0, 0, 1]) i)).lanes ∧ (atWordIn (regs [0, 0, 1]) i).peerOk 1 = false) ∧
    -- `finj acc` in a grid with a matrix role; `finj parity` at the last slot of the image
    (let s := gridOf (fun r => { r with desc := { r.desc with roles := 2 } }) (atWord (.finj k0 .acc false (.v 1)))
     accepted (.finj k0 .acc false (.v 1)) s = true ∧ (s.grid 0).desc.hasMatrix = true) ∧
    ((atWord (.nop k0)).locate (groupOf (atWord (.nop k0))) false 0 1 = some (.blk 0, 0) ∧ 48 < 64 * ((atWord (.nop k0)).grid 0).desc.nlines ∧ 48 % 64 % 12 = 0 ∧ 48 % 64 < 60) :=
  ⟨ready_all id (by decide), by decide, by decide, by decide, by decide⟩

/-- Writes of each kind at their turn, on groups, blocks and registers that they reach, and two of one tick in order. -/
theorem test_witness_SystemInstructions_pending :
    (let s := atWord (.nop k0)
     let t := fun (w : PWrite) => (s.modPart 0 (fun q => { q with pend := [{ due := s.turn, tick := 0, core := 3, quarter := 1, write := w }] })).applyWrites 0 (decide (w = .snap))
     s.parts.length = 8 ∧ ((t (.reg 0x00C 0x200)).part 0).fairlim = 0x200 ∧ ((t (.reg 0x00C 0x8000)).part 0).fairlim = 0x400 ∧
     ((t (.tol .f16 5)).part 0).tolOf .f16 = 5 ∧ (∃ e ∈ (s.part 0).tol, e.1 = .f16) ∧
     (tget s.groups 0).isSome = true ∧ (groupOf s).lanes.length = 64 ∧ ((t (.flags 0 [(2, 0x20081#32)])).group 0).fl = 1 ∧
     (s.blocks.map (·.1)).Nodup ∧ (s.part 0).snheld = false ∧ ((t .snap).block 0).snap.length = 288 ∧
     (s.part 0).elogwp - (s.part 0).elogrd = (s.part 0).elogsz ∧ ((t (.evt [1])).part 0).elogdrop = 1 ∧
     (tget (s.core 0).lines 0).isSome = true) ∧
    (let s := (atWord (.nop k0)).modPart 0 (fun q => { q with snheld := true, snTrig := 3, pend := [{ due := 0, tick := 0, core := 3, quarter := 1, write := .snap }] })
     (s.part 0).snTrig ≠ 16 * s.turn ∧ ((s.applyWrites 0 true).part 0).snmiss = 1) ∧
    -- Example 2 of chapter 16: core 40's write stands
    (let ws : List Pending := [{ due := 0, tick := 8000, core := 40, quarter := 1, write := .reg 0x00C 0x100 }, { due := 0, tick := 8000, core := 3, quarter := 1, write := .reg 0x00C 0x200 }]
     ((((atWord (.nop k0)).modPart 0 (fun q => { q with pend := ws })).applyWrites 0 false).part 0).fairlim = 0x100) := by
  decide

/-- The bench inside a running handler. -/
def handling (s : State) : State := groupWith (fun g => { g with hphase := .running, lanes := g.lanes.map (fun l => { l with hand := .inside }) }) s
theorem test_witness_TrapsAndReturns :
    (∀ i ∈ [Instr.trap k0 3, .rti k0], Accepts i (atWordIn id i) (issueOf (atWordIn id i)) (groupOf (atWordIn id i)) ∧ (seen i (atWordIn id i)).sel ≠ 0 ∧
      ((atWordIn id i).core 0).eq.length < 4 ∧ (groupOf (atWordIn id i)).members.length < 32 ∧
      (groupOf (atWordIn id i)).lanes.length = 64 ∧ (groupOf (atWordIn id i)).hphase = .idle) ∧
    (accepted (.rti k0) (atWordIn handling (.rti k0)) = true ∧ (groupOf (atWordIn handling (.rti k0))).hphase = .running) ∧
    -- the wrong role, illegal fields, no privilege, and an engine command of a partial mask
    roleOk 0x90 .general = false ∧
    (let i : Instr := .mov k0 .b64 (.v 1) (.v 2)
     roleOk i.opc .general = true ∧ i.wf 256 = false) ∧
    (let i : Instr := .finj k0 .cevt false (.v 1)
     roleOk i.opc .general = true ∧ i.wf 256 = true ∧ needsPriv i = true) ∧
    (let i : Instr := .mzero { k0 with pe := true, p := 1 } 0
     let s := atWord i
     roleOk i.opc .matrix = true ∧ i.wf 256 = true ∧ isEngine i.opc = true ∧ predSel (groupOf s) (issueOf s).iset i ≠ (groupOf s).live) :=
  ⟨ready_all id (by decide), by decide, by decide, by decide, by decide, by decide⟩

/-- With SBCHK set, a result on its way to v2 makes lane 0 early. -/
theorem test_witness_EarlyReadersPark :
    (let i : Instr := .mov k0 .b32 (.v 1) (.v 2)
     let s := groupWith (fun g => { g with pend := [{ due := 3, seq := 0, dst := .v 2, res := [{ lane := 0, ws := [7] }], pc := 0 }] })
       { atWord i with parts := { st := .running, sbchk := true } :: List.replicate 7 {} }
     s.issue.isSome = true ∧ s.rejects i (groupOf s) (issueOf s).iset false = none ∧ (groupOf s).lanes.length = 64 ∧ (groupOf s).hphase = .idle ∧
     (s.undersized i (groupOf s) (issueOf s).iset (predSel (groupOf s) (issueOf s).iset i)).getLsbD 0 = true ∧
     (s.undersized i (groupOf s) (issueOf s).iset (predSel (groupOf s) (issueOf s).iset i)).getLsbD 1 = false ∧
     (s.part (groupOf s).pid).sbchk = true ∧
     (s.undersized (.mov { k0 with stop := true } .b32 (.v 1) (.v 9)) (groupOf s) 3 3) = 3 ∧ ((atWord i).part 0).sbchk = false) := by decide

theorem test_witness_ResetAndStartValues : (State.reset.part 7).st = .empty ∧ State.reset.parts.length = 8 ∧ State.reset.dev.fwok = true := by decide
theorem test_witness_DecodeOfEncode : (Instr.mov k0 .b32 (.v 255) (.v 2)).wf 256 = true ∧ (encode (.mov k0 .b32 (.v 255) (.v 2))).isSome = true ∧
    (Instr.fillWord).wf 8 = true ∧ (encode .fillWord).isSome = true ∧ (Instr.div .s32 5).wf 8 = true ∧ (encode (.div .s32 5)).isSome = true := by decide
theorem test_witness_EncodeOfDecode : decode (0xD0 * 2 ^ 88) = .ok (.bar k0) ∧ decode (BitVec.allOnes 96) = .ok .fillWord := ⟨by decide, by decide⟩

/-- A word in progress that decodes and one that does not, and the turn of the bench's group. -/
theorem test_witness_StepRunsTheWord :
    (atWord (.bar k0)).issue.isSome = true ∧ decode (issueOf (atWord (.bar k0))).word = .ok (.bar k0) ∧ decode (0x0D * 2 ^ 88) = .error .unassigned ∧
    (match nextAction (State.reset.withFetchWord 96 (0xD0 * 2 ^ 88)) with | .word i _ => i == .bar k0 | _ => false) = true := by
  refine ⟨by decide, by decide, by decide, by decide⟩
/-- A word of each kind that is no instruction, in progress on the bench. -/
theorem test_witness_StepRunsTheWord_errors :
    decode (0xF1 * 2 ^ 88) = .error .emul ∧ decode (0xF2 * 2 ^ 88 + 0x7F * 2 ^ 80) = .error .emul ∧ decode (0xFE * 2 ^ 88) = .error .unassigned ∧
    decode (0x100B * 2 ^ 80) = .error .sub ∧ decode (0xD0 * 2 ^ 88 + 2 ^ 16) = .error .reserved ∧
    (let s := { atWord (.bar k0) with issue := some { issueOf (atWord (.bar k0)) with word := 0x0D * 2 ^ 88 } }
     s.issue.isSome = true ∧ decode (issueOf s).word = .error .unassigned ∧ (tget s.groups 0).isSome = true ∧ (groupOf s).lanes.length = 64 ∧
     (groupOf s).hphase = .idle) := by
  refine ⟨by decide, by decide, by decide, by decide, by decide, by decide⟩
theorem test_witness_LanesMovePastTheWord :
    (let s := atWord (.nop k0)
     (issueOf s).void = false ∧ (groupOf s).lanes.length = 64 ∧ (issueOf s).second = none ∧ (issueOf s).iset.getLsbD 0 = true ∧
     ((groupOf s).lane 0).isLive = true ∧ ((groupOf s).lane 0).trec = none) ∧ ({ issueOf (atWord (.nop k0)) with second := some 0 } : Issue).second = some 0 := by decide
/-- CRC-32C of the nine bytes that its definition names for a check. -/
theorem test_crc32c : crc32c ("123456789".toList.map (fun c => BitVec.ofNat 8 c.toNat)) = 0xE3069283 := by decide
/-- A span begins anew where the slot has its TGT bit set, goes on elsewhere, and is empty after `sigchk` (18 R402). -/
theorem test_witness_LanesMovePastTheWord_signature :
    (let span : List Byte := [1, 2]
     let s := groupWith (fun g => g.modLane 0 (fun l => { l with sig := crc32c span })) (atWord (.nop k0))
     let with_ := fun (f : Issue → Issue) => ((({ s with issue := s.issue.map f } : State).finishWord.group 0).lane 0).sig
     let w := (issueOf s).word
     ((groupOf s).lane 0).sig = crc32c span ∧ with_ id = crc32c (span ++ toBytes 12 w.toNat) ∧ with_ (fun x => { x with tgt := true }) = crc32c (toBytes 12 w.toNat) ∧
     with_ (fun x => { x with word := 0x0A * 2 ^ 88 }) = 0) := by decide
theorem test_witness_MemoryStaysCanonical : Memory.wf State.reset.hbm.cells = true ∧ Memory.wf State.reset.host.cells = true ∧
    (match step State.reset with | .next _ => true | _ => false) = true := by decide
/-- The bench with bytes in block scratch; its step answers a next state. -/
theorem test_witness_ScratchStaysCanonical :
    (let s := { atWord (.nop k0) with blocks := tmod (atWord (.nop k0)).blocks 0 (fun b => { b with scr := { cells := [(0, 5), (9, 7)] } }) }
     s.scratchOk ∧ (match step s with | .next _ => true | _ => false) = true) := by
  simp only [State.scratchOk, ScratchCanonical]; decide
theorem test_witness_WordsKeepStorage : (∀ i ∈ [Instr.exit k0, .trap k0 1, .fillWord, .div .s32 0], (i.ctl?.isSome || i == .fillWord || i == .div .s32 0) = true ∧
    (match exec i (atWord i) with | .next _ => true | _ => false) = true) := by decide

/-- A store of lane 0 to the last word of block scratch, and one to lane 63's spill stack. -/
theorem test_witness_StoresWriteTheirBytes :
    Memory.wf ((atWord (.nop k0)).ram (.blk 0)).cells = true ∧ Memory.wf ((atWord (.nop k0)).ram (.spill 0)).cells = true ∧
    (tget (atWord (.nop k0)).blocks 0).isSome = true ∧ widthOk (.blk 0) { lane := 0, adr := 4092, b := [7] } 4 ∧
    (tget (atWord (.nop k0)).groups 0).isSome = true ∧ widthOk (.spill 0) { lane := 63, adr := 0, b := [7] } 4 ∧
    byteAdr (.blk 0) { lane := 0, adr := 4092, b := [7] } 3 = 4095 := by
  refine ⟨by decide, by decide, by decide, ⟨by decide, by decide, trivial⟩, by decide, ⟨by decide, by decide, by decide, by decide⟩, by decide⟩
/-- Lanes 0 and 1 store the last word of block scratch, in a granule with a mark, and sixteen lanes the whole granule (09 R188, R192). -/
theorem test_witness_StoresWriteTheirBytes_shared :
    (let s := { atWord (.nop k0) with blocks := tmod (atWord (.nop k0)).blocks 0 (fun b => { b with scr := { cells := [], poison := [63] } }) }
     let x := fun (ls : List ALane) => ({ bank := 0, tick := 0, core := 0, quarter := 0, gid := 0, space := .blk 0, op := .st 4, dst := .spec 0, land := 2, seq := 1, pc := 0, lanes := ls } : Access)
     let two : List ALane := [{ lane := 0, adr := 4092, b := [7] }, { lane := 1, adr := 4092, b := [9] }]
     (two.map (·.lane)).Pairwise (· < ·) ∧ memRd ((s.applyStore (x two) 4).ram (.blk 0)).cells 4092 = 9 ∧ 63 ∈ ((s.applyStore (x two) 4).ram (.blk 0)).poison ∧
     63 ∉ ((s.applyStore (x ((List.range 16).map (fun i => { lane := i, adr := 4032 + 4 * i, b := [7] }))) 4).ram (.blk 0)).poison) := by decide
/-- A load of two lanes, one of whose granules is poisoned, and an atomic of one lane. -/
theorem test_witness_LoadsAndAtomicsApply :
    (let s := { atWord (.nop k0) with blocks := tmod (atWord (.nop k0)).blocks 0 (fun b => { b with scr := { cells := [(0, 5)], poison := [1] } }) }
     Memory.wf (s.ram (.blk 0)).cells = true ∧ (groupOf s).lanes.length = 64 ∧ (groupOf s).hphase = .idle ∧ (s.ram (.blk 0)).poisoned 64 4 = true ∧ (s.ram (.blk 0)).poisoned 0 4 = false ∧
     [0, 63].Nodup ∧ ofWords [5] < 2 ^ 32) := by decide
/-- The descriptor of Example 5 of chapter 09 in die scratch, with the free stacks at 0x40: DEPTH 4, TOP(1) = 1 with entry 0 of stack 1 = 0x80. -/
def heapCells : Mem :=
  let m := memWrite [] 0 (toBytes 4 0x400 ++ toBytes 4 0x300 ++ toBytes 4 0x40 ++ toBytes 4 4 ++ toBytes 4 0x10000)
  memWrite (memWrite m 0x30 [5]) (0x40 + 4 * 4) [0x80]
def heapState : State :=
  gridOf (fun r => { r with desc := { r.desc with dscr := 65536 }, scr0 := { cells := heapCells } })
    (groupWith (fun g => { g with pend := [{ due := 9, seq := 1, dst := .v 6, res := [], pc := 12 }] }) (atWord (.nop k0)))
def heapAccess (ns : List Nat) : Access :=
  { bank := 0, tick := 0, core := 0, quarter := 0, gid := 0, space := .die 0 0, op := .halloc false, dst := .v 6, land := 6, seq := 1, pc := 12
    lanes := mapFrom (fun i n => { lane := i, adr := 0, b := [BitVec.ofNat 32 n] }) 0 ns }
/-- 09 Example 5: the results, and the descriptor's BUMP, TOP(1), LIVE and FAILS. -/
theorem test_halloc_example : (let t := heapState.applyHalloc (heapAccess [100, 128, 200, 64]) false
    ((t.group 0).pend.map (fun p => p.res.map (fun r => (r.lane, r.ws, r.fl)))) =
      [[(0, [0x80], 0), (1, [0x300], 0), (2, [0xFFFFFFFF], 0x40), (3, [0x380], 0)]] ∧
    [heapWord (t.ram (.die 0 0)).cells 0 1, heapTop (t.ram (.die 0 0)).cells 0 1, heapWord (t.ram (.die 0 0)).cells 0 12, heapWord (t.ram (.die 0 0)).cells 0 13] =
      [0x3C0, 0, 8, 1]) := by decide
/-- 09 Example 5 in mode 1: FAILS alone changes, and the lanes park with cause SPACE, first failing lane 2. -/
theorem test_halloc_example_mode1 : (let t := heapState.applyHalloc (heapAccess [100, 128, 200, 64]) true
    [heapWord (t.ram (.die 0 0)).cells 0 1, heapTop (t.ram (.die 0 0)).cells 0 1, heapWord (t.ram (.die 0 0)).cells 0 12, heapWord (t.ram (.die 0 0)).cells 0 13] =
      [0x300, 1, 5, 1] ∧ (((t.group 0).lane 0).trec.map (fun r => (r.trap, r.cause, r.info))) = some (8, 3, 2)) := by decide
theorem test_witness_LoadsAndAtomicsApply_heap :
    (∃ p ∈ (heapState.group 0).pend, p.seq = (heapAccess [100]).seq) ∧ Memory.wf (heapState.ram (.die 0 0)).cells = true ∧
    (heapState.ram (.die 0 0)).poison = [] ∧ (heapState.grid 0).desc.det = false ∧ HeapFits heapState (heapState.group 0) (.die 0 0) 0 ∧
    ¬ HeapCorrupt (heapState.ram (.die 0 0)).cells 0 ∧ HeapClass 100 1 ∧ 0 < heapTop (heapState.ram (.die 0 0)).cells 0 1 ∧
    (heapState.group 0).hphase = .idle := by
  refine ⟨⟨_, .head _, rfl⟩, by decide, by decide, by decide, ⟨by decide, by decide, by decide⟩, ?_, ⟨by decide, by decide⟩, by decide, by decide⟩
  unfold HeapCorrupt
  decide
/-- Lane 0 alone pops from the stacks of Example 5 when STK is 2^28: outside for a group of no gang of two dies. -/
theorem test_witness_StackAndStepWords_outside :
    (let i : Instr := .halloc k0 true (.v 3) (.v 1) (.v 2)
     let s0 := gridOf (fun r => { r with desc := { r.desc with dscr := 65536 }, scr0 := { cells := memWrite heapCells 8 (toBytes 4 0x10000000) } }) (atWord i)
     let s : State := { s0 with issue := s0.issue.map (fun x => { x with iset := 1#64, all := 1#64 }) }
     let m := (s.ram (.die 0 0)).cells
     Accepts i s (issueOf s) (groupOf s) ∧ (seen i s).lanes = [0] ∧ s.locate (groupOf s) true ((seen i s).src32 s 0 (.v 1)).toNat 64 = some (.die 0 0, 0) ∧
     (s.ram (.die 0 0)).poisoned 0 64 = false ∧ ¬ HeapCorrupt m 0 ∧ 0 < heapTop m 0 1 ∧ heapTop m 0 1 ≠ heapDepth m 0 ∧ s.stackEnd (groupOf s) ≤ heapWord m 0 2) := by
  refine ⟨accepts_of_accepted (by decide), by decide, by decide, by decide, ?_, by decide, by decide, by decide⟩
  unfold HeapCorrupt
  decide
/-- Lane 0 holds a reservation on granule 0 of the bench's block, and lane 1 a held one on granule 1. -/
theorem test_witness_LoadsAndAtomicsApply_reserved :
    (let s := groupWith (fun g => (g.modLane 0 (fun l => { l with resv := some { space := .blk 0, granule := 0, held := false, order := 1 } })).modLane 1
       (fun l => { l with resv := some { space := .blk 0, granule := 1, held := true, order := 2 } })) (atWord (.nop k0))
     (s.groups.map (·.1)).Nodup ∧ (groupOf s).lanes.length = 64 ∧ s.stcOk 0 0 (.blk 0) 0 = true ∧ s.stcOk 0 0 (.blk 0) 1 = false ∧
     ((groupOf s).lane 0).resv = some { space := .blk 0, granule := 0, held := false, order := 1 }) := by decide
/-- A launch on the bench: a request of zeros is rejected. -/
theorem test_witness_LoadsAndAtomicsApply_launch :
    (let s := atWord (.nop k0)
     s.parts.length = 8 ∧ (groupOf s).pid < 8 ∧ (s.grid (groupOf s).grid).stream < 64 ∧ (s.ram (.blk 0)).poisoned 0 64 = false ∧
     (match s.launchDecode 0 0 false (memRead (s.ram (.blk 0)).cells 0 64) with | .ok _ => false | .error _ => true) = true) := by decide

/-- The record of a launch that was rejected, in its turn and in the one before. -/
theorem test_witness_LoadsAndAtomicsApply_reject :
    (let j : LateReject := { due := 96, stream := 63, tag := 5, lstat := 0x10000000, amount := 0, intr := false }
     let s := { atWord (.nop k0) with turn := 96, parts := lmod (atWord (.nop k0)).parts 0 (fun q => { q with rejects := [j] }) }
     (s.part 0).rejects = [j] ∧ s.rejectsDue 0 = true ∧ ({ s with turn := 95 } : State).rejectsDue 0 = false ∧ ((s.writeRejects 0).part 0).rejects = []) := by decide

/-! Witnesses: states in which the events' hypotheses hold, in which each event has a next state -/

/-- The bench between issues. -/
def calm : State := { atWord (.nop k0) with issue := none }
/-- The event answers a next state. -/
def goes (i : Instr) (s : State) : Bool := match exec i s with | .next _ => true | _ => false
/-- The result of lane 3 for v5, due now. -/
def due5 : Landing := { due := 0, seq := 1, dst := .v 5, res := [{ lane := 3, ws := [9], fl := 0x10 }], pc := 12 }
theorem test_witness_ResultsLand :
    (let s := groupWith (fun g => { g with pend := [due5] }) calm
     (groupOf s).pend = [due5] ∧ due5.due ≤ s.turn ∧ s.semq = [] ∧ due5.quench = [] ∧ (due5.res.map (·.lane)).Nodup ∧ (groupOf s).lanes.length = 64 ∧
     (groupOf s).hphase = .idle ∧ goes (.resultLand 0) s = true) := by decide
/-- The same result for an entry lane of a running handler and while frames are read, one of the handler's own, and one that quenches. -/
theorem test_witness_ResultsLand_handler :
    (let s := groupWith (fun g => { g with pend := [due5], hphase := .running, hseq := 1, lanes := g.lanes.map (fun l => { l with hand := .inside }) }) calm
     (groupOf s).hphase = .running ∧ ((groupOf s).lane 3).hand ≠ .out ∧ due5.seq ≤ (groupOf s).hseq ∧ Memory.wf (groupOf s).spill.cells = true ∧
     due5.res = [{ lane := 3, ws := [9], fl := 0x10 }] ∧ frameWord ((s.land 0).group 0) 3 25 = 9 ∧ frameWord ((s.land 0).group 0) 3 9 = 9) ∧
    (let s := groupWith (fun g => { g with pend := [due5], hphase := .restore 0, lanes := g.lanes.map (fun l => { l with hand := .reached }) }) calm
     ((groupOf s).lane 3).hand ≠ .out ∧ (groupOf s).hphase = .restore 0) ∧
    (let s := groupWith (fun g => { g with pend := [due5], hphase := .running, lanes := g.lanes.map (fun l => { l with hand := .inside }) }) calm
     (groupOf s).hseq < due5.seq ∧ (groupOf s).te &&& (0x10#8).extractLsb' 0 5 = 0) ∧
    (let s := groupWith (fun g => { g with pend := [due5], hphase := .running, te := 0x10, lanes := g.lanes.map (fun l => { l with hand := .inside }) }) calm
     (groupOf s).hseq < due5.seq ∧ (groupOf s).te &&& (0x10#8).extractLsb' 0 5 ≠ 0 ∧ ((groupOf s).lane 3).life = .live ∧
     ((groupOf s).lane 3).trec = none ∧ (tget s.grids (groupOf s).grid).isSome = true ∧ goes (.resultLand 0) s = true) ∧
    (let s := groupWith (fun g => { g with pend := [{ due5 with quench := [7, 8] }] }) calm
     (groupOf s).pend = [{ due5 with quench := [7, 8] }] ∧ [7, 8].Nodup ∧ (groupOf s).nq ≤ 255 ∧ ((s.land 0).group 0).nq = 2) := by
  refine ⟨by decide, by decide, by decide, by decide, by decide⟩

/-- Every lane parked, with a handler at 12 in a spill share that holds its frame. -/
def parked (targ : Word) (s : State) : State :=
  groupWith (fun g => { g with nregs := 8, lanes := g.lanes.map (fun l => { l with v := List.replicate 8 0, trec := some { trap := 3, cause := 0 } }) })
    (gridOf (fun r => { r with desc := { r.desc with trapofs := targ } }) s)
theorem test_witness_TrapTaking :
    (let s := parked 12 calm
     (∀ l, l < 64 → (groupOf s).selectable ((groupOf s).lane l) = false) ∧ (groupOf s).ringNew s.turn = 0 ∧
     (s.grid 0).desc.trapofs ≠ 0xFFFFFFFF ∧ 80 + 4 * 8 ≤ (s.grid 0).desc.spill / 64 ∧ goes (.trapEntry 0) s = true) ∧
    (Group.untaken (groupOf (parked 12 calm)) 0) ∧
    ((parked 0xFFFFFFFF calm).grid 0).desc.trapofs = 0xFFFFFFFF ∧ goes (.trapEntry 0) (parked 0xFFFFFFFF calm) = true ∧ calm.parts.length = 8 ∧
    (let s := groupWith (fun g => { g with hphase := .capture 0 0 1 }) (parked 12 calm)
     (groupOf s).hphase = .capture 0 0 1 ∧ Memory.wf (groupOf s).spill.cells = true ∧ ((groupOf s).lane 0).v.length = (groupOf s).nregs ∧
     ((groupOf s).lane 0).o.length = 8 ∧ (1 : Mask).getLsbD 0 = true ∧ goes (.trapFrameCaptured 0) s = true) ∧
    (let s := groupWith (fun g => { g with hphase := .running, lanes := g.lanes.map (fun l => { l with hand := .reached }) }) calm
     (∀ l ∈ (groupOf s).lanes, l.hand ≠ .inside) ∧ goes (.handlerEnd 0) s = true) ∧
    (let s := groupWith (fun g => { g with hphase := .restore 0, lanes := g.lanes.map (fun l => { l with hand := .reached }) }) calm
     (groupOf s).hphase = .restore 0 ∧ (∀ l ∈ (groupOf s).lanes, l.hand = .reached → l.trec = none) ∧ goes (.trapFrameRestored 0) s = true) := by
  refine ⟨by decide, ⟨by decide, by decide, by decide⟩, by decide, by decide, by decide, by decide, by decide, by decide⟩

/-- Two keys: lanes 0 to 31 stand at 0 and the others at 12, with YLD set. -/
def split2 (s : State) : State := groupWith (fun g => { g with yld := true, lanes := mapFrom (fun j l => { l with pc := if j < 32 then 0 else 12 }) 0 g.lanes }) s
theorem test_witness_CoreEventsGo :
    ((calm.groups.map (·.1)).Nodup ∧ goes .rotationBoundary calm = true) ∧
    (let s := groupWith (fun g => { g with slot := none, readySince := some 0 }) { calm with turn := 1 }
     (groupOf s).quarter < 4 ∧ (groupOf s).stoodFin = false ∧ (s.part 0).st = .running ∧ ((groupOf s).stood &&& ~~~(groupOf s).ringNew s.turn) ≠ 0 ∧ 0 < 16 * s.turn) ∧
    (let s := split2 calm
     (groupOf s).exc = false ∧ (groupOf s).selectable ((groupOf s).lane 32) = true ∧ ((groupOf s).lane 0).key < ((groupOf s).lane 32).key ∧ goes (.fairnessExcursion 0) s = true) ∧
    goes (.waitcExpire 0) calm = true ∧ goes (.stopSpacing 0) calm = true ∧
    (calm.groupAt calm.pos = some 0 ∧ 0 ∉ (calm.grid 0).parFails ∧ goes (.lineRefetch 0 0) calm = true) ∧
    0 ∈ ((gridOf (fun r => { r with parFails := [0] }) calm).grid 0).parFails ∧
    (let e : REntry := { space := .blk 0, adr := 0, op := .add32, val := 5, block := 0, gidx := 0, lane := 0, seq := 0, gid := 0, tick := 0 }
     let s := { calm with cores := [(0, { rbuf := [e], rflush := [(0, e)] })], turn := 1 }
     (s.core 0).rbuf.filter (fun q => q.tick < 16 * s.turn) = [e] ∧ (s.core 0).rflush = [(0, e)] ∧ (tget s.blocks 0).isSome = true ∧ Memory.wf (s.ram (.blk 0)).cells = true ∧
     goes (.forcedFlush 0) s = true ∧ goes (.endFlush 0) s = true ∧ goes (.reductionEntryApply 0) s = true) := by
  refine ⟨by decide, by decide, by decide, by decide, by decide, by decide, by decide, by decide⟩

theorem test_witness_MatrixEngineEvents :
    (let c := someCmd (.mzero 0)
     let s := { calm with cores := [(0, { eq := [c] })] }
     (s.core 0).eq = [c] ∧ c.start = none ∧ (tget s.groups 0).isSome = true ∧ (s.core 0).tiles.length = 8 ∧ calm.parts.length = 8 ∧ (groupOf s).lanes.length = 64) ∧
    (let m : MLoop := { tile := 0, t := .s8, sc := false, acc := true, adie := false, bdie := false, abase := 0, bbase := 0, ainc := 0, binc := 0, nk := 1, rl := 4 }
     let a : StepData := { step := 0, bytes := [], poisoned := false }
     let c := { someCmd (.mloop m true) with da := [a], db := [a], start := some 0 }
     c.kind = .mloop m true ∧ c.da = a :: [] ∧ m.tile < 8 ∧ ({ retries := 2, stat := 4 } : Tile).stat = 4 ∧ 2 ≤ ({ retries := 2 } : Tile).retries) := by
  refine ⟨⟨rfl, rfl, by decide, rfl, by decide, by decide⟩, ⟨rfl, rfl, by decide, rfl, by decide⟩⟩

/-- A halt two turns after the start of an `mdrain` of tile 7. -/
theorem test_witness_MatrixEngineEvents_halt :
    (let r : DrainRun := { cmd := someCmd (.mdrain 7), start := 0, n := 7, tile := {}, counted := false }
     let s := { calm with cores := [(0, { drain := some r })] }
     (s.core 0).drain = some r ∧ r.n < 8 ∧ (s.core 0).tiles.length = 8) := by
  refine ⟨rfl, by decide, rfl⟩

/-- Tiles that have all their words, of a float and of the integer kind, and one with a located error whose element is a number. -/
theorem test_witness_MatrixEngineEvents_tile : ({} : Tile).fits .bf16 ∧ ({ int := true } : Tile).fits .s8 ∧ Ty.e4m3 ∈ matrixTys ∧
    ({ stat := 1, dm := 1 } : Tile).stat = 1 ∧ Fmt.f32.decode ((({ stat := 1, dm := 1 } : Tile).words.getD 0 0).toNat) = .num false 0 (-149) := by
  refine ⟨⟨List.length_replicate, List.length_replicate, List.length_replicate, rfl⟩,
    ⟨List.length_replicate, List.length_replicate, List.length_replicate, rfl⟩, by decide, rfl, ?_⟩
  have h : (({ stat := 1, dm := 1 } : Tile).words.getD 0 0) = 0#32 := by simp
  rw [h]; decide

/-- A copy of one unit from HBM into block scratch, and a gather of one element outside its range. -/
def moveCmd : CCmd := { ident := 3, gid := 0, blk := 0, grid := 0, kind := .move false 0 0 (.blk 0) 0 1 1 1 1, issue := 0, units := 1 }
def gatherCmd : CCmd := { ident := 3, gid := 0, blk := 0, grid := 0, kind := .index false (some 0) 65536 (.blk 0) 0 2 [0], issue := 0, units := 1 }
theorem test_witness_CopyEngineEvents :
    (let s := { ranged calm with cores := [(0, { cqH := [moveCmd] })] }
     (s.core 0).queue .H = [moveCmd] ∧ moveCmd.start = none ∧ moveCmd.skip = 0 ∧ goes (.copyCommandStart 0 .H) s = true ∧ goes (.copyUnitEffect 0 .H) s = true ∧
     goes (.copyMemberComplete 0 .H) s = true ∧ (s.core 0).tail = [] ∧ moveCmd.mir = false ∧
     ((s.ext (groupOf s) 0).bind (fun e => e.seg 0)).map (·.2) = some 1048576 ∧ (tget s.blocks 0).isSome = true ∧ Memory.wf (s.ram (.blk 0)).cells = true ∧ Memory.wf s.hbm.cells = true) ∧
    (let s := { ranged calm with cores := [(0, { cqH := [gatherCmd], tail := [{ due := 0, plan := 0, gid := 0, ident := 3 }] })] }
     65536 < 65536 + (0 : Nat) * 2 ^ 2 + 2 ^ 2 ∧ (s.ext (groupOf s) 0).map (·.size) = some 65536 ∧ goes (.copyUnitEffect 0 .H) s = true ∧ (s.core 0).tail = [{ due := 0, plan := 0, gid := 0, ident := 3 }] ∧ s.mirOut 3 = false ∧ 0 ≤ s.turn) ∧
    (let s := groupWith (fun g => { g with last := 1, members := [{ ident := 3, batch := some 1, done := true, busy := [] }] }) calm
     (groupOf s).compl ≠ (groupOf s).last ∧ (∀ m ∈ (groupOf s).members, m.batch = some ((groupOf s).compl + 1) → m.done = true) ∧ goes (.batchComplete 0) s = true) := by
  refine ⟨by decide, by decide, by decide⟩

/-- A store of 4 bytes by lane 0 to this device's own range 0, ready to act. -/
def storeExec : RExec := { ident := 4, gid := 0, peer := 0, kind := .store, size := 4, signed := false, lanes := [(0, { ofs := 0, b := 7, c := 0 })], dst := .spec 0, seq := 1, pc := 0, issue := 0, apply := 0, land := 0, done := 0, acq := false, applied := false, res := [], quench := [] }
/-- A pattern of two devices in one domain: on port 2 device 1 sends to this one in slots 0 (control), 1 (open), 2 (planned, a copy to address
64) and 3 (ease), and this one to it in slots 5 (acknowledgements), 6 (open), 9 (ease) and, while port 2 has failed, in slot 11 of port 4. -/
def twoDevices : Pattern :=
  { nf := 4, rj := 2, dom := 1, device := 0, devices := 2, domainOf := [1, 1], hops := [0, 1], timingPort := 0, grandmaster := 1, ewlen := [16], ewper := [1]
    peers := 1, frameWatts := [1600], linkLimit := 0, checkpoints := [1], excluded := [], chunkBuf := 0, maintLen := [16, 16, 16, 16, 17]
    mirrors := [], digest := 5, planned := [{ stream := 0, tag := 3, frame := 0, startOfs := 0, endOfs := 8, ew := 0 }]
    slots := [{ out := false, port := 2, index := 0, kind := .control, peer := 1 }, { out := false, port := 2, index := 1, kind := .open_, peer := 1, ack := some (2, 5) },
              { out := false, port := 2, index := 2, kind := .planned, peer := 1, op := .copy, place := 64 }, { out := false, port := 2, index := 3, kind := .ease, peer := 1, ack := some (2, 5) },
              { out := true, port := 2, index := 5, kind := .ack, peer := 1 }, { out := true, port := 2, index := 6, kind := .open_, peer := 1 },
              { out := true, port := 2, index := 9, kind := .ease, peer := 1 }, { out := true, port := 4, index := 11, kind := .backup 2, peer := 1 }]
    colls := [{ ident := 9, op := 0, gid := 0, gen := 0, len := 64, ndev := 2, rank := 0, root := 0, chunk := 64, tree := .node (.leaf 0) (.leaf 1)
                reads := [{ tick := 0, ofs := 0, len := 64 }], send := 4, lands := [16], last := 16, devs := [0, 1], plan := some (0, 3) }] }
/-- A flit to device 1, not acknowledged, and the same after its second sending. -/
def sent : SentFlit := { ident := 40, frame := 0, slot := 1, port := 2, crc := 0xABCD, gone := true }
def sentTwice : SentFlit := { sent with again := 1 }
/-- A machine whose pattern runs, so that it watches for schedule faults. -/
def podded : State := { ranged calm with pat := { st := 1, cur := some twoDevices, dom := 1, acks := [(1, [sent])] } }
/-- Device 1 has a lease on the first 64 KiB of memory. -/
def lent : State := { podded with pat := { podded.pat with granted := [{ dev := 1, pid := 0, grid := 0, rng := 0, ext := { base := 0, size := 65536, acc := 3, atom := 2, segs := [{ ofs := 0, len := 65536, phys := 0, host := false, atomOk := 2, mir := false }] } }] } }
theorem test_witness_RemoteEvents :
    (let s := { ranged calm with remotes := [storeExec] }
     s.nextApply = some storeExec ∧ peerOf storeExec.peer = s.selfDev ∧ ((s.ext (groupOf s) (rngOf storeExec.peer)).bind (fun e => e.seg 0)).isSome = true ∧
     s.remotes.find? (fun q => q.ident == storeExec.ident) = some storeExec ∧ goes (.remoteApply none) s = true ∧ goes (.remoteComplete 4) s = true ∧
     goes (.executionMissesBound 4) s = true ∧ s.turn ≤ storeExec.issue + 40) ∧
    (0 + 0 + 4 ≤ 384 * 2 ^ 30 ∧ 0 < 4 ∧ podded.mirroredAt 0 4 = false ∧ (peerOf 0x100000 == podded.selfDev) = false ∧ lent.dev.fwok = true) ∧
    -- the last bytes of the page that is lent, one byte past it, and a device with no lease
    (lent.grantCovers 1 .store false 65532 4 = true ∧ lent.grantCovers 1 (.atom .add32) false 65532 4 = true ∧ lent.grantCovers 1 .load false 65533 4 = false ∧ lent.grantCovers 2 .load false 0 4 = false ∧
     goes (.remoteApply (some ⟨1, .store, 4, 0, [{ ofs := 65532, b := 7, c := 0 }]⟩)) lent = true ∧ lent.pat.st = 1 ∧ (1 : Nat) ≠ lent.selfDev) ∧
    -- a request for the last bytes of a mirrored page
    (let s := { podded with parts := lmod podded.parts 0 (fun q => { q with tcache := [{ base := 0, size := 65536, phys := 0, w := true, rd := true, atomOk := 0, host := false, mir := true, asid := 0, gen := 0 }] }) }
     s.mirroredAt 65532 4 = true) ∧
    -- an execution past its bound, watched for
    (let s := { podded with turn := 41, remotes := [storeExec] }
     storeExec.issue + 40 < s.turn ∧ s.pat.cur.isSome = true ∧ s.pat.fault = none ∧ s.parts.length = 8 ∧ goes (.executionMissesBound 4) s = true) := by
  refine ⟨by decide, by decide, by decide, by decide, by decide⟩

/-- A store to a page of a leased range in host memory, at its last bytes; and an execution that stands before a release of its lane. -/
theorem test_witness_RemoteEvents_host :
    (let s := { podded with pat := { podded.pat with granted := [{ dev := 1, pid := 0, grid := 0, rng := 0, ext := { base := 0, size := 65536, acc := 3, atom := 3, segs := [{ ofs := 0, len := 65536, phys := 0, host := true, atomOk := 3, mir := false }] } }] } }
     let q : RLane := { ofs := 65532, b := 7, c := 0, host := true }
     s.grantCovers 1 .store true 65532 4 = true ∧ s.grantCovers 1 .store false 65532 4 = false ∧
     (match exec (.remoteApply (some ⟨1, .store, 4, 0, [q]⟩)) s with | .next t => memRd t.host.cells 65532 == 7 && t.hbm == s.hbm | _ => false) = true) ∧
    (let r := { storeExec with apply := 9 }
     let s := { groupWith (fun g => g.modLane 0 (fun l => { l with front := 1 })) (ranged calm) with turn := 1, remotes := [r] }
     r ∈ s.remotes ∧ r.applied = false ∧ peerOf r.peer = s.selfDev ∧ r.seq ≤ ((s.group r.gid).lane 0).front ∧ r.issue + 1 ≤ s.turn ∧ r.floor ≤ s.turn ∧ s.nextApply.isSome = true) := by
  refine ⟨by decide, by decide⟩

/-- A page of the tables with MIR = 1 mirrors its 64 KiB, whoever has translated it (18 R406). -/
theorem test_mirrored_by_leaf :
    (let e := fun (v : Nat) => toBytes 8 v
     let s : State := { calm with hbm := (((({} : Ram).write 0x1000 (e 0x2001)).write 0x2000 (e 0x3001)).write 0x3000 (e 0x4001)).write 0x4000 (e 0x5020F)
                                  parts := lmod calm.parts 0 (fun q => { q with ptbase := 0x1000 }) }
     (s.mirroredAt 0x4FFFF 1, s.mirroredAt 0x50000 1, s.mirroredAt 0x5FFFF 1, s.mirroredAt 0x60000 1)) = (false, true, true, false) := by decide

/-- A closed generation of the block barrier due now, with group 0 in it. -/
def gen0 : BarGen := { at_ := 0, first := 0, hold := 0, release := some 0, parts := [0] }
/-- A group whose lane 0 waits for its ring operation `r`. -/
def ringOp (put : Bool) : RingOp := { ident := 8, put := put, hdr := 0, val := 6, lanes := 1, dst := .v 4, pc := 0, tick := 0, seq := 1 }
def ringWait (put : Bool) (s : State) : State :=
  groupWith (fun g => { g with rings := [ringOp put], lanes := lmod g.lanes 0 (fun l => { l with wait := some { cond := .ring 8, since := 0 } }) }) (ringAt { s with turn := 2 })
theorem test_witness_SyncEvents :
    (let s := { calm with blocks := tmod calm.blocks 0 (fun b => { b with bar := { closed := [gen0] } }) }
     (tget s.blocks 0).isSome = true ∧ gen0.release = some 0 ∧ goes (.barrierRelease 0) s = true) ∧
    (let s := gridOf (fun r => { r with gbars := [(0, { closed := [gen0] })] }) calm
     (tget (s.grid 0).gbars 0).isSome = true ∧ goes (.gangBarrierRelease 0 0) s = true) ∧
    -- a put into an empty ring of one entry, and a get from it, which finds none
    (let s := ringWait true calm
     s.ringNext 0 = some (0, ringOp true) ∧ (ringOp true).lanes.getLsbD 0 = true ∧ ((groupOf s).lane 0).wait = some { cond := .ring 8, since := 0 } ∧
     leNat (memRead (s.ram (.blk 0)).cells 0 4) = 1 ∧ (0 + 2 * 1 - 0) % (2 * 1) < 1 ∧ goes (.ringRetry 0) s = true) ∧
    (let s := ringWait false calm
     s.ringNext 0 = some (0, ringOp false) ∧ ¬ leNat (memRead (s.ram (.blk 0)).cells (0x40 + 4) 4) % 2 = 1 - 0 / 1 ∧ goes (.ringRetry 0) s = true) ∧
    (let q : SemAcc := { ident := 5, pid := 0, turn := 0, tick := 0, core := 0, quarter := 0, gid := 0, sem := 1023, kind := 2, val := 1, intr := false, dst := .v 3, sel := 1, seq := 1, pc := 0 }
     let s := { calm with semq := [q, { q with ident := 6, kind := 1 }] }
     s.semq.find? (fun y => y.ident == 5) = some q ∧ q.pid < s.parts.length ∧ ((s.part 0).sems.map (·.1)).Nodup ∧ goes (.semaphoreTurn 5) s = true ∧ goes (.semaphoreTurn 6) s = true) := by
  refine ⟨by decide, by decide, by decide, by decide, by decide⟩

theorem test_witness_StopEvents :
    (let f : CFault := { bit := 0, tick := 5, cause := 2 }
     let s := { calm with parts := lmod calm.parts 0 (fun q => { q with faults := [f] }) }
     0 < 8 ∧ s.parts.length = 8 ∧ s.faultsDue 0 = [f] ∧ (s.part 0).st = .running ∧ f.bit < 7 ∧ goes (.contextFault 0) s = true) ∧
    calm.faultsDue 7 = [] ∧ (calm.part 0).snheld = false ∧ goes (.watchdog 7) calm = true ∧ goes (.stopRecordsWritten 0) calm = true ∧ goes (.snaptMatch 0) calm = true ∧
    goes (.haltComplete 0) calm = true ∧ (calm.grids.map (·.1)).Nodup ∧ (calm.blocks.map (·.1)).Nodup := by
  refine ⟨by decide, by decide, by decide, by decide, by decide, by decide, by decide, by decide, by decide⟩
/-- The bench's block with a generation of `bar` open since tick 5. -/
def barOpen : State := { calm with blocks := calm.blocks.map (fun b => (b.1, { b.2 with bar := { b.2.bar with first := some 5 } })) }
theorem test_witness_StopEvents_watch : barOpen.watchStarts 0 = [5] ∧ (barOpen.part 0).bwdogAt = 0 ∧ goes (.watchdog 0) barOpen = true := by
  refine ⟨by decide, by decide, by decide⟩

/-- Stream 0 of partition 0 with a packet of one line, of a SEMWAIT that is met, or of a COPY. -/
def withPacket (bs : List Byte) : State := { calm with streams := [(0, { en := true, pkt := some bs })] }
theorem test_witness_StreamEvents :
    (let s := withPacket (List.replicate 64 0)
     (s.stream 0 0).pkt = some (List.replicate 64 0) ∧ ((s.part 0).sems.map (·.1)).Nodup ∧ s.parts.length = 8 ∧ 63 < 64 ∧
     ((s.part 0).sem 0 - 0).toNat < 2 ^ 31 ∧ ¬ ((s.part 0).sem 0 - 1).toNat < 2 ^ 31 ∧
     goes (.nopPacket 0 0) s = true ∧ goes (.semwaitPacket 0 0) s = true ∧ goes (.semwaitMet 0 0) s = true ∧ goes (.semsigPacket 0 0) s = true ∧ goes (.invalidPacket 0 0) s = true ∧
     goes (.serialRelease 0 0) s = true ∧ goes (.ctimeExpire 0 0) s = true ∧
     (match s.launchDecode 0 0 false (List.replicate 64 0) with | .ok _ => false | .error _ => true) = true ∧ goes (.launchPacket 0 0) s = true) ∧
    (let s := { withPacket (List.replicate 64 0) with streams := [(0, { pkt := some (List.replicate 64 0), copySegs := ([{ ofs := 0, len := 64, phys := 0, host := false, atomOk := 0, mir := false }], [{ ofs := 0, len := 64, phys := 64, host := false, atomOk := 0, mir := false }]) })] }
     goes (.copyPacketDone 0 0) s = true ∧ field (List.replicate 24 0 ++ [64] ++ List.replicate 39 0) 0x18 4 = 64) := by
  refine ⟨by decide, by decide⟩

/-- A COPY to a mirrored page: its data move, and it retires at the second event. -/
theorem test_witness_StreamEvents_mirror :
    (let seg := fun (a : Nat) (m : Bool) => ([{ ofs := 0, len := 64, phys := a, host := false, atomOk := 0, mir := m }] : List Seg)
     let bs : List Byte := List.replicate 24 0 ++ [64] ++ List.replicate 39 0
     let s := { withPacket bs with streams := [(0, { en := true, pkt := some bs, copySegs := (seg 0 false, seg 64 true) })] }
     let u := { s with streams := [(0, { en := true, pkt := some bs, copyAt := some 0, copyBy := 7 })]
                       pat := { s.pat with held := [{ peer := 1, kind := .planned, op := .mirror, ident := 7 }] } }
     (s.stream 0 0).copyBy = 0 ∧ field bs 0x18 4 = 64 ∧ goes (.copyPacketDone 0 0) s = true ∧ (u.stream 0 0).copyBy ≠ 0 ∧ u.mirOut 7 = true ∧
     goes (.copyPacketDone 0 0) u = true) := by decide

theorem test_witness_SchedulerEvents :
    (let s := gridOf (fun r => { r with phase := .accepted, missed := false }) calm
     (s.grid 0).phase = .accepted ∧ (s.grid 0).missed = false ∧ (s.grid 0).req.start ≤ 16 * s.turn ∧ (s.grid 0).req.wen = false ∧ (s.grid 0).exts = [] ∧
     goes (.gridReady 0) s = true ∧ goes (.gridStart 0) s = true) ∧
    (let s := gridOf (fun r => { r with nextUnit := 0 }) { calm with blocks := [], groups := [] }
     (s.dispatchDue (s.grid 0)).isSome = true ∧ (s.grid 0).desc.det = false ∧ s.ident ∉ ([] : List Nat) ∧ goes (.blockDispatch 0) s = true) ∧
    (goes (.gridComplete 0) calm = true ∧ (calm.grid 0).pid < calm.parts.length) ∧
    (let s := groupWith (fun g => { g with lanes := g.lanes.map (fun l => { l with life := .retired }) }) calm
     s.releaseDue 0 (s.block 0) = true ∧ goes (.blockRelease 0) s = true ∧ goes (.blockDataLoaded 0) s = true) := by
  refine ⟨by decide, by decide, by decide, by decide⟩

/-- A collective of 64 bytes over the pattern's entry 9, from range 0, whose chunks land in block 0. -/
def coll0 : Coll := { len := 64, pent := 9, lci := 1 }
def entry0 : CollEntry := twoDevices.colls.headD { ident := 0, op := 0, gid := 0, gen := 0, len := 0, ndev := 0, rank := 0, root := 0, chunk := 0, tree := .leaf 0, reads := [], send := 0, lands := [], last := 0 }
def collected (c : Coll) : State := gridOf (fun r => { r with coll := some c }) podded
theorem test_witness_CollectiveEvents :
    (let s := collected coll0
     ((s.collEntry coll0).bind (fun e => e.reads[0]?)).isSome = true ∧ coll0.vchk = false ∧ coll0.ssp = false ∧ s.collBlock 0 coll0 = some 0 ∧
     ((s.grid 0).exts[0]?).isSome = true ∧ goes (.collectiveStep 0) s = true ∧ goes (.chunkLand 0) s = true ∧ goes (.collectiveRetire 0) s = true ∧
     16 * (s.grid 0).acceptAt ≤ 65536 * s.pat.pshift + 0) ∧
    -- the other rank's version is here, another one or the same one
    (let c := { coll0 with vchk := true, ver := 1, vers := [(1, 2)] }
     let d := { c with ver := 2 }
     let e := entry0
     c.versOk = false ∧ e.ndev = 2 ∧ e.rank = 0 ∧ tget c.vers 1 = some 2 ∧ c.differs e = some 1 ∧ d.differs e = none ∧
     goes (.collectiveStep 0) (collected c) = true ∧ goes (.collectiveStep 0) (collected d) = true) := by
  refine ⟨by decide, by decide⟩

/-- The machine before firmware has been verified. -/
def unsignedCalm : State := { calm with dev := { calm.dev with fwok := false } }
/-- Partition 0 in another state. -/
def inState (st : PState) : State := { calm with parts := lmod calm.parts 0 (fun q => { q with st := st }) }
theorem test_witness_DriverCommands :
    (calm.parts.length = 8 ∧ unsignedCalm.dev.fwok = false ∧ (inState .empty).dev.fwok = true ∧ goes (.openCmd 0 false) (inState .empty) = true ∧ goes (.restoreCmd 0 true) (inState .empty) = true ∧
     goes (.haltCmd 0 false) (inState .running) = true ∧ goes (.haltCmd 0 false) (inState .frozen) = true ∧ goes (.resumeCmd 0 false) (inState .halted) = true ∧
     goes (.saveCmd 0 false) (inState .halted) = true ∧ (inState .halted).imageOk 0 = true ∧ goes (.terminateCmd 0 false) (inState .frozen) = true ∧
     goes (.terminateCmd 0 false) (inState .running) = true ∧ goes (.clearingDone 0) (inState .clearing) = true) ∧
    (calm.imageLoc 0 = some (.hbm 0) ∧ calm.imageAt 0 false = none ∧ goes (.restoreComplete 0) (inState .restoring) = true) ∧
    ({ calm with parts := lmod calm.parts 0 (fun q => { q with csel := 1 }) } : State).imageLoc 0 = none ∧ ({ calm with parts := lmod calm.parts 0 (fun q => { q with cimg := 1 }) } : State).imageOk 0 = false ∧
    ((∀ r ∈ calm.grids, r.2.missed = false) ∧ (∀ i, i < 64 → (calm.stream 0 i).en = false) ∧ goes (.pgack 0) calm = true) ∧
    (calm.leased 0 0 = false ∧ (ranged calm).leased 0 0 = true ∧ goes (.invva 0 0) calm = true ∧ goes (.invalidationDone 0) calm = true ∧ goes (.snack 0) calm = true) := by
  refine ⟨by decide, by decide, by decide, by decide, by decide, by decide⟩

/-- Device 1 holds a lease on a range of partition 0 that covers address 0. -/
theorem test_witness_DriverCommands_recall :
    let g : Grant := { dev := 1, pid := 0, grid := 0, rng := 0, ext := { base := 0, size := 65536, acc := 3, atom := 3, segs := [{ ofs := 0, len := 65536, phys := 1048576, host := false, atomOk := 3, mir := false }] } }
    let s : State := { calm with pat := { calm.pat with granted := [g] } }
    g.pid = 0 ∧ g.recalled = [] ∧ g.ext.onPage 0 = true ∧ s.dev.fwok = true ∧ goes (.invva 0 0) s = true := by
  refine ⟨by decide, by decide, by decide, by decide, by decide⟩

theorem test_witness_RegisterAndHostAccesses :
    (goes (.play 0xFFFFFFF0) calm = true ∧ goes (.play 0x0FFFFFF8) calm = true ∧ goes (.shadow 0x00) calm = true ∧ goes (.shadow 0x03) calm = true) ∧
    (63 < 64 ∧ calm.parts.length = 8 ∧ goes (.streamEn 7 63 3) calm = true ∧ goes (.restart 0 0 4) calm = true ∧ (0x60 : Nat) ∈ [0x08, 0x0C, 0x58, 0x5C, 0x60, 0x68] ∧ goes (.registerWrite 0x1700060 5) calm = true ∧ goes (.registerWrite 0x1700038 1) calm = true ∧
     goes (.registerWrite 0x1700070 5) calm = true ∧ goes (.registerWrite 0x1700074 5) calm = true ∧ goes (.registerWrite 0x1700060 5) unsignedCalm = true ∧
     0x1800000 ≤ 0x1800000 ∧ (0x10000 ≤ 0xFFFFFF ∧ 0xFFFFFF < 0x1000000)) ∧
    -- the last bytes of HBM4, and the first past it
    (calm.dev.fwok = true ∧ calm.dev.power = true ∧ (384 * 2 ^ 30 - 4) + 4 ≤ 384 * 2 ^ 30 - 4352 * calm.pat.pspill.toNat ∧ ¬ 384 * 2 ^ 30 + 1 ≤ 384 * 2 ^ 30 - 4352 * calm.pat.pspill.toNat ∧
     goes (.hostRead (384 * 2 ^ 30 - 4) 4) calm = true ∧ goes (.hostRead (384 * 2 ^ 30) 1) calm = true ∧ goes (.hostWrite 64 [1, 2] true) calm = true ∧ calm.mirroredAt 64 2 = false) := by
  refine ⟨by decide, by decide, by decide⟩

/-- An acknowledgement flit of one covered flit: its CRC, and RXOK. -/
def ackOf (crc ok : Nat) : List Byte := toBytes 4 crc ++ List.replicate 56 0 ++ toBytes 4 ok
/-- The fates of the flit of slot 1: acknowledged, sent again, and given up at the third failure. -/
theorem test_witness_FlitsAndScheduleFaults :
    (tget podded.pat.acks 1 = some [sent] ∧ [sent].find? (fun f => (f.gone || f.again != 0) && f.frame == 0 && f.slot == 1) = some sent ∧ field (ackOf 0xABCD 1) 60 4 % 2 = 1 ∧ BitVec.ofNat 32 (field (ackOf 0xABCD 1) 0 4) = sent.crc ∧
     goes (.acknowledgement 1 ⟨[(0, 1)], (ackOf 0xABCD 1)⟩ false) podded = true ∧ ¬ (sent.gone = true ∧ 1 ≤ sent.again) ∧
     goes (.acknowledgement 1 ⟨[(0, 1)], (ackOf 0xABCD 0)⟩ false) podded = true ∧ podded.dev.fwok = true ∧ podded.slots ≠ [] ∧
     goes (.acknowledgement 1 ⟨[(0, 1)], []⟩ true) { podded with dev := { podded.dev with fwok := false } } = true ∧
     (podded.remotes.map (·.ident)).Nodup ∧ ∀ r ∈ podded.remotes, r.apply ≠ 2 ^ 60) ∧
    -- it goes again in slot 9 of port 2, or, once the superslot of the failure of port 2 is over, in slot 11 of port 4; to device 5 nowhere
    ((podded.again 1 sent).map (fun p => (p.port, p.slot, p.tick)) = some (2, 9, 4) ∧ sent.port ∉ podded.pat.failed ∧
     (let s := { podded with pat := { podded.pat with failed := [2], backups := [(2, 64)] } }
      s.again 1 sent = none ∧ sent.port ∈ s.pat.failed) ∧
     (let s := { podded with turn := 4, pat := { podded.pat with failed := [2] } }
      (s.again 1 sent).map (fun p => (p.port, p.slot, p.tick)) = some (4, 11, 65541)) ∧ podded.again 5 sent = none) ∧
    (let s := { podded with pat := { podded.pat with acks := [(1, [sentTwice])] } }
     1 ≤ sentTwice.again ∧ sentTwice.gone = true ∧ s.pat.cur.isSome = true ∧ s.pat.fault = none ∧ s.parts.length = 8 ∧ goes (.acknowledgement 1 ⟨[(0, 1)], []⟩ true) s = true) ∧
    (podded.dev.fwok = true ∧ (podded.slotIn 1 2 0 0).map slotKind = some .control ∧ (podded.slotIn 1 2 1 0).map slotIsData = some true ∧ podded.slotIn 1 2 122880 0 = none ∧ podded.slotIn 1 3 1 0 = none ∧
     (0, 1) ∉ (tget podded.pat.seen 1).getD [] ∧ podded.pat.st = 1 ∧ ((podded.slotIn 1 2 1 0).map (fun q => slotCarries q (.request ⟨1, .store, 4, 0, [{ ofs := 0, b := 7, c := 0 }]⟩))) = some true ∧
     lent.grantCovers 1 .store false 0 4 = true ∧
     (podded.slotIn 1 2 2 0).map (fun q => (slotCarries q (.data []), placed q (.data [1]), slotCarries q (.copy 0 [1]), slotCarries q .idle)) = some (true, .copy 64 [1], false, false) ∧
     -- a flit that comes again in slot 3 is what the entry of slot 2 says
     (podded.slotIn 1 2 3 0).bind (fun q => (podded.meaning q 1 0 2).map (·.index)) = some 2 ∧
     (podded.slots.filter (fun y => y.out && y.peer == 1 && slotKind y == .ack && y.port == 2 && y.index == 5)).map (fun y => (podded.occurs y 0).tick) = [2] ∧
     goes (.flitReceive 1 0 1 ⟨2, 1, .clean⟩ false .idle) podded = true ∧ goes (.flitReceive 1 0 1 ⟨2, 1, .lost⟩ false .idle) podded = true ∧
     goes (.flitReceive 1 0 0 ⟨2, 0, .clean⟩ false (.version 9 1 2)) podded = true ∧ goes (.flitReceive 1 0 2 ⟨2, 2, .clean⟩ true (.data [1])) podded = true ∧
     goes (.flitReceive 1 0 2 ⟨2, 2, .clean⟩ true (.data [1])) { podded with pat := { podded.pat with st := 2 } } = true ∧
     goes (.flitReceive 0 0 0 ⟨2, 0, .clean⟩ false .idle) podded = true ∧ goes (.linkFailed 3) podded = true ∧ 3 ∉ podded.pat.failed) ∧
    -- an open flit takes slot 6 of port 2, one of a copy that no slot is planned for waits, and one in the failed link's backup slot; slot 0 that a message has taken is left
    (let f : HeldFlit := { peer := 1, body := .reply [] }
     podded.pat.st = 1 ∧ (podded.place 1 true (podded.serves f)).map (·.slot) = some 6 ∧ podded.place 1 true (podded.serves { f with kind := .planned, op := .copy }) = none ∧
     (let s : State := { podded with pat := { podded.pat with failed := [2] } }
      (s.place 1 true (s.serves f)).map (·.slot) = some 11) ∧
     (let s : State := podded.sendData f
      s.launchFlits.out = [] ∧ ({ s with turn := 1 } : State).launchFlits.out = [.flit 1 0 6 2 false (.reply [])]) ∧
     ((podded.sendControl 2 .sync).controlPlace 2).tick = 64 ∧ (podded.controlPlace 2).tick = 0) ∧
    -- a sum of doubled offsets at the bound, and one past it
    (twoDevices.grandmaster = 1 ∧ (1 : Nat) ≠ podded.selfDev ∧ podded.pat.port = 0 ∧ goes (.ptpSync ⟨1, 0, .sync 5 6⟩) podded = true ∧ goes (.ptpSync ⟨0, 0, .request⟩) podded = true ∧
     goes (.ptpSync ⟨1, 0, .response 5 6⟩) podded = true ∧ goes (.ptpSync ⟨1, 0, .response 5 6⟩) { podded with pat := { podded.pat with ptp := some (4, 0) } } = true ∧
     (let s := { podded with pat := { podded.pat with cur := some { twoDevices with grandmaster := 0 } } }
      (s.pat.cur.map (·.grandmaster)) = some s.selfDev ∧ goes (.ptpSync ⟨1, 7, .request⟩) s = true) ∧
     ((List.replicate 15 (4 : Int)) ++ [5]).sum > 64 ∧ ((List.replicate 15 (4 : Int)) ++ [4]).sum = 64 ∧
     goes (.timingPortLockLoss [0]) podded = true ∧ goes (.timingPortLockLoss [3]) podded = true ∧ goes (.timingPortLockLoss []) podded = true ∧ podded.pat.port < 12 ∧
     goes (.timingPortLockLoss [3, 2]) { podded with pat := { podded.pat with port := 11 } } = true) ∧
    -- the planned grid of the pattern has no record at its deadline, tick 8
    (let s := { podded with turn := 1 }
     let e : PlannedGrid := { stream := 0, tag := 3, frame := 0, startOfs := 0, endOfs := 8, ew := 0 }
     s.lastPlanned e s.now = some (0, 8) ∧ s.plannedLate 0 e = some 8 ∧ podded.plannedLate 0 e = none ∧ podded.collLate entry0 = some 0 ∧ s.collLate entry0 = none ∧
     twoDevices.colls.find? (fun e => e.ident == 9) = some entry0 ∧ goes (.late (.planned 0)) s = true ∧ goes (.late (.coll 9)) podded = true ∧ goes (.late (.grid 0)) podded = true) ∧
    (goes (.ease 0) podded = true ∧ goes (.peer 1 0 .late 0) podded = true ∧ (1 : Nat) ≠ podded.selfDev ∧ podded.domainOf 1 = podded.domainOf podded.selfDev ∧ calm.pat.cur = none ∧
     podded.pat.pfdev.toNat < 1 ∧ 5 / 65536 ≤ 0 ∧ goes (.peer 1 0 .late 5) { podded with pat := { podded.pat with fault := some 0 } } = true) := by
  refine ⟨by decide, by decide, by decide, by decide, by decide, by decide, by decide, by decide⟩

/-- A lease of the first grid over range 2 of device 1, whose recall waits for its answer. -/
def lease0 : Lease := { peer := 1, rng := 2, state := 2, answering := true }
/-- Maintenance of channel 0 that fits its window of 16 ticks, and one that does not. -/
def refresh0 : Maint := { row := { ch := 0, bank := 1, row := 2 }, kind := .refresh, limit := 99 }
def repair0 : Maint := { refresh0 with kind := .repair 3 }
def remap0 : Maint := { refresh0 with kind := .remap }
def keptUp (l : List Maint) : State := { podded with dram := { podded.dram with maint := l, easeAt := [(0, 5), (1, 5), (2, 9)] } }
/-- Pattern load takes the pattern of two devices: no ease period is longer than the standard's refresh interval, whatever that is. -/
theorem test_pattern_good : patternBad [] none twoDevices = false := by
  have h : (List.range 256).any (fun ch => ewper twoDevices ch == 0 || decide (Config.refreshInterval < ewper twoDevices ch)) = false := by
    rw [List.any_eq_false]
    intro ch _
    have : ewper twoDevices ch = 1 := by cases ch <;> rfl
    simp [this, Config.refreshInterval]
  simp only [patternBad, h]
  decide
theorem test_witness_PatternAndLeases :
    (goes .quietFrames podded = true ∧ podded.pat.skewed = false ∧ goes .alignmentCheck podded = true ∧ goes .rejoin podded = true ∧
     (let s := { podded with pat := { podded.pat with nxt := some twoDevices, pjoin := 5 } }
      s.pat.nxt = some twoDevices ∧ s.pat.pckpt ≤ s.pat.pjoin ∧ goes .rejoin s = true) ∧
     -- a checkpoint of the frame after the fault's
     ({ pckpt := 6, pckptOld := 4, pckptAt := 8, fault := some 7 } : Pat).rejoinTo = 4 ∧ ({ pckpt := 6, pckptOld := 4, pckptAt := 7, fault := some 7 } : Pat).rejoinTo = 6) ∧
    (patternBad [] none { twoDevices with nf := 0 } = true ∧ calm.pat.cur = none ∧ goes (.patternLoad twoDevices) calm = true ∧
     podded.pat.cur = some twoDevices ∧ podded.pat.st ≠ 3 ∧ 65536 * podded.pat.pshift ≤ podded.now ∧ 0 < twoDevices.nf ∧ goes (.patternLoad twoDevices) podded = true) ∧
    -- a chunk at the bound of an all-reduce and one past it; the next generation of a GID and the one after it
    (collInTime { entry0 with lands := [2164] } = true ∧ collInTime { entry0 with lands := [2165] } = false ∧
     reuseBad [(0, 0)] (some twoDevices) { twoDevices with colls := [{ entry0 with gen := 1 }] } = false ∧
     reuseBad [(0, 0)] (some twoDevices) { twoDevices with colls := [{ entry0 with gen := 2 }] } = true ∧
     -- one that no pattern that runs has
     reuseBad [(0, 0)] none { twoDevices with colls := [{ entry0 with gen := 0 }] } = true ∧ reuseBad [(0, 0)] none { twoDevices with colls := [{ entry0 with gen := 1 }] } = false) ∧
    (let s := { calm with pat := { calm.pat with nxt := some twoDevices } }
     let u := { s with pat := { s.pat with locked := List.replicate 12 false } }
     s.pat.nxt = some twoDevices ∧ s.pat.locked.getD 11 false = true ∧ goes .patternEffect s = true ∧ (∀ i, i < 12 → u.pat.locked.getD i false = false) ∧ goes .patternEffect u = true) ∧
    (let s := gridOf (fun r => { r with leases := [lease0] }) podded
     (tget s.grids 0).isSome = true ∧ lease0 ∈ (s.grid 0).leases ∧ s.recallBusy 0 lease0 = false ∧ s.domainOf 1 = s.domainOf s.selfDev ∧ s.domainOf 5 ≠ 1 - s.domainOf s.selfDev + 2 ∧
     goes (.leaseGrant 0 1 ⟨2, []⟩) s = true ∧ goes (.leaseRecall 0 1 2 0) s = true ∧ goes (.recallAnswer 0 1 2) s = true) ∧
    (let c := twoDevices
     maintTicks c .refresh ≤ ewlen c 0 ∧ maintTicks c (.repair 3) ≤ ewlen c 0 ∧ ewlen c 0 < maintTicks c .remap ∧ (keptUp [refresh0]).pat.cur = some c ∧
     ((keptUp [refresh0]).dram.maint.filter (fun m => m.row.ch == 0)) = [refresh0] ∧
     (∀ q ∈ (keptUp []).dram.easeAt, 5 < q.2 ∨ (q.2 = 5 ∧ 0 ≤ q.1)) ∧ (keptUp []).nextWindow = some (0, 5) ∧ podded.dram.easeAt = [] ∧
     goes .easeWindow (keptUp [refresh0]) = true ∧ goes .easeWindow (keptUp [repair0]) = true ∧ goes .easeWindow (keptUp [remap0]) = true ∧ goes .easeWindow podded = true) ∧
    (goes (.rowActivationAlert 1 ⟨2, 3⟩) podded = true ∧ goes .checkpoint podded = true ∧ podded.durable = true ∧ podded.pframe ≤ podded.pat.pckpt ∧ ({ podded with turn := 4096 } : State).pat.pckpt < ({ podded with turn := 4096 } : State).pframe ∧
     ({ podded with pat := { podded.pat with mirPend := [{ due := 1, adr := 0, ident := 1 }] } } : State).durable = false ∧
     (let f : HeldFlit := { peer := 1, kind := .planned, op := .mirror, ident := 7 }
      let s : State := { podded with pat := { podded.pat with held := [f] } }
      s.durable = false ∧ f ∈ s.pat.held ∧ s.pat.mirPend = [])) := by
  refine ⟨by decide, by decide, by decide, by decide, by decide, by decide, by decide⟩

/-- A duplicate of page 3 that went out before the quiet frames, and the alert of a row while no pattern runs. -/
theorem test_witness_PatternAndLeases_duplicate :
    (let f : HeldFlit := { peer := 1, kind := .planned, op := .mirror, ident := 7, place := 65536 * 9 + 64, body := .data (List.replicate 64 0) }
     let c := { twoDevices with mirrors := [{ page := 3, device := 1, partner := 9 }] }
     let s : State := { podded with hbm := ({} : Ram).write (65536 * 3 + 64) [5], pat := { podded.pat with cur := some c, acks := [(1, [{ sent with copy := f }])] } }
     s.pat.cur = some c ∧ f.body = .data (List.replicate 64 0) ∧ c.mirrors.find? (fun m => m.device == f.peer && m.partner == f.place / 65536) = some { page := 3, device := 1, partner := 9 } ∧
     s.freshDup f = { f with body := .data (5 :: List.replicate 63 0) } ∧ s.mirOut 7 = true ∧ s.pat.mirPend = [] ∧ goes .quietFrames s = true) ∧
    calm.pat.cur = none ∧ goes (.rowActivationAlert 1 ⟨2, 3⟩) calm = true := by
  refine ⟨by decide, by decide, by decide⟩

theorem test_witness_DeviceEvents :
    (191 < 192 ∧ goes (.coreMark 191) calm = true) ∧
    (let s := { calm with cores := [(5, { marked := true })], grids := [] }
     s.substitutable 5 = true ∧ s.grids = [] ∧ (∀ x ∈ s.grids, x.2.pid ≠ s.partOf 5 ∨ x.2.phase ≠ .started ∨ x.2.recorded = true) ∧ goes (.standbySubstitution 5) s = true) ∧
    (let s := gridOf (fun r => { r with phase := .started, recorded := false, desc := { r.desc with nlines := 1 } }) { calm with cores := [(5, { marked := true })] }
     s.grids = [(0, s.grid 0)] ∧ (s.grid 0).pid = s.partOf 5 ∧ (s.grid 0).phase = .started ∧ s.substitutable 5 = true ∧ goes (.standbySubstitution 5) s = true) ∧
    (goes .coldStart calm = true ∧ goes (.firmwareLoad true 1 2 ⟨3, 256⟩ 4) calm = true ∧ goes (.firmwareLoad false 1 2 ⟨3, 256⟩ 4) calm = true ∧ goes .spdmRequest calm = true ∧ 0 < calm.parts.length ∧
     goes (.managementRequest (.readSnapshots 0)) calm = true ∧ goes (.managementRequest .power) calm = true ∧ goes (.managementRequest (.retire 0)) calm = true ∧
     goes (.managementRequest (.snack 0)) calm = true ∧ goes .thermalTrip calm = true ∧ goes .mainRailDrop calm = true) := by
  refine ⟨by decide, by decide, by decide⟩

end Sys2Proof.Tests
end

section
/-! SUPPORT. Changes to the lanes of one group: what an update of a table entry or of single lanes leaves, a run over lanes
as one change of the group, and parking (17 R385) where it is such a change. -/

namespace Sys2Proof.Machine

open Host (Outcome)

/-- Changing an entry depends only on what becomes of that entry. -/
theorem tmod_congr {α : Type} {t : Tbl α} {n : Nat} {a : α} {f f' : α → α} (h : tget t n = some a) (hf : f a = f' a) :
    tmod t n f = tmod t n f' := by
  induction t with
  | nil => rfl
  | cons p t ih =>
    obtain ⟨k, b⟩ := p
    by_cases hk : k = n <;> simp_all [tmod, tget]

/-- A change that leaves the entry leaves the table. -/
theorem tmod_eq_self {α : Type} {t : Tbl α} {n : Nat} {a : α} {f : α → α} (h : tget t n = some a) (hf : f a = a) :
    tmod t n f = t := by
  induction t with
  | nil => rfl
  | cons p t ih =>
    obtain ⟨k, b⟩ := p
    by_cases hk : k = n <;> simp_all [tmod, tget]

/-- An entry after its change. -/
theorem tget_tmod_of_some {α : Type} {t : Tbl α} {n : Nat} {a : α} {f : α → α} (h : tget t n = some a) :
    tget (tmod t n f) n = some (f a) := by
  rw [tget_tmod_self, h]; rfl

theorem State.group_of_tget {s : State} {gid : Nat} {g : Group} (h : tget s.groups gid = some g) : s.group gid = g := by
  simp [State.group, h]

theorem State.grid_of_tget {s : State} {gr : Nat} {r : Grid} (h : tget s.grids gr = some r) : s.grid gr = r := by
  simp [State.grid, h]

theorem State.grid_modGrid {s : State} {gr : Nat} {r : Grid} (f : Grid → Grid) (h : tget s.grids gr = some r) : (s.modGrid gr f).grid gr = f r :=
  State.grid_of_tget (tget_tmod_of_some h)

/-- A group of a table changed in one entry. -/
theorem State.modGroup_of_eq {s : State} {gid : Nat} {g : Group} {f f' : Group → Group} (h : tget s.groups gid = some g)
    (hf : f g = f' g) : s.modGroup gid f = s.modGroup gid f' := by
  simp [State.modGroup, tmod_congr h hf]

theorem State.modGroup_eq_self {s : State} {gid : Nat} {g : Group} {f : Group → Group} (h : tget s.groups gid = some g)
    (hf : f g = g) : s.modGroup gid f = s := by
  simp [State.modGroup, tmod_eq_self h hf]

theorem State.tget_modGroup {s : State} {gid : Nat} {g : Group} {f : Group → Group} (h : tget s.groups gid = some g) :
    tget (s.modGroup gid f).groups gid = some (f g) := tget_tmod_of_some h

theorem State.modGroup_modGroup (s : State) (gid : Nat) (f f' : Group → Group) :
    (s.modGroup gid f).modGroup gid f' = s.modGroup gid (fun g => f' (f g)) := by
  simp [State.modGroup]

theorem State.setGroup_setGroup (s : State) (gid : Nat) (g h : Group) : (s.setGroup gid g).setGroup gid h = s.setGroup gid h := by
  simp [State.setGroup]

/-- A change of one group, with whatever becomes of the issue, changes nothing else. -/
theorem OnlyGroup.of_tmod {gid : Nat} {s t : State} {f : Group → Group} (h : t = { s with groups := tmod s.groups gid f, issue := t.issue }) :
    OnlyGroup gid s t := by
  have hg : t.groups = tmod s.groups gid f := by rw [h]
  exact ⟨by rw [hg]; exact h, fun j hj => by rw [hg, tget_tmod_of_ne _ _ hj]⟩

theorem OnlyGroup.of_tset {gid : Nat} {s t : State} {g : Group} (h : t = { s with groups := tset s.groups gid g, issue := t.issue }) :
    OnlyGroup gid s t := by
  have hg : t.groups = tset s.groups gid g := by rw [h]
  exact ⟨by rw [hg]; exact h, fun j hj => by rw [hg, tget_tset_of_ne _ _ hj]⟩

theorem OnlyGroup.trans {gid : Nat} {s t u : State} (h : OnlyGroup gid s t) (k : OnlyGroup gid t u) : OnlyGroup gid s u :=
  ⟨by rw [k.1, h.1], fun j hj => (k.2 j hj).trans (h.2 j hj)⟩

/-! Lanes -/

theorem getElem?_lmod {α : Type} (l : List α) (i j : Nat) (f : α → α) :
    (lmod l i f)[j]? = if i = j then l[j]?.map f else l[j]? := by
  induction l generalizing i j with
  | nil => simp [lmod]
  | cons a t ih => cases i <;> cases j <;> simp [lmod, ih]

@[simp] theorem Group.modLane_length (g : Group) (i : Nat) (f : Lane → Lane) : (g.modLane i f).lanes.length = g.lanes.length :=
  length_lmod _ _ _

/-- A changed lane, read. -/
theorem Group.lane_modLane (g : Group) (i j : Nat) (f : Lane → Lane) :
    (g.modLane i f).lane j = if i = j ∧ j < g.lanes.length then f (g.lane j) else g.lane j := getD_lmod _ _ _ _ _

theorem Group.lane_modLane_self {g : Group} {i : Nat} (f : Lane → Lane) (h : i < g.lanes.length) : (g.modLane i f).lane i = f (g.lane i) := by
  rw [Group.lane_modLane, if_pos ⟨rfl, h⟩]

theorem Group.lane_modLane_of_ne {g : Group} {i j : Nat} (f : Lane → Lane) (h : i ≠ j) : (g.modLane i f).lane j = g.lane j := by
  rw [Group.lane_modLane, if_neg fun e => h e.1]

theorem Group.lane_eq_getElem {g : Group} {i : Nat} (h : i < g.lanes.length) : g.lane i = g.lanes[i] := by
  simp [Group.lane, h]

/-- Changing a lane depends only on what becomes of that lane. -/
theorem Group.modLane_congr {g : Group} {i : Nat} {f f' : Lane → Lane} (h : f (g.lane i) = f' (g.lane i)) : g.modLane i f = g.modLane i f' := by
  have : lmod g.lanes i f = lmod g.lanes i f' := by
    apply List.ext_getElem?
    intro j
    rw [getElem?_lmod, getElem?_lmod]
    by_cases hj : i = j
    · subst hj
      by_cases hl : i < g.lanes.length
      · rw [Group.lane_eq_getElem hl] at h; simp [hl, h]
      · simp [List.getElem?_eq_none (Nat.le_of_not_lt hl)]
    · simp [hj]
  simp [Group.modLane, this]

theorem Group.modLane_eq_self {g : Group} {i : Nat} {f : Lane → Lane} (h : f (g.lane i) = g.lane i) : g.modLane i f = g := by
  have hid : ∀ (l : List Lane) (i : Nat), lmod l i id = l := by
    intro l
    induction l with
    | nil => intro i; rfl
    | cons a t ih => intro i; cases i <;> simp [lmod, ih]
  rw [Group.modLane_congr (f' := id) h]
  simp [Group.modLane, hid]

/-- Two changes of one lane. -/
theorem Group.modLane_modLane (g : Group) (i : Nat) (f f' : Lane → Lane) : (g.modLane i f).modLane i f' = g.modLane i (fun l => f' (f l)) := by
  have : lmod (lmod g.lanes i f) i f' = lmod g.lanes i (fun l => f' (f l)) := by
    apply List.ext_getElem?
    intro j
    simp only [getElem?_lmod]
    by_cases hj : i = j
    · simp only [hj, if_true, Option.map_map]; rfl
    · simp only [hj, if_false]
  simp only [Group.modLane, this]

/-- The group with `f` applied to the listed lanes, each with its number. -/
def Group.onLanes (g : Group) (ls : List Nat) (f : Nat → Lane → Lane) : Group :=
  { g with lanes := mapFrom (fun i l => if i ∈ ls then f i l else l) 0 g.lanes }

@[simp] theorem Group.onLanes_length (g : Group) (ls : List Nat) (f : Nat → Lane → Lane) : (g.onLanes ls f).lanes.length = g.lanes.length :=
  length_mapFrom _ _ _

/-- A group whose lanes alone have changed, each by its own change, read lane by lane. -/
theorem lane_mapFrom {g : Group} {f : Nat → Lane → Lane} {l : Nat} (h : l < g.lanes.length) :
    (mapFrom f 0 g.lanes).getD l {} = f l (g.lane l) := by
  rw [List.getD_eq_getElem?_getD, getElem?_mapFrom]
  simp [Group.lane_eq_getElem h, h]

theorem Group.lane_onLanes {g : Group} {l : Nat} (h : l < g.lanes.length) (ls : List Nat) (f : Nat → Lane → Lane) :
    (g.onLanes ls f).lane l = if l ∈ ls then f l (g.lane l) else g.lane l := lane_mapFrom h

theorem Group.onLanes_nil (g : Group) (f : Nat → Lane → Lane) : g.onLanes [] f = g := by
  have : mapFrom (fun (_ : Nat) (l : Lane) => l) 0 g.lanes = g.lanes := by
    apply List.ext_getElem?; intro j; simp [getElem?_mapFrom]
  simp [Group.onLanes, this]

/-- One lane changed, and then others: all of them changed. -/
theorem Group.onLanes_cons {l : Nat} {ls : List Nat} (hl : l ∉ ls) (g : Group) (f : Nat → Lane → Lane) :
    (g.modLane l (f l)).onLanes ls f = g.onLanes (l :: ls) f := by
  have : mapFrom (fun i a => if i ∈ ls then f i a else a) 0 (lmod g.lanes l (f l)) =
      mapFrom (fun i a => if i ∈ l :: ls then f i a else a) 0 g.lanes := by
    apply List.ext_getElem?
    intro j
    rw [getElem?_mapFrom, getElem?_mapFrom, getElem?_lmod, Nat.zero_add]
    by_cases hj : l = j
    · subst hj; cases g.lanes[l]? <;> simp [hl]
    · simp [hj, Ne.symm hj]
  simp [Group.onLanes, Group.modLane, this]

theorem lanesOf_nodup (m : Mask) : (lanesOf m).Nodup := List.nodup_range.filter _

/-- A run over lanes whose every step changes its own lane, whatever the other lanes have become, is one change of the group. -/
theorem State.foldl_onLanes {step : State → Nat → State} {gid : Nat} {f : Nat → Lane → Lane} {ls : List Nat} (hn : ls.Nodup) :
    ∀ {s : State} {g : Group}, tget s.groups gid = some g →
      (∀ t h, tget t.groups gid = some h → h = { g with lanes := h.lanes } → t = { s with groups := t.groups } → ∀ l ∈ ls,
        step t l = t.modGroup gid (fun x => x.modLane l (f l))) →
      ls.foldl step s = s.modGroup gid (fun x => x.onLanes ls f) := by
  induction ls with
  | nil => intro s g hg _; simpa using (State.modGroup_eq_self hg (Group.onLanes_nil g f)).symm
  | cons l ls ih =>
    intro s g hg hstep
    obtain ⟨hl, hn⟩ := List.nodup_cons.1 hn
    rw [List.foldl_cons, hstep s g hg rfl rfl l (List.mem_cons_self ..), ih hn (State.tget_modGroup hg), State.modGroup_modGroup]
    · simp only [Group.onLanes_cons hl]
    · intro t h ht hh hs j hj
      exact hstep t h ht hh hs j (List.mem_cons_of_mem _ hj)

/-! Parking -/

/-- What parking does to a lane: one that is not live, or parked already, stays (17 R385). -/
def Lane.parkOnce (pc : BitVec 20) (r : TrapRec) (l : Lane) : Lane := if l.isLive && l.trec.isNone then l.parkedAt pc r else l

theorem Lane.parkOnce_eq (pc : BitVec 20) (r : TrapRec) (l : Lane) :
    l.parkOnce pc r = if l.isLive = true ∧ l.trec = none then l.parkedAt pc r else l := by
  simp [Lane.parkOnce, Option.isNone_iff_eq_none]

/-- No handler stands between a lane and its parking: none runs for it, and its frame is not being captured. -/
def Group.parksPlain (g : Group) (lane : Nat) : Prop :=
  match g.hphase with
  | .idle | .restore _ => True
  | .capture _ _ m => m.getLsbD lane = false
  | .running => (g.lane lane).hand = .out

/-- Parking such a lane, or one that is parked already, changes that lane alone. -/
theorem State.park_of_plain {s : State} {gid lane : Nat} {g : Group} (hg : tget s.groups gid = some g)
    (hp : g.parksPlain lane ∨ (g.lane lane).trec.isSome) (pc : BitVec 20) (r : TrapRec) :
    s.park gid lane pc r = s.modGroup gid (fun x => x.modLane lane (Lane.parkOnce pc r)) := by
  unfold State.park
  simp only [State.group_of_tget hg]
  by_cases hc : (!(g.lane lane).isLive || (g.lane lane).trec.isSome) = true
  · rw [if_pos hc, State.modGroup_eq_self hg]
    apply Group.modLane_eq_self
    rw [Lane.parkOnce, if_neg]
    cases h1 : (g.lane lane).isLive <;> cases h2 : (g.lane lane).trec <;> simp_all
  · rw [if_neg hc]
    simp only [Bool.or_eq_true, Bool.not_eq_true', not_or, Bool.not_eq_false, Bool.not_eq_true, Option.isSome_eq_false_iff,
      Option.isNone_iff_eq_none] at hc
    have hpark : (Lane.parkOnce pc r (g.lane lane)) = (g.lane lane).parkedAt pc r := by simp [Lane.parkOnce, hc]
    have hmod : s.modGroup gid (fun x => x.modLane lane (fun l => l.parkedAt pc r)) =
        s.modGroup gid (fun x => x.modLane lane (Lane.parkOnce pc r)) :=
      State.modGroup_of_eq hg (Group.modLane_congr hpark.symm)
    have hplain : g.parksPlain lane := hp.resolve_right (by simp [hc.2])
    unfold Group.parksPlain at hplain
    rw [← hmod]
    cases hh : g.hphase with
    | idle => rfl
    | restore u => rfl
    | running => rw [hh] at hplain; simp only [hplain, ne_eq, not_true_eq_false, and_false, if_false]; rfl
    | capture f u m => rw [hh] at hplain; simp only [hplain]; rfl

theorem Group.parksPlain_of_idle {g : Group} (h : g.hphase = .idle) (lane : Nat) : g.parksPlain lane := by simp [Group.parksPlain, h]

/-- Outside a handler, parking a mask changes its lanes alone. -/
theorem State.parkMask_of_idle {s : State} {gid : Nat} {g : Group} (hg : tget s.groups gid = some g) (hi : g.hphase = .idle) (m : Mask)
    (pc : BitVec 20) (r : TrapRec) :
    s.parkMask gid m pc r = s.modGroup gid (fun x => x.onLanes (lanesOf m) (fun _ => Lane.parkOnce pc r)) := by
  refine State.foldl_onLanes (lanesOf_nodup m) hg fun t h ht hh _ l _ => State.park_of_plain ht (.inl (Group.parksPlain_of_idle ?_ l)) pc r
  rw [hh]; exact hi

end Sys2Proof.Machine
end

section
/-! SUPPORT. Words whose meaning changes lanes of their own group one by one. -/

namespace Sys2Proof.Machine

open Host (Outcome)

theorem tget_entered (s : State) (i : Instr) (x : Issue) (g : Group) : tget (s.entered i x g).groups x.gid = some (enteredGroup i x g) :=
  tget_tset_self _ _ _

/-- As a word begins, its group has changed in the word's place in program order and in what its lanes hold and wait for. -/
theorem enteredGroup_eq (i : Instr) (x : Issue) (g : Group) :
    enteredGroup i x g = { g with lanes := (enteredGroup i x g).lanes, seq := g.seq + 1 } := by
  unfold enteredGroup Group.noteWord
  dsimp only
  split <;> rfl

@[simp] theorem enteredGroup_length (i : Instr) (x : Issue) (g : Group) : (enteredGroup i x g).lanes.length = g.lanes.length := by
  unfold enteredGroup Group.noteWord Group.modLanes
  dsimp only
  split
  · exact length_mapFrom _ _ _
  · rfl

@[simp] theorem enteredGroup_hphase (i : Instr) (x : Issue) (g : Group) : (enteredGroup i x g).hphase = g.hphase := by
  rw [enteredGroup_eq]

@[simp] theorem enteredGroup_pend (i : Instr) (x : Issue) (g : Group) : (enteredGroup i x g).pend = g.pend := by
  rw [enteredGroup_eq]

theorem Ctx.mem_lanes {c : Ctx} {l : Nat} : l ∈ c.lanes ↔ c.sel.getLsbD l = true := mem_lanesOf _ _

/-- A state that differs from where a word begins in groups alone is in the same issue, on the same word. -/
theorem State.parkLane_entered {s t : State} {i : Instr} {x : Issue} {g : Group} (ht : t = { s.entered i x g with groups := t.groups })
    (l : Nat) (r : TrapRec) : t.parkLane (ctxOf i s x g) l r = t.park x.gid l x.pc { r with word := x.word } := by
  have : t.issue = some (x.ran i) := by rw [ht]; rfl
  simp only [State.parkLane, this]
  rfl

/-- An accepted word that runs over its lanes, changing each of them by itself, changes those lanes and nothing else. -/
theorem changesLanes_of_fold {i : Instr} {s : State} {x : Issue} {g : Group} (ha : Accepts i s x g) (hlen : g.lanes.length = 64)
    {step : State → Nat → State} {body : Ctx → State → State} {f F : Nat → Lane → Lane} (he : exec i s = withIssue i s body)
    (hb : body (ctxOf i s x g) (s.entered i x g) = (ctxOf i s x g).lanes.foldl step (s.entered i x g))
    (hstep : ∀ t h, tget t.groups x.gid = some h → h = { enteredGroup i x g with lanes := h.lanes } →
      t = { s.entered i x g with groups := t.groups } → ∀ l ∈ (ctxOf i s x g).lanes,
        step t l = t.modGroup x.gid (fun y => y.modLane l (f l)))
    (hF : ∀ l a, (if l ∈ (ctxOf i s x g).lanes then f l a else a) = F l a) :
    ChangesLanes i s x g (fun _ => false) [] F := by
  have hrun := State.foldl_onLanes (lanesOf_nodup _) (tget_entered s i x g) hstep
  have hsize : (enteredGroup i x g).lanes.length = 64 := by simp [hlen]
  refine ⟨(s.entered i x g).modGroup x.gid (fun y => y.onLanes (ctxOf i s x g).lanes f), _, x.ran i, ?_, ?_,
    State.tget_modGroup (tget_entered s i x g), rfl, ?_, by simp [hsize], rfl, ?_⟩
  · rw [he, withIssue_of_accepts ha]; exact congrArg Outcome.next (hb.trans hrun)
  · refine OnlyGroup.of_tset (g := (enteredGroup i x g).onLanes (ctxOf i s x g).lanes f) ?_
    simp only [State.modGroup, State.entered, State.began, State.setGroup, tmod_tset]
    rfl
  · rw [List.append_nil, ← enteredGroup_pend i x g]; rfl
  · intro l hl
    refine ⟨?_, by simp [Issue.ran], by simp [Issue.ran]⟩
    rw [Group.lane_onLanes (by omega), hF]

/-- An accepted word that has some of its lanes wait. -/
theorem waitsAll_of_fold {i : Instr} {s : State} {x : Issue} {g : Group} (ha : Accepts i s x g) (hlen : g.lanes.length = 64)
    {step : State → Nat → State} {body : Ctx → State → State} {p : Nat → Bool} {c : Nat → Cond} (he : exec i s = withIssue i s body)
    (hb : body (ctxOf i s x g) (s.entered i x g) = (ctxOf i s x g).lanes.foldl step (s.entered i x g))
    (hstep : ∀ t, t = { s.entered i x g with groups := t.groups } → ∀ l,
      step t l = if p l then t.waitLane (ctxOf i s x g) l (c l) (ctxOf i s x g).tick else t) : WaitsAll i s x g p c := by
  refine changesLanes_of_fold ha hlen (f := fun l a => if p l then a.waitsFor (c l) (ctxOf i s x g).tick else a) he hb ?_ ?_
  · intro t h ht _ hs l _
    rw [hstep t hs]
    cases hp : p l
    · exact (State.modGroup_eq_self ht (Group.modLane_eq_self rfl)).symm
    · rfl
  · intro l a
    cases hp : p l <;> simp [Ctx.mem_lanes]

/-- An accepted word that parks its lanes one by one, outside a handler. -/
theorem parksAll_of_fold {i : Instr} {s : State} {x : Issue} {g : Group} (ha : Accepts i s x g) (hlen : g.lanes.length = 64)
    (hidle : g.hphase = .idle) {step : State → Nat → State} {body : Ctx → State → State} {r : Nat → TrapRec}
    (he : exec i s = withIssue i s body)
    (hb : body (ctxOf i s x g) (s.entered i x g) = (ctxOf i s x g).lanes.foldl step (s.entered i x g))
    (hstep : ∀ t, t = { s.entered i x g with groups := t.groups } → ∀ l, step t l = t.park x.gid l x.pc { r l with word := x.word }) :
    ParksAll i s x g r := by
  refine changesLanes_of_fold ha hlen (f := fun l => Lane.parkOnce x.pc { r l with word := x.word }) he hb ?_ ?_
  · intro t h ht hh hs l _
    rw [hstep t hs]
    exact State.park_of_plain ht (.inl (Group.parksPlain_of_idle (by rw [hh]; simp [hidle]) l)) _ _
  · intro l a
    rw [Lane.parkOnce_eq]
    by_cases hl : l ∈ (ctxOf i s x g).lanes <;> simp [hl]

/-! Flushes of the reduction buffer (12 R264-R266) -/

theorem insertBy_perm {α : Type} (le : α → α → Bool) (a : α) (l : List α) : (insertBy le a l).Perm (a :: l) := by
  induction l with
  | nil => exact .refl _
  | cons b t ih =>
    unfold insertBy
    split
    · exact .refl _
    · exact (ih.cons b).trans (.swap a b t)

theorem sortBy_perm {α : Type} (le : α → α → Bool) (l : List α) : (sortBy le l).Perm l := by
  induction l with
  | nil => exact .refl _
  | cons a t ih => exact (insertBy_perm le a _).trans (ih.cons a)

/-- Sorting by a number leaves the numbers in ascending order. -/
theorem sortBy_pairwise {α : Type} (key : α → Nat) (l : List α) :
    (sortBy (fun a b => decide (key a ≤ key b)) l).Pairwise (fun a b => key a ≤ key b) := by
  have hins : ∀ (a : α) (l : List α), l.Pairwise (fun a b => key a ≤ key b) →
      (insertBy (fun a b => decide (key a ≤ key b)) a l).Pairwise (fun a b => key a ≤ key b) := by
    intro a l
    induction l with
    | nil => intro _; simp [insertBy]
    | cons b t ih =>
      intro h
      obtain ⟨hb, ht⟩ := List.pairwise_cons.1 h
      unfold insertBy
      by_cases hab : key a ≤ key b
      · rw [if_pos (by simpa using hab)]
        refine List.pairwise_cons.2 ⟨fun c hc => ?_, h⟩
        rcases List.mem_cons.1 hc with rfl | hc
        · exact hab
        · exact Nat.le_trans hab (hb c hc)
      · rw [if_neg (by simpa using hab)]
        refine List.pairwise_cons.2 ⟨fun c hc => ?_, ih ht⟩
        rcases List.mem_cons.1 ((insertBy_perm _ a t).mem_iff.1 hc) with rfl | hc
        · omega
        · exact hb c hc
  induction l with
  | nil => exact .nil
  | cons a t ih => exact hins a _ ih

theorem mapFrom_eq_zipIdx {α β : Type} (f : Nat → α → β) (i : Nat) (l : List α) : mapFrom f i l = (l.zipIdx i).map (fun q => f q.2 q.1) := by
  induction l generalizing i with
  | nil => rfl
  | cons a t ih => simp [mapFrom, ih]

theorem State.core_setCore_self (s : State) (k : Nat) (c : Core) : (s.setCore k c).core k = c := by
  simp only [State.setCore, State.core, tget_tset_self, Option.getD_some]

theorem State.core_setCore_of_ne (s : State) {k j : Nat} (c : Core) (h : j ≠ k) : (s.setCore k c).core j = s.core j := by
  simp only [State.setCore, State.core, tget_tset_of_ne _ _ h]

/-- What a flush does: the entries from before tick `lim` leave the buffer in the order of their keys, 64 to a bank turn, and their
number is given. No other core and nothing else changes. -/
theorem State.flush_spec (s : State) (k t lim : Nat) :
    let c := s.core k
    let b0 := max (t + 6) ((c.rlast.map (· + 1)).getD 0)
    ∃ es, es.Perm (c.rbuf.filter (fun e => e.tick < lim)) ∧ es.Pairwise (fun a b => a.key ≤ b.key) ∧
      ((s.flush k t lim).1.core k).rbuf = c.rbuf.filter (fun e => !(e.tick < lim)) ∧
      ((s.flush k t lim).1.core k).rflush = c.rflush ++ es.zipIdx.map (fun q => (b0 + q.2 / 64, q.1)) ∧
      (es ≠ [] → ((s.flush k t lim).1.core k).rlast = some (b0 + (es.length - 1) / 64)) ∧
      (∀ j, j ≠ k → (s.flush k t lim).1.core j = s.core j) ∧
      (s.flush k t lim).2.1 = es.length ∧ (s.flush k t lim).1 = { s with cores := (s.flush k t lim).1.cores } := by
  intro c b0
  have hperm := sortBy_perm (fun a b => decide (a.key ≤ b.key)) (c.rbuf.filter (fun e => e.tick < lim))
  refine ⟨sortBy (fun a b => a.key ≤ b.key) (c.rbuf.filter (fun e => e.tick < lim)), hperm, sortBy_pairwise _ _, ?_⟩
  by_cases he : sortBy (fun a b => decide (a.key ≤ b.key)) (c.rbuf.filter (fun e => e.tick < lim)) = []
  · have hnone : c.rbuf.filter (fun e => e.tick < lim) = [] := by rw [he] at hperm; exact hperm.nil_eq.symm
    have hall : c.rbuf.filter (fun e => !(e.tick < lim)) = c.rbuf := by
      rw [List.filter_eq_self]
      intro e hm
      simpa using List.filter_eq_nil_iff.1 hnone e hm
    have hfl : s.flush k t lim = (s, 0, 0) := by
      unfold State.flush; simp only [show s.core k = c from rfl, he]; rfl
    rw [hfl, he]
    simp [c, hall]
  · have hfl : s.flush k t lim = (s.setCore k { c with
        rbuf := c.rbuf.filter (fun e => !(e.tick < lim))
        rflush := c.rflush ++ mapFrom (fun i e => (b0 + i / 64, e)) 0 (sortBy (fun a b => a.key ≤ b.key) (c.rbuf.filter (fun e => e.tick < lim)))
        rlast := some (b0 + ((sortBy (fun a b => a.key ≤ b.key) (c.rbuf.filter (fun e => e.tick < lim))).length - 1) / 64) },
        (sortBy (fun a b => a.key ≤ b.key) (c.rbuf.filter (fun e => e.tick < lim))).length,
        b0 + ((sortBy (fun a b => a.key ≤ b.key) (c.rbuf.filter (fun e => e.tick < lim))).length - 1) / 64) := by
      unfold State.flush
      simp only [show s.core k = c from rfl, List.isEmpty_iff, he, if_false, b0]
      cases c.rlast <;> rfl
    rw [hfl]
    simp only [State.core_setCore_self, mapFrom_eq_zipIdx]
    exact ⟨trivial, trivial, fun _ => trivial, fun j hj => State.core_setCore_of_ne _ _ hj, trivial, rfl⟩

end Sys2Proof.Machine
end

section
/-! The words that wait, and the words that order (01 R20, 09 R202–R204). -/

namespace Sys2Proof.Machine

open Host (Outcome)

/-- A source is read from the group as it stands at the issue, whatever has become of the groups since. -/
theorem Ctx.src32_of_groups {s t : State} {i : Instr} {x : Issue} {g : Group} (ht : t = { s.entered i x g with groups := t.groups })
    (c : Ctx) (l : Nat) (o : Opnd) : c.src32 t l o = c.src32 s l o := by rw [ht]; rfl

theorem Ctx.src_of_groups {s t : State} {i : Instr} {x : Issue} {g : Group} (ht : t = { s.entered i x g with groups := t.groups })
    (c : Ctx) (n l : Nat) (o : Opnd) : c.src t n l o = c.src s n l o := by rw [ht]; rfl

theorem waitc_waits {c : Ctl} {a : Opnd} {s : State} {x : Issue} {g : Group} (hlen : g.lanes.length = 64) (ha : Accepts (.waitc c a) s x g) :
    WaitsAll (.waitc c a) s x g (fun l => decide ((ctxOf (.waitc c a) s x g).tick < ((ctxOf (.waitc c a) s x g).src s 2 l a).toNat))
      (fun l => .tick ((ctxOf (.waitc c a) s x g).src s 2 l a).toNat) := by
  refine waitsAll_of_fold ha hlen rfl rfl fun t ht l => ?_
  simp only [Ctx.src_of_groups ht, decide_eq_true_eq]

theorem bar_waits {c : Ctl} {s : State} {x : Issue} {g : Group} (hlen : g.lanes.length = 64) (ha : Accepts (.bar c) s x g) :
    WaitsAll (.bar c) s x g (fun _ => true) (fun _ => .bar) :=
  waitsAll_of_fold ha hlen rfl rfl fun _ _ _ => rfl

theorem gbar_waits {c : Ctl} {s : State} {x : Issue} {g : Group} (hlen : g.lanes.length = 64) (ha : Accepts (.gbar c) s x g) :
    WaitsAll (.gbar c) s x g (fun _ => true) (fun _ => .gbar) :=
  waitsAll_of_fold ha hlen rfl rfl fun _ _ _ => rfl

/-- A landing counter has met its target when it does not lag behind it. -/
theorem lcMet_iff (lc : List Word) (i : Nat) (target : Word) : lcMet lc i target = !decide (2 ^ 31 ≤ (lc.getD i 0 - target).toNat) := by
  unfold lcMet
  generalize (lc.getD i 0 - target).toNat = n
  rw [← decide_not, decide_eq_decide]
  omega

theorem Ctx.lanes_of_sel_zero {c : Ctx} (h : c.sel = 0) : c.lanes = [] := by rw [Ctx.lanes, h, lanesOf_zero]

/-- `bbar` of a counter's index has its lanes wait unless the counter has met the target. -/
theorem bbar_waits {c : Ctl} {a b : Opnd} {s : State} {x : Issue} {g : Group} (hlen : g.lanes.length = 64) (ha : Accepts (.bbar c a b) s x g)
    (hn : ((ctxOf (.bbar c a b) s x g).low32 s a).toNat ≤ 15) :
    WaitsAll (.bbar c a b) s x g
      (fun _ => decide (2 ^ 31 ≤ ((s.block g.block).lc.getD ((ctxOf (.bbar c a b) s x g).low32 s a).toNat 0 - (ctxOf (.bbar c a b) s x g).low32 s b).toNat))
      (fun _ => .bbar ((ctxOf (.bbar c a b) s x g).low32 s a).toNat ((ctxOf (.bbar c a b) s x g).low32 s b)) := by
  set k := ctxOf (.bbar c a b) s x g with hk
  set late := decide (2 ^ 31 ≤ ((s.block g.block).lc.getD (k.low32 s a).toNat 0 - k.low32 s b).toNat) with hlate
  refine waitsAll_of_fold (step := fun t l => if late then t.waitLane k l (.bbar (k.low32 s a).toNat (k.low32 s b)) k.tick else t)
    ha hlen rfl ?_ fun _ _ _ => rfl
  change (if k.sel = 0 then _ else if 15 < (k.low32 s a).toNat then _ else if lcMet (s.block g.block).lc (k.low32 s a).toNat (k.low32 s b) then _ else _) = _
  rw [lcMet_iff, if_neg (show ¬ 15 < _ by omega), ← hlate]
  by_cases hs : k.sel = 0
  · rw [if_pos hs, ← hk, Ctx.lanes_of_sel_zero hs]; rfl
  · rw [if_neg hs]
    cases late
    · exact (List.foldl_fixed _).symm
    · rfl

/-- `bbar` of an index above 15 parks its lanes. -/
theorem bbar_parks {c : Ctl} {a b : Opnd} {s : State} {x : Issue} {g : Group} (hlen : g.lanes.length = 64) (ha : Accepts (.bbar c a b) s x g)
    (hn : 15 < ((ctxOf (.bbar c a b) s x g).low32 s a).toNat) (hidle : g.hphase = .idle) :
    ParksAll (.bbar c a b) s x g (fun _ => { trap := 0x0B, cause := 6, targ := (ctxOf (.bbar c a b) s x g).low32 s a }) := by
  set k := ctxOf (.bbar c a b) s x g with hk
  refine parksAll_of_fold (step := fun t l => t.parkLane k l { trap := 0x0B, cause := 6, targ := k.low32 s a })
    ha hlen hidle rfl ?_ fun t ht l => State.parkLane_entered ht l _
  change (if k.sel = 0 then _ else if 15 < (k.low32 s a).toNat then _ else _) = _
  rw [if_pos hn]
  by_cases hs : k.sel = 0
  · rw [if_pos hs, ← hk, Ctx.lanes_of_sel_zero hs]; rfl
  · rw [if_neg hs]; rfl

/-- `bwait` of an open batch parks a lane, and of a batch that has not completed has it wait. -/
theorem bwait_changes {c : Ctl} {a : Opnd} {imm : Word} {s : State} {x : Issue} {g : Group} (hlen : g.lanes.length = 64)
    (ha : Accepts (.bwait c a imm) s x g) :
    let k := ctxOf (.bwait c a imm) s x g
    let w := fun l => k.src32 s l a + imm
    let ahead := fun l => decide (1 ≤ (w l - g.last).toNat ∧ (w l - g.last).toNat < 2 ^ 31)
    (g.hphase = .idle ∨ ∀ l ∈ k.lanes, ahead l = false) →
      ChangesLanes (.bwait c a imm) s x g (fun _ => false) [] (fun l e =>
        if k.sel.getLsbD l && ahead l then
          (if e.isLive && e.trec.isNone then e.parkedAt x.pc { trap := 0x0B, cause := 5, targ := w l, word := x.word } else e)
        else if k.sel.getLsbD l && decide (2 ^ 31 ≤ (g.compl - w l).toNat) then e.waitsFor (.batch (w l)) k.tick
        else e) := by
  intro k w ahead hpark
  refine changesLanes_of_fold (f := fun l e =>
      if ahead l then e.parkOnce x.pc { trap := 0x0B, cause := 5, targ := w l, word := x.word }
      else if 2 ^ 31 ≤ (g.compl - w l).toNat then e.waitsFor (.batch (w l)) k.tick else e) ha hlen rfl rfl ?_ ?_
  · intro t h ht hh hs l hl
    have hw : k.src32 t l a = k.src32 s l a := Ctx.src32_of_groups hs k l a
    simp only [show (ctxOf (.bwait c a imm) s x g) = k from rfl, hw, ← Bool.decide_and]
    change (if ahead l then t.parkLane k l { trap := 0x0B, cause := 5, targ := w l }
      else if 2 ^ 31 ≤ (g.compl - w l).toNat then t.waitLane k l (.batch (w l)) k.tick else t) = _
    cases hal : ahead l
    · by_cases hc : 2 ^ 31 ≤ (g.compl - w l).toNat
      · simp only [hc, if_true]; rfl
      · simp only [hc, if_false]; exact (State.modGroup_eq_self ht (Group.modLane_eq_self rfl)).symm
    · have hidle : h.hphase = .idle := by
        rw [hh]
        simpa using hpark.resolve_right fun hno => by simp [hno l hl] at hal
      rw [if_pos rfl, State.parkLane_entered hs]
      exact State.park_of_plain ht (.inl (Group.parksPlain_of_idle hidle l)) _ _
  · intro l e
    by_cases hl : k.sel.getLsbD l = true
    · simp only [show (ctxOf (.bwait c a imm) s x g) = k from rfl, Ctx.mem_lanes, hl, if_true, Bool.true_and, decide_eq_true_eq]
      rfl
    · simp only [show (ctxOf (.bwait c a imm) s x g) = k from rfl, Ctx.mem_lanes, hl, Bool.false_and, Bool.false_eq_true, if_false]

theorem waitWords : WaitWords := by
  intro c a b imm s x g hlen
  exact ⟨waitc_waits hlen, bar_waits hlen, gbar_waits hlen, fun ha => ⟨bbar_waits hlen ha, bbar_parks hlen ha⟩, bwait_changes hlen⟩

/-! Ordering words -/

/-- An accepted word that changes its own group alone. -/
theorem exec_of_modGroup {i : Instr} {s : State} {x : Issue} {g : Group} (ha : Accepts i s x g) {body : Ctx → State → State}
    {f : Group → Group} (he : exec i s = withIssue i s body)
    (hb : body (ctxOf i s x g) (s.entered i x g) = (s.entered i x g).modGroup x.gid f) :
    exec i s = .next { s with groups := tset s.groups x.gid (f (enteredGroup i x g)), issue := some (x.ran i) } := by
  rw [he, withIssue_of_accepts ha]
  refine congrArg Outcome.next (hb.trans ?_)
  simp only [State.modGroup, State.entered, State.began, State.setGroup, tmod_tset]
  rfl

theorem mprog_gives (c : Ctl) (d : Opnd) : Gives (.mprog c d) 1 d 1 (fun _ k _ => k.g.mrec.toNat) :=
  yields_of rfl (fun _ => rfl) fun _ _ _ _ _ => rfl

theorem podt_gives (c : Ctl) (d : Opnd) : Gives (.podt c d) 1 d 2 (fun s k _ => 16 * s.turn + 2 * k.g.slot.getD 0) := by
  intro s x g ha
  rw [show exec (.podt c d) s = withIssue (.podt c d) s (fun k s => s.put k 1 d 2 (fun _ => k.tick)) from rfl, withIssue_of_accepts ha]
  exact congrArg Outcome.next (State.began_result s rfl x g _ _ _)

/-- `bclose` closes the batch and gives its number (10 R214, R217). -/
theorem bclose_closes {c : Ctl} {sc : Scope} {d : Opnd} {s : State} {x : Issue} {g : Group} (ha : Accepts (.bclose c sc d) s x g)
    (hs : (ctxOf (.bclose c sc d) s x g).sel ≠ 0) :
    exec (.bclose c sc d) s = .next { s with
      groups := tset s.groups x.gid { withRes (.bclose c sc d) s x g 1 d 1 (g.last + 1).toNat with
        last := g.last + 1, members := g.members.map (fun m => if m.batch.isNone then { m with batch := some (g.last + 1) } else m) }
      issue := some (x.ran (.bclose c sc d)) } := by
  rw [exec_of_modGroup ha (body := fun x s => if x.sel = 0 then s
      else (s.modGroup x.gid (fun g => g.close)).put x 1 d 1 (fun _ => (x.g.last + 1).toNat)) rfl
    ((if_neg hs).trans (State.modGroup_modGroup _ _ _ _))]
  rw [withRes, enteredGroup_eq]
  rfl

/-- The order requirement of a fence (09 R202). -/
def Group.fenceReq (g : Group) : FenceKind → OrdReq
  | .acq => { writesOnly := false, above := g.hl, acq := g.hl }
  | .rel => { writesOnly := true, above := Nat.max g.hl g.hs }
  | .ar => { writesOnly := false, above := Nat.max g.hl g.hs, acq := g.hl }

/-- `fence` sets its requirement and, where it is wide, holds the group for its remote executions (09 R202, 11 R247). -/
theorem fence_orders {c : Ctl} {kd : FenceKind} {sc : Scope} {s : State} {x : Issue} {g : Group} (ha : Accepts (.fence c kd sc) s x g)
    (hs : (ctxOf (.fence c kd sc) s x g).sel ≠ 0) :
    exec (.fence c kd sc) s = .next { s with
      groups := tset s.groups x.gid { enteredGroup (.fence c kd sc) x g with
        reqs := g.reqs.filter (fun q => s.turn ≤ q.above) ++ (if s.turn ≤ (g.fenceReq kd).above then [g.fenceReq kd] else [])
        relFence := g.relFence || (sc.wide && kd != .acq), rwait := if sc.wide then s.ident else g.rwait }
      issue := some (x.ran (.fence c kd sc)) } := by
  rw [exec_of_modGroup ha (f := fun y => { y with
      reqs := y.reqs.filter (fun q => s.turn ≤ q.above) ++ (if s.turn ≤ (g.fenceReq kd).above then [g.fenceReq kd] else [])
      relFence := y.relFence || (sc.wide && kd != .acq), rwait := if sc.wide then s.ident else y.rwait }) rfl
    ((if_neg hs).trans (by cases kd <;> rfl))]
  rw [enteredGroup_eq]

theorem rmtWait_holds {c : Ctl} {s : State} {x : Issue} {g : Group} (ha : Accepts (.rmtWait c) s x g) :
    exec (.rmtWait c) s = .next { s with
      groups := tset s.groups x.gid { enteredGroup (.rmtWait c) x g with rwait := s.ident }, issue := some (x.ran (.rmtWait c)) } :=
  exec_of_modGroup ha (f := fun y => { y with rwait := s.ident }) rfl rfl

/-- A remote execution that a group waits for, or one of an acquire, keeps it from issuing (10 R234, 11 R247). -/
theorem canIssue_of_waiting {u : State} {i : Nat} {h : Group}
    (hr : ∃ r, (r ∈ u.remotes ∧ r.gid = i ∨ r ∈ h.runq) ∧ (r.ident < h.rwait ∨ r.acq = true)) : u.canIssue i h = false := by
  obtain ⟨r, ⟨hmem, hgid⟩ | hmem, hwhy⟩ := hr
  · have hold : u.rmtHolds i h = true := by
      unfold State.rmtHolds State.rmtOut
      simp only [Bool.or_eq_true, List.any_eq_true, Bool.and_eq_true, beq_iff_eq, decide_eq_true_eq]
      rcases hwhy with hlt | hacq
      · exact .inl (.inl (.inl ⟨r, hmem, hgid, hlt⟩))
      · exact .inl (.inr ⟨r, hmem, hgid, hacq⟩)
    simp [State.canIssue, hold]
  · have : h.runq.isEmpty = false := by cases hq : h.runq <;> simp_all
    simp [State.canIssue, this]

theorem aflush_gives_zero {c : Ctl} {d : Opnd} {s : State} {x : Issue} {g : Group} (ha : Accepts (.aflush c d) s x g)
    (hs : (ctxOf (.aflush c d) s x g).sel ≠ 0) (hdet : (s.grid g.grid).desc.det = false) :
    exec (.aflush c d) s = .next { s with
      groups := tset s.groups x.gid (withRes (.aflush c d) s x g 2 d 1 0), issue := some (x.ran (.aflush c d)) } := by
  have hno : ¬ (s.grid g.grid).desc.det = true := by simp [hdet]
  rw [exec_of_modGroup ha (f := fun y => { y with pend := y.pend ++
      [{ due := s.turn + 2, seq := g.seq + 1, dst := d, res := (ctxOf (.aflush c d) s x g).each 1 (fun _ => (0, 0)), pc := x.pc, kind := .ord }] }) rfl
    ((if_neg hs).trans ((if_neg hno).trans rfl))]
  rw [withRes, enteredGroup_eq]
  rfl

/-- In a deterministic grid `aflush` takes the entries from before its tick and gives their number (09 R204, 12 R265). -/
theorem aflush_takes {c : Ctl} {d : Opnd} {s : State} {x : Issue} {g : Group} (ha : Accepts (.aflush c d) s x g)
    (hs : (ctxOf (.aflush c d) s x g).sel ≠ 0) (hdet : (s.grid g.grid).desc.det = true) :
    ∃ t h, exec (.aflush c d) s = .next t ∧ tget t.groups x.gid = some h ∧
      (t.core g.core).rbuf = (s.core g.core).rbuf.filter (fun q => !(q.tick < 16 * s.turn + 2 * g.slot.getD 0)) ∧
      h.pend = (withRes (.aflush c d) s x g 2 d 1 ((s.core g.core).rbuf.filter (fun q => q.tick < 16 * s.turn + 2 * g.slot.getD 0)).length).pend := by
  obtain ⟨es, hperm, -, hbuf, -, -, -, hn, hkeep⟩ := (s.entered (.aflush c d) x g).flush_spec g.core s.turn (16 * s.turn + 2 * g.slot.getD 0)
  set fl := (s.entered (.aflush c d) x g).flush g.core s.turn (16 * s.turn + 2 * g.slot.getD 0) with hfl
  have he : exec (.aflush c d) s = .next ((fl.1.modGroup x.gid (fun y => { y with hs := Nat.max y.hs fl.2.2 })).put
      (ctxOf (.aflush c d) s x g) 2 d 1 (fun _ => fl.2.1)) := by
    rw [show exec (.aflush c d) s = execAflush c d s from rfl, execAflush, withIssue_of_accepts ha]
    exact congrArg Outcome.next ((if_neg hs).trans (if_pos hdet))
  have hg : tget fl.1.groups x.gid = some (enteredGroup (.aflush c d) x g) := by rw [hkeep]; exact tget_entered s _ x g
  refine ⟨_, _, he, State.tget_modGroup (State.tget_modGroup hg), hbuf, ?_⟩
  rw [hn, hperm.length_eq]
  simp only [withRes, enteredGroup_pend]
  rfl

theorem orderingWords : OrderingWords := by
  intro c kd sc d s x g left
  exact ⟨mprog_gives c d, podt_gives c d, bclose_closes, fun ha hs => by cases kd <;> exact fence_orders ha hs, rmtWait_holds, fun u i h _ hr => canIssue_of_waiting hr,
    fun ha hs => ⟨aflush_gives_zero ha hs, aflush_takes ha hs⟩⟩

/-- Settles O20: a waiting word is a run over its lanes, each changed by itself, and an ordering word one change of its group. -/
theorem waitsAndOrder : Obligations.WaitsAndOrder := ⟨waitWords, orderingWords⟩

end Sys2Proof.Machine
end

section
/-! Words that trap (17 R385, R392, R393, 02 R60-R62), and the tables of the decode checks (01 R24, 07 R146, 16 R372). -/

namespace Sys2Proof.Machine

open Host (Outcome)

/-- Outside a handler, parking a mask parks its live lanes that are not parked already, and changes nothing else. -/
theorem parkMask_parks {s : State} {gid : Nat} {g : Group} (hg : tget s.groups gid = some g) (hlen : g.lanes.length = 64)
    (hidle : g.hphase = .idle) (m : Mask) (pc : BitVec 20) (r : TrapRec) (q : Option Issue) :
    OnlyGroup gid s { s.parkMask gid m pc r with issue := q } ∧ ∃ h, tget (s.parkMask gid m pc r).groups gid = some h ∧
      ∀ l, l < 64 → h.lane l = if m.getLsbD l && (g.lane l).isLive && (g.lane l).trec.isNone then (g.lane l).parkedAt pc r else g.lane l := by
  rw [State.parkMask_of_idle hg hidle]
  refine ⟨OnlyGroup.of_tmod rfl, _, State.tget_modGroup hg, fun l hl => ?_⟩
  rw [Group.lane_onLanes (by omega)]
  simp only [mem_lanesOf, Lane.parkOnce]
  cases m.getLsbD l <;> simp

/-- A word that parks whatever reaches it. -/
theorem parkWord_parks {s : State} {x : Issue} {g : Group} (hx : s.issue = some x) (hg : tget s.groups x.gid = some g)
    (hlen : g.lanes.length = 64) (hidle : g.hphase = .idle) (r : TrapRec) :
    ∃ u h, parkWord r s = .next u ∧ OnlyGroup x.gid s u ∧ tget u.groups x.gid = some h ∧
      u.issue = some { x with rejected := true, stall := 0 } ∧ ∀ l, l < 64 → h.lane l =
        if x.iset.getLsbD l && (g.lane l).isLive && (g.lane l).trec.isNone then (g.lane l).parkedAt x.pc { r with word := x.word } else g.lane l := by
  obtain ⟨honly, h, hh, hlanes⟩ := parkMask_parks hg hlen hidle x.iset x.pc { r with word := x.word } (some { x with rejected := true, stall := 0 })
  exact ⟨_, h, by simp only [parkWord, hx], honly, hh, rfl, hlanes⟩

theorem trap_parks {c : Ctl} {code : BitVec 16} {s : State} {x : Issue} {g : Group} (hlen : g.lanes.length = 64) (hidle : g.hphase = .idle)
    (ha : Accepts (.trap c code) s x g) : ParksAll (.trap c code) s x g (fun _ => { trap := 0x0C, cause := 0, info := code.toNat }) :=
  parksAll_of_fold (step := fun t l => t.park x.gid l x.pc { trap := 0x0C, cause := 0, info := code.toNat, word := x.word })
    ha hlen hidle rfl rfl fun _ _ _ => rfl

/-- A group of which only lanes change, each by itself, in a word that also notes its `rti`. -/
def State.enteredRti (s : State) (c : Ctl) (x : Issue) (g : Group) : State :=
  (s.entered (.rti c) x g).modIssue (fun q => { q with rtiDone := true })

theorem rti_in_handler {c : Ctl} {s : State} {x : Issue} {g : Group} (hlen : g.lanes.length = 64) (ha : Accepts (.rti c) s x g)
    (hs : (ctxOf (.rti c) s x g).sel ≠ 0) (hrun : g.hphase = .running) :
    ∃ t h, exec (.rti c) s = .next t ∧ OnlyGroup x.gid s t ∧ tget t.groups x.gid = some h ∧
      t.issue = some { x.ran (.rti c) with rtiDone := true } ∧ ∀ l, l < 64 → h.lane l =
        if (ctxOf (.rti c) s x g).sel.getLsbD l then { (g.lane l).waitsFor .rti (ctxOf (.rti c) s x g).tick with hand := .reached } else g.lane l := by
  set k := ctxOf (.rti c) s x g with hk
  have hb : (k.g.hphase == .running) = true := by simp [hk, ctxOf, wordCtx, hrun]
  have hrun := State.foldl_onLanes (step := fun s l => (s.waitLane k l .rti k.tick).modGroup k.gid (fun g => g.modLane l (fun a => { a with hand := .reached })))
    (f := fun _ a => { a.waitsFor .rti k.tick with hand := .reached }) (lanesOf_nodup k.sel) (tget_entered s (.rti c) x g)
    (s := s.enteredRti c x g) fun t h ht _ _ l _ => by
      exact (State.modGroup_modGroup _ _ _ _).trans (State.modGroup_of_eq ht (Group.modLane_modLane _ _ _ _))
  refine ⟨(s.enteredRti c x g).modGroup x.gid (fun y => y.onLanes (lanesOf k.sel) (fun _ a => { a.waitsFor .rti k.tick with hand := .reached })), _,
    ?_, ?_, State.tget_modGroup (tget_entered s (.rti c) x g), rfl, fun l hl => ?_⟩
  · rw [show exec (.rti c) s = execRti c s from rfl, execRti, withIssue_of_accepts ha]
    exact congrArg Outcome.next ((if_neg hs).trans ((if_pos hb).trans hrun))
  · refine OnlyGroup.of_tset (g := ({ g with seq := g.seq + 1 } : Group).onLanes (lanesOf k.sel) (fun _ a => { a.waitsFor .rti k.tick with hand := .reached })) ?_
    simp only [State.modGroup, State.enteredRti, State.modIssue, State.entered, State.began, State.setGroup, tmod_tset]
    rfl
  · rw [Group.lane_onLanes (by simp; omega)]
    simp only [mem_lanesOf]
    rfl

theorem rti_outside_handler {c : Ctl} {s : State} {x : Issue} {g : Group} (hlen : g.lanes.length = 64) (ha : Accepts (.rti c) s x g)
    (hs : (ctxOf (.rti c) s x g).sel ≠ 0) (hidle : g.hphase = .idle) :
    ∃ t h, exec (.rti c) s = .next t ∧ OnlyGroup x.gid s t ∧ tget t.groups x.gid = some h ∧ ∀ l, l < 64 → h.lane l =
      if (ctxOf (.rti c) s x g).sel.getLsbD l && (g.lane l).isLive && (g.lane l).trec.isNone then
        (g.lane l).parkedAt x.pc { trap := 1, cause := 7, word := x.word } else g.lane l := by
  set k := ctxOf (.rti c) s x g with hk
  have hb : ¬ (k.g.hphase == .running) = true := by simp [hk, ctxOf, wordCtx, hidle]
  have hg : tget (s.enteredRti c x g).groups x.gid = some { g with seq := g.seq + 1 } := tget_entered s (.rti c) x g
  obtain ⟨honly, h, hh, hlanes⟩ := parkMask_parks hg hlen hidle k.sel x.pc { trap := 1, cause := 7, word := x.word }
    ((s.enteredRti c x g).parkMask x.gid k.sel x.pc { trap := 1, cause := 7, word := x.word }).issue
  refine ⟨_, h, ?_, ?_, hh, hlanes⟩
  · rw [show exec (.rti c) s = execRti c s from rfl, execRti, withIssue_of_accepts ha]
    exact congrArg Outcome.next ((if_neg hs).trans (if_neg hb))
  · exact OnlyGroup.trans (t := s.enteredRti c x g) (OnlyGroup.of_tset rfl) honly

theorem trapAndReturnWords : TrapAndReturnWords := by
  intro c code s x g hlen
  exact ⟨fun hi ha => trap_parks hlen hi ha, fun ha hs => ⟨rti_in_handler hlen ha hs, rti_outside_handler hlen ha hs⟩⟩

/-! Words that the decode checks reject -/

/-- Every word with control fields acts through the frame of the words. -/
theorem exec_word {i : Instr} {c : Ctl} (h : i.ctl? = some c) (s : State) : ∃ body, exec i s = withIssue i s body := by
  cases i <;> cases h <;> exact ⟨_, rfl⟩

/-- A word with control fields lies below the emulation class. -/
theorem opc_lt_of_ctl {i : Instr} {c : Ctl} (h : i.ctl? = some c) : i.opc < 0xF0 := by
  cases i <;> cases h <;> exact Nat.le_of_ble_eq_true rfl

/-- What a word does that the decode checks reject, outside a handler. -/
theorem exec_of_rejects {i : Instr} {c : Ctl} {s : State} {x : Issue} {g : Group} {cls : Nat} {keeps : Bool} (hc : i.ctl? = some c)
    (hx : s.issue = some x) (hg : tget s.groups x.gid = some g) (hlen : g.lanes.length = 64) (hidle : g.hphase = .idle)
    (h : s.rejects i g x.iset x.lineBad = some (cls, keeps)) :
    ∃ t h, exec i s = .next t ∧ OnlyGroup x.gid s t ∧ tget t.groups x.gid = some h ∧
      t.issue = some { x with rejected := x.rejected || !keeps, stall := (if keeps then c.stall else 0), stop := x.stop || (keeps && c.stop) } ∧
      ∀ l, l < 64 → h.lane l =
        if x.iset.getLsbD l && (g.lane l).isLive && (g.lane l).trec.isNone then
          (g.lane l).parkedAt x.pc { trap := 1, cause := cls, word := x.word } else g.lane l := by
  obtain ⟨body, hbody⟩ := exec_word hc s
  have he := withIssue_of_rejects hx hg h body
  rw [hc] at he
  obtain ⟨honly, u, hu, hlanes⟩ := parkMask_parks hg hlen hidle x.iset x.pc { illegal cls with word := x.word }
    (some { x with rejected := x.rejected || !keeps, stall := (if keeps then c.stall else 0), stop := x.stop || (keeps && c.stop) })
  exact ⟨_, u, hbody.trans he, honly, hu, rfl, hlanes⟩

theorem unexecutedWordsTrap : UnexecutedWordsTrap := by
  refine ⟨fun t rest s x g hx hg hlen hidle => ?_, fun i c s x g hc hx hg hlen hidle => ?_⟩
  · exact ⟨parkWord_parks hx hg hlen hidle _, parkWord_parks hx hg hlen hidle _, parkWord_parks hx hg hlen hidle _⟩
  · have hopc : ¬ 0xF0 ≤ i.opc := Nat.not_le.2 (opc_lt_of_ctl hc)
    intro parks role fields priv
    have hrej : s.rejects i g x.iset x.lineBad = if !role then some (4, false) else if !fields then some (2, false)
        else if !priv then some (6, true) else if isEngine i.opc && predSel g x.iset i != g.live then some (5, true) else none := by
      rw [State.rejects, if_neg hopc]
      simp only [role, fields, priv, fieldsOk, bne, Bool.not_and, Bool.not_not, Bool.not_or]
    refine ⟨fun hr => ?_, fun hr hf => ?_, fun hr hf hp => ?_, fun hr hf hp heng hpart => ?_⟩
    · exact exec_of_rejects hc hx hg hlen hidle (by rw [hrej, hr]; rfl)
    · exact exec_of_rejects hc hx hg hlen hidle (by rw [hrej, hr, hf]; rfl)
    · exact exec_of_rejects hc hx hg hlen hidle (by rw [hrej, hr, hf, hp]; rfl)
    · have : (isEngine i.opc && predSel g x.iset i != g.live) = true := by simp [heng, hpart]
      exact exec_of_rejects hc hx hg hlen hidle (by rw [hrej, hr, hf, hp, this]; rfl)

/-! The tables -/

theorem roleOk_iff (opc : Nat) (r : Role) (h : opc < 256) : roleOk opc r = true ↔
    opc ≤ 0x3F ∨ 0xD0 ≤ opc ∨ opc ∈ [0xA2, 0xA3, 0xAA, 0xC6, 0xC7] ∨
    ((0x40 ≤ opc ∧ opc ≤ 0x8F) ∧ r ∈ [Role.vector, .general]) ∨ ((0x90 ≤ opc ∧ opc ≤ 0x9F) ∧ r = .matrix) ∨
    ((0xA0 ≤ opc ∧ opc ≤ 0xBF) ∧ r ∈ [Role.vector, .general]) ∨ ((0xC0 ≤ opc ∧ opc ≤ 0xCF) ∧ r ∈ [Role.stoker, .general]) := by
  unfold roleOk
  simp only [Bool.or_eq_true, Bool.and_eq_true, decide_eq_true_eq, List.contains_iff_mem, List.mem_cons, List.not_mem_nil, or_false]
  cases r <;> simp <;> omega

theorem not_mem_of_elem {a : Nat} {l : List Nat} (h : l.elem a = false) : a ∉ l := fun hm =>
  Bool.false_ne_true (h.symm.trans (List.elem_iff.2 hm))

theorem anyRole_iff (i : Instr) : i.opc ∈ [0xA2, 0xA3, 0xAA, 0xC6, 0xC7] ↔
    match i with
    | .spill .. | .fill .. | .fence .. | .bclose .. | .bwait .. => True
    | _ => False := by
  cases i
  case spill | fill | fence | bclose | bwait => exact iff_of_true (List.elem_iff.1 rfl) trivial
  all_goals exact iff_of_false (not_mem_of_elem rfl) id

theorem needsPriv_iff (i : Instr) : needsPriv i = true ↔
    match i with
    | .mtol .. | .finj .. => True
    | .syswr _ n _ => n ≠ 0x009
    | _ => False := by
  cases i
  case mtol | finj => exact iff_of_true rfl trivial
  case syswr c n a => simp [needsPriv, ← BitVec.toNat_inj]
  all_goals exact iff_of_false Bool.false_ne_true id

theorem isEngine_iff (i : Instr) : isEngine i.opc = true ↔
    match i with
    | .mma .. | .mloop .. | .mmab .. | .mzero .. | .maccLd .. | .maccSt .. | .mdrain .. | .mchk .. | .mloc .. | .mfix .. | .mretry ..
    | .mtol .. => True
    | _ => False := by
  cases i
  case mma | mloop | mmab | mzero | maccLd | maccSt | mdrain | mchk | mloc | mfix | mretry | mtol => exact iff_of_true rfl trivial
  all_goals exact iff_of_false Bool.false_ne_true id

theorem decodeCheckTables : DecodeCheckTables := ⟨roleOk_iff, anyRole_iff, needsPriv_iff, isEngine_iff⟩

/-- Settles O31: a trapping word parks a mask, an `rti` in a handler runs over its lanes, and the tables are read off instruction by instruction. -/
theorem trapsAndReturns : Obligations.TrapsAndReturns := ⟨trapAndReturnWords, unexecutedWordsTrap, decodeCheckTables⟩

end Sys2Proof.Machine
end

section
/-! SUPPORT. The words of a group's spill area (09 R195) and of the frames in it (17 R388), and the quenching of several lanes
(17 R382). -/

namespace Sys2Proof.Machine

open Host (Outcome)

/-! Bytes and words -/

theorem toBytes_length (n v : Nat) : (toBytes n v).length = n := by
  induction n generalizing v with
  | zero => rfl
  | succ n ih => simp [toBytes, ih]

theorem leNat_toBytes (n v : Nat) : leNat (toBytes n v) = v % 2 ^ (8 * n) := by
  induction n generalizing v with
  | zero => simp [toBytes, leNat, Nat.mod_one]
  | succ n ih =>
    have h : v % 2 ^ (8 * (n + 1)) = v % 256 + 256 * (v / 256 % 2 ^ (8 * n)) := by
      rw [show 8 * (n + 1) = 8 + 8 * n by omega, Nat.pow_add]
      exact Nat.mod_mul
    rw [toBytes, leNat, ih, h, BitVec.toNat_ofNat]

/-- Bytes read depend on the bytes at their places alone. -/
theorem memRead_congr {m m' : Mem} {a b n : Nat} (h : ∀ i, i < n → memRd m (a + i) = memRd m' (b + i)) : memRead m a n = memRead m' b n := by
  induction n generalizing a b with
  | zero => rfl
  | succ n ih =>
    have h0 := h 0 (Nat.succ_pos n)
    have ht := ih (a := a + 1) (b := b + 1) fun i hi => by simpa [Nat.add_assoc, Nat.add_comm 1 i] using h (i + 1) (by omega)
    simp only [Nat.add_zero] at h0
    rw [memRead, memRead, h0, ht]

/-- What has been written is read back. -/
theorem memRead_memWrite_self (bs : List Byte) {m : Mem} (a : Nat) (h : Memory.wf m = true) : memRead (memWrite m a bs) a bs.length = bs := by
  have key : ∀ (n : Nat) (m : Mem) (b : Nat) (l : List Byte), l.length = n → (∀ i, i < n → memRd m (b + i) = l.getD i 0) → memRead m b n = l := by
    intro n
    induction n with
    | zero => intro m b l hl _; exact (List.length_eq_zero_iff.1 hl).symm
    | succ n ih =>
      intro m b l hl hm
      cases l with
      | nil => simp at hl
      | cons c t =>
        have h0 := hm 0 (Nat.succ_pos n)
        have ht := ih m (b + 1) t (by simpa using hl) fun i hi => by
          simpa [Nat.add_assoc, Nat.add_comm 1 i] using hm (i + 1) (by omega)
        simp only [Nat.add_zero, List.getD_cons_zero] at h0
        rw [memRead, h0, ht]
  exact key _ _ _ _ rfl fun i hi => memRd_memWrite_in bs h hi

/-- Bytes outside a write are read as before. -/
theorem memRead_memWrite_of_out {m : Mem} {a p n : Nat} (bs : List Byte) (h : Memory.wf m = true) (ho : p + n ≤ a ∨ a + bs.length ≤ p) :
    memRead (memWrite m a bs) p n = memRead m p n :=
  memRead_congr fun i hi => memRd_memWrite_of_out bs h (by omega)

/-! Words of the spill area -/

theorem spillAdr_word (l j : Nat) : spillAdr l (4 * j) = 256 * j + 4 * l := by
  unfold spillAdr
  omega

/-- A word written, read back, and every other word as before. -/
theorem spillWord_write {m : Mem} (h : Memory.wf m = true) {l lane : Nat} (hl : l < 64) (hlane : lane < 64) (j a : Nat) (w : Word) :
    spillWord (memWrite m (spillAdr lane (4 * a)) (toBytes 4 w.toNat)) l (4 * j) = if l = lane ∧ j = a then w else spillWord m l (4 * j) := by
  unfold spillWord
  simp only [spillAdr_word]
  by_cases heq : l = lane ∧ j = a
  · obtain ⟨rfl, rfl⟩ := heq
    have hback := memRead_memWrite_self (toBytes 4 w.toNat) (256 * j + 4 * l) h
    rw [toBytes_length] at hback
    rw [if_pos ⟨rfl, rfl⟩, hback, leNat_toBytes]
    exact BitVec.eq_of_toNat_eq (by rw [BitVec.toNat_ofNat]; have := w.isLt; omega)
  · rw [if_neg heq, memRead_memWrite_of_out _ h (by rw [toBytes_length]; omega)]

theorem spillWords_wf (ws : List Word) : ∀ {m : Mem} (lane a : Nat), Memory.wf m = true → Memory.wf (spillWords m lane a ws) = true := by
  induction ws with
  | nil => intro m lane a h; exact h
  | cons w t ih => intro m lane a h; exact ih lane (a + 4) (Memory.wf_memWrite _ _ h)

/-- Words written to a lane's area from word `a` on, read word by word. -/
theorem spillWord_spillWords (ws : List Word) : ∀ {m : Mem}, Memory.wf m = true → ∀ {l lane : Nat}, l < 64 → lane < 64 → ∀ (j a : Nat),
    spillWord (spillWords m lane (4 * a) ws) l (4 * j) =
      if l = lane ∧ a ≤ j ∧ j < a + ws.length then ws.getD (j - a) 0 else spillWord m l (4 * j) := by
  induction ws with
  | nil => intro m _ l lane _ _ j a; rw [if_neg (by rw [List.length_nil]; omega)]; rfl
  | cons w t ih =>
    intro m h l lane hl hlane j a
    rw [spillWords, show 4 * a + 4 = 4 * (a + 1) by omega, ih (Memory.wf_memWrite _ _ h) hl hlane, spillWord_write h hl hlane]
    by_cases heq : l = lane
    · subst heq
      simp only [true_and, List.length_cons]
      by_cases hja : j = a
      · subst hja; simp
      · by_cases hin : a + 1 ≤ j ∧ j < a + 1 + t.length
        · rw [if_pos hin, if_pos (by omega), show j - a = (j - (a + 1)) + 1 by omega, List.getD_cons_succ]
        · rw [if_neg hin, if_neg hja, if_neg (by omega)]
    · simp [heq]

/-! Quenching several lanes -/

theorem tmod_id {α : Type} (t : Tbl α) (n : Nat) : tmod t n (fun a => a) = t := by
  induction t with
  | nil => rfl
  | cons p t ih =>
    obtain ⟨k, b⟩ := p
    by_cases h : k = n <;> simp [tmod, h, ih]

theorem maskOfList_or (m : Mask) (l : List Nat) : l.foldl (fun m i => m ||| (1#64 <<< i)) m = m ||| maskOfList l := by
  unfold maskOfList
  induction l generalizing m with
  | nil => simp
  | cons i t ih => simp only [List.foldl_cons]; rw [ih (m ||| _), ih (0 ||| _)]; simp [BitVec.or_assoc]

theorem maskOfList_cons (i : Nat) (l : List Nat) : maskOfList (i :: l) = (1#64 <<< i) ||| maskOfList l := by
  conv_lhs => rw [maskOfList, List.foldl_cons, maskOfList_or]
  simp

/-- The bits of a mask made of lanes. -/
theorem getLsbD_maskOfList (l : List Nat) {i : Nat} (h : i < 64) : (maskOfList l).getLsbD i = true ↔ i ∈ l := by
  induction l with
  | nil => simp [maskOfList]
  | cons j t ih =>
    rw [maskOfList_cons, BitVec.getLsbD_or, Bool.or_eq_true, ih, List.mem_cons]
    have : (1#64 <<< j).getLsbD i = true ↔ i = j := by
      rw [BitVec.getLsbD_shiftLeft, BitVec.getLsbD_one]
      simp [h]
      omega
    rw [this]

/-- The group after the live ones `hit` among some lanes have been quenched (17 R382, R383). -/
def Group.quenched (g : Group) (hit : List Nat) (cause : Nat) : Group :=
  { g with
    lanes := mapFrom (fun i l => if i ∈ hit then l.gone .quenched else l) 0 g.lanes, nq := Nat.min (g.nq + hit.length) 255
    qcause := (if hit = [] then g.qcause else cause), qlane := (if hit = [] then g.qlane else hit.getLastD 0)
    emask := g.emask &&& ~~~maskOfList hit, live2 := g.live2 &&& ~~~maskOfList hit }

/-- The lanes of `Group.quenched`, lane after lane. -/
theorem gone_cons (g : Group) {l : Nat} {hit : List Nat} (hl : l ∉ hit) :
    mapFrom (fun i a => if i ∈ hit then a.gone .quenched else a) 0 (lmod g.lanes l (fun a => a.gone .quenched)) =
      mapFrom (fun i a => if i ∈ l :: hit then a.gone .quenched else a) 0 g.lanes :=
  congrArg Group.lanes (Group.onLanes_cons hl g (fun _ a => a.gone .quenched))

theorem gone_nil (g : Group) : mapFrom (fun i a => if i ∈ ([] : List Nat) then a.gone .quenched else a) 0 g.lanes = g.lanes :=
  congrArg Group.lanes (Group.onLanes_nil g (fun _ a => a.gone .quenched))

theorem gone_one (g : Group) (l : Nat) :
    mapFrom (fun i a => if i ∈ [l] then a.gone .quenched else a) 0 g.lanes = lmod g.lanes l (fun a => a.gone .quenched) :=
  (gone_cons g List.not_mem_nil).symm.trans (gone_nil (g.modLane l (fun a => a.gone .quenched)))

theorem Group.quenched_nil {g : Group} (h : g.nq ≤ 255) (cause : Nat) : g.quenched [] cause = g := by
  have hmask : ∀ m : Mask, m &&& ~~~maskOfList [] = m := fun m => mask_and_not_zero m
  have hnq : Nat.min (g.nq + 0) 255 = g.nq := Nat.min_eq_left h
  simp only [Group.quenched, gone_nil, hmask, if_true, List.length_nil, hnq]

theorem Group.quenched_cons {g : Group} {l : Nat} {hit : List Nat} (hl : l ∉ hit) (cause : Nat) :
    (g.quenched [l] cause).quenched hit cause = g.quenched (l :: hit) cause := by
  have hmask : ∀ m : Mask, m &&& ~~~maskOfList [l] &&& ~~~maskOfList hit = m &&& ~~~maskOfList (l :: hit) := by
    intro m
    have hone : maskOfList [l] = 1#64 <<< l := by simp [maskOfList]
    rw [hone, maskOfList_cons, BitVec.not_or, BitVec.and_assoc]
  have hnq : Nat.min (Nat.min (g.nq + 1) 255 + hit.length) 255 = Nat.min (g.nq + (hit.length + 1)) 255 := by
    simp only [Nat.min_def]; split <;> split <;> split <;> omega
  have hlast : (if hit = [] then l else hit.getLastD 0) = (l :: hit).getLastD 0 := by cases hit <;> simp
  have hcause : (if hit = [] then cause else cause) = cause := by simp
  simp only [Group.quenched, gone_one, gone_cons g hl, reduceCtorEq, if_false, List.length_cons, List.length_nil, Nat.zero_add, hmask, hnq, hcause,
    ← hlast, List.getLastD_cons, List.getLastD_nil]

theorem Group.quenched_nq_le (g : Group) (hit : List Nat) (cause : Nat) : (g.quenched hit cause).nq ≤ 255 := Nat.min_le_right _ _

/-- A live lane quenched (17 R382, R383). -/
theorem State.quench_of_live {s : State} {gid : Nat} {g : Group} (h : tget s.groups gid = some g) {l : Nat} (hl : (g.lane l).isLive = true) (cause : Nat) :
    s.quench gid l cause = (s.setGroup gid (g.quenched [l] cause)).modGrid g.grid (fun r => { r with nquench := r.nquench + 1 }) := by
  unfold State.quench
  simp only [State.group_of_tget h, hl, if_true]
  unfold Group.quenched
  rw [gone_one, show maskOfList [l] = 1#64 <<< l by simp [maskOfList]]
  rfl

theorem State.quench_of_not_live {s : State} {gid : Nat} {g : Group} (h : tget s.groups gid = some g) {l : Nat} (hl : (g.lane l).isLive = false) (cause : Nat) :
    s.quench gid l cause = s := by
  unfold State.quench
  simp only [State.group_of_tget h, hl, Bool.false_eq_true, if_false]

/-- Several lanes quenched: those of them that are live, each once. -/
theorem State.quenchAll_setGroup {gid cause : Nat} {ls : List Nat} (hn : ls.Nodup) : ∀ (s : State) (g : Group), g.nq ≤ 255 →
    let hit := ls.filter (fun l => (g.lane l).isLive)
    (s.setGroup gid g).quenchAll gid ls cause =
      { s with groups := tset s.groups gid (g.quenched hit cause), grids := tmod s.grids g.grid (fun r => { r with nquench := r.nquench + hit.length }) } := by
  induction ls with
  | nil =>
    intro s g hq
    simp only [List.filter_nil, Group.quenched_nil hq, List.length_nil, Nat.add_zero, tmod_id]
    rfl
  | cons l ls ih =>
    intro s g hq hit
    obtain ⟨hl, hn⟩ := List.nodup_cons.1 hn
    have hself : tget (s.setGroup gid g).groups gid = some g := tget_tset_self _ _ _
    change ((s.setGroup gid g).quench gid l cause).quenchAll gid ls cause = _
    cases hlive : (g.lane l).isLive
    · rw [State.quench_of_not_live hself hlive, ih hn s g hq]
      simp only [hit, List.filter_cons, hlive, Bool.false_eq_true, if_false]
    · have hsame : ∀ j ∈ ls, ((g.quenched [l] cause).lane j).isLive = (g.lane j).isLive := by
        intro j hj
        have : (g.quenched [l] cause).lane j = (g.modLane l (fun a => a.gone .quenched)).lane j :=
          congrArg (fun ls => List.getD ls j ({} : Lane)) (gone_one g l)
        rw [this, Group.lane_modLane_of_ne _ (fun e : l = j => hl (e ▸ hj))]
      have hhit : ls.filter (fun j => ((g.quenched [l] cause).lane j).isLive) = ls.filter (fun j => (g.lane j).isLive) :=
        List.filter_congr hsame
      have hstart : (s.setGroup gid g).quench gid l cause =
          (({ s with grids := tmod s.grids g.grid (fun r => { r with nquench := r.nquench + 1 }) } : State).setGroup gid (g.quenched [l] cause)) := by
        rw [State.quench_of_live hself hlive]
        simp only [State.setGroup, State.modGrid, tset_tset]
      have hgrid : (g.quenched [l] cause).grid = g.grid := rfl
      rw [hstart, ih hn _ _ (Group.quenched_nq_le _ _ _)]
      simp only [hhit, hgrid, tmod_tmod]
      rw [Group.quenched_cons (fun hm => hl (List.mem_filter.1 hm).1)]
      simp only [hit, List.filter_cons, hlive, if_true, List.length_cons, Nat.add_assoc, Nat.add_comm 1]

end Sys2Proof.Machine
end

section
/-! RESULT_LAND (02 R53, R54, 01 R36, 04 R91, 17 R382, R390). -/

namespace Sys2Proof.Machine

open Host (Outcome)

/-- Where one result is due and no semaphore access of the group stands, that result leaves the group's results and lands. -/
theorem State.land_of_one {s : State} {gid : Nat} {g : Group} {p : Landing} {rest : List Landing} (hg : tget s.groups gid = some g)
    (hpend : g.pend = p :: rest) (hdue : p.due ≤ s.turn) (hrest : ∀ q ∈ rest, s.turn < q.due) (hsem : ∀ q ∈ s.semq, q.gid ≠ gid) :
    s.land gid = p.res.foldl (fun s r => s.landLane gid p r) ((s.setGroup gid { g with pend := rest }).quenchAll gid p.quench 3) := by
  have hany : ∀ n, s.semq.any (fun q => q.gid == gid && q.seq == n) = false := by
    intro n
    simp only [List.any_eq_false, Bool.and_eq_true, beq_iff_eq, not_and]
    exact fun q hq he => absurd he (hsem q hq)
  have hp : s.landsNow gid p = true := by simp [State.landsNow, hdue, hany]
  have hno : ∀ q ∈ rest, s.landsNow gid q = false := fun q hq => by simp [State.landsNow, Nat.not_le.2 (hrest q hq)]
  have hnow : g.pend.filter (s.landsNow gid) = [p] := by
    rw [hpend, List.filter_cons, if_pos hp, List.filter_eq_nil_iff.2 fun q hq => by simp [hno q hq]]
  have hstay : g.pend.filter (fun q => !s.landsNow gid q) = rest := by
    rw [hpend, List.filter_cons, if_neg (by simp [hp]), List.filter_eq_self.2 fun q hq => by simp [hno q hq]]
  unfold State.land
  simp only [State.group_of_tget hg, hnow, hstay]
  rfl

theorem exec_resultLand {s : State} {gid : Nat} {g : Group} (hg : tget s.groups gid = some g) : exec (.resultLand gid) s = .next (s.land gid) := by
  simp only [exec, execResultLand, onGroup, hg]

/-! One lane's result -/

/-- The ARITH record of a result whose flag's trap is enabled (04 R91, 17 R385). -/
def State.arithRec (s : State) (g : Group) (p : Landing) (r : LRes) (pc : BitVec 20) : TrapRec :=
  { trap := 0x0A, cause := r.fl.toNat % 32, targ := p.pc.setWidth 32, word := s.wordAt g pc.toNat }

theorem arithRec_eq (s : State) (g : Group) (p : Landing) (r : LRes) (pc : BitVec 20) :
    ({ trap := 0x0A, cause := (r.fl &&& 0x1F#8).toNat, targ := 0#12 ++ p.pc, word := s.wordAt g pc.toNat } : TrapRec) = s.arithRec g p r pc := by
  have hcause : (r.fl &&& 0x1F#8).toNat = r.fl.toNat % 32 := by
    rw [BitVec.toNat_and]
    exact Nat.and_two_pow_sub_one_eq_mod r.fl.toNat 5
  have htarg : (0#12 ++ p.pc : Word) = p.pc.setWidth 32 := by
    apply BitVec.eq_of_toNat_eq
    rw [BitVec.toNat_append, BitVec.toNat_setWidth]
    have := p.pc.isLt
    simp
    omega
  rw [hcause, htarg]; rfl

/-- A lane with a result in its registers, its latch and its flags (01 R36, 04 R91); `n` words have issued by then. -/
def Lane.taken (l : Lane) (p : Landing) (r : LRes) (n : Nat) : Lane :=
  { (l.write p.dst r.ws).latch r.ws n with
    qread := l.qread || r.fl.getLsbD 7, hexh := l.hexh || r.fl.getLsbD 6, wovf := l.wovf || r.fl.getLsbD 5 }

/-- The trap of a result's flag is enabled. -/
def Group.enabled (g : Group) (r : LRes) : Bool := g.te &&& r.fl.extractLsb' 0 5 != 0

/-- A lane after its result, parked where the flag's trap is enabled. -/
def Group.landedLane (g : Group) (s : State) (p : Landing) (r : LRes) (l : Lane) : Lane :=
  if g.enabled r then (l.taken p r g.seq).parkOnce l.pc (s.arithRec g p r l.pc) else l.taken p r g.seq

/-- The group after a lane's result has landed in its registers. -/
def Group.landed (g : Group) (s : State) (p : Landing) (r : LRes) : Group :=
  { g.modLane r.lane (g.landedLane s p r) with fl := g.fl ||| r.fl.extractLsb' 0 5 }

/-- The group with a lane's result in its registers and flags, before any trap. -/
def Group.written (g : Group) (p : Landing) (r : LRes) : Group :=
  { g.modLane r.lane (fun l => l.taken p r g.seq) with fl := g.fl ||| r.fl.extractLsb' 0 5 }

theorem Group.raiseFlags_written (g : Group) (p : Landing) (r : LRes) :
    (g.modLane r.lane (fun l => (l.write p.dst r.ws).latch r.ws g.seq)).raiseFlags r = g.written p r := by
  have hlane : ∀ l : Lane, ({ (l.write p.dst r.ws).latch r.ws g.seq with
      qread := ((l.write p.dst r.ws).latch r.ws g.seq).qread || r.fl.getLsbD 7
      hexh := ((l.write p.dst r.ws).latch r.ws g.seq).hexh || r.fl.getLsbD 6
      wovf := ((l.write p.dst r.ws).latch r.ws g.seq).wovf || r.fl.getLsbD 5 } : Lane) = l.taken p r g.seq := by
    intro l
    cases hd : p.dst <;> simp only [Lane.taken, Lane.write, Lane.latch, hd]
  unfold Group.raiseFlags
  rw [Group.modLane_modLane]
  simp only [hlane]
  rfl

/-- A result that lands in registers, written and its flags set; an enabled flag parks its lane. -/
theorem State.landLane_registers {s : State} {gid : Nat} {g : Group} {p : Landing} {r : LRes}
    (hf : (g.framed r.lane && (p.seq ≤ g.hseq || g.restoring)) = false) :
    (s.setGroup gid g).landLane gid p r =
      if g.enabled r then (s.setGroup gid (g.written p r)).park gid r.lane (g.lane r.lane).pc (s.arithRec g p r (g.lane r.lane).pc)
      else s.setGroup gid (g.written p r) := by
  have hself : (s.setGroup gid g).group gid = g := State.group_of_tget (tget_tset_self _ _ _)
  unfold State.landLane
  simp only [hself, hf, Bool.false_eq_true, if_false, Group.raiseFlags_written, State.setGroup_setGroup]
  rw [← arithRec_eq]
  rfl

theorem Lane.taken_eq (l : Lane) (p : Landing) (r : LRes) (n : Nat) :
    l.taken p r n = { l with
      v := (l.taken p r n).v, o := (l.taken p r n).o, lat := r.ws.getD 1 0 ++ r.ws.getD 0 0, latSeq := n
      qread := l.qread || r.fl.getLsbD 7, hexh := l.hexh || r.fl.getLsbD 6, wovf := l.wovf || r.fl.getLsbD 5 } := by
  cases hd : p.dst <;> simp only [Lane.taken, Lane.write, Lane.latch, hd]

/-- Such a result of a lane that no handler keeps from parking is one change of that lane, and of the flags. -/
theorem State.landLane_plain {s : State} {gid : Nat} {g : Group} {p : Landing} {r : LRes} (hl : r.lane < g.lanes.length)
    (hf : (g.framed r.lane && (p.seq ≤ g.hseq || g.restoring)) = false)
    (hp : g.enabled r = true → g.parksPlain r.lane ∨ (g.lane r.lane).trec.isSome) :
    (s.setGroup gid g).landLane gid p r = s.setGroup gid (g.landed s p r) := by
  rw [State.landLane_registers hf]
  by_cases he : g.enabled r = true
  · have hlane : (g.written p r).lane r.lane = (g.lane r.lane).taken p r g.seq := Group.lane_modLane_self _ hl
    have hplain : (g.written p r).parksPlain r.lane ∨ ((g.written p r).lane r.lane).trec.isSome := by
      have hphase : (g.written p r).hphase = g.hphase := rfl
      unfold Group.parksPlain
      rw [hphase, hlane, Lane.taken_eq]
      exact hp he
    rw [if_pos he, State.park_of_plain (tget_tset_self _ _ _) hplain]
    simp only [State.modGroup, State.setGroup, tmod_tset]
    congr 2
    have hone : (g.modLane r.lane (fun l => l.taken p r g.seq)).modLane r.lane (Lane.parkOnce (g.lane r.lane).pc (s.arithRec g p r (g.lane r.lane).pc)) =
        g.modLane r.lane (g.landedLane s p r) := by
      rw [Group.modLane_modLane]
      exact Group.modLane_congr (by simp only [Group.landedLane, he, if_true])
    exact congrArg (fun y : Group => ({ y with fl := g.fl ||| r.fl.extractLsb' 0 5 } : Group)) hone
  · have hone : g.modLane r.lane (fun l => l.taken p r g.seq) = g.modLane r.lane (g.landedLane s p r) :=
      Group.modLane_congr (by simp only [Group.landedLane, he, Bool.false_eq_true, if_false])
    rw [if_neg he]
    exact congrArg (fun y : Group => s.setGroup gid ({ y with fl := g.fl ||| r.fl.extractLsb' 0 5 } : Group)) hone

/-! The results of one word -/

/-- A result of this lane lands in its registers, and its lane parks, if at all, as it does outside a handler (17 R390). -/
def Group.landsPlain (g : Group) (p : Landing) (r : LRes) : Prop :=
  match g.hphase with
  | .idle => True
  | .capture f _ m => m.getLsbD r.lane = false ∨ (f ≠ 0 ∧ (g.lane r.lane).trec.isSome)
  | .running => (g.lane r.lane).hand = .out ∨ (g.hseq < p.seq ∧ g.te &&& r.fl.extractLsb' 0 5 = 0)
  | .restore _ => (g.lane r.lane).hand = .out

theorem Group.not_framed_of_landsPlain {g : Group} {p : Landing} {r : LRes} (h : g.landsPlain p r) :
    (g.framed r.lane && (p.seq ≤ g.hseq || g.restoring)) = false := by
  unfold Group.landsPlain at h
  unfold Group.framed Group.restoring
  cases hh : g.hphase with
  | idle => rfl
  | capture f u m =>
    simp only [hh] at h ⊢
    rcases h with h | ⟨h, -⟩ <;> simp [h]
  | running =>
    simp only [hh] at h ⊢
    rcases h with h | ⟨h, -⟩ <;> simp [h]
  | restore u =>
    simp only [hh] at h ⊢
    simp [h]

theorem Group.parks_of_landsPlain {g : Group} {p : Landing} {r : LRes} (h : g.landsPlain p r) (he : g.enabled r = true) :
    g.parksPlain r.lane ∨ (g.lane r.lane).trec.isSome := by
  unfold Group.landsPlain at h
  unfold Group.parksPlain
  cases hh : g.hphase with
  | idle => exact .inl trivial
  | restore u => exact .inl trivial
  | capture f u m =>
    simp only [hh] at h ⊢
    exact h.imp_right And.right
  | running =>
    simp only [hh] at h ⊢
    rcases h with h | ⟨-, h⟩
    · exact .inl h
    · simp [Group.enabled, h] at he

/-- Results of distinct lanes land each in its own lane, and the flags of all are set. -/
theorem State.foldl_landLane {gid : Nat} {p : Landing} {s : State} (res : List LRes) (hn : (res.map (·.lane)).Nodup) :
    ∀ g : Group, (∀ r ∈ res, r.lane < g.lanes.length) → (∀ r ∈ res, g.landsPlain p r) →
      ∃ h : Group, res.foldl (fun s r => s.landLane gid p r) (s.setGroup gid g) = s.setGroup gid h ∧
        h = { g with lanes := h.lanes, fl := h.fl } ∧ h.lanes.length = g.lanes.length ∧
        (∀ b, b < 5 → h.fl.getLsbD b = (g.fl.getLsbD b || res.any (fun r => r.fl.getLsbD b))) ∧
        (∀ l, (∀ r ∈ res, r.lane ≠ l) → h.lane l = g.lane l) ∧ ∀ r ∈ res, h.lane r.lane = g.landedLane s p r (g.lane r.lane) := by
  induction res with
  | nil => exact fun g _ _ => ⟨g, rfl, rfl, rfl, by simp, fun _ _ => rfl, by simp⟩
  | cons r res ih =>
    intro g hlt hplain
    rw [List.map_cons, List.nodup_cons] at hn
    have hother : ∀ q ∈ res, r.lane ≠ q.lane := fun q hq he => hn.1 (he ▸ List.mem_map_of_mem hq)
    have hstep := State.landLane_plain (s := s) (gid := gid) (hlt r (List.mem_cons_self ..))
      (Group.not_framed_of_landsPlain (hplain r (List.mem_cons_self ..))) (Group.parks_of_landsPlain (hplain r (List.mem_cons_self ..)))
    have hlane : ∀ l, r.lane ≠ l → (g.landed s p r).lane l = g.lane l := fun l hl => Group.lane_modLane_of_ne _ hl
    obtain ⟨h, hfold, hsame, hlen, hfl, hrest, hres⟩ := ih hn.2 (g.landed s p r)
      (fun q hq => by simpa [Group.landed] using hlt q (List.mem_cons_of_mem _ hq))
      (fun q hq => by
        have := hplain q (List.mem_cons_of_mem _ hq)
        unfold Group.landsPlain at this ⊢
        rw [hlane _ (hother q hq)]
        exact this)
    refine ⟨h, by rw [List.foldl_cons, hstep, hfold], hsame.trans rfl, hlen.trans (Group.modLane_length _ _ _), fun b hb => ?_, fun l hl => ?_, fun q hq => ?_⟩
    · rw [hfl b hb, List.any_cons, ← Bool.or_assoc]
      congr 1
      simp [Group.landed, hb]
    · rw [hrest l fun q hq => hl q (List.mem_cons_of_mem _ hq), hlane l (hl r (List.mem_cons_self ..))]
    · rcases List.mem_cons.1 hq with rfl | hq
      · rw [hrest _ fun q hq he => hother q hq he.symm]
        exact Group.lane_modLane_self _ (hlt _ (List.mem_cons_self ..))
      · rw [hres q hq, hlane _ (hother q hq)]
        rfl

/-! What a lane holds then -/

theorem Lane.parkOnce_regs (l : Lane) (pc : BitVec 20) (r : TrapRec) : (l.parkOnce pc r).v = l.v ∧ (l.parkOnce pc r).o = l.o := by
  unfold Lane.parkOnce
  split <;> exact ⟨rfl, rfl⟩

theorem Group.landedLane_regs (g : Group) (s : State) (p : Landing) (r : LRes) (e : Lane) :
    (g.landedLane s p r e).v = (e.taken p r g.seq).v ∧ (g.landedLane s p r e).o = (e.taken p r g.seq).o := by
  unfold Group.landedLane
  split
  · exact Lane.parkOnce_regs _ _ _
  · exact ⟨rfl, rfl⟩

/-- A landed lane is the lane with its registers, latch and flags written, parked where the trap is enabled and nothing keeps it from parking. -/
theorem Group.landedLane_eq (g : Group) (s : State) (p : Landing) (r : LRes) (e : Lane) :
    g.landedLane s p r e = if g.te &&& r.fl.extractLsb' 0 5 ≠ 0 ∧ e.life = .live ∧ e.trec = none then
      (e.taken p r g.seq).parkedAt e.pc (s.arithRec g p r e.pc) else e.taken p r g.seq := by
  have hlive : (e.taken p r g.seq).isLive = e.isLive := by rw [Lane.taken_eq]; rfl
  have htrec : (e.taken p r g.seq).trec = e.trec := by rw [Lane.taken_eq]
  have hen : g.enabled r = true ↔ g.te &&& r.fl.extractLsb' 0 5 ≠ 0 := bne_iff_ne
  have hl : e.isLive = true ↔ e.life = .live := beq_iff_eq
  simp only [Group.landedLane, Lane.parkOnce_eq, hlive, htrec, hen, hl]
  exact (ite_and ..).symm

/-- A register of a result's destination takes its word, and every other one stays (01 R36, 02 R53). -/
theorem getElem?_written (old ws : List Word) (i j : Nat) :
    (mapFrom (fun j w => if i ≤ j ∧ j < i + ws.length then ws.getD (j - i) w else w) 0 old)[j]? =
      if i ≤ j ∧ j < i + ws.length then old[j]?.map (fun w => ws.getD (j - i) w) else old[j]? := by
  rw [getElem?_mapFrom, Nat.zero_add]
  split <;> simp

theorem registersTakeResults : RegistersTakeResults := by
  intro gid s g p rest hg hlen hpend hdue hrest hsem hquench hn hlt hplain
  obtain ⟨h, hfold, hsame, hsize, hfl, hother, hres⟩ := State.foldl_landLane (gid := gid) (p := p) (s := s) p.res hn { g with pend := rest }
    (fun r hr => by rw [hlen]; exact hlt r hr) hplain
  have hland : s.land gid = s.setGroup gid h := by
    rw [State.land_of_one hg hpend hdue hrest hsem, hquench]
    exact hfold
  refine ⟨s.setGroup gid h, by rw [exec_resultLand hg, hland], OnlyGroup.of_tset rfl, rfl, h, tget_tset_self _ _ _, hsame,
    hsize.trans hlen, hfl, hother, fun r hr => ?_⟩
  intro e n e' hit
  have hlane : n = g.landedLane s p r e := hres r hr
  obtain ⟨hv, ho⟩ := g.landedLane_regs s p r e
  rw [← hlane] at hv ho
  refine ⟨fun j => ?_, fun j => ?_, ?_⟩
  · rw [hv]
    cases hd : p.dst <;> simp only [hit, Lane.taken, Lane.write, Lane.latch, hd, getElem?_written]
  · rw [ho]
    cases hd : p.dst <;> simp only [hit, Lane.taken, Lane.write, Lane.latch, hd, getElem?_written]
  · have he' : e' = e.taken p r g.seq := by rw [Lane.taken_eq, ← hv, ← ho]
    rw [he']
    exact hlane.trans (g.landedLane_eq s p r e)

/-! Results that go to frames (17 R388, R390) -/

/-- A lane of a captured frame after a result for it: flags, and the record of an enabled one, kept for the handler's end. -/
def Group.framedLane (g : Group) (s : State) (p : Landing) (r : LRes) (e : Lane) : Lane :=
  { e with
    latSeq := g.seq, qread := e.qread || r.fl.getLsbD 7, hexh := e.hexh || r.fl.getLsbD 6, wovf := e.wovf || r.fl.getLsbD 5
    late := if g.te &&& r.fl.extractLsb' 0 5 ≠ 0 ∧ e.late = none then some (s.arithRec g p r e.pc) else e.late }

/-- The group after a lane's result has landed in its frame. -/
def Group.framedBy (g : Group) (s : State) (p : Landing) (r : LRes) : Group :=
  { g.modLane r.lane (g.framedLane s p r) with
    fl := g.fl ||| r.fl.extractLsb' 0 5, spill := { g.spill with cells := frameRes g.spill.cells r.lane p.dst r.ws } }

theorem State.landLane_frame {s : State} {gid : Nat} {g : Group} {p : Landing} {r : LRes}
    (hf : (g.framed r.lane && (p.seq ≤ g.hseq || g.restoring)) = true) :
    (s.setGroup gid g).landLane gid p r = s.setGroup gid (g.framedBy s p r) := by
  have hself : (s.setGroup gid g).group gid = g := State.group_of_tget (tget_tset_self _ _ _)
  have hword : ∀ pc, (s.setGroup gid g).wordAt g pc = s.wordAt g pc := fun _ => rfl
  unfold State.landLane
  simp only [hself, hf, if_true, State.setGroup_setGroup, arithRec_eq, hword, Group.raiseFlags]
  rw [show (g.te &&& r.fl.extractLsb' 0 5 != 0) = g.enabled r from rfl]
  have hone : (g.modLane r.lane (fun l => { l with
      qread := l.qread || r.fl.getLsbD 7, hexh := l.hexh || r.fl.getLsbD 6, wovf := l.wovf || r.fl.getLsbD 5 })).modLane r.lane
        (fun l => if (g.enabled r && l.late.isNone) = true then { l with latSeq := g.seq, late := some (s.arithRec g p r (g.lane r.lane).pc) }
          else { l with latSeq := g.seq }) = g.modLane r.lane (g.framedLane s p r) := by
    rw [Group.modLane_modLane]
    refine Group.modLane_congr ?_
    have hen : g.enabled r = true ↔ g.te &&& r.fl.extractLsb' 0 5 ≠ 0 := bne_iff_ne
    simp only [Group.framedLane, Bool.and_eq_true, Option.isNone_iff_eq_none, hen]
    split <;> rfl
  exact congrArg (fun y : Group => s.setGroup gid { y with
    fl := g.fl ||| r.fl.extractLsb' 0 5, spill := { g.spill with cells := frameRes g.spill.cells r.lane p.dst r.ws } }) hone

/-- The words of the frames after a result for one of them: its registers or entries, and its latch. -/
theorem frameWord_frameRes {m : Mem} (hm : Memory.wf m = true) {l lane : Nat} (hl : l < 64) (hlane : lane < 64) (d : Opnd) (ws : List Word) (j : Nat) :
    spillWord (frameRes m lane d ws) l (4 * j) =
      if l = lane ∧ (j = 9 ∨ j = 10) then ws.getD (j - 9) 0
      else match d with
        | .v i => if l = lane ∧ 20 + i.toNat ≤ j ∧ j < 20 + i.toNat + ws.length then ws.getD (j - (20 + i.toNat)) 0 else spillWord m l (4 * j)
        | .o i => if l = lane ∧ 12 + i.toNat ≤ j ∧ j < 12 + i.toNat + ws.length then ws.getD (j - (12 + i.toNat)) 0 else spillWord m l (4 * j)
        | _ => spillWord m l (4 * j) := by
  have hlatch : ∀ {m' : Mem}, Memory.wf m' = true → spillWord (spillWords m' lane 0x24 [ws.getD 0 0, ws.getD 1 0]) l (4 * j) =
      if l = lane ∧ (j = 9 ∨ j = 10) then ws.getD (j - 9) 0 else spillWord m' l (4 * j) := by
    intro m' h'
    rw [show 0x24 = 4 * 9 by rfl, spillWord_spillWords _ h' hl hlane]
    by_cases hc : l = lane ∧ (j = 9 ∨ j = 10)
    · rw [if_pos hc, if_pos (by simp only [List.length_cons, List.length_nil]; omega)]
      rcases hc.2 with rfl | rfl <;> rfl
    · rw [if_neg hc, if_neg (by simp only [List.length_cons, List.length_nil]; omega)]
  unfold frameRes
  cases d with
  | v i =>
    simp only []
    rw [hlatch (spillWords_wf _ _ _ hm), show 0x50 + 4 * i.toNat = 4 * (20 + i.toNat) by omega, spillWord_spillWords _ hm hl hlane]
  | o i =>
    simp only []
    rw [hlatch (spillWords_wf _ _ _ hm), show 0x30 + 4 * i.toNat = 4 * (12 + i.toNat) by omega, spillWord_spillWords _ hm hl hlane]
  | lat => exact hlatch hm
  | spec i => exact hlatch hm

/-- An older result of an entry lane, or one that lands while frames are read back, goes to the frame (17 R390). -/
theorem Group.framed_of_phase {g : Group} {p : Landing} {r : LRes} (h : match g.hphase with
      | .idle => False
      | .capture f _ m => f = 0 ∧ m.getLsbD r.lane = true ∧ p.seq ≤ g.hseq
      | .running => (g.lane r.lane).hand ≠ .out ∧ p.seq ≤ g.hseq
      | .restore _ => (g.lane r.lane).hand ≠ .out) :
    (g.framed r.lane && (p.seq ≤ g.hseq || g.restoring)) = true := by
  unfold Group.framed Group.restoring
  cases hh : g.hphase with
  | idle => simp only [hh] at h
  | capture f u m =>
    simp only [hh] at h ⊢
    obtain ⟨hf, hm, hs⟩ := h
    simp [hf, hm, hs]
  | running =>
    simp only [hh] at h ⊢
    obtain ⟨hout, hs⟩ := h
    simp [hout, hs]
  | restore u =>
    simp only [hh] at h ⊢
    simp [h]

/-- In a running handler a live, unparked lane of it is quenched where it would park, unless by FABRIC (17 R391). -/
theorem State.park_in_handler {s : State} {gid lane : Nat} {g : Group} (hg : tget s.groups gid = some g) (hrun : g.hphase = .running)
    (hin : (g.lane lane).hand ≠ .out) (hlive : (g.lane lane).isLive = true) (htrec : (g.lane lane).trec = none) (pc : BitVec 20) {r : TrapRec}
    (hr : r.trap ≠ 9) : s.park gid lane pc r = s.quench gid lane 6 := by
  unfold State.park
  simp only [State.group_of_tget hg, hlive, htrec, hrun, ne_eq, hin, not_false_eq_true, and_self, if_true, hr, if_false]
  rfl

/-- A running handler's own result with an enabled flag quenches its lane with NESTED (17 R391). -/
theorem State.landLane_nested {s : State} {gid : Nat} {g : Group} {p : Landing} {r : LRes} (hl : r.lane < g.lanes.length)
    (hrun : g.hphase = .running) (hin : (g.lane r.lane).hand ≠ .out) (hnew : g.hseq < p.seq) (hen : g.enabled r = true)
    (hlive : (g.lane r.lane).life = .live) (htrec : (g.lane r.lane).trec = none) :
    (s.setGroup gid g).landLane gid p r =
      (s.setGroup gid ((g.written p r).quenched [r.lane] 6)).modGrid g.grid (fun q => { q with nquench := q.nquench + 1 }) := by
  have hself : tget (s.setGroup gid (g.written p r)).groups gid = some (g.written p r) := tget_tset_self _ _ _
  have hlane : (g.written p r).lane r.lane = (g.lane r.lane).taken p r g.seq := Group.lane_modLane_self _ hl
  have hlive' : ((g.written p r).lane r.lane).isLive = true := by rw [hlane, Lane.taken_eq]; exact beq_iff_eq.2 hlive
  have hin' : ((g.written p r).lane r.lane).hand ≠ .out := by rw [hlane, Lane.taken_eq]; exact hin
  have htrec' : ((g.written p r).lane r.lane).trec = none := by rw [hlane, Lane.taken_eq]; exact htrec
  rw [State.landLane_registers (by simp [Group.restoring, hrun, Nat.not_le.2 hnew]), if_pos hen,
    State.park_in_handler hself hrun hin' hlive' htrec' _ (show (10 : Nat) ≠ 9 by decide), State.quench_of_live hself hlive', State.setGroup_setGroup]
  rfl

theorem framesTakeResults : FramesTakeResults := by
  intro gid s g p r rest hg hlen hpend hdue hrest hsem hquench hres hlt e enabled
  have hland : s.land gid = (s.setGroup gid { g with pend := rest }).landLane gid p r := by
    rw [State.land_of_one hg hpend hdue hrest hsem, hquench, hres]
    rfl
  have hin : r.lane < ({ g with pend := rest } : Group).lanes.length := by rw [hlen]; exact hlt
  refine ⟨fun hphase hwf => ?_, fun hrun hout hnew hen hlive htrec hgrid => ?_⟩
  · rw [State.landLane_frame (g := { g with pend := rest }) (Group.framed_of_phase hphase)] at hland
    refine ⟨_, (exec_resultLand hg).trans (congrArg Outcome.next hland), OnlyGroup.of_tset rfl, rfl,
      ({ g with pend := rest } : Group).framedBy s p r, tget_tset_self _ _ _, rfl, fun l hl => ?_, ?_, fun l j hl => ?_⟩
    · exact Group.lane_modLane_of_ne (g := { g with pend := rest }) _ hl.symm
    · exact Group.lane_modLane_self (g := { g with pend := rest }) _ hin
    · exact frameWord_frameRes hwf hl hlt p.dst r.ws j
  · rw [State.landLane_nested hin hrun hout hnew (bne_iff_ne.2 hen) hlive htrec] at hland
    set q := (({ g with pend := rest } : Group).written p r).quenched [r.lane] 6 with hq
    have hgroup : (s.land gid).group gid = q := by rw [hland]; exact State.group_of_tget (tget_tset_self _ _ _)
    have hlane : q.lane r.lane = ((({ g with pend := rest } : Group).written p r).lane r.lane).gone .quenched :=
      (lane_mapFrom (f := fun i a => if i ∈ [r.lane] then a.gone .quenched else a)
        (by simpa [Group.written] using hin)).trans (if_pos (List.mem_singleton_self _))
    obtain ⟨y, hy⟩ := Option.isSome_iff_exists.1 hgrid
    refine ⟨_, exec_resultLand hg, by rw [hgroup, hlane]; rfl, by rw [hgroup]; rfl, by rw [hgroup]; rfl, ?_⟩
    rw [hland, State.grid_of_tget hy]
    exact congrArg Grid.nquench (State.grid_modGrid (s := s.setGroup gid q) _ hy)

/-! Results that quench lanes (17 R382, R383, 10 R235) -/

theorem quenchedLanesLand : QuenchedLanesLand := by
  intro gid s g p rest hg hlen hpend hdue hrest hsem hn hlt hnq hit
  set h : Group := { g.quenched hit 3 with pend := { p with quench := [] } :: rest } with hh
  set u : State := { s with groups := tset s.groups gid h, grids := tmod s.grids g.grid (fun r => { r with nquench := r.nquench + hit.length }) } with hu
  have hself : tget u.groups gid = some h := tget_tset_self _ _ _
  have hstart : (s.setGroup gid { g with pend := rest }).quenchAll gid p.quench 3 = u.setGroup gid { h with pend := rest } := by
    rw [State.quenchAll_setGroup hn s { g with pend := rest } hnq, hu]
    simp only [State.setGroup, tset_tset]
    rfl
  have hland : s.land gid = u.land gid := by
    rw [State.land_of_one hg hpend hdue hrest hsem, State.land_of_one hself rfl hdue hrest hsem, hstart]
    rfl
  refine ⟨u, h, by rw [exec_resultLand hg, exec_resultLand hself, hland], hself, fun j hj => tget_tset_of_ne _ _ hj, rfl, rfl, ?_, fun l hl => ?_⟩
  · exact (length_mapFrom _ _ _).trans hlen
  · exact lane_mapFrom (f := fun i a => if i ∈ hit then a.gone .quenched else a) (by omega)

/-- Settles O45: a result lands lane by lane, each in its registers or in its frame, after the lanes that it quenches are gone. -/
theorem resultsLand : Obligations.ResultsLand := ⟨registersTakeResults, framesTakeResults, quenchedLanesLand⟩

end Sys2Proof.Machine
end

section
/-! SUPPORT. Masks made of lanes, the lanes with the least key (13 R269), and tables changed entry by entry. -/

namespace Sys2Proof.Machine

theorem getLsbD_maskOfFrom (p : Lane → Bool) (ls : List Lane) {i : Nat} (hi : i < 64) : ∀ k,
    (maskOfFrom p k ls).getLsbD i = true ↔ k ≤ i ∧ i - k < ls.length ∧ p (ls.getD (i - k) {}) = true := by
  induction ls with
  | nil => intro k; simp [maskOfFrom]
  | cons a t ih =>
    intro k
    rw [maskOfFrom, BitVec.getLsbD_or, Bool.or_eq_true, ih]
    by_cases hik : i = k
    · subst hik
      have : (if p a = true then (1#64 <<< i) else (0 : Mask)).getLsbD i = p a := by
        cases p a
        · simp
        · simp only [if_true, BitVec.getLsbD_shiftLeft, BitVec.getLsbD_one]
          simp [hi]
      rw [this]
      simp
    · have : (if p a = true then (1#64 <<< k) else (0 : Mask)).getLsbD i = false := by
        cases p a
        · simp
        · simp only [if_true, BitVec.getLsbD_shiftLeft, BitVec.getLsbD_one]
          simp
          omega
      rw [this]
      by_cases hlt : k < i
      · have : i - k = (i - (k + 1)) + 1 := by omega
        rw [this]
        simp
        omega
      · simp
        omega

/-- The lanes of a mask of those that satisfy `p`. -/
theorem Group.getLsbD_maskOf (g : Group) (p : Lane → Bool) {i : Nat} (hi : i < 64) :
    (g.maskOf p).getLsbD i = true ↔ i < g.lanes.length ∧ p (g.lane i) = true := by
  rw [Group.maskOf, getLsbD_maskOfFrom p _ hi]
  simp [Group.lane]

theorem Group.mem_lanesOf_maskOf {g : Group} (hlen : g.lanes.length = 64) (p : Lane → Bool) (i : Nat) :
    i ∈ lanesOf (g.maskOf p) ↔ i < 64 ∧ p (g.lane i) = true := by
  rw [mem_lanesOf]
  constructor
  · intro h
    have hi := BitVec.lt_of_getLsbD h
    exact ⟨hi, ((g.getLsbD_maskOf p hi).1 h).2⟩
  · rintro ⟨hi, hp⟩
    exact (g.getLsbD_maskOf p hi).2 ⟨by omega, hp⟩

theorem Lane.key_lt (l : Lane) : l.key < 2 ^ 28 := by
  unfold Lane.key
  have := l.pc.isLt
  have : 255 - l.depth.toNat ≤ 255 := Nat.sub_le _ _
  omega

theorem foldl_min_lt {α : Type} (f : α → Nat) (ls : List α) (k x : Nat) :
    ls.foldl (fun k i => Nat.min k (f i)) k < x ↔ k < x ∨ ∃ i ∈ ls, f i < x := by
  induction ls generalizing k with
  | nil => simp
  | cons a t ih =>
    rw [List.foldl_cons, ih]
    have : Nat.min k (f a) < x ↔ k < x ∨ f a < x := by simp only [Nat.min_def]; split <;> omega
    rw [this]
    simp only [List.mem_cons, exists_eq_or_imp, or_assoc]

/-- A key lies above the least one of a mask where a lane of the mask has a lesser one. -/
theorem Group.leastKey_lt (g : Group) (m : Mask) (l : Lane) : g.leastKey m < l.key ↔ ∃ i ∈ lanesOf m, (g.lane i).key < l.key := by
  rw [Group.leastKey, foldl_min_lt]
  exact or_iff_right (Nat.not_lt.2 (Nat.le_of_lt l.key_lt))

/-- A run that keeps the better of two: what it ends with is among what it saw, and nothing it saw is better. -/
theorem foldl_best {step : Option Nat → Nat → Option Nat} {better : Nat → Nat → Bool} (hnone : ∀ i, step none i = some i)
    (hsome : ∀ j i, step (some j) i = if better i j then some i else some j) {le : Nat → Nat → Prop}
    (hbetter : ∀ i j, better i j = true → le j i) (hnot : ∀ i j, better i j = false → le i j) (hrefl : ∀ i, le i i)
    (htrans : ∀ i j k, le i j → le j k → le i k) {ls : List Nat} (h : ls ≠ []) :
    ∃ b ∈ ls, ls.foldl step none = some b ∧ ∀ i ∈ ls, le i b := by
  have key : ∀ (ls : List Nat) (a : Nat), ∃ b, (b = a ∨ b ∈ ls) ∧ ls.foldl step (some a) = some b ∧ le a b ∧ ∀ i ∈ ls, le i b := by
    intro ls
    induction ls with
    | nil => exact fun a => ⟨a, .inl rfl, rfl, hrefl a, by simp⟩
    | cons c t ih =>
      intro a
      rw [List.foldl_cons, hsome]
      by_cases hc : better c a = true
      · rw [if_pos hc]
        obtain ⟨b, hb, hf, hle, hall⟩ := ih c
        refine ⟨b, .inr ?_, hf, htrans _ _ _ (hbetter _ _ hc) hle, ?_⟩
        · rcases hb with rfl | hb
          · exact List.mem_cons_self ..
          · exact List.mem_cons_of_mem _ hb
        · intro i hi
          rcases List.mem_cons.1 hi with rfl | hi
          · exact hle
          · exact hall i hi
      · rw [if_neg hc]
        obtain ⟨b, hb, hf, hle, hall⟩ := ih a
        refine ⟨b, hb.imp_right (List.mem_cons_of_mem _), hf, hle, ?_⟩
        intro i hi
        rcases List.mem_cons.1 hi with rfl | hi
        · exact htrans _ _ _ (hnot _ _ (by simpa using hc)) hle
        · exact hall i hi
  cases ls with
  | nil => exact absurd rfl h
  | cons a t =>
    obtain ⟨b, hb, hf, hle, hall⟩ := key t a
    refine ⟨b, List.mem_cons.2 hb, by rw [List.foldl_cons, hnone]; exact hf, ?_⟩
    intro i hi
    rcases List.mem_cons.1 hi with rfl | hi
    · exact hle
    · exact hall i hi

/-! Tables changed entry by entry -/

theorem tget_map {α β : Type} (f : Nat → α → β) (t : Tbl α) (n : Nat) : tget (t.map (fun p => (p.1, f p.1 p.2))) n = (tget t n).map (f n) := by
  induction t with
  | nil => rfl
  | cons p t ih =>
    obtain ⟨k, b⟩ := p
    by_cases h : k = n
    · subst h; simp [tget]
    · simp [tget, h, ih]

theorem keys_tmod {α : Type} (t : Tbl α) (n : Nat) (f : α → α) : (tmod t n f).map (·.1) = t.map (·.1) := by
  induction t with
  | nil => rfl
  | cons p t ih =>
    obtain ⟨k, b⟩ := p
    by_cases h : k = n <;> simp [tmod, h, ih]

theorem mem_of_tget {α : Type} {t : Tbl α} {n : Nat} {a : α} (h : tget t n = some a) : (n, a) ∈ t := by
  induction t with
  | nil => simp at h
  | cons p t ih =>
    obtain ⟨k, b⟩ := p
    by_cases hk : k = n
    · subst hk; simp [tget] at h; simp [h]
    · simp [tget, hk] at h; exact List.mem_cons_of_mem _ (ih h)

/-- Where no key stands twice, an entry of the table is the one of its key. -/
theorem tget_of_mem {α : Type} {t : Tbl α} (hn : (t.map (·.1)).Nodup) {n : Nat} {a : α} (h : (n, a) ∈ t) : tget t n = some a := by
  induction t with
  | nil => simp at h
  | cons p t ih =>
    obtain ⟨k, b⟩ := p
    rw [List.map_cons, List.nodup_cons] at hn
    rcases List.mem_cons.1 h with h | h
    · cases h; simp [tget]
    · have : k ≠ n := fun e => hn.1 (List.mem_map.2 ⟨(n, a), h, e.symm⟩)
      simp [tget, this, ih hn.2 h]

theorem mem_insNat {l : List Nat} {n m : Nat} : m ∈ insNat l n ↔ m = n ∨ m ∈ l := by
  induction l with
  | nil => simp [insNat]
  | cons k t ih =>
    unfold insNat
    split
    · simp
    · split
      · rename_i h; simp at h; subst h; simp
      · simp [ih]; tauto

end Sys2Proof.Machine
end

section
/-! FAIRNESS_EXCURSION, WAITC_EXPIRE and STOP_SPACING (13 R276, R288, 02 R58). -/

namespace Sys2Proof.Machine

open Host (Outcome)

/-- The order in which an excursion looks at lanes: the one that has waited longer first, and of those the one with the lesser key. -/
def Group.waitsLess (g : Group) (i j : Nat) : Prop :=
  (g.lane i).w.toNat ≤ (g.lane j).w.toNat ∧ ((g.lane i).w.toNat = (g.lane j).w.toNat → (g.lane j).key ≤ (g.lane i).key)

/-- The lanes above the least key. -/
def Group.above (g : Group) (l : Nat) : Prop :=
  (l < 64 ∧ g.selectable (g.lane l) = true) ∧ ∃ m, (m < 64 ∧ g.selectable (g.lane m) = true) ∧ (g.lane m).key < (g.lane l).key

/-- The excursion that starts: its lanes are those above the least key with the key of the one that has waited longest. -/
theorem Group.excursion_spec {g : Group} {lim : Nat} (hlen : g.lanes.length = 64) (hidle : g.hphase = .idle) (hexc : g.exc = false)
    (h : ∃ l, g.above l ∧ (g.yld = true ∨ lim ≤ (g.lane l).w.toNat)) :
    ∃ b m, g.excursion lim = some m ∧ g.above b ∧ (∀ l, g.above l → g.waitsLess l b) ∧
      ∀ l, m.getLsbD l = true ↔ g.above l ∧ (g.lane l).key = (g.lane b).key := by
  set u := (lanesOf g.selMask).filter (fun i => decide (g.leastKey g.selMask < (g.lane i).key)) with hu
  have hmem : ∀ l, l ∈ u ↔ g.above l := by
    intro l
    rw [hu, List.mem_filter, decide_eq_true_eq, Group.leastKey_lt]
    simp only [Group.selMask, Group.mem_lanesOf_maskOf hlen, Group.above]
  obtain ⟨l0, hl0, htrig⟩ := h
  have hne : u ≠ [] := List.ne_nil_of_mem ((hmem l0).2 hl0)
  have hstart : (g.hphase == .idle && !(g.exc && g.emask &&& g.selMask != 0) && !u.isEmpty &&
      (g.yld || u.any (fun i => decide (lim ≤ (g.lane i).w.toNat)))) = true := by
    have hany : (g.yld || u.any (fun i => decide (lim ≤ (g.lane i).w.toNat))) = true := by
      rcases htrig with hy | hw
      · simp [hy]
      · simp only [Bool.or_eq_true, List.any_eq_true, decide_eq_true_eq]
        exact .inr ⟨l0, (hmem l0).2 hl0, hw⟩
    simp [hidle, hexc, hne, hany]
  obtain ⟨b, hb, hfold, hbest⟩ := foldl_best (ls := u)
    (step := fun b i => match b with
      | none => some i
      | some j => if (g.lane j).w.toNat < (g.lane i).w.toNat || ((g.lane i).w.toNat == (g.lane j).w.toNat && (g.lane i).key < (g.lane j).key) then some i else some j)
    (better := fun i j => (g.lane j).w.toNat < (g.lane i).w.toNat || ((g.lane i).w.toNat == (g.lane j).w.toNat && (g.lane i).key < (g.lane j).key))
    (le := g.waitsLess) (fun _ => rfl) (fun _ _ => rfl)
    (fun i j hij => by simp only [Bool.or_eq_true, Bool.and_eq_true, beq_iff_eq, decide_eq_true_eq] at hij; unfold Group.waitsLess; omega)
    (fun i j hij => by
      simp only [Bool.or_eq_false_iff, Bool.and_eq_false_iff, beq_eq_false_iff_ne, decide_eq_false_iff_not] at hij
      unfold Group.waitsLess; omega)
    (fun i => ⟨Nat.le_refl _, fun _ => Nat.le_refl _⟩)
    (fun i j k hij hjk => by unfold Group.waitsLess at *; omega) hne
  refine ⟨b, maskOfList (u.filter (fun i => (g.lane i).key == (g.lane b).key)), ?_, (hmem b).1 hb, fun l hl => hbest l ((hmem l).2 hl), fun l => ?_⟩
  · unfold Group.excursion
    simp only [← hu]
    rw [if_pos hstart]
    exact congrArg (Option.map _) hfold
  · by_cases hl : l < 64
    · rw [getLsbD_maskOfList _ hl, List.mem_filter, hmem, beq_iff_eq]
    · refine iff_of_false (fun h => hl (BitVec.lt_of_getLsbD h)) fun h => hl h.1.1.1

theorem fairnessExcursion_goes (gid : Nat) (s : State) (g : Group) (hg : tget s.groups gid = some g) (hlen : g.lanes.length = 64)
    (hidle : g.hphase = .idle) (hexc : g.exc = false) (h : ∃ l, g.above l ∧ (g.yld = true ∨ (s.part g.pid).fairlim ≤ (g.lane l).w.toNat)) :
    Goes (.fairnessExcursion gid) s (fun t => OnlyGroup gid s t ∧ ∃ h b, tget t.groups gid = some h ∧
      h = { g with exc := true, emask := h.emask, ecnt := 0, yld := false } ∧ g.above b ∧
      (∀ l, g.above l → (g.lane l).w ≤ (g.lane b).w ∧ ((g.lane l).w = (g.lane b).w → (g.lane b).key ≤ (g.lane l).key)) ∧
      ∀ l, h.emask.getLsbD l = true ↔ g.above l ∧ (g.lane l).key = (g.lane b).key) := by
  obtain ⟨b, m, hm, hb, hbest, hmask⟩ := Group.excursion_spec hlen hidle hexc h
  refine ⟨s.setGroup gid { g with exc := true, emask := m, ecnt := 0, yld := false }, ?_, OnlyGroup.of_tset rfl, _, b, tget_tset_self _ _ _,
    rfl, hb, fun l hl => ⟨BitVec.le_def.2 (hbest l hl).1, fun he => (hbest l hl).2 (by rw [he])⟩, hmask⟩
  simp only [exec, execFairnessExcursion, onGroup, hg, hm]

/-- A lane whose `waitc` is met in this turn notes its tick. -/
def Lane.expire (turn : Nat) (l : Lane) : Lane :=
  match l.wait with
  | some { cond := .tick n, since := a, met := none } =>
    if n ≤ 16 * turn + 15 then { l with wait := some { cond := .tick n, since := a, met := some n } } else l
  | _ => l

theorem waitcExpire_goes (gid : Nat) (s : State) (g : Group) (hg : tget s.groups gid = some g) :
    exec (.waitcExpire gid) s = .next (s.setGroup gid { g with lanes := g.lanes.map (Lane.expire s.turn) }) := by
  have hlane : ∀ l : Lane, (match l.wait with
      | some w =>
        match w.cond with
        | .tick t => if w.met.isNone && t ≤ 16 * s.turn + 15 then { l with wait := some { w with met := some t } } else l
        | _ => l
      | none => l) = l.expire s.turn := by
    intro l
    unfold Lane.expire
    rcases hw : l.wait with _ | ⟨c, a, _ | m⟩
    · rfl
    · cases c <;> simp
    · cases c <;> simp
  simp only [exec, execWaitcExpire, hg]
  exact congrArg (fun f => Outcome.next (s.setGroup gid { g with lanes := g.lanes.map f })) (funext hlane)

theorem Group.lane_map {g : Group} {f : Lane → Lane} {l : Nat} (h : l < g.lanes.length) :
    ({ g with lanes := g.lanes.map f } : Group).lane l = f (g.lane l) := by
  rw [Group.lane_eq_getElem h]
  simp [Group.lane, h]

theorem State.part_raise {s : State} {p : Nat} (hp : p < s.parts.length) (f : CFault) : (s.raise p f).part p = { s.part p with faults := (s.part p).faults ++ [f] } := by
  unfold State.raise State.modPart State.part
  rw [getD_lmod, if_pos ⟨rfl, hp⟩]

theorem stopSpacing_goes (gid : Nat) (s : State) (g : Group) (hg : tget s.groups gid = some g) (hp : g.pid < s.parts.length) :
    Goes (.stopSpacing gid) s (fun t => tget t.groups gid = some { g with fetchHold := max g.fetchHold (s.turn + 1) } ∧
      (t.part g.pid).faults = (s.part g.pid).faults ++ [{ bit := 3, tick := 16 * s.turn + 2 * g.slot.getD 0, core := g.core, qtr := g.quarter
                                                          grp := g.index, res := g.res }]) := by
  refine ⟨s.issueFault gid 3 0 0 0 0, by simp only [exec, execStopSpacing, onGroup, hg], ?_⟩
  simp only [State.issueFault, State.group_of_tget hg]
  exact ⟨State.tget_modGroup hg, congrArg Part.faults (State.part_raise (s := s.holdFetch gid (s.turn + 1)) hp _)⟩

end Sys2Proof.Machine
end

section
/-! ROTATION_BOUNDARY (01 R21, R22). -/

namespace Sys2Proof.Machine

open Host (Outcome)

/-- What a rotation boundary leaves of a group until its lanes go on: all but its slot. -/
def Group.fixed (g : Group) : Group := { g with slot := none, slotFrom := 0, readySince := none }

/-- Whatever does not look at the slot. -/
theorem Group.eq_of_fixed {α : Type} {g h : Group} (e : h.fixed = g.fixed) (f : Group → α) (hf : ∀ g : Group, f g.fixed = f g := by exact fun _ => rfl) :
    f h = f g := by
  rw [← hf h, e, hf g]

/-- The groups have changed in their slots alone. -/
structure Rotates (s t : State) : Prop where
  rest : t = { s with groups := t.groups }
  keys : t.groups.map (·.1) = s.groups.map (·.1)
  same : ∀ i, (tget t.groups i).map Group.fixed = (tget s.groups i).map Group.fixed

theorem Rotates.refl (s : State) : Rotates s s := ⟨rfl, rfl, fun _ => rfl⟩

theorem Rotates.modGroup {s t : State} (h : Rotates s t) (c : Nat) {f : Group → Group} (hf : ∀ g, (f g).fixed = g.fixed) : Rotates s (t.modGroup c f) := by
  refine ⟨?_, (keys_tmod _ _ _).trans h.keys, fun i => ?_⟩
  · simp only [State.modGroup]; rw [h.rest]
  · rw [← h.same i]
    by_cases hi : i = c
    · subst hi
      simp only [State.modGroup, tget_tmod_self, Option.map_map]
      exact congrArg (fun q => Option.map q (tget t.groups i)) (funext hf)
    · simp only [State.modGroup, tget_tmod_of_ne _ _ hi]

/-- A group of one state, as it stands in the other. -/
theorem Rotates.entry {s t : State} (h : Rotates s t) {i : Nat} {g : Group} (hg : tget s.groups i = some g) :
    ∃ u, tget t.groups i = some u ∧ u.fixed = g.fixed := by
  have := h.same i
  rw [hg, Option.map_some, Option.map_eq_some_iff] at this
  exact this

theorem Rotates.entry_back {s t : State} (h : Rotates s t) {i : Nat} {u : Group} (hu : tget t.groups i = some u) :
    ∃ g, tget s.groups i = some g ∧ u.fixed = g.fixed := by
  have := h.same i
  rw [hu, Option.map_some, eq_comm, Option.map_eq_some_iff] at this
  obtain ⟨g, hg, he⟩ := this
  exact ⟨g, hg, he.symm⟩

/-! The slots of one quarter -/

/-- A group takes a slot. -/
def State.takeSlot (s : State) (c k : Nat) : State :=
  s.modGroup c (fun g => { g with slot := some k, slotFrom := s.turn + 2, readySince := none })

/-- A group gives its slot up. -/
def State.giveSlot (s : State) (o : Nat) : State := s.modGroup o (fun g => { g with slot := none, readySince := none })

/-- Serving slots keeps what a candidate's taking of a slot and the giving up by a group that waits keep. -/
theorem serveSlots_keeps {P : State → Prop} {core quarter : Nat} {all : List Nat} (htake : ∀ s c k, P s → c ∈ all → P (s.takeSlot c k))
    (hgive : ∀ s k o g, P s → s.holder core quarter k = some (o, g) → g.stoodReady s.turn = false → P (s.giveSlot o)) (ks : List Nat) :
    ∀ (cs : List Nat) (s : State), (∀ c ∈ cs, c ∈ all) → P s → P (serveSlots core quarter ks cs s) := by
  induction ks with
  | nil => intro cs s _ h; exact h
  | cons k ks ih =>
    intro cs s hcs h
    cases cs with
    | nil => exact h
    | cons c cs =>
      have hrest : ∀ d ∈ cs, d ∈ all := fun d hd => hcs d (List.mem_cons_of_mem _ hd)
      have hc : c ∈ all := hcs c (List.mem_cons_self ..)
      unfold serveSlots
      cases hh : s.holder core quarter k with
      | none => exact ih cs _ hrest (htake s c k h hc)
      | some q =>
        obtain ⟨o, g⟩ := q
        dsimp only
        by_cases hstay : (g.stoodReady s.turn || (s.part g.pid).st != .running) = true
        · rw [if_pos hstay]
          exact ih (c :: cs) s hcs h
        · rw [if_neg hstay]
          simp only [Bool.or_eq_true, not_or, Bool.not_eq_true] at hstay
          exact ih cs _ hrest (htake _ c k (hgive s k o g h hh hstay.1) hc)

theorem State.holder_spec {s : State} {core quarter k o : Nat} {g : Group} (h : s.holder core quarter k = some (o, g)) :
    (o, g) ∈ s.groups ∧ g.core = core ∧ g.quarter = quarter ∧ g.slot = some k := by
  have hp := List.find?_some h
  simp only [Bool.and_eq_true, beq_iff_eq] at hp
  exact ⟨List.mem_of_find?_eq_some h, hp.1.1, hp.1.2, hp.2⟩

/-- A group that may take a slot of a quarter (01 R21). -/
def State.pending (s : State) (core quarter : Nat) (g : Group) : Prop :=
  g.core = core ∧ g.quarter = quarter ∧ g.slot = none ∧ g.stoodFin = false ∧ (s.part g.pid).st = .running ∧ g.stoodReady s.turn = true ∧
    ∃ d, g.readySince = some d ∧ d < 16 * s.turn

theorem State.mem_candidates (s : State) (core quarter c : Nat) : c ∈ s.candidates core quarter ↔ ∃ g, (c, g) ∈ s.groups ∧ s.pending core quarter g := by
  simp only [State.candidates, List.mem_map, (sortBy_perm _ _).mem_iff, List.mem_filter, Prod.exists, exists_and_right, exists_eq_right]
  refine exists_congr fun g => and_congr_right fun _ => ?_
  unfold State.pending
  cases hr : g.readySince with
  | none => simp
  | some d => simp [Option.isNone_iff_eq_none, and_assoc]

theorem State.candidates_nodup {s : State} (hn : (s.groups.map (·.1)).Nodup) (core quarter : Nat) : (s.candidates core quarter).Nodup := by
  unfold State.candidates
  exact ((sortBy_perm _ _).map _).nodup_iff.2 ((List.filter_sublist.map _).nodup hn)

/-! All quarters -/

/-- The slots of every quarter that has a group are served. -/
def State.serveQuarters (s : State) (quarters : List Nat) : State :=
  quarters.foldl (fun s n => serveSlots (n / 4) (n % 4) (List.range 8) (s.candidates (n / 4) (n % 4)) s) s

/-- A group whose slot a property of the boundary speaks of: it is the one with this number, and it has changed in its slot alone. -/
structure Holds (s : State) (i : Nat) (g : Group) (Q : Group → Prop) (t : State) : Prop where
  rotates : Rotates s t
  entry : ∃ u, tget t.groups i = some u ∧ u.fixed = g.fixed ∧ Q u

theorem Rotates.nodup {s t : State} (h : Rotates s t) (hn : (s.groups.map (·.1)).Nodup) : (t.groups.map (·.1)).Nodup := h.keys ▸ hn

theorem takeSlot_fixed (turn k : Nat) (g : Group) : ({ g with slot := some k, slotFrom := turn + 2, readySince := none } : Group).fixed = g.fixed := rfl
theorem giveSlot_fixed (g : Group) : ({ g with slot := none, readySince := none } : Group).fixed = g.fixed := rfl

/-- Serving a quarter keeps the groups but for their slots. -/
theorem serve_rotates {s t : State} (h : Rotates s t) (core quarter : Nat) (ks cs : List Nat) : Rotates s (serveSlots core quarter ks cs t) :=
  serveSlots_keeps (P := Rotates s) (all := cs) (fun _ c _ h _ => h.modGroup c (takeSlot_fixed _ _))
    (fun _ _ o _ h _ _ => h.modGroup o giveSlot_fixed) ks cs t (fun _ h => h) h

/-- Serving a quarter keeps a property of a group that is no candidate, where giving its slot up keeps it too. -/
theorem serve_holds {s t : State} {i : Nat} {g : Group} {Q : Group → Prop} (hn : (s.groups.map (·.1)).Nodup) {core quarter : Nat} (h : Holds s i g Q t)
    (hno : i ∉ t.candidates core quarter)
    (hgive : ∀ u : Group, u.fixed = g.fixed → Q u → u.core = core → u.quarter = quarter → u.slot.isSome → u.stoodReady s.turn = false →
      Q { u with slot := none, readySince := none }) (ks : List Nat) :
    Holds s i g Q (serveSlots core quarter ks (t.candidates core quarter) t) := by
  refine serveSlots_keeps (P := Holds s i g Q) (all := t.candidates core quarter) ?_ ?_ ks _ t (fun _ h => h) h
  · rintro t' c k ⟨hr, u, hu, hf, hq⟩ hc
    exact ⟨hr.modGroup c (takeSlot_fixed _ _), u, (tget_tmod_of_ne _ _ fun e : i = c => hno (e ▸ hc)).trans hu, hf, hq⟩
  · rintro t' k o v ⟨hr, u, hu, hf, hq⟩ hv hwait
    refine ⟨hr.modGroup o giveSlot_fixed, ?_⟩
    by_cases ho : i = o
    · subst ho
      obtain ⟨hmem, hcore, hquarter, hslot⟩ := State.holder_spec hv
      have hturn : t'.turn = s.turn := by rw [hr.rest]
      have huv : u = v := Option.some.inj (hu.symm.trans (tget_of_mem (hr.nodup hn) hmem))
      subst huv
      exact ⟨_, tget_tmod_of_some hu, hf, hgive u hf hq hcore hquarter (by rw [hslot]; rfl) (hturn ▸ hwait)⟩
    · exact ⟨u, (tget_tmod_of_ne _ _ ho).trans hu, hf, hq⟩

/-- No candidate: the group stands otherwise than a pending one. -/
theorem not_candidate {s t : State} {i core quarter : Nat} {u : Group} (hn : (s.groups.map (·.1)).Nodup) (hr : Rotates s t)
    (hu : tget t.groups i = some u) (h : ¬ t.pending core quarter u) : i ∉ t.candidates core quarter := by
  rw [State.mem_candidates]
  rintro ⟨g, hmem, hp⟩
  exact h (Option.some.inj ((tget_of_mem (hr.nodup hn) hmem).symm.trans hu) ▸ hp)

theorem serveQuarters_keeps {P : State → Prop} (hP : ∀ t n, P t → P (serveSlots (n / 4) (n % 4) (List.range 8) (t.candidates (n / 4) (n % 4)) t))
    (quarters : List Nat) (s : State) (h : P s) : P (s.serveQuarters quarters) := by
  induction quarters generalizing s with
  | nil => exact h
  | cons n ns ih => exact ih _ (hP s n h)

/-- A finished group has no slot after the boundary. -/
theorem finished_keeps_none {s : State} (hn : (s.groups.map (·.1)).Nodup) {i : Nat} {g : Group} (hg : tget s.groups i = some g)
    (hfin : g.stoodFin = true) (hslot : g.slot = none) (quarters : List Nat) : Holds s i g (fun u => u.slot = none) (s.serveQuarters quarters) := by
  refine serveQuarters_keeps (P := Holds s i g (fun u => u.slot = none)) (fun t n ht => ?_) quarters s ⟨.refl s, g, hg, rfl, hslot⟩
  obtain ⟨u, hu, hf, -⟩ := ht.entry
  have hufin : u.stoodFin = true := (Group.eq_of_fixed hf Group.stoodFin).trans hfin
  exact serve_holds hn ht (not_candidate hn ht.rotates hu fun hp => by simp [State.pending, hufin] at hp) (fun _ _ _ _ _ _ _ => rfl) _

/-- A group that holds a slot and does not wait keeps it. -/
theorem ready_keeps_slot {s t : State} (hn : (s.groups.map (·.1)).Nodup) {i : Nat} {g : Group} {k b : Nat} (hready : g.stoodReady s.turn = true) {n : Nat}
    (ht : Holds s i g (fun u => u.slot = some k ∧ u.slotFrom = b) t) :
    Holds s i g (fun u => u.slot = some k ∧ u.slotFrom = b) (serveSlots (n / 4) (n % 4) (List.range 8) (t.candidates (n / 4) (n % 4)) t) := by
  obtain ⟨u, hu, -, hk, -⟩ := ht.entry
  refine serve_holds hn ht (not_candidate hn ht.rotates hu fun hp => by simp [State.pending, hk] at hp) (fun v hf _ _ _ _ hwait => ?_) _
  rw [Group.eq_of_fixed hf (Group.stoodReady · s.turn), hready] at hwait
  exact absurd hwait (by decide)

/-- A pending group of another quarter is left alone. -/
theorem pending_left {s t : State} (hn : (s.groups.map (·.1)).Nodup) {i : Nat} {g : Group} (hslot : g.slot = none) {n : Nat}
    (hne : ¬ (g.core = n / 4 ∧ g.quarter = n % 4)) (ht : Holds s i g (fun u => u = g) t) :
    Holds s i g (fun u => u = g) (serveSlots (n / 4) (n % 4) (List.range 8) (t.candidates (n / 4) (n % 4)) t) := by
  obtain ⟨u, hu, -, rfl⟩ := ht.entry
  refine serve_holds hn ht (not_candidate hn ht.rotates hu fun hp => hne ⟨hp.1, hp.2.1⟩) (fun v _ hv _ _ hs _ => ?_) _
  rw [hv, hslot] at hs
  exact absurd hs (by decide)

/-- A pending group alone in its quarter takes slot 0 as its quarter is served. -/
theorem pending_takes {s t : State} (hn : (s.groups.map (·.1)).Nodup) {i : Nat} {g : Group} {n : Nat} (hp : s.pending (n / 4) (n % 4) g)
    (halone : ∀ j h, tget s.groups j = some h → j ≠ i → ¬ (h.core = n / 4 ∧ h.quarter = n % 4)) (ht : Holds s i g (fun u => u = g) t) :
    Holds s i g (fun u => u.slot = some 0 ∧ u.slotFrom = s.turn + 2) (serveSlots (n / 4) (n % 4) (List.range 8) (t.candidates (n / 4) (n % 4)) t) := by
  obtain ⟨hr, u, hu, -, rfl⟩ := ht
  have hturn : t.turn = s.turn := by rw [hr.rest]
  have hpart : ∀ p, t.part p = s.part p := fun p => by rw [hr.rest]; rfl
  have hnt := hr.nodup hn
  have honly : ∀ j v, tget t.groups j = some v → v.core = n / 4 → v.quarter = n % 4 → j = i := by
    intro j v hv hc hq
    by_contra hji
    obtain ⟨w, hw, he⟩ := hr.entry_back hv
    exact halone j w hw hji ⟨(Group.eq_of_fixed he Group.core).symm.trans hc, (Group.eq_of_fixed he Group.quarter).symm.trans hq⟩
  have hmem : i ∈ t.candidates (n / 4) (n % 4) := by
    rw [State.mem_candidates]
    refine ⟨u, mem_of_tget hu, ?_⟩
    unfold State.pending at hp ⊢
    rw [hturn, hpart]
    exact hp
  have hall : ∀ c ∈ t.candidates (n / 4) (n % 4), c = i := by
    intro c hc
    obtain ⟨v, hv, hpv⟩ := (State.mem_candidates ..).1 hc
    exact honly c v (tget_of_mem hnt hv) hpv.1 hpv.2.1
  have hone : t.candidates (n / 4) (n % 4) = [i] := by
    have hnd := State.candidates_nodup hnt (n / 4) (n % 4)
    revert hmem hall hnd
    rcases t.candidates (n / 4) (n % 4) with _ | ⟨c, cs⟩
    · simp
    · intro _ hall hnd
      have hc := hall c (List.mem_cons_self ..)
      rcases cs with _ | ⟨d, ds⟩
      · rw [hc]
      · have hd := hall d (by simp)
        simp [hc, hd] at hnd
  have hfree : t.holder (n / 4) (n % 4) 0 = none := by
    rw [State.holder, List.find?_eq_none]
    rintro ⟨o, v⟩ hv hcond
    simp only [Bool.and_eq_true, beq_iff_eq] at hcond
    have hvo := tget_of_mem hnt hv
    have := honly o v hvo hcond.1.1 hcond.1.2
    subst this
    rw [Option.some.inj (hvo.symm.trans hu), hp.2.2.1] at hcond
    exact absurd hcond.2 (by simp)
  have hserve : serveSlots (n / 4) (n % 4) (List.range 8) [i] t = t.takeSlot i 0 := by
    rw [show List.range 8 = 0 :: [1, 2, 3, 4, 5, 6, 7] from rfl]
    unfold serveSlots
    rw [hfree]
    rfl
  rw [hone, hserve]
  exact ⟨hr.modGroup i (takeSlot_fixed _ _), _, State.tget_modGroup hu, rfl, rfl, by rw [hturn]⟩

/-- A pending group alone in its quarter has slot 0 after the boundary. -/
theorem pending_gets_slot {s : State} (hn : (s.groups.map (·.1)).Nodup) {i : Nat} {g : Group} (hg : tget s.groups i = some g)
    (hq : g.quarter < 4) (hp : s.pending g.core g.quarter g)
    (halone : ∀ j h, tget s.groups j = some h → j ≠ i → ¬ (h.core = g.core ∧ h.quarter = g.quarter)) {quarters : List Nat}
    (hin : 4 * g.core + g.quarter ∈ quarters) :
    Holds s i g (fun u => u.slot = some 0 ∧ u.slotFrom = s.turn + 2) (s.serveQuarters quarters) := by
  have key : ∀ (l : List Nat) (t : State), Holds s i g (fun u => u = g) t → 4 * g.core + g.quarter ∈ l →
      Holds s i g (fun u => u.slot = some 0 ∧ u.slotFrom = s.turn + 2) (t.serveQuarters l) := by
    intro l
    induction l with
    | nil => intro t _ h; simp at h
    | cons n ns ih =>
      intro t ht hmem
      by_cases hn4 : n = 4 * g.core + g.quarter
      · have hcore : n / 4 = g.core := by omega
        have hquart : n % 4 = g.quarter := by omega
        refine serveQuarters_keeps (fun t n ht => ready_keeps_slot hn hp.2.2.2.2.2.1 ht) ns _ (pending_takes hn ?_ ?_ ht)
        · rw [hcore, hquart]; exact hp
        · rw [hcore, hquart]; exact halone
      · refine ih _ (pending_left hn hp.2.2.1 (fun hc => hn4 (by omega)) ht) ?_
        rcases List.mem_cons.1 hmem with h | h
        · exact absurd h.symm hn4
        · exact h
  exact key quarters s ⟨.refl s, g, hg, rfl, rfl⟩ hin

/-! The boundary -/

/-- A finished group gives up its slot as the boundary begins. -/
def Group.emptied (g : Group) : Group := if g.slot.isSome && g.stoodFin then { g with slot := none, readySince := none } else g

/-- The state in which slots are served. -/
def State.atBoundary (s : State) : State := { s with bdry := true, groups := s.groups.map (fun p => (p.1, p.2.emptied)) }

/-- The quarters that have a group. -/
def State.quarters (s : State) : List Nat := s.groups.foldl (fun l p => insNat l (4 * p.2.core + p.2.quarter)) []

/-- A group at the end of the boundary: its lanes go on where its partition lets them. -/
def State.goOn (s : State) (g : Group) : Group := if s.mayGo g then g.wake s.turn else g

theorem exec_rotationBoundary (s : State) :
    exec .rotationBoundary s = .next { s.atBoundary.serveQuarters s.atBoundary.quarters with
      groups := (s.atBoundary.serveQuarters s.atBoundary.quarters).groups.map
        (fun p => (p.1, (s.atBoundary.serveQuarters s.atBoundary.quarters).goOn p.2)) } := rfl

theorem mem_quarters {s : State} {i : Nat} {g : Group} (hg : tget s.groups i = some g) : 4 * g.core + g.quarter ∈ s.quarters := by
  have key : ∀ (l : List (Nat × Group)) (a : List Nat) (n : Nat), n ∈ l.foldl (fun l p => insNat l (4 * p.2.core + p.2.quarter)) a ↔
      n ∈ a ∨ ∃ p ∈ l, n = 4 * p.2.core + p.2.quarter := by
    intro l
    induction l with
    | nil => simp
    | cons p t ih => intro a n; rw [List.foldl_cons, ih, mem_insNat]; simp only [List.mem_cons, exists_eq_or_imp]; tauto
  exact (key ..).2 (.inr ⟨_, mem_of_tget hg, rfl⟩)

theorem State.tget_atBoundary {s : State} {i : Nat} {g : Group} (hg : tget s.groups i = some g) : tget s.atBoundary.groups i = some g.emptied := by
  rw [State.atBoundary, tget_map (fun _ => Group.emptied), hg]
  rfl

theorem State.tget_atBoundary_back {s : State} {i : Nat} {h : Group} (hh : tget s.atBoundary.groups i = some h) :
    ∃ g, tget s.groups i = some g ∧ h = g.emptied := by
  rw [State.atBoundary, tget_map (fun _ => Group.emptied)] at hh
  obtain ⟨g, hg, he⟩ := Option.map_eq_some_iff.1 hh
  exact ⟨g, hg, he.symm⟩

theorem State.atBoundary_keys (s : State) : s.atBoundary.groups.map (·.1) = s.groups.map (·.1) := by
  simp [State.atBoundary]

theorem Group.emptied_of_not_finished {g : Group} (h : g.stoodFin = false) : g.emptied = g := by
  simp [Group.emptied, h]

theorem Group.emptied_slot_of_finished {g : Group} (h : g.stoodFin = true) : g.emptied.slot = none := by
  unfold Group.emptied
  cases hs : g.slot <;> simp [h, hs]

theorem Group.emptied_fixed (g : Group) : g.emptied.fixed = g.fixed := by
  unfold Group.emptied
  split <;> rfl

theorem State.goOn_slot (s : State) (g : Group) : (s.goOn g).slot = g.slot ∧ (s.goOn g).slotFrom = g.slotFrom := by
  unfold State.goOn
  split <;> exact ⟨rfl, rfl⟩

/-- A lane whose condition was met before the turn goes on (01 R22). -/
def Lane.wake (turn : Nat) (l : Lane) : Lane :=
  match l.wait with
  | some { cond := c, since := _, met := some m } => if c ≠ .rti ∧ m < 16 * turn then { l with wait := none } else l
  | _ => l

theorem Group.wake_eq (g : Group) (turn : Nat) : g.wake turn = { g with lanes := g.lanes.map (Lane.wake turn) } := by
  have hlane : ∀ l : Lane, (match l.wait with
      | some w => if w.cond != .rti && (match w.met with
          | some t => t < 16 * turn
          | none => false) then { l with wait := none } else l
      | none => l) = l.wake turn := by
    intro l
    unfold Lane.wake
    rcases hw : l.wait with _ | ⟨c, a, _ | m⟩ <;> simp
  exact congrArg (fun f => ({ g with lanes := g.lanes.map f } : Group)) (funext hlane)

/-- ROTATION_BOUNDARY: who gives up, keeps and takes a slot, and whose lanes go on (01 R21, R22). -/
theorem rotationBoundary_goes (s : State) (hn : (s.groups.map (·.1)).Nodup) :
    Goes .rotationBoundary s (fun t => t = { s with bdry := true, groups := t.groups } ∧ t.groups.map (·.1) = s.groups.map (·.1) ∧
      (∀ i g, tget s.groups i = some g → g.stoodFin = true → (t.group i).slot = none) ∧
      (∀ i g, tget s.groups i = some g → g.slot.isSome → g.stoodFin = false → (g.stood &&& ~~~g.ringNew s.turn) ≠ 0 → (t.group i).slot = g.slot) ∧
      (∀ i g d, tget s.groups i = some g → g.quarter < 4 → g.slot = none → g.stoodFin = false → (s.part g.pid).st = .running →
        (g.stood &&& ~~~g.ringNew s.turn) ≠ 0 → g.readySince = some d → d < 16 * s.turn →
        (∀ j h, tget s.groups j = some h → j ≠ i → ¬ (h.core = g.core ∧ h.quarter = g.quarter)) →
          (t.group i).slot = some 0 ∧ (t.group i).slotFrom = s.turn + 2) ∧
      ∀ i g, tget s.groups i = some g → (s.part g.pid).st = .running → ∀ l, l < g.lanes.length →
        (t.group i).lane l = (g.lane l).wake s.turn) := by
  set u := s.atBoundary.serveQuarters s.atBoundary.quarters with hu
  have hn' : (s.atBoundary.groups.map (·.1)).Nodup := by rw [State.atBoundary_keys]; exact hn
  have hrot : Rotates s.atBoundary u := serveQuarters_keeps (P := Rotates s.atBoundary) (fun _ _ h => serve_rotates h _ _ _ _) _ _ (.refl _)
  have hread : ∀ i v, tget u.groups i = some v → (({ u with groups := u.groups.map (fun p => (p.1, u.goOn p.2)) } : State).group i) = u.goOn v := by
    intro i v hv
    refine State.group_of_tget ?_
    rw [tget_map (fun _ => u.goOn), hv]
    rfl
  have hready : ∀ g : Group, (g.stood &&& ~~~g.ringNew s.turn) ≠ 0 → g.stoodReady s.turn = true := fun g h => bne_iff_ne.2 h
  refine ⟨_, exec_rotationBoundary s, ?_, ?_, fun i g hg hfin => ?_, fun i g hg hslot hfin hst => ?_, fun i g d hg hq hslot hfin hrun hst hd hlt halone => ?_,
    fun i g hg hrun l hl => ?_⟩
  · rw [← hu, hrot.rest]; rfl
  · rw [← hu, List.map_map, ← State.atBoundary_keys s, ← hrot.keys]; rfl
  · obtain ⟨v, hv, -, hslot⟩ := (finished_keeps_none hn' (State.tget_atBoundary hg) ((Group.eq_of_fixed g.emptied_fixed Group.stoodFin).trans hfin)
      (Group.emptied_slot_of_finished hfin) s.atBoundary.quarters).entry
    rw [← hu, hread i v hv, (State.goOn_slot u v).1, hslot]
  · obtain ⟨k, hk⟩ := Option.isSome_iff_exists.1 hslot
    have hstart : tget s.atBoundary.groups i = some g := by rw [State.tget_atBoundary hg, Group.emptied_of_not_finished hfin]
    obtain ⟨v, hv, -, hvk, -⟩ := (serveQuarters_keeps (P := Holds s.atBoundary i g (fun u => u.slot = some k ∧ u.slotFrom = g.slotFrom))
      (fun t n ht => ready_keeps_slot hn' (hready g hst) ht) s.atBoundary.quarters s.atBoundary ⟨.refl _, g, hstart, rfl, hk, rfl⟩).entry
    rw [← hu, hread i v hv, (State.goOn_slot u v).1, hvk, hk]
  · have hstart : tget s.atBoundary.groups i = some g := by rw [State.tget_atBoundary hg, Group.emptied_of_not_finished hfin]
    obtain ⟨v, hv, -, hv0, hvf⟩ := (pending_gets_slot hn' hstart hq ⟨rfl, rfl, hslot, hfin, hrun, hready g hst, d, hd, hlt⟩ (fun j h hj hji => by
      obtain ⟨w, hw, rfl⟩ := State.tget_atBoundary_back hj
      rw [Group.eq_of_fixed w.emptied_fixed Group.core, Group.eq_of_fixed w.emptied_fixed Group.quarter]
      exact halone j w hw hji) (mem_quarters hstart)).entry
    rw [← hu, hread i v hv, (State.goOn_slot u v).1, (State.goOn_slot u v).2, hv0, hvf]
    exact ⟨rfl, rfl⟩
  · obtain ⟨v, hv, hf⟩ := hrot.entry (State.tget_atBoundary hg)
    rw [g.emptied_fixed] at hf
    have hlanes : v.lanes = g.lanes := Group.eq_of_fixed hf Group.lanes
    have hturn : u.turn = s.turn := by rw [hrot.rest]; rfl
    have hpart : u.part v.pid = s.part g.pid := by rw [Group.eq_of_fixed hf Group.pid, hrot.rest]; rfl
    have hgo : u.mayGo v = true := by unfold State.mayGo; simp [hpart, hrun]
    rw [← hu, hread i v hv, State.goOn, if_pos hgo, Group.wake_eq, Group.lane_map (by rw [hlanes]; exact hl), hturn]
    rw [Group.lane, Group.lane, hlanes]

theorem coreEvents : CoreEvents := by
  refine ⟨fun s hn => ?_, fairnessExcursion_goes, fun gid s g hg => ?_, stopSpacing_goes⟩
  · obtain ⟨t, ht, hrest, hkeys, hfin, hkeep, htake, hwake⟩ := rotationBoundary_goes s hn
    exact ⟨t, ht, hrest, hkeys, hfin, hkeep, htake, hwake⟩
  · refine ⟨_, waitcExpire_goes gid s g hg, OnlyGroup.of_tset rfl, _, tget_tset_self _ _ _, rfl, List.length_map _, fun l hl => Group.lane_map hl⟩

end Sys2Proof.Machine
end

section
/-! LINE_REFETCH and the flushes of the reduction buffer (02 R41, 12 R264-R267). -/

namespace Sys2Proof.Machine

open Host (Outcome)

/-! Lines -/

theorem State.core_modCore_self (s : State) (k : Nat) (f : Core → Core) : (s.modCore k f).core k = f (s.core k) :=
  State.core_setCore_self _ _ _

/-- A core that has counted a correctable event. -/
def Core.countCe (c : Core) : Core := { c with cecnt := c.cecnt + 1, ceWin := c.ceWin + 1 }
/-- A core marked for retirement. -/
def Core.mark (c : Core) : Core := { c with marked := true }
/-- A core that has read a line again, which stands at a later turn. -/
def Core.reread (c : Core) (line turn : Nat) (v : Line) : Core :=
  { c with lines := tset c.lines line v, refetch := tset c.refetch line turn }

/-- A correctable event of a core counts there, and may mark it: nothing else of the core changes, and no group or grid. -/
theorem State.correctable_spec (s : State) (k : Nat) :
    (s.correctable k).groups = s.groups ∧ (s.correctable k).grids = s.grids ∧ (s.correctable k).turn = s.turn ∧
      ∃ b n, (s.correctable k).core k = { s.core k with cecnt := (s.core k).cecnt + 1, ceWin := n, marked := b } := by
  have hcount : (s.modCore k Core.countCe).core k = (s.core k).countCe := State.core_modCore_self s k _
  have hmark : ∀ u : State, (u.markCore k).groups = u.groups ∧ (u.markCore k).grids = u.grids ∧ (u.markCore k).turn = u.turn ∧
      ∃ b, (u.markCore k).core k = { u.core k with marked := b } := by
    intro u
    unfold State.markCore
    split
    · exact ⟨rfl, rfl, rfl, (u.core k).marked, rfl⟩
    · exact ⟨rfl, rfl, rfl, true, State.core_modCore_self u k Core.mark⟩
  unfold State.correctable
  dsimp only
  split
  · obtain ⟨hg, hr, ht, b, hb⟩ := hmark ((s.modCore k Core.countCe).modPart ((s.modCore k Core.countCe).partOf k) (fun p => { p with scce := satInc p.scce }))
    exact ⟨hg, hr, ht, b, (s.core k).ceWin + 1, hb.trans (congrArg (fun c : Core => { c with marked := b }) hcount)⟩
  · exact ⟨rfl, rfl, rfl, (s.core k).marked, (s.core k).ceWin + 1, hcount⟩

/-- A line whose parity failed for the first time in its grid is read again, and the group waits (02 R41, assumption 67). -/
theorem lineRefetch_reads {k line i : Nat} {s : State} (hi : s.groupAt s.pos = some i) (hg : (tget s.groups i).isSome)
    (hnew : line - (s.grid (s.group i).grid).base / 64 ∉ (s.grid (s.group i).grid).parFails) (hr : (tget s.grids (s.group i).grid).isSome) :
    Goes (.lineRefetch k line) s (fun t =>
      tget (t.core k).lines line = some (imageLine s.hbm (s.grid (s.group i).grid) (line - (s.grid (s.group i).grid).base / 64)) ∧
      tget (t.core k).refetch line = some (s.turn + 32) ∧ (t.group i).fetchHold = max (s.group i).fetchHold (s.turn + 32) ∧
      line - (s.grid (s.group i).grid).base / 64 ∈ (t.grid (s.group i).grid).parFails ∧ (t.core k).cecnt = (s.core k).cecnt + 1) := by
  obtain ⟨g, hg⟩ := Option.isSome_iff_exists.1 hg
  rw [State.group_of_tget hg] at *
  obtain ⟨r, hr⟩ := Option.isSome_iff_exists.1 hr
  rw [State.grid_of_tget hr] at *
  set idx := line - r.base / 64 with hidx
  set u := (s.modCore k (·.reread line (s.turn + 32) (imageLine s.hbm r idx))).modGrid g.grid
    (fun r => { r with parFails := insNat r.parFails idx }) with hu
  have hcont : r.parFails.contains idx = false := by simpa using hnew
  have he : exec (.lineRefetch k line) s = .next ((u.correctable k).holdFetch i (s.turn + 32)) := by
    simp only [exec, execLineRefetch, hi, State.group_of_tget hg, State.grid_of_tget hr, hcont, ← hidx, Bool.false_eq_true, if_false]
    rfl
  obtain ⟨hgroups, hgrids, -, b, n, hcore⟩ := u.correctable_spec k
  have hucore : u.core k = (s.core k).reread line (s.turn + 32) (imageLine s.hbm r idx) :=
    State.core_modCore_self s k (·.reread line (s.turn + 32) (imageLine s.hbm r idx))
  have hgroup : tget (u.correctable k).groups i = some g := by rw [hgroups]; exact hg
  have hgrid : tget (u.correctable k).grids g.grid = some { r with parFails := insNat r.parFails idx } := by
    rw [hgrids]; exact tget_tmod_of_some hr
  refine ⟨_, he, ?_, ?_, ?_, ?_, ?_⟩
  · rw [show ((u.correctable k).holdFetch i (s.turn + 32)).core k = (u.correctable k).core k from rfl, hcore, hucore]
    exact tget_tset_self _ _ _
  · rw [show ((u.correctable k).holdFetch i (s.turn + 32)).core k = (u.correctable k).core k from rfl, hcore, hucore]
    exact tget_tset_self _ _ _
  · exact congrArg Group.fetchHold (State.group_of_tget (s := (u.correctable k).holdFetch i (s.turn + 32)) (State.tget_modGroup hgroup))
  · rw [show ((u.correctable k).holdFetch i (s.turn + 32)).grid g.grid = (u.correctable k).grid g.grid from rfl, State.grid_of_tget hgrid]
    exact mem_insNat.2 (.inl rfl)
  · rw [show ((u.correctable k).holdFetch i (s.turn + 32)).core k = (u.correctable k).core k from rfl, hcore, hucore]
    rfl

/-- The fault of a line of a group whose parity fails again. -/
def State.lineFault (s : State) (i line : Nat) : CFault :=
  { bit := 5, tick := 16 * s.turn + 2 * (s.group i).slot.getD 0, cause := 0, core := (s.group i).core, qtr := (s.group i).quarter,
    grp := (s.group i).index, res := (s.group i).res, fpc := BitVec.ofNat 32 (64 * line) }

/-- A line that fails again raises LINE_PARITY (02 R41). -/
theorem lineRefetch_raises {k line i : Nat} {s : State} (hi : s.groupAt s.pos = some i)
    (hold : line - (s.grid (s.group i).grid).base / 64 ∈ (s.grid (s.group i).grid).parFails) (hp : (s.group i).pid < s.parts.length) :
    Goes (.lineRefetch k line) s (fun t => ∃ f ∈ (t.part (s.group i).pid).faults, f.bit = 5 ∧ f.fpc = BitVec.ofNat 32 (64 * line) ∧
      f.core = (s.group i).core ∧ f.tick = 16 * s.turn + 2 * (s.group i).slot.getD 0) := by
  refine ⟨s.issueFault i 5 0 (BitVec.ofNat 32 (64 * line)) 0 0, ?_, ?_⟩
  · simp only [exec, execLineRefetch, hi, List.contains_iff_mem, hold, if_true]
  · refine ⟨s.lineFault i line, ?_, rfl, rfl, rfl, rfl⟩
    have hraise : (s.issueFault i 5 0 (BitVec.ofNat 32 (64 * line)) 0 0).part (s.group i).pid = _ :=
      State.part_raise (s := s.holdFetch i (s.turn + 1)) hp (s.lineFault i line)
    rw [hraise]
    exact List.mem_append_right _ (List.mem_singleton_self _)

/-! Flushes -/

/-- A flush in a state that has the cores and the time of another. -/
theorem flushes_flush (s : State) (k : Nat) {t : State} (h : ∀ j, t.core j = (s.flush k s.turn (16 * s.turn)).1.core j) : Flushes k s t := by
  obtain ⟨es, hperm, hsort, hbuf, hfl, hlast, hother, -⟩ := s.flush_spec k s.turn (16 * s.turn)
  refine ⟨es, hperm, hsort, ?_, ?_, fun hne => ?_, fun j hj => ?_⟩
  · rw [h, hbuf]
  · rw [h, hfl]
  · rw [h]; exact hlast hne
  · rw [h, hother j hj]

theorem State.traceRec_spec (s : State) (gr : Nat) (t : TRec) :
    (s.traceRec gr t).cores = s.cores ∧ ∀ j, ((s.traceRec gr t).grid j).nforced = (s.grid j).nforced := by
  have hmod : ∀ (u : State) (f : Grid → Grid), (∀ r, (f r).nforced = r.nforced) → ∀ j, ((u.modGrid gr f).grid j).nforced = (u.grid j).nforced := by
    intro u f hf j
    by_cases hj : j = gr
    · subst hj
      simp only [State.modGrid, State.grid, tget_tmod_self]
      cases tget u.grids j
      · rfl
      · exact hf _
    · simp only [State.modGrid, State.grid, tget_tmod_of_ne _ _ hj]
  unfold State.traceRec
  dsimp only
  split
  · split
    · exact ⟨rfl, hmod _ _ fun _ => rfl⟩
    · exact ⟨rfl, hmod _ _ fun _ => rfl⟩
  · exact ⟨rfl, fun _ => rfl⟩

/-- Noting a forced flush counts it in the grid it is reckoned to, and leaves the cores. -/
theorem State.noteForced_spec (s : State) (k n : Nat) (e : REntry) :
    (s.noteForced k n e).cores = s.cores ∧ ((tget s.grids (s.block (s.group e.gid).block).grid).isSome →
      ((s.noteForced k n e).grid (s.block (s.group e.gid).block).grid).nforced = (s.grid (s.block (s.group e.gid).block).grid).nforced + 1) := by
  unfold State.noteForced
  dsimp only
  refine ⟨(State.traceRec_spec _ _ _).1, fun h => ?_⟩
  obtain ⟨r, hr⟩ := Option.isSome_iff_exists.1 h
  rw [(State.traceRec_spec _ _ _).2, State.grid_modGrid _ hr, State.grid_of_tget hr]

theorem forcedFlush_goes (k : Nat) (s : State) : Goes (.forcedFlush k) s (fun t => Flushes k s t ∧
    ∀ e, (s.core k).rbuf.filter (fun q => q.tick < 16 * s.turn) = [e] → (tget s.grids (s.block (s.group e.gid).block).grid).isSome →
      (t.grid (s.block (s.group e.gid).block).grid).nforced = (s.grid (s.block (s.group e.gid).block).grid).nforced + 1) := by
  obtain ⟨-, -, -, -, -, -, -, -, hkeep⟩ := s.flush_spec k s.turn (16 * s.turn)
  set fl := s.flush k s.turn (16 * s.turn) with hfl
  set es := sortBy (fun a b => decide (a.key ≤ b.key)) ((s.core k).rbuf.filter (fun e => e.tick < 16 * s.turn)) with hes
  have hperm : es.Perm ((s.core k).rbuf.filter (fun e => e.tick < 16 * s.turn)) := sortBy_perm _ _
  cases hcase : es with
  | nil =>
    refine ⟨fl.1, ?_, flushes_flush s k fun _ => rfl, fun e he => ?_⟩
    · simp only [exec, execForcedFlush, ← hfl, ← hes, hcase]
    · rw [hcase, he] at hperm
      exact absurd hperm.length_eq (by simp)
  | cons e0 rest =>
    obtain ⟨hcores, hcount⟩ := fl.1.noteForced_spec k fl.2.1 e0
    refine ⟨fl.1.noteForced k fl.2.1 e0, ?_, flushes_flush s k fun j => ?_, fun e he hgrid => ?_⟩
    · simp only [exec, execForcedFlush, ← hfl, ← hes, hcase]
    · simp only [State.core, hcores, ← hfl]
    · rw [hcase, he, List.perm_singleton, List.cons.injEq] at hperm
      rw [hperm.1] at hcount ⊢
      rw [hkeep] at hcount ⊢
      exact hcount hgrid

theorem endFlush_goes (b : Nat) (s : State) (x : Block) (hb : tget s.blocks b = some x) :
    Goes (.endFlush b) s (fun t => Flushes x.core s t ∧ tget t.blocks b = some { x with endDone := true }) := by
  obtain ⟨-, -, -, -, -, -, -, -, hkeep⟩ := s.flush_spec x.core s.turn (16 * s.turn)
  refine ⟨(s.flush x.core s.turn (16 * s.turn)).1.modBlock b (fun x => { x with endDone := true }), ?_, flushes_flush s x.core fun _ => rfl, ?_⟩
  · simp only [exec, execEndFlush, hb]
  · exact tget_tmod_of_some (congrArg (tget ·.blocks b) hkeep |>.trans hb)

/-! One entry applied -/

/-- New lanes for every group leave each group's spill words. -/
theorem spill_of_map_lanes (f : Nat × Group → List Lane) (t : Tbl Group) (n : Nat) :
    ((tget (t.map (fun p : Nat × Group => (p.1, { p.2 with lanes := f p }))) n).getD {}).spill = ((tget t n).getD {}).spill := by
  rw [tget_map (fun k g => ({ g with lanes := f (k, g) } : Group)) t n]
  cases tget t n <;> rfl

/-- Ending reservations leaves every memory and the cores. -/
theorem State.endResv_ram (s : State) (sp : Space) (a n : Nat) (who : Option (Nat × Nat)) :
    (∀ q, (s.endResv sp a n who).ram q = s.ram q) ∧ (s.endResv sp a n who).cores = s.cores := by
  unfold State.endResv
  dsimp only
  split
  · exact ⟨fun _ => rfl, rfl⟩
  · refine ⟨fun q => ?_, rfl⟩
    cases q with
    | blk b => rfl
    | die g d => rfl
    | spill g => exact spill_of_map_lanes _ s.groups g

/-- The memory of a space, changed. -/
theorem State.ram_modRam {s : State} {sp : Space} (h : s.hasSpace sp) (f : Ram → Ram) : (s.modRam sp f).ram sp = f (s.ram sp) := by
  cases sp with
  | blk b =>
    obtain ⟨x, hx⟩ := Option.isSome_iff_exists.1 h
    simp only [State.modRam, State.ram, State.modBlock, State.block, tget_tmod_self, hx]
    rfl
  | die g d =>
    obtain ⟨h, -⟩ := h
    obtain ⟨x, hx⟩ := Option.isSome_iff_exists.1 h
    by_cases hd : d = 0 <;> simp [State.modRam, State.ram, State.modGrid, State.grid, tget_tmod_self, hx, hd]
  | spill g =>
    obtain ⟨x, hx⟩ := Option.isSome_iff_exists.1 h
    simp only [State.modRam, State.ram, State.modGroup, State.group, tget_tmod_self, hx]
    rfl

theorem reductionEntryApply_goes (k n : Nat) (s : State) (e : REntry) (rest : List (Nat × REntry)) (hq : (s.core k).rflush = (n, e) :: rest)
    (hsp : s.hasSpace e.space) (hwf : Memory.wf (s.ram e.space).cells = true) :
    Goes (.reductionEntryApply k) s (fun t => (t.core k).rflush = rest ∧
      ((s.ram e.space).poisoned e.adr (4 * e.op.regs) = false →
        leNat (memRead (t.ram e.space).cells e.adr (4 * e.op.regs)) =
          e.op.new (leNat (memRead (s.ram e.space).cells e.adr (4 * e.op.regs))) e.val.toNat 0 % 2 ^ (32 * e.op.regs) ∧
        ∀ a, (a < e.adr ∨ e.adr + 4 * e.op.regs ≤ a) → memRd (t.ram e.space).cells a = memRd (s.ram e.space).cells a) ∧
      ((s.ram e.space).poisoned e.adr (4 * e.op.regs) = true → (t.ram e.space) = s.ram e.space ∧
        ∀ g, tget s.groups e.gid = some g → (t.group e.gid).nrec = min (g.nrec + 1) 4095)) := by
  set u := s.modCore k (fun c => { c with rflush := rest }) with hu
  have hcore : (u.core k).rflush = rest := congrArg Core.rflush (State.core_modCore_self s k _)
  have hram : u.ram e.space = s.ram e.space := by cases e.space <;> rfl
  have husp : u.hasSpace e.space := by revert hsp; cases e.space <;> exact id
  have he : exec (.reductionEntryApply k) s = .next (u.applyEntry e) := by simp only [exec, execReductionEntryApply, hq]; rfl
  refine ⟨u.applyEntry e, he, ?_⟩
  unfold State.applyEntry
  rw [hram]
  dsimp only
  cases hpoison : (s.ram e.space).poisoned e.adr (4 * e.op.regs)
  · simp only [Bool.false_eq_true, if_false]
    set bs := toBytes (4 * e.op.regs) (e.op.new ((s.ram e.space).nat e.adr (4 * e.op.regs)) e.val.toNat 0) with hbs
    set v := u.modRam e.space (fun r => { r with cells := memWrite r.cells e.adr bs }) with hv
    obtain ⟨hvram, hvcore⟩ := State.endResv_ram v e.space e.adr (4 * e.op.regs) (some (e.gid, e.lane))
    have hcells : ((v.endResv e.space e.adr (4 * e.op.regs) (some (e.gid, e.lane))).ram e.space).cells = memWrite (s.ram e.space).cells e.adr bs := by
      rw [hvram, hv, State.ram_modRam husp, hram]
    have hlen : bs.length = 4 * e.op.regs := toBytes_length _ _
    refine ⟨?_, fun _ => ⟨?_, fun a ha => ?_⟩, fun h => absurd h (by simp)⟩
    · have : v.cores = u.cores := by rw [hv]; cases e.space <;> rfl
      rw [← hcore]
      simp only [State.core, hvcore, this]
    · have hback := memRead_memWrite_self bs e.adr hwf
      rw [hlen] at hback
      rw [hcells, hback, hbs, leNat_toBytes, show 8 * (4 * e.op.regs) = 32 * e.op.regs by omega]
      rfl
    · rw [hcells]
      exact memRd_memWrite_of_out bs hwf (by rw [hlen]; exact ha)
  · simp only [if_true]
    refine ⟨hcore, fun h => absurd h (by simp), fun _ => ⟨?_, fun g hg => ?_⟩⟩
    · rw [← hram]
      cases hs : e.space with
      | blk b => rfl
      | die g d => rfl
      | spill g =>
        simp only [State.ram, State.logNrec, State.modGroup, State.group]
        by_cases hge : g = e.gid
        · rw [hge, tget_tmod_self]
          cases tget u.groups e.gid <;> rfl
        · rw [tget_tmod_of_ne _ _ hge]
    · exact congrArg Group.nrec (State.group_of_tget (s := u.logNrec e.gid) (State.tget_modGroup hg))

theorem linesAndFlushes : LinesAndFlushes := by
  refine ⟨fun k line i s hi hg => ⟨lineRefetch_reads hi hg, lineRefetch_raises hi⟩, forcedFlush_goes, endFlush_goes, fun k n s e rest hq hsp hm => reductionEntryApply_goes k n s e rest hq hsp hm⟩

/-- Settles O47: the boundary serves the slots of each quarter in turn, and every other event changes one group, one core or one memory. -/
theorem coreEventsGo : Obligations.CoreEventsGo := ⟨coreEvents, linesAndFlushes⟩

end Sys2Proof.Machine
end

section
/-! The step of a word: decoding's error classes (02 R60-R62), rejected words, and the word at a group's turn (13 R270). -/

namespace Sys2Proof.Machine

open Host (Outcome)

/-! Type codes and opcodes -/

theorem Ty.dec_enc (t : Ty) : Ty.dec t.enc = some t := by cases t <;> rfl

theorem Ty.dec_eq_some {b : BitVec 8} {t : Ty} : Ty.dec b = some t ↔ t.enc = b :=
  ⟨fun h => eq_of_beq (List.find?_some (p := fun t => Ty.enc t == b) h), fun h => h ▸ Ty.dec_enc t⟩

theorem Op.ofCode_code (o : Op) : Op.ofCode o.code = some o := by cases o <;> rfl

theorem Op.ofCode_eq_some {n : Nat} {o : Op} : Op.ofCode n = some o ↔ o.code = n :=
  ⟨fun h => eq_of_beq (List.find?_some (p := fun o => Op.code o == n) h), fun h => h ▸ Op.ofCode_code o⟩

theorem Op.code_lt (o : Op) : o.code < 0xF0 := by cases o <;> exact Nat.le_of_ble_eq_true rfl

/-- The ranges of opcodes that R59 leaves unassigned, apart from the emulation class and the fill word. -/
def unassignedRanges : List (Nat × Nat) :=
  [(0x0D, 0x0F), (0x2E, 0x2F), (0x37, 0x3F), (0x46, 0x4F), (0x63, 0x6F), (0x74, 0x7F), (0x86, 0x8F), (0x9D, 0x9F), (0xAE, 0xBF),
    (0xCC, 0xCF), (0xDB, 0xDF), (0xE9, 0xEF), (0xF8, 0xFE)]

def inRanges (l : List (Nat × Nat)) (n : Nat) : Bool := l.any (fun r => r.1 ≤ n && n ≤ r.2)

theorem inRanges_iff {l : List (Nat × Nat)} {n : Nat} : inRanges l n = true ↔ ∃ r ∈ l, r.1 ≤ n ∧ n ≤ r.2 := by
  simp [inRanges]

/-- R59's table of opcodes, sixteen rows of sixteen, read from the other side: what no operation has. -/
theorem ofCode_rows : ∀ h l : Fin 16, ((Op.ofCode (16 * h + l)).isNone && !inRanges [(0xF0, 0xF7), (0xFF, 0xFF)] (16 * h + l)) =
    inRanges unassignedRanges (16 * h + l) := by
  decide

theorem ofCode_table (n : Nat) (hn : n < 256) :
    ((Op.ofCode n).isNone && !inRanges [(0xF0, 0xF7), (0xFF, 0xFF)] n) = inRanges unassignedRanges n := by
  have := ofCode_rows ⟨n / 16, by omega⟩ ⟨n % 16, by omega⟩
  rwa [show 16 * (n / 16) + n % 16 = n by omega] at this

/-! The classes of decode errors -/

/-- decodeEmul has a meaning for the SUB codes of `div` and `rem`, and is EMUL otherwise. -/
theorem decodeEmul_error (w : IWord) (e : DecErr) : decodeEmul w = .error e ↔ e = .emul ∧
    ¬ ((w.extractLsb' 88 8).toNat = 0xF2 ∧ ∃ t ∈ Ty.int4, w.extractLsb' 80 8 &&& 0x7F#8 = t.enc) := by
  have hF2 : (w.extractLsb' 88 8).toNat = 0xF2 ↔ w.extractLsb' 88 8 = 0xF2#8 := (BitVec.toNat_inj (y := 0xF2#8))
  rw [hF2]
  unfold decodeEmul
  by_cases h : w.extractLsb' 88 8 = 0xF2#8
  · rw [if_pos h]
    cases hd : Ty.dec (w.extractLsb' 80 8 &&& 0x7F#8) with
    | none =>
      have : ¬ ∃ t ∈ Ty.int4, w.extractLsb' 80 8 &&& 0x7F#8 = t.enc := fun ⟨t, _, ht⟩ => by
        rw [ht, Ty.dec_enc] at hd
        cases hd
      simp only [this, and_false, not_false_eq_true, and_true, Except.error.injEq, eq_comm (a := e)]
    | some t =>
      rw [← Ty.dec_eq_some.1 hd]
      have : (∃ u ∈ Ty.int4, t.enc = u.enc) ↔ t ∈ Ty.int4 :=
        ⟨fun ⟨u, hu, h⟩ => Option.some.inj ((Ty.dec_enc t).symm.trans (h ▸ Ty.dec_enc u)) ▸ hu, fun ht => ⟨t, ht, rfl⟩⟩
      rw [this]
      by_cases ht : t ∈ Ty.int4
      · simp only [List.contains_iff_mem, ht, h, if_true, reduceCtorEq, and_self, not_true_eq_false, and_false]
      · simp only [List.contains_iff_mem, ht, if_false, Except.error.injEq, and_false, not_false_eq_true, and_true, eq_comm (a := e)]
  · rw [if_neg h]
    simp [h, eq_comm]

/-- Decoding outside the fill word and the emulation class: the opcode first, then SUB, then the fields. -/
theorem decode_error_of_opc {w : IWord} (hF : (w.extractLsb' 88 8).toNat ≠ 0xFF) (hE : ¬ (0xF0 ≤ (w.extractLsb' 88 8).toNat ∧ (w.extractLsb' 88 8).toNat ≤ 0xF7)) :
    (decode w ≠ .error .emul) ∧ (decode w = .error .unassigned ↔ Op.ofCode (w.extractLsb' 88 8).toNat = none) ∧
    (decode w = .error .sub ↔ ∃ o, Op.ofCode (w.extractLsb' 88 8).toNat = some o ∧ o.subOk (w.extractLsb' 80 8).toNat = false) := by
  have hF' : ¬ (Raw.unpack w).opc = 0xFF#8 := fun h => hF (congrArg BitVec.toNat h)
  unfold decode
  dsimp only
  rw [if_neg hF', if_neg (show ¬ (0xF0 ≤ (Raw.unpack w).opc.toNat ∧ (Raw.unpack w).opc.toNat ≤ 0xF7) from hE)]
  rw [show (Raw.unpack w).opc = w.extractLsb' 88 8 from rfl, show (Raw.unpack w).sub = w.extractLsb' 80 8 from rfl]
  generalize (w.extractLsb' 88 8).toNat = opc, (w.extractLsb' 80 8).toNat = sub
  cases Op.ofCode opc with
  | none => simp
  | some o =>
    cases hs : o.subOk sub
    · simp [hs]
    · cases hp : o.parse (Raw.unpack w) with
      | none => simp [hs, hp]
      | some i => by_cases hi : i.raw = some (Raw.unpack w) ∧ i.fieldsWf = true <;> simp [hs, hp, hi]

theorem decode_error_classes (w : IWord) :
    (decode w = .error .emul ↔ (0xF0 ≤ (w.extractLsb' 88 8).toNat ∧ (w.extractLsb' 88 8).toNat ≤ 0xF7) ∧
      ¬ ((w.extractLsb' 88 8).toNat = 0xF2 ∧ ∃ t ∈ Ty.int4, w.extractLsb' 80 8 &&& 0x7F#8 = t.enc)) ∧
    (decode w = .error .unassigned ↔ inRanges unassignedRanges (w.extractLsb' 88 8).toNat = true) ∧
    (decode w = .error .sub ↔ ∃ o : Op, o.code = (w.extractLsb' 88 8).toNat ∧ o.subOk (w.extractLsb' 80 8).toNat = false) := by
  have htable := ofCode_table _ (w.extractLsb' 88 8).isLt
  have hlt : ∀ o : Op, o.code = (w.extractLsb' 88 8).toNat → (w.extractLsb' 88 8).toNat < 0xF0 := fun o h => h ▸ Op.code_lt o
  by_cases hF : (w.extractLsb' 88 8).toNat = 0xFF
  · have hdec : decode w = .ok .fillWord := if_pos (BitVec.eq_of_toNat_eq hF)
    rw [hdec, hF]
    rw [hF] at hlt
    refine ⟨by simp, iff_of_false (by simp) (by decide), iff_of_false (by simp) fun ⟨o, ho, _⟩ => absurd (hlt o ho) (by omega)⟩
  · by_cases hE : 0xF0 ≤ (w.extractLsb' 88 8).toNat ∧ (w.extractLsb' 88 8).toNat ≤ 0xF7
    · have hdec : decode w = decodeEmul w :=
        (if_neg (fun h => hF (congrArg BitVec.toNat h))).trans (if_pos hE)
      have hno : inRanges unassignedRanges (w.extractLsb' 88 8).toNat = false := by
        rw [← htable, show inRanges [(0xF0, 0xF7), (0xFF, 0xFF)] (w.extractLsb' 88 8).toNat = true from inRanges_iff.2 ⟨_, List.mem_cons_self, hE⟩]
        simp
      rw [hdec, hno]
      simp only [decodeEmul_error, hE, true_and, and_self, reduceCtorEq, false_and, Bool.false_eq_true, false_iff]
      exact fun ⟨o, ho, _⟩ => absurd (hlt o ho) (by omega)
    · obtain ⟨hemul, hun, hsub⟩ := decode_error_of_opc hF hE
      refine ⟨iff_of_false hemul fun h => hE h.1, ?_, ?_⟩
      · have hcls : inRanges [(0xF0, 0xF7), (0xFF, 0xFF)] (w.extractLsb' 88 8).toNat = false := by
          simp only [inRanges, List.any_cons, List.any_nil, Bool.or_false, Bool.or_eq_false_iff, Bool.and_eq_false_iff, decide_eq_false_iff_not]
          omega
        rw [hun, ← htable, hcls]
        simp
      · rw [hsub]
        simp only [Op.ofCode_eq_some]

/-! Steps -/

theorem step_of_decode {s : State} {x : Issue} {i : Instr} (hx : s.issue = some x) (hd : decode x.word = .ok i) :
    step s = afterWord (exec i s) := by
  simp only [step, nextAction, hx, State.actWord, hd]

theorem step_of_decode_error {s : State} {x : Issue} {e : DecErr} {g : Group} (hx : s.issue = some x) (hd : decode x.word = .error e)
    (hg : tget s.groups x.gid = some g) : step s = .next (s.rejectWord x (errClass e x.word g)) := by
  simp only [step, nextAction, hx, State.actWord, hd, State.group_of_tget hg]

/-! The word at a group's turn -/

theorem actWord_word {s t : State} {x : Issue} {i : Instr} (h : s.actWord x = .word i t) : t = s ∧ decode x.word = .ok i := by
  unfold State.actWord at h
  split at h
  · next hd => cases h; exact ⟨rfl, hd⟩
  · cases h

/-- A word is not what a condition that ends the turn gives. -/
theorem Action.of_ite_not_word {c : Prop} [Decidable c] {a b : Action} {i : Instr} {t : State} (ha : a ≠ .word i t)
    (h : (if c then a else b) = .word i t) : b = .word i t := by
  split at h
  · exact absurd h ha
  · exact h

/-- The slot of a PC in a line of the image. -/
theorem slotPc_iff {base n : Nat} : slotPc base n = true ↔ base ≤ n ∧ (n - base) % 64 ∈ [0, 12, 24, 36, 48] := by
  simp [slotPc]

/-- The TGT bit of a slot's line word marks a target (02 R40, 13 R281). -/
theorem isTarget_iff_lineAt {s : State} {g : Group} {n : Nat} (h : slotPc (s.grid g.grid).base n = true) :
    ((s.lineAt g n).isSome && ((s.lineAt g n).getD fillLine).lw.getLsbD (slotOf (s.grid g.grid).base n)) = true ↔ IsTarget s g n := by
  obtain ⟨hb, hs⟩ := slotPc_iff.1 h
  unfold State.lineAt IsTarget slotOf
  by_cases hend : n < (s.grid g.grid).base + 64 * (s.grid g.grid).desc.nlines
  · simp only [hb, hend, hs, decide_true, Bool.and_self, if_true, Option.isSome_some, Bool.true_and, Option.getD_some, true_and]
  · simp [hend]

/-- The next slot of a line that has one. -/
theorem next_slot {s : State} {g : Group} {n : Nat} (hbase : (s.grid g.grid).base % 64 = 0) (h : slotPc (s.grid g.grid).base n = true)
    (hj : slotOf (s.grid g.grid).base n < 4) : slotPc (s.grid g.grid).base (n + 12) = true ∧
      slotOf (s.grid g.grid).base (n + 12) = slotOf (s.grid g.grid).base n + 1 ∧ s.lineAt g (n + 12) = s.lineAt g n := by
  obtain ⟨hb, hs⟩ := slotPc_iff.1 h
  simp only [List.mem_cons, List.not_mem_nil, or_false] at hs
  unfold slotOf at hj ⊢
  refine ⟨slotPc_iff.2 ⟨by omega, ?_⟩, by omega, ?_⟩
  · simp only [List.mem_cons, List.not_mem_nil, or_false]
    omega
  · have hline : (n + 12) / 64 = n / 64 := by omega
    have hend : n + 12 < (s.grid g.grid).base + 64 * (s.grid g.grid).desc.nlines ↔ n < (s.grid g.grid).base + 64 * (s.grid g.grid).desc.nlines := by omega
    have hstart : (s.grid g.grid).base ≤ n + 12 ↔ (s.grid g.grid).base ≤ n := by omega
    unfold State.lineAt
    simp only [hline, hend, hstart]

theorem slot_lt_of_pairs {s : State} {g : Group} {m : Mask} {l : Line} {j : Nat} (h : s.pairs g m l j = true) : j < 4 := by
  simp only [State.pairs, Bool.and_eq_true, decide_eq_true_eq] at h
  omega

theorem wordAt_eq (s : State) (g : Group) (n : Nat) : s.wordAt g n =
    if (s.lineAt g n).isSome then ((s.lineAt g n).getD fillLine).slots.getD (slotOf (s.grid g.grid).base n) (BitVec.allOnes 96) else BitVec.allOnes 96 := by
  unfold State.wordAt
  cases s.lineAt g n <;> rfl

/-- What a turn of a group that gives a word has fetched: the word of the slot at the PC, its TGT bit, and the next slot's where the words pair. -/
theorem groupTurn_word {s t : State} {j : Nat} {g : Group} {i : Instr} (h : s.groupTurn j g = .word i t) :
    ∃ x m, t.issue = some x ∧ x.gid = j ∧ decode x.word = .ok i ∧ x.word = s.wordAt g x.pc.toNat ∧
      x.tgt = ((s.lineAt g x.pc.toNat).isSome && ((s.lineAt g x.pc.toNat).getD fillLine).lw.getLsbD (slotOf (s.grid g.grid).base x.pc.toNat)) ∧
      x.tgt2 = ((s.lineAt g x.pc.toNat).isSome && ((s.lineAt g x.pc.toNat).getD fillLine).lw.getLsbD (slotOf (s.grid g.grid).base x.pc.toNat + 1)) ∧
      (x.second.isSome → s.pairs g m ((s.lineAt g x.pc.toNat).getD fillLine) (slotOf (s.grid g.grid).base x.pc.toNat) = true) := by
  unfold State.groupTurn at h
  extract_lets base lim at h
  replace h := Action.of_ite_not_word (by nofun) h
  split at h
  next iset g' _ =>
  extract_lets lane0 pc k line l j w bad pair w2 stop tgt x at h
  replace h := Action.of_ite_not_word (by nofun) h
  replace h := Action.of_ite_not_word (by nofun) h
  replace h := Action.of_ite_not_word (by nofun) h
  replace h := Action.of_ite_not_word (by nofun) h
  replace h := Action.of_ite_not_word (by nofun) h
  replace h := Action.of_ite_not_word (by nofun) h
  obtain ⟨rfl, hd⟩ := actWord_word h
  refine ⟨_, iset, rfl, rfl, hd, (wordAt_eq s g _).symm, rfl, rfl, fun hs => ?_⟩
  have hpair : pair = true := by
    by_contra hp
    exact Bool.false_ne_true ((congrArg Option.isSome (if_neg hp)).symm.trans hs)
  exact (Bool.and_eq_true_iff.1 hpair).2

/-- Settles O37: the action of an issue in progress is its word's, and a turn's word, line and slot are those of its PC. -/
theorem stepRunsTheWord : Obligations.StepRunsTheWord := by
  refine ⟨fun s x i hx hd => step_of_decode hx hd, fun s x g e hx hd hg hlen hidle => ?_, fun w => ?_, fun s t j g i h => ?_⟩
  · obtain ⟨honly, h, hh, hlanes⟩ := parkMask_parks hg hlen hidle x.iset x.pc { illegal (errClass e x.word g) with word := x.word }
      (some { x with rejected := true, stall := 0 })
    refine ⟨_, h, step_of_decode_error hx hd hg, honly, hh, rfl, fun l hl => (hlanes l hl).trans ?_⟩
    cases e <;> rfl
  · obtain ⟨hemul, hun, hsub⟩ := decode_error_classes w
    exact ⟨hemul.trans (and_congr_left' (by simp only [List.mem_singleton, exists_eq_left])), hun.trans inRanges_iff, hsub⟩
  · obtain ⟨x, m, hx, hgid, hd, hw, htgt, htgt2, hpair⟩ := groupTurn_word h
    refine ⟨x, hx, hgid, hd, hw, fun hbase hslot => ⟨?_, fun w2 hw2 => ?_⟩⟩
    · rw [htgt, isTarget_iff_lineAt hslot]
    · obtain ⟨hslot2, hnum, hline⟩ := next_slot hbase hslot (slot_lt_of_pairs (hpair (Option.isSome_of_mem hw2)))
      rw [htgt2, ← hnum, ← hline, isTarget_iff_lineAt hslot2]

end Sys2Proof.Machine
end

section
/-! Semaphores, completion records (14 R292, R316, R318), and changes of several cores, on which the scheduler's events rest. -/

namespace Sys2Proof.Machine

open Host (Outcome)

/-! Tables without a key -/

theorem tget_of_not_mem {α : Type} {t : Tbl α} {n : Nat} (h : n ∉ t.map (·.1)) : tget t n = none := by
  cases hg : tget t n with
  | none => rfl
  | some a => exact absurd (List.mem_map_of_mem (mem_of_tget hg)) h

theorem tget_tdel {α : Type} {t : Tbl α} (hn : (t.map (·.1)).Nodup) (n m : Nat) : tget (tdel t n) m = if m = n then none else tget t m := by
  induction t with
  | nil => simp [tdel]
  | cons p t ih =>
    obtain ⟨k, a⟩ := p
    obtain ⟨hk, ht⟩ := List.nodup_cons.1 hn
    by_cases h : k = n
    · subst h
      by_cases hm : m = k
      · subst hm
        simpa [tdel] using tget_of_not_mem hk
      · simp [tdel, tget, hm, Ne.symm hm]
    · by_cases hm : m = k
      · subst hm
        simp [tdel, tget, h]
      · simp [tdel, tget, h, Ne.symm hm, ih ht]

/-- The semaphores after an add (14 R292). -/
theorem Part.sem_addSem {p : Part} (hn : (p.sems.map (·.1)).Nodup) (i : Nat) (v : Word) (j : Nat) :
    (p.addSem i v).sem j = if j = i then p.sem j + v else p.sem j := by
  unfold Part.addSem
  dsimp only
  split
  · next h =>
    simp only [Part.sem, tget_tdel hn]
    by_cases hj : j = i
    · subst hj
      simpa [Part.sem] using h.symm
    · simp [hj]
  · by_cases hj : j = i
    · subst hj
      simp [Part.sem]
    · simp [Part.sem, tget_tset_of_ne _ _ hj, hj]

/-! One partition changed -/

theorem State.part_modPart {s : State} {p : Nat} (hp : p < s.parts.length) (f : Part → Part) : (s.modPart p f).part p = f (s.part p) := by
  simp only [State.part, State.modPart, List.getD_eq_getElem?_getD, getElem?_lmod, if_true, List.getElem?_eq_getElem hp]
  rfl

/-! Cores changed one after another -/

/-- Changes of cores change nothing but cores. -/
theorem State.foldl_modCore_only (f : Core → Core) (cs : List Nat) : ∀ s : State,
    cs.foldl (fun s c => s.modCore c f) s = { s with cores := (cs.foldl (fun s c => s.modCore c f) s).cores } := by
  induction cs with
  | nil => exact fun _ => rfl
  | cons c cs ih => exact fun s => ih (s.modCore c f)

theorem State.core_foldl_of_not_mem (f : Core → Core) {k : Nat} (cs : List Nat) (hk : k ∉ cs) : ∀ s : State,
    (cs.foldl (fun s c => s.modCore c f) s).core k = s.core k := by
  induction cs with
  | nil => exact fun _ => rfl
  | cons c cs ih =>
    exact fun s => (ih (List.not_mem_of_not_mem_cons hk) _).trans (State.core_setCore_of_ne s _ (List.ne_of_not_mem_cons hk))

theorem State.core_foldl_of_mem (f : Core → Core) {k : Nat} (cs : List Nat) (hn : cs.Nodup) (hk : k ∈ cs) : ∀ s : State,
    (cs.foldl (fun s c => s.modCore c f) s).core k = f (s.core k) := by
  induction cs with
  | nil => simp at hk
  | cons c cs ih =>
    intro s
    obtain ⟨hc, hn⟩ := List.nodup_cons.1 hn
    by_cases h : k = c
    · subst h
      exact (State.core_foldl_of_not_mem f cs hc _).trans (State.core_setCore_self s k _)
    · exact (ih hn (List.mem_of_ne_of_mem h hk) _).trans (congrArg f (State.core_setCore_of_ne s _ h))

theorem State.coresOf_nodup (s : State) (p : Nat) : (s.coresOf p).Nodup := List.nodup_range.filter _

/-! Records -/

/-- Records change the streams, the far memories and what the device sends. -/
def OnlyRecords (s t : State) : Prop := t = { s with streams := t.streams, hbm := t.hbm, host := t.host, out := t.out }

theorem OnlyRecords.trans {s t u : State} (h : OnlyRecords s t) (k : OnlyRecords t u) : OnlyRecords s u := by
  unfold OnlyRecords at *
  rw [k, h]

theorem State.stream_modStream (s : State) (p i : Nat) (f : Stream → Stream) : (s.modStream p i f).stream p i = f (s.stream p i) := by
  simp only [State.stream, State.modStream, tget_tset_self]
  rfl

/-- An interrupt resets the signalling counts of its stream. -/
theorem State.interrupt_spec (s : State) (p i : Nat) : OnlyRecords s (s.interrupt p i) ∧ (s.interrupt p i).hbm = s.hbm ∧
    (s.interrupt p i).host = s.host ∧ (s.interrupt p i).stream p i = { s.stream p i with unsig := 0, oldest := none } :=
  ⟨rfl, rfl, rfl, State.stream_modStream s p i (fun x => { x with unsig := 0, oldest := none })⟩

/-- The place of a stream's next record in its event ring. -/
def Stream.recOfs (x : Stream) : Nat := 64 * (x.ewr.toNat % Nat.max x.esize.toNat 1)

/-- A record with its TIME put in. -/
def stamped (bs : List Byte) (now : Nat) : List Byte := bs.take 8 ++ toBytes 8 now ++ bs.drop 16

/-- The far memories after the bytes of a record have gone to their segment. -/
def State.recStored (s : State) (seg : Option Seg) (ofs : Nat) (data : List Byte) : State :=
  match seg with
  | some q => if q.host then { s with host := s.host.write (q.phys + (ofs - q.ofs)) data } else { s with hbm := s.hbm.write (q.phys + (ofs - q.ofs)) data }
  | none => s

theorem State.recStored_spec (s : State) (seg : Option Seg) (ofs : Nat) (data : List Byte) :
    OnlyRecords s (s.recStored seg ofs data) ∧ (s.recStored seg ofs data).streams = s.streams ∧ ∀ q, seg = some q →
      (if q.host then (s.recStored seg ofs data).host else (s.recStored seg ofs data).hbm) =
        (if q.host then s.host else s.hbm).write (q.phys + (ofs - q.ofs)) data := by
  cases seg with
  | none => exact ⟨rfl, rfl, by nofun⟩
  | some q =>
    cases hh : q.host
    · have he : s.recStored (some q) ofs data = { s with hbm := s.hbm.write (q.phys + (ofs - q.ofs)) data } := by simp [State.recStored, hh]
      rw [he]
      refine ⟨rfl, rfl, fun q' hq' => ?_⟩
      cases hq'
      simp [hh]
    · have he : s.recStored (some q) ofs data = { s with host := s.host.write (q.phys + (ofs - q.ofs)) data } := by simp [State.recStored, hh]
      rw [he]
      refine ⟨rfl, rfl, fun q' hq' => ?_⟩
      cases hq'
      simp [hh]

/-- A record written: EWR rises, and its bytes stand in the segment that holds its place. -/
theorem State.writeRec_spec (s : State) (p i : Nat) (bs : List Byte) (urgent : Bool) :
    OnlyRecords s (s.writeRec p i bs urgent) ∧ ((s.writeRec p i bs urgent).stream p i).ewr = (s.stream p i).ewr + 1 ∧
    ((s.writeRec p i bs urgent).stream p i).held = (s.stream p i).held ∧
    ∀ q, (s.stream p i).esegs.find? (fun q => q.ofs ≤ (s.stream p i).recOfs && (s.stream p i).recOfs < q.ofs + q.len) = some q →
      (if q.host then (s.writeRec p i bs urgent).host else (s.writeRec p i bs urgent).hbm) =
        (if q.host then s.host else s.hbm).write (q.phys + ((s.stream p i).recOfs - q.ofs)) (stamped bs s.now) := by
  set seg := (s.stream p i).esegs.find? (fun q => q.ofs ≤ (s.stream p i).recOfs && (s.stream p i).recOfs < q.ofs + q.len) with hseg
  set n := (s.stream p i).unsig + 1 with hn
  set u := s.recStored seg (s.stream p i).recOfs (stamped bs s.now) with hu
  set v := u.modStream p i (fun x => { x with ewr := x.ewr + 1, unsig := n, oldest := x.oldest.or (some u.now) }) with hv
  have he : s.writeRec p i bs urgent =
      if (urgent || ((s.stream p i).ccount != 0 && (s.stream p i).ccount ≤ n)) = true then v.interrupt p i else v := rfl
  obtain ⟨honly, hstreams, hmem⟩ := s.recStored_spec seg (s.stream p i).recOfs (stamped bs s.now)
  have hstream : u.stream p i = s.stream p i := congrArg (fun t => (tget t (64 * p + i)).getD ({} : Stream)) hstreams
  have hvstream : v.stream p i = { s.stream p i with ewr := (s.stream p i).ewr + 1, unsig := n, oldest := (s.stream p i).oldest.or (some u.now) } := by
    rw [hv, State.stream_modStream, hstream]
  have hvonly : OnlyRecords s v := honly.trans rfl
  rw [he]
  split
  · obtain ⟨hi, hhbm, hhost, histream⟩ := v.interrupt_spec p i
    refine ⟨hvonly.trans hi, ?_, ?_, fun q hq => ?_⟩
    · rw [histream, hvstream]
    · rw [histream, hvstream]
    · rw [hhbm, hhost]
      exact hmem q hq
  · exact ⟨hvonly, by rw [hvstream], by rw [hvstream], hmem⟩

theorem State.flushRecs_only (p i : Nat) (fuel : Nat) : ∀ s : State, OnlyRecords s (s.flushRecs p i fuel) := by
  induction fuel with
  | zero => exact fun _ => rfl
  | succ fuel ih =>
    intro s
    unfold State.flushRecs
    dsimp only
    split
    · exact rfl
    · split
      · exact rfl
      · next q t _ _ =>
        have hmod : OnlyRecords s (s.modStream p i (fun x => { x with held := t })) := rfl
        exact (hmod.trans (State.writeRec_spec _ p i q.1 q.2).1).trans (ih _)

theorem State.flushRecs_of_room {s : State} {p i : Nat} {q : List Byte × Bool} {rest : List (List Byte × Bool)} (hh : (s.stream p i).held = q :: rest)
    (hroom : (s.stream p i).full = false) (fuel : Nat) : s.flushRecs p i (fuel + 1) =
      ((s.modStream p i (fun x => { x with held := rest })).writeRec p i q.1 q.2).flushRecs p i fuel := by
  simp only [State.flushRecs, hh, hroom, Bool.false_eq_true, if_false]

theorem State.flushRecs_of_full {s : State} {p i : Nat} (hfull : (s.stream p i).full = true) (fuel : Nat) : s.flushRecs p i fuel = s := by
  cases fuel with
  | zero => rfl
  | succ fuel =>
    simp only [State.flushRecs, hfull, if_true]
    split <;> rfl

theorem Rec.bytes_length (r : Rec) (i time : Nat) : (r.bytes i time).length = 64 := by
  simp [Rec.bytes, toBytes_length]

theorem State.putRec_only (s : State) (p i : Nat) (r : Rec) (intr : Bool) : OnlyRecords s (s.putRec p i r intr) :=
  OnlyRecords.trans (t := s.modStream p i (fun x => { x with held := x.held ++ [(r.bytes i 0, intr || r.kind == 4 || (r.kind == 1 && r.status != 0))] }))
    rfl (State.flushRecs_only p i _ _)

theorem RecordGoes.of_eq {p i : Nat} {bs : List Byte} {s u t : State} (h : RecordGoes p i bs s u) (hs : t.streams = u.streams) (hb : t.hbm = u.hbm)
    (hh : t.host = u.host) : RecordGoes p i bs s t := by
  unfold RecordGoes State.stream at *
  rw [hs, hb, hh]
  exact h

theorem Ram.memRead_write {m : Ram} (hm : Memory.wf m.cells = true) (a : Nat) {bs : List Byte} {n : Nat} (h : bs.length = n) :
    memRead (m.write a bs).cells a n = bs := by
  subst h
  exact memRead_memWrite_self bs a hm

/-- A record that finds room is written, one that does not is held (14 R316, R318). -/
theorem State.putRec_goes (s : State) (p i : Nat) (r : Rec) (intr : Bool) : RecordGoes p i (r.bytes i 0) s (s.putRec p i r intr) := by
  set urgent := intr || r.kind == 4 || (r.kind == 1 && r.status != 0) with hurgent
  set u := s.modStream p i (fun x => { x with held := x.held ++ [(r.bytes i 0, urgent)] }) with hu
  have hustream : u.stream p i = { s.stream p i with held := (s.stream p i).held ++ [(r.bytes i 0, urgent)] } := State.stream_modStream _ _ _ _
  have he : s.putRec p i r intr = u.flushRecs p i ((s.stream p i).held.length + 1) := by
    rw [show s.putRec p i r intr = u.flushRecs p i (u.stream p i).held.length from rfl, hustream]
    simp
  constructor
  · intro hheld hfull
    set v := u.modStream p i (fun x => { x with held := [] }) with hv
    have hvstream : v.stream p i = { s.stream p i with held := [] } := by rw [hv, State.stream_modStream, hustream]
    have hone : (u.stream p i).held = [(r.bytes i 0, urgent)] := by rw [hustream, hheld]; rfl
    have hroom : (u.stream p i).full = false := by rw [hustream]; exact hfull
    have hwrite : s.putRec p i r intr = v.writeRec p i (r.bytes i 0) urgent := by
      rw [he, hheld]
      exact State.flushRecs_of_room hone hroom 0
    obtain ⟨-, hewr, hheld', hmem⟩ := v.writeRec_spec p i (r.bytes i 0) urgent
    rw [hvstream] at hewr hheld' hmem
    rw [hwrite]
    refine ⟨hewr, hheld', fun q ofs hofs hfind hok => ?_⟩
    subst hofs
    have hlen : (stamped (r.bytes i 0) s.now).length = 64 := by simp [stamped, Rec.bytes_length, toBytes_length]
    have hwf : Memory.wf (if q.host then v.host else v.hbm).cells = true := by
      cases q.host
      · exact hok.1
      · exact hok.2
    rw [hmem q hfind]
    exact Ram.memRead_write hwf _ hlen
  · intro hfull
    have hstay : s.putRec p i r intr = u := he.trans (State.flushRecs_of_full (by rw [hustream]; exact hfull) _)
    rw [hstay, hustream]
    exact ⟨rfl, urgent, rfl⟩

end Sys2Proof.Machine
end

section
/-! Grids become ready and start, and their blocks are dispatched, loaded and released; completion (14 R296-R317, 16 R361). -/

namespace Sys2Proof.Machine

open Host (Outcome)

/-! Residency -/

/-- A walk changes the translations a partition holds, and draws numbers. -/
def OnlyWalks (s t : State) : Prop := t = { s with parts := t.parts, free := t.free } ∧ t.parts.length = s.parts.length

theorem OnlyWalks.refl (s : State) : OnlyWalks s s := ⟨rfl, rfl⟩

theorem OnlyWalks.trans {s t u : State} (h : OnlyWalks s t) (k : OnlyWalks t u) : OnlyWalks s u := by
  obtain ⟨h, hl⟩ := h
  obtain ⟨k, kl⟩ := k
  exact ⟨by rw [k, h], kl.trans hl⟩

theorem OnlyWalks.modPart (s : State) (p : Nat) (f : Part → Part) : OnlyWalks s (s.modPart p f) := ⟨rfl, length_lmod _ _ _⟩

theorem State.lookup_walks (s : State) (p va : Nat) : OnlyWalks s (s.lookup p va).1 := by
  unfold State.lookup
  extract_lets q walk
  have hwalk : ∀ u, OnlyWalks u (walk u).1 := by
    intro u
    dsimp only [walk]
    split
    · exact OnlyWalks.modPart u p _
    · exact OnlyWalks.refl u
  clear_value walk
  split
  · next e _ =>
    split
    next n u hu =>
    have hdraw : OnlyWalks s u := by
      rw [← show (s.drawNat 2).2 = u from congrArg Prod.snd hu]
      exact ⟨rfl, rfl⟩
    split
    · exact hdraw
    · exact (hdraw.trans (OnlyWalks.modPart u p _)).trans (hwalk _)
  · exact hwalk s

theorem State.transFrom_walks (p b e acc atom : Nat) (fuel : Nat) : ∀ (s : State) (va : Nat) (segs : List Seg),
    OnlyWalks s (s.transFrom p b e acc atom fuel va segs).1 := by
  induction fuel with
  | zero => exact fun s _ _ => OnlyWalks.refl s
  | succ fuel ih =>
    intro s va segs
    have hlook := s.lookup_walks p va
    unfold State.transFrom
    split
    · exact OnlyWalks.refl s
    · split
      · next h => rw [h] at hlook; exact hlook
      · next h => rw [h] at hlook; exact hlook
      · next h =>
        rw [h] at hlook
        split
        · exact hlook
        · exact hlook.trans (ih _ _ _)

theorem State.translate_walks {s s1 : State} {p va size acc atom : Nat} {res : TransRes} (h : s.translate p va size acc atom = (s1, res)) :
    OnlyWalks s s1 := by
  rw [show s1 = (s.translate p va size acc atom).1 from (congrArg Prod.fst h).symm]
  unfold State.translate
  split
  · exact OnlyWalks.refl s
  · exact State.transFrom_walks p va _ acc atom _ s va []

/-- Granting leases changes what has been granted and what the device sends. -/
theorem State.grantLeases_only (s : State) (gr : Nat) (r : Grid) :
    s.grantLeases gr r = { s with pat := (s.grantLeases gr r).pat, out := (s.grantLeases gr r).out } := by
  have hfold : ∀ (gs : List Grant) (s : State), ∃ pat out, gs.foldl (fun s g =>
      ({ s with pat := { s.pat with granted := s.pat.granted ++ [g] } } : State).emit (.grant g.dev g.grid g.rng g.ext)) s = { s with pat := pat, out := out } := by
    intro gs
    induction gs with
    | nil => exact fun s => ⟨s.pat, s.out, rfl⟩
    | cons g gs ih => exact fun s => ih _
  obtain ⟨pat, out, h⟩ := hfold _ s
  rw [show s.grantLeases gr r = { s with pat := pat, out := out } from h]

/-- A grid after an attempt at its residency. -/
def Grid.tried (r : Grid) (es : List Extent) (miss : Bool) : Grid := { r with exts := es, missed := miss }

/-- The state in which a grid's one range has its translation, and its leases are granted. -/
theorem State.reside_of_ok {s s1 : State} {gr : Nat} {r : Grid} {e : Extent} {segs : List Seg} (hg : tget s.grids gr = some r) (he : r.exts = [e])
    (hs : e.segs = []) (ht : s.translate r.pid e.base e.size e.acc e.atom = (s1, .ok segs)) (hsegs : segs ≠ []) :
    tget (s.reside gr).grids gr = some (r.tried [{ e with segs := segs }] false) ∧ (s.reside gr).now = s.now := by
  obtain ⟨honly, -⟩ := State.translate_walks ht
  have hg1 : tget s1.grids gr = some r := by rw [honly]; exact hg
  have hnow : s1.now = s.now := by rw [honly]; rfl
  set u := s1.modGrid gr (·.tried [{ e with segs := segs }] false) with hu
  have hgu : tget u.grids gr = some (r.tried [{ e with segs := segs }] false) := tget_tmod_of_some hg1
  have hfrom : s.resideFrom r.pid 0 [e] = (s1, [{ e with segs := segs }], false, none) := by
    simp only [State.resideFrom, hs, ht, List.isEmpty_nil, if_true, Bool.or_false, Bool.false_eq_true, if_false]
  have hres : ((u.grid gr).resident && !false) = true := by
    rw [State.grid_of_tget hgu]
    simpa [Grid.resident, Grid.tried] using hsegs
  have hreside : s.reside gr = u.grantLeases gr (u.grid gr) := by
    unfold State.reside
    simp only [State.grid_of_tget hg, he, hfrom]
    exact if_pos hres
  rw [hreside, State.grantLeases_only]
  exact ⟨hgu, hnow⟩

/-- The state in which the walk of a grid's one range has missed. -/
theorem State.reside_of_miss {s s1 : State} {gr : Nat} {r : Grid} {e : Extent} {va : Nat} (hg : tget s.grids gr = some r) (he : r.exts = [e])
    (hs : e.segs = []) (hp : r.pid < s.parts.length) (ht : s.translate r.pid e.base e.size e.acc e.atom = (s1, .miss va)) :
    tget (s.reside gr).grids gr = some (r.tried [e] true) ∧ ((s.reside gr).part r.pid).pgv = true := by
  obtain ⟨honly, hlen⟩ := State.translate_walks ht
  have hmiss : tget (s1.pageMiss r.pid va).grids gr = some r := by
    rw [show (s1.pageMiss r.pid va).grids = s1.grids from rfl, honly]
    exact hg
  have hfrom : s.resideFrom r.pid 0 [e] = (s1.pageMiss r.pid va, [e], true, none) := by
    simp only [State.resideFrom, hs, ht, List.isEmpty_nil, if_true, Bool.or_false, Bool.false_eq_true, if_false]
  have hreside : s.reside gr = (s1.pageMiss r.pid va).modGrid gr (·.tried [e] true) := by
    unfold State.reside
    simp only [State.grid_of_tget hg, he, hfrom, Bool.not_true, Bool.and_false, Bool.false_eq_true, if_false]
    rfl
  have hpart := State.part_modPart (s := s1) (hlen ▸ hp) (fun q => if q.pgv then q else { q with pgv := true, pgva := va / 65536 * 65536 })
  rw [hreside]
  refine ⟨tget_tmod_of_some hmiss, (congrArg Part.pgv hpart).trans ?_⟩
  cases hv : (s1.part r.pid).pgv <;> simp [hv]

/-- A grid becomes ready where its conditions hold. -/
def State.madeReady (s : State) (gr : Nat) : State :=
  if (s.grid gr).phase == .accepted && !(s.grid gr).missed && (s.grid gr).resident && s.mayStart (s.grid gr) then
    s.modGrid gr (fun r => { r with phase := .ready }) else s

theorem exec_gridReady {gr : Nat} {s : State} {r : Grid} (hg : tget s.grids gr = some r) :
    exec (.gridReady gr) s = .next ((if r.resident then s else s.reside gr).madeReady gr) := by
  simp only [exec, execGridReady, hg]
  rfl

theorem State.tget_madeReady {s : State} {gr : Nat} {r : Grid} (hg : tget s.grids gr = some r) (hphase : r.phase = .accepted)
    (hmissed : r.missed = false) (hres : r.resident = true) (hstart : r.req.start ≤ s.now) (hwen : r.req.wen = false) :
    tget (s.madeReady gr).grids gr = some { r with phase := .ready } ∧ (s.madeReady gr).blocks = s.blocks := by
  have hcond : ((s.grid gr).phase == .accepted && !(s.grid gr).missed && (s.grid gr).resident && s.mayStart (s.grid gr)) = true := by
    simp [State.grid_of_tget hg, hphase, hmissed, hres, State.mayStart, hstart, hwen]
  rw [State.madeReady, if_pos hcond]
  exact ⟨tget_tmod_of_some hg, rfl⟩

theorem State.madeReady_of_missed {s : State} {gr : Nat} {r : Grid} (hg : tget s.grids gr = some r) (hmissed : r.missed = true) :
    s.madeReady gr = s := by
  simp [State.madeReady, State.grid_of_tget hg, hmissed]

theorem gridReady_goes {gr : Nat} {s : State} {r : Grid} (hg : tget s.grids gr = some r) (hphase : r.phase = .accepted) (hmissed : r.missed = false)
    (hstart : r.req.start ≤ s.now) (hwen : r.req.wen = false) :
    ((∀ e ∈ r.exts, e.segs ≠ []) → Goes (.gridReady gr) s (fun t => tget t.grids gr = some { r with phase := .ready } ∧ t.blocks = s.blocks)) ∧
    (∀ e s1 segs, r.exts = [e] → e.segs = [] → s.translate r.pid e.base e.size e.acc e.atom = (s1, .ok segs) → segs ≠ [] →
      Goes (.gridReady gr) s (fun t => tget t.grids gr = some { r with exts := [{ e with segs := segs }], phase := .ready })) ∧
    (∀ e s1 va, r.exts = [e] → e.segs = [] → r.pid < s.parts.length → s.translate r.pid e.base e.size e.acc e.atom = (s1, .miss va) →
      Goes (.gridReady gr) s (fun t => tget t.grids gr = some { r with missed := true } ∧ (t.part r.pid).pgv = true)) := by
  have hunresident : ∀ e, r.exts = [e] → e.segs = [] → ¬ r.resident = true := fun e he hs => by simp [Grid.resident, he, hs]
  refine ⟨fun hexts => ?_, fun e s1 segs he hs ht hsegs => ?_, fun e s1 va he hs hp ht => ?_⟩
  · have hres : r.resident = true := by simpa [Grid.resident] using hexts
    exact ⟨s.madeReady gr, by rw [exec_gridReady hg, if_pos hres], State.tget_madeReady hg hphase hmissed hres hstart hwen⟩
  · obtain ⟨hgrid, hnow⟩ := State.reside_of_ok hg he hs ht hsegs
    have hres : (r.tried [{ e with segs := segs }] false).resident = true := by simpa [Grid.resident, Grid.tried] using hsegs
    refine ⟨(s.reside gr).madeReady gr, by rw [exec_gridReady hg, if_neg (hunresident e he hs)], ?_⟩
    refine (State.tget_madeReady hgrid hphase rfl hres (hnow ▸ hstart) hwen).1.trans ?_
    rw [← hmissed]
    rfl
  · obtain ⟨hgrid, hpgv⟩ := State.reside_of_miss hg he hs hp ht
    refine ⟨s.reside gr, ?_, hgrid.trans ?_, hpgv⟩
    · rw [exec_gridReady hg, if_neg (hunresident e he hs), State.madeReady_of_missed hgrid rfl]
    · rw [← he]
      rfl

/-! Start -/

theorem tget_append {α : Type} (t u : Tbl α) (n : Nat) : tget (t ++ u) n = (tget t n).or (tget u n) := by
  induction t with
  | nil => simp
  | cons p t ih =>
    obtain ⟨k, a⟩ := p
    by_cases h : k = n <;> simp [tget, h, ih]

theorem tget_numbered {α : Type} (l : List α) (n : Nat) : ∀ lo, tget (mapFrom (fun i a => (i, a)) lo l) (lo + n) = l[n]? := by
  induction l generalizing n with
  | nil => simp [mapFrom]
  | cons a l ih =>
    intro lo
    cases n with
    | zero => simp [mapFrom, tget]
    | succ n =>
      have := ih n (lo + 1)
      rw [show lo + 1 + n = lo + (n + 1) by omega] at this
      simp [mapFrom, tget, this]

/-- Where lines are replaced, the new ones stand. -/
theorem tget_replaceLines (old : Tbl Line) (lo : Nat) (new : List Line) {n : Nat} (h : n < new.length) :
    tget (replaceLines old lo new) (lo + n) = new[n]? := by
  have hbelow : tget (old.filter (fun q => q.1 < lo)) (lo + n) = none :=
    tget_of_not_mem (by simp only [List.mem_map, List.mem_filter, decide_eq_true_eq]; omega)
  rw [replaceLines, tget_append, tget_append, hbelow, tget_numbered, List.getElem?_eq_getElem h]
  rfl

/-- The image of a grid put into a core. -/
def Core.withImage (c : Core) (hbm : Ram) (r : Grid) : Core :=
  { c with lines := replaceLines c.lines (r.base / 64) ((List.range r.desc.nlines).map (imageLine hbm r)) }

theorem Core.tget_withImage (c : Core) (hbm : Ram) (r : Grid) {n : Nat} (h : n < r.desc.nlines) :
    tget (c.withImage hbm r).lines (r.base / 64 + n) = some (imageLine hbm r n) := by
  simp [Core.withImage, tget_replaceLines, h]

/-- A grid as it starts: its tick, the place of its first dispatch, the digest of its image, and its die scratch. -/
def Grid.starts (hbm : Ram) (r : Grid) (now : Nat) (cores dies : List Nat) (q : Grid) : Grid :=
  { q with
    phase := .started, start := now, cursor := cores.headD 0
    code := crc32c (((List.range r.desc.nlines).map (imageLine hbm r)).flatMap Line.bytes)
    scr0 := if dies.contains 0 then dataRam hbm r 2 r.desc.ddat r.desc.ddatsz else {}
    scr1 := if dies.contains 1 then dataRam hbm r 2 r.desc.ddat r.desc.ddatsz else {} }

theorem gridStart_goes {gr : Nat} {s : State} {r : Grid} (hg : tget s.grids gr = some r) :
    Goes (.gridStart gr) s (fun t => t.blocks = s.blocks ∧ t.hbm = s.hbm ∧
      (∀ c, c ∈ s.coresOf r.pid → ∀ n, n < r.desc.nlines → tget (t.core c).lines (r.base / 64 + n) = some (imageLine s.hbm r n)) ∧
      ∃ q, tget t.grids gr = some q ∧ q.phase = .started ∧ q.start = s.now ∧ q.base = r.base ∧ q.desc = r.desc ∧
        (∀ d, d < 2 → (if d = 0 then q.scr0 else q.scr1).cells = if d ∈ s.diesOf r.pid then dataImage s.hbm r 2 r.desc.ddat r.desc.ddatsz else [])) := by
  set u := (s.coresOf r.pid).foldl (fun v c => v.modCore c (·.withImage s.hbm r)) s with hu
  have honly : u = { s with cores := u.cores } := State.foldl_modCore_only _ _ s
  have hgu : tget u.grids gr = some r := by rw [honly]; exact hg
  refine ⟨u.modGrid gr (Grid.starts s.hbm r u.now (s.coresOf r.pid) (s.diesOf r.pid)), ?_, ?_, ?_, fun c hc n hn => ?_,
    _, tget_tmod_of_some hgu, rfl, ?_, rfl, rfl, fun d hd => ?_⟩
  · simp only [exec, execGridStart, hg]
    rfl
  · exact (congrArg State.blocks honly :)
  · exact (congrArg State.hbm honly :)
  · have hcore : u.core c = (s.core c).withImage s.hbm r := State.core_foldl_of_mem _ _ (s.coresOf_nodup _) hc s
    rw [show (u.modGrid gr (Grid.starts s.hbm r u.now (s.coresOf r.pid) (s.diesOf r.pid))).core c = u.core c from rfl, hcore]
    exact Core.tget_withImage _ _ _ hn
  · exact (congrArg State.now honly :)
  · obtain rfl | rfl : d = 0 ∨ d = 1 := by omega
    · by_cases h : 0 ∈ s.diesOf r.pid <;> simp [Grid.starts, h, dataRam]
    · by_cases h : 1 ∈ s.diesOf r.pid <;> simp [Grid.starts, h, dataRam]

/-! Blocks -/

/-- Every group of a list is changed, and no other. -/
theorem State.tget_foldl_modGroup (f : Group → Group) (hf : ∀ g, f (f g) = f g) (is : List Nat) : ∀ (s : State) (i : Nat) (g : Group),
    tget s.groups i = some g → tget (is.foldl (fun s i => s.modGroup i f) s).groups i = some (if i ∈ is then f g else g) := by
  induction is with
  | nil => exact fun s i g hg => hg
  | cons j is ih =>
    intro s i g hg
    by_cases hij : i = j
    · subst hij
      refine (ih _ i (f g) (State.tget_modGroup hg)).trans ?_
      simp [hf]
    · refine (ih (s.modGroup j f) i g ((tget_tmod_of_ne _ _ hij).trans hg)).trans ?_
      simp [hij]

theorem State.foldl_modGroup_only (f : Group → Group) (is : List Nat) : ∀ s : State,
    is.foldl (fun s i => s.modGroup i f) s = { s with groups := (is.foldl (fun s i => s.modGroup i f) s).groups } := by
  induction is with
  | nil => exact fun _ => rfl
  | cons i is ih => exact fun s => ih (s.modGroup i f)

/-- A group whose block's data have come. -/
def Group.nowReady (turn : Nat) (g : Group) : Group := { g with readySince := some (16 * turn) }

theorem State.foldl_nowReady (is : List Nat) : ∀ s : State,
    is.foldl (fun s i => s.modGroup i (fun g => { g with readySince := some (16 * s.turn) })) s =
      is.foldl (fun v i => v.modGroup i (Group.nowReady s.turn)) s := by
  induction is with
  | nil => exact fun _ => rfl
  | cons i is ih => exact fun s => ih (s.modGroup i (Group.nowReady s.turn))

theorem blockDataLoaded_goes {b : Nat} {s : State} {x : Block} (hb : tget s.blocks b = some x) :
    Goes (.blockDataLoaded b) s (fun t => tget t.blocks b = some { x with loaded := true } ∧ ∀ i g, tget s.groups i = some g →
      tget t.groups i = some (if i ∈ x.groups then { g with readySince := some (16 * s.turn) } else g)) := by
  set u := s.modBlock b (fun x => { x with loaded := true }) with hu
  have hexec : exec (.blockDataLoaded b) s = .next (x.groups.foldl (fun v i => v.modGroup i (Group.nowReady s.turn)) u) := by
    simp only [exec, execBlockDataLoaded, hb]
    exact congrArg Outcome.next (State.foldl_nowReady x.groups u)
  refine ⟨_, hexec, ?_, fun i g hg => ?_⟩
  · rw [State.foldl_modGroup_only]
    exact tget_tmod_of_some hb
  · exact State.tget_foldl_modGroup (Group.nowReady s.turn) (fun _ => rfl) x.groups u i g hg

theorem blockRelease_goes {b : Nat} {s : State} {x : Block} (hb : tget s.blocks b = some x) (hdue : s.releaseDue b x = true) :
    Goes (.blockRelease b) s (fun t => tget t.blocks b = some { x with released := true } ∧ t.groups = s.groups) := by
  refine ⟨(s.modBlock b (fun x => { x with released := true })).noteEnd x.grid, ?_, ?_⟩
  · simp only [exec, execBlockRelease, hb, hdue, if_true]
  · unfold State.noteEnd
    split
    · exact ⟨tget_tmod_of_some hb, rfl⟩
    · exact ⟨tget_tmod_of_some hb, rfl⟩

end Sys2Proof.Machine
end

section
/-! Dispatch of a block, completion of a grid, and the scheduler's events together (14 R300, R317). -/

namespace Sys2Proof.Machine

open Host (Outcome)

/-! Dispatch -/

/-- A group as a dispatch places it: the `j`-th of block `b`, its lanes at the grid's base. -/
def PlacedGroup (r : Grid) (gr b turn : Nat) (pl : Load) (j : Nat) (g : Group) : Prop :=
  g.pid = r.pid ∧ g.grid = gr ∧ g.block = b ∧ g.index = j ∧ g.core = pl.core ∧ g.quarter = (pl.q0 + j) % 4 ∧ g.nregs = r.desc.nregs ∧ g.slot = none ∧
    g.readyAt = turn + 8 + (r.desc.bdatsz + 511) / 512 ∧ g.lanes.length = 64 ∧
    ∀ l ∈ g.lanes, l.life = .live ∧ l.pc = BitVec.ofNat 20 r.base ∧ l.depth = 0 ∧ l.w = 0 ∧ l.wait = none ∧ l.trec = none ∧ l.sig = 0 ∧
      l.v.length = r.desc.nregs ∧ l.o.length = 8

/-- Placing a group adds it under a fresh number, and its number to its block. -/
theorem State.placeGroup_spec {s : State} {gr : Nat} {r : Grid} (hg : tget s.grids gr = some r) (b : Nat) (pl : Load) (j : Nat) :
    ∃ g, PlacedGroup r gr b s.turn pl j g ∧ (s.placeGroup gr b pl.core pl.q0 j).groups = tset s.groups s.ident g ∧
      (s.placeGroup gr b pl.core pl.q0 j).blocks = tmod s.blocks b (fun x => { x with groups := x.groups ++ [s.ident] }) ∧
      (s.placeGroup gr b pl.core pl.q0 j).grids = s.grids ∧ (s.placeGroup gr b pl.core pl.q0 j).ident = s.ident + 1 ∧
      (s.placeGroup gr b pl.core pl.q0 j).turn = s.turn ∧ (s.placeGroup gr b pl.core pl.q0 j).pos = s.pos := by
  have hr := State.grid_of_tget hg
  refine ⟨_, ?_, rfl, rfl, rfl, rfl, rfl, rfl⟩
  refine ⟨congrArg Grid.pid hr, rfl, rfl, rfl, rfl, rfl, congrArg (fun r => r.desc.nregs) hr, rfl, ?_, by simp, fun l hl => ?_⟩
  · exact congrArg (fun r : Grid => s.turn + 8 + ceilDiv r.desc.bdatsz 512) hr
  · obtain ⟨i, -, rfl⟩ := List.mem_map.1 hl
    refine ⟨rfl, congrArg (fun r : Grid => BitVec.ofNat 20 r.base) hr, rfl, rfl, rfl, rfl, rfl, ?_, ?_⟩
    · simp [Lane.fresh, hr]
    · simp [Lane.fresh]

/-- The groups of a block placed one after another. -/
theorem State.placeGroups_spec {s : State} {gr b : Nat} {r : Grid} {x : Block} (hg : tget s.grids gr = some r) (hb : tget s.blocks b = some x) (pl : Load) (n : Nat) :
    let t := (List.range n).foldl (fun s j => s.placeGroup gr b pl.core pl.q0 j) s
    tget t.blocks b = some { x with groups := x.groups ++ (List.range n).map (s.ident + ·) } ∧ t.grids = s.grids ∧ t.ident = s.ident + n ∧
      t.turn = s.turn ∧ t.pos = s.pos ∧ ∀ j, j < n → ∃ g, tget t.groups (s.ident + j) = some g ∧ PlacedGroup r gr b s.turn pl j g := by
  induction n with
  | zero => exact ⟨by simpa using hb, rfl, rfl, rfl, rfl, by simp⟩
  | succ n ih =>
    simp only [List.range_succ, List.foldl_append, List.foldl_cons, List.foldl_nil]
    set u := (List.range n).foldl (fun s j => s.placeGroup gr b pl.core pl.q0 j) s with hu
    obtain ⟨hblock, hgrids, hident, hturn, hpos, hplaced⟩ := ih
    obtain ⟨g, hgroup, hgroups, hblocks, hgrids', hident', hturn', hpos'⟩ := State.placeGroup_spec (s := u) (hgrids ▸ hg) b pl n
    refine ⟨?_, hgrids'.trans hgrids, by omega, hturn'.trans hturn, hpos'.trans hpos, fun j hj => ?_⟩
    · rw [hblocks, hident]
      refine (tget_tmod_of_some hblock).trans ?_
      simp
    · rw [hgroups, hident]
      by_cases hjn : j = n
      · subst hjn
        exact ⟨g, tget_tset_self _ _ _, hturn ▸ hgroup⟩
      · obtain ⟨h, hh, hp⟩ := hplaced j (by omega)
        exact ⟨h, (tget_tset_of_ne _ _ (by omega)).trans hh, hp⟩

/-- Outside deterministic mode a dispatch leaves no trace. -/
theorem State.traceRec_of_not_det {s : State} {gr : Nat} (h : (s.grid gr).desc.det = false) (t : TRec) : s.traceRec gr t = s := by
  simp [State.traceRec, h]

/-- A block as its dispatch makes it, before its groups. -/
def State.newBlock (s : State) (gr : Nat) (r : Grid) (bid : Nat) (pl : Load) : Block :=
  { grid := gr, blockId := bid, gang := if r.desc.nblkg = 0 then 0 else bid / r.desc.nblkg, core := pl.core, q0 := pl.q0,
    disp := s.turn, dispTick := s.now, loadAt := s.turn + 8 + ceilDiv r.desc.bdatsz 512, scr := dataRam s.hbm r 1 r.desc.bdat r.desc.bdatsz }

/-- A core that takes a block: its quarters have been used, and its tiles are clear where the block has a matrix group. -/
def Core.hosting (k : Core) (d : Desc) (pl : Load) : Core :=
  { k with
    used := (List.range d.ngrp).foldl (fun l j => insNat l ((pl.q0 + j) % 4)) k.used
    tiles := if d.hasMatrix then List.replicate 8 {} else k.tiles }

/-- A grid whose recorded dispatch of a block has been used, late or not. -/
def Grid.traced (r : Grid) (bid : Nat) (late : Bool) : Grid :=
  { r with
    trace := r.trace.map (fun t => if !t.forced && t.block == bid then { t with used := true } else t)
    slip := r.slip || late, nlate := if late then r.nlate + 1 else r.nlate }

/-- A dispatch adds the block under a fresh number, with its groups, and leaves the grid's next unit. -/
theorem State.dispatchBlock_spec {s : State} {gr : Nat} {r : Grid} (hg : tget s.grids gr = some r) (hdet : r.desc.det = false) (bid : Nat) (pl : Load) :
    (∃ q, tget (s.dispatchBlock gr bid pl).grids gr = some q ∧ q.nextUnit = r.nextUnit) ∧
    tget (s.dispatchBlock gr bid pl).blocks s.ident =
      some { s.newBlock gr r bid pl with groups := (List.range r.desc.ngrp).map (s.ident + 1 + ·) } ∧
    ∀ j, j < r.desc.ngrp → ∃ g, tget (s.dispatchBlock gr bid pl).groups (s.ident + 1 + j) = some g ∧ PlacedGroup r gr s.ident s.turn pl j g := by
  set u : State := { s.fresh.2 with blocks := tset s.blocks s.ident (s.newBlock gr r bid pl) } with hu
  set v := (List.range r.desc.ngrp).foldl (fun s' j => s'.placeGroup gr s.ident pl.core pl.q0 j) u with hv
  obtain ⟨hblock, hgrids, -, -, -, hplaced⟩ := State.placeGroups_spec (s := u) (b := s.ident) hg (tget_tset_self _ _ _) pl r.desc.ngrp
  have hgv : tget v.grids gr = some r := by rw [hgrids]; exact hg
  have hshape : ∃ late tr, s.dispatchBlock gr bid pl =
      ((v.modCore pl.core (·.hosting r.desc pl)).modGrid gr (·.traced bid late)).traceRec gr tr := by
    simp only [State.dispatchBlock, State.grid_of_tget hg]
    exact ⟨_, _, rfl⟩
  obtain ⟨late, tr, he⟩ := hshape
  have hgrid : tget ((v.modCore pl.core (·.hosting r.desc pl)).modGrid gr (·.traced bid late)).grids gr = some (r.traced bid late) :=
    tget_tmod_of_some hgv
  rw [he, State.traceRec_of_not_det (by rw [State.grid_of_tget hgrid]; exact hdet)]
  exact ⟨⟨r.traced bid late, hgrid, rfl⟩, hblock, hplaced⟩

/-- A grid after the dispatch of its next unit. -/
def Grid.dispatched (r : Grid) (code : Nat) (cores : List Nat) (after now : Nat) : Grid :=
  { r with
    nextUnit := r.nextUnit + 1, order := r.desc.nextFrom r.nextUnit code
    cursor := if cores.any (fun c => after ≤ c) then after else cores.headD 0
    coll := r.coll.map (fun c => { c with armed := c.armed.or (some now) }) }

theorem blockDispatch_goes {gr : Nat} {s : State} {r : Grid} {q : Plan} {bid : Nat} {pl : Load} (hg : tget s.grids gr = some r)
    (hdue : s.dispatchDue r = some q) (hplace : q.places = [(bid, pl)]) (hdet : r.desc.det = false) :
    Goes (.blockDispatch gr) s (fun t =>
      (t.grid gr).nextUnit = r.nextUnit + 1 ∧ ∃ id b, tget t.blocks id = some b ∧ b.grid = gr ∧ b.blockId = bid ∧ b.core = pl.core ∧ b.q0 = pl.q0 ∧
        b.disp = s.turn ∧ b.dispTick = s.now ∧ b.loadAt = s.turn + 8 + (r.desc.bdatsz + 511) / 512 ∧ b.loaded = false ∧ b.released = false ∧ b.groups.length = r.desc.ngrp ∧
        b.scr.cells = dataImage s.hbm r 1 r.desc.bdat r.desc.bdatsz ∧
        ∀ j, j < r.desc.ngrp → ∃ gid g, b.groups[j]? = some gid ∧ tget t.groups gid = some g ∧ g.pid = r.pid ∧ g.grid = gr ∧ g.block = id ∧ g.index = j ∧
          g.core = pl.core ∧ g.quarter = (pl.q0 + j) % 4 ∧ g.nregs = r.desc.nregs ∧ g.slot = none ∧ g.readyAt = b.loadAt ∧ g.lanes.length = 64 ∧
          ∀ l ∈ g.lanes, l.life = .live ∧ l.pc = BitVec.ofNat 20 r.base ∧ l.depth = 0 ∧ l.w = 0 ∧ l.wait = none ∧ l.trec = none ∧ l.sig = 0 ∧
            l.v.length = r.desc.nregs ∧ l.o.length = 8) := by
  obtain ⟨⟨q', hgrid, hnext⟩, hblock, hplaced⟩ := State.dispatchBlock_spec hg hdet bid pl
  set u := s.dispatchBlock gr bid pl with hu
  have hexec : ∃ cores after now, exec (.blockDispatch gr) s = .next (u.modGrid gr (·.dispatched q.code cores after now)) := by
    simp only [exec, execBlockDispatch, hg, hdue, hplace, List.foldl_cons, List.foldl_nil]
    exact ⟨_, _, _, rfl⟩
  obtain ⟨cores, after, now, hexec⟩ := hexec
  refine ⟨u.modGrid gr (·.dispatched q.code cores after now), hexec, ?_, s.ident, _, hblock, rfl, rfl, rfl, rfl, rfl, rfl, rfl, rfl, rfl, by simp, rfl, fun j hj => ?_⟩
  · rw [State.grid_modGrid _ hgrid, ← hnext]
    rfl
  · obtain ⟨g, hgroup, hp⟩ := hplaced j hj
    exact ⟨s.ident + 1 + j, g, by simp [hj], hgroup, hp⟩

/-! Completion -/

theorem State.traceHeader_only (s : State) (gr : Nat) : s.traceHeader gr = { s with hbm := (s.traceHeader gr).hbm } := by
  unfold State.traceHeader
  dsimp only
  split <;> rfl

theorem State.traceHeader_of_not_det {s : State} {gr : Nat} (h : (s.grid gr).desc.det = false) : s.traceHeader gr = s := by
  simp [State.traceHeader, h]

/-- Noting a step on the semaphores changes none. -/
theorem State.sem_semStep {s : State} {p : Nat} (hp : p < s.parts.length) (i j : Nat) : ((s.semStep p i).part p).sem j = (s.part p).sem j := by
  rw [State.semStep, State.part_modPart hp]
  rfl

/-- The add to the semaphore that a completion makes (14 R317). -/
def State.semDone (s : State) (r : Grid) : State :=
  if r.req.sen then (s.modPart r.pid (fun p => p.addSem r.req.ssem r.req.sval)).semStep r.pid 64 else s

theorem State.semDone_only (s : State) (r : Grid) : s.semDone r = { s with parts := (s.semDone r).parts } := by
  unfold State.semDone
  split <;> rfl

theorem State.sem_semDone {s : State} {r : Grid} (hn : ((s.part r.pid).sems.map (·.1)).Nodup) (hp : r.pid < s.parts.length) (j : Nat) :
    ((s.semDone r).part r.pid).sem j = if r.req.sen = true ∧ j = r.req.ssem then (s.part r.pid).sem j + r.req.sval else (s.part r.pid).sem j := by
  unfold State.semDone
  cases hs : r.req.sen
  · simp
  · have hadd := State.part_modPart hp (fun p => p.addSem r.req.ssem r.req.sval)
    have hp' : r.pid < (s.modPart r.pid (fun p => p.addSem r.req.ssem r.req.sval)).parts.length := by simpa [State.modPart] using hp
    simp only [if_true, true_and]
    rw [State.sem_semStep hp', hadd, Part.sem_addSem hn]

theorem State.noteRecord_only (s : State) (stream : Nat) (tag : Word) : s.noteRecord stream tag = { s with pat := (s.noteRecord stream tag).pat } := by
  unfold State.noteRecord
  split <;> rfl

theorem State.freeImage_only (s : State) (gr : Nat) : s.freeImage gr = { s with cores := (s.freeImage gr).cores } :=
  State.foldl_modCore_only _ _ s

/-- A grid that has completed. -/
def Grid.completed (r : Grid) : Grid :=
  { r with recorded := true, phase := .done, leases := [], exts := r.exts.map (fun e => { e with segs := [] }) }

theorem gridComplete_goes {gr : Nat} {s : State} {r : Grid} (hg : tget s.grids gr = some r) (hn : ((s.part r.pid).sems.map (·.1)).Nodup)
    (hp : r.pid < s.parts.length) : Goes (.gridComplete gr) s (fun t =>
      (t.grid gr).recorded = true ∧ (t.grid gr).phase = .done ∧ (t.grid gr).leases = [] ∧ (∀ e ∈ (t.grid gr).exts, e.segs = []) ∧
      (r.desc.det = false → RecordGoes r.pid r.stream ((s.gridRec gr 0 0).bytes r.stream 0) s t) ∧
      ∀ j, (t.part r.pid).sem j = if r.req.sen = true ∧ j = r.req.ssem then (s.part r.pid).sem j + r.req.sval else (s.part r.pid).sem j) := by
  set s1 := s.putRec r.pid r.stream (s.gridRec gr 0 0) (r.req.hdr.getLsbD 16) with hs1
  set s2 := s1.traceHeader gr with hs2
  set s3 := s2.semDone r with hs3
  set s4 := (s3.noteRecord r.stream r.req.tag).freeImage gr with hs4
  have h1 : OnlyRecords s s1 := State.putRec_only _ _ _ _ _
  have h2 : s2 = { s1 with hbm := s2.hbm } := s1.traceHeader_only gr
  have h3 : s3 = { s2 with parts := s3.parts } := s2.semDone_only r
  have h4 : s4 = { s3 with pat := s4.pat, cores := s4.cores } := by
    rw [hs4, State.freeImage_only, State.noteRecord_only]
  have hgrids : s4.grids = s.grids := by rw [h4, h3, h2, h1]
  have hparts2 : s2.parts = s.parts := by rw [h2, h1]
  have hparts4 : s4.parts = s3.parts := by rw [h4]
  have hg4 : tget s4.grids gr = some r := hgrids ▸ hg
  have hgrid : (s4.modGrid gr Grid.completed).grid gr = r.completed := State.grid_modGrid _ hg4
  refine ⟨s4.modGrid gr Grid.completed, ?_, ?_⟩
  · simp only [exec, execGridComplete, hg]
    rfl
  · beta_reduce
    rw [hgrid]
    refine ⟨rfl, rfl, rfl, fun e he => ?_, fun hdet => ?_, fun j => ?_⟩
    · obtain ⟨e', -, rfl⟩ := List.mem_map.1 he
      rfl
    · have hs21 : s2 = s1 := State.traceHeader_of_not_det (by
        rw [show s1.grid gr = s.grid gr by rw [h1]; rfl, State.grid_of_tget hg, hdet])
      have hfar : s4.streams = s1.streams ∧ s4.hbm = s1.hbm ∧ s4.host = s1.host := by
        rw [h4, h3, hs21]
        exact ⟨rfl, rfl, rfl⟩
      obtain ⟨hstreams, hhbm, hhost⟩ := hfar
      exact (State.putRec_goes s r.pid r.stream _ _).of_eq hstreams hhbm hhost
    · have hpart2 : s2.part r.pid = s.part r.pid := by rw [State.part, hparts2]; rfl
      have := State.sem_semDone (s := s2) (r := r) (by rw [hpart2]; exact hn) (by rw [hparts2]; exact hp) j
      rw [hpart2] at this
      rw [← this, show (s4.modGrid gr Grid.completed).part r.pid = s3.part r.pid by rw [State.part, State.part, ← hparts4]; rfl]

/-- Settles O54: each event's state is the last of a short chain, and what a link leaves alone carries through. -/
theorem schedulerEvents : Obligations.SchedulerEvents := by
  refine ⟨fun gr s r hg => ⟨gridReady_goes hg, gridStart_goes hg, fun q bid pl hdue hplace hdet _ => blockDispatch_goes hg hdue hplace hdet,
    gridComplete_goes hg⟩, fun b s x hb => ⟨blockDataLoaded_goes hb, blockRelease_goes hb⟩⟩

end Sys2Proof.Machine
end

section
/-! Decoding and encoding (02 R46-R51, R59-R62): what each field reads back, form by form, and words taken apart and put together. -/

namespace Sys2Proof.Machine

/-! The fields of a word (R46). The widths in `Raw` and in the modifiers are numerals where the library's lemmas on `++` have sums, so `simp`
looks them up here without its index. -/

theorem Raw.unpack_pack (r : Raw) : Raw.unpack r.pack = r := by
  obtain ⟨opc, sub, x, c, b, a, d, ctl⟩ := r
  simp -index (disch := decide) only [Raw.unpack, Raw.pack, BitVec.extractLsb'_append_eq_of_le, BitVec.extractLsb'_append_eq_of_add_le,
    Nat.reduceSub, BitVec.extractLsb'_eq_self]

theorem Ctl.dec_enc (k : Ctl) : Ctl.dec k.enc = k := by
  obtain ⟨pe, pn, p, stop, stall⟩ := k
  simp -index (disch := decide) only [Ctl.dec, Ctl.enc, BitVec.extractLsb'_append_eq_of_le, BitVec.extractLsb'_append_eq_of_add_le,
    BitVec.getLsbD_append, Nat.reduceSub, Nat.reduceLT, BitVec.extractLsb'_eq_self, if_true, if_false]
  simp

theorem Opnd.dec_enc (o : Opnd) : Opnd.dec o.enc = some o := by
  cases o <;> simp -index (disch := decide) only [Opnd.dec, Opnd.enc, BitVec.extractLsb'_append_eq_of_le,
    BitVec.extractLsb'_append_eq_of_add_le, Nat.reduceSub, BitVec.extractLsb'_eq_self]
  all_goals simp

/-! Modifiers and SUB fields (R50, R51) -/

theorem Rm.dec_enc (m : Rm) : Rm.dec m.enc = m := by cases m <;> rfl
theorem Rel.dec_enc (r : Rel) : Rel.dec r.enc = some r := by cases r <;> rfl
theorem ShflMode.dec_enc (m : ShflMode) : ShflMode.dec m.enc = m := by cases m <;> rfl
theorem VoteKind.dec_enc (k : VoteKind) : VoteKind.dec k.enc = some k := by cases k <;> rfl
theorem FenceKind.dec_enc (k : FenceKind) : FenceKind.dec k.enc = some k := by cases k <;> rfl
theorem InjKind.dec_enc (k : InjKind) : InjKind.dec k.enc = some k := by cases k <;> rfl
theorem Sp.dec_enc (p : Sp) : Sp.dec (p.enc.getLsbD 0) = p := by cases p <;> rfl
theorem Size.dec_enc (z : Size) : Size.dec z.enc = some z := by cases z <;> rfl
theorem Scope.dec_enc (c : Scope) : Scope.dec c.enc = some c := by cases c <;> rfl
theorem ordDec_ordEnc (o : Option Scope) : ordDec (ordEnc o) = some o := by
  rcases o with _ | c
  · rfl
  · cases c <;> rfl
theorem AOp.ofBits_enc (o : AOp) : AOp.ofBits o.enc = o := by cases o <;> rfl

theorem getLsbD_ofBool_zero (b : Bool) : (BitVec.ofBool b).getLsbD 0 = b := by cases b <;> rfl

/-! The immediate of formats I and B (R48) -/

theorem imm_immX_immC (opc sub b a d ctl) (m : BitVec 2) (v : Word) : Raw.imm ⟨opc, sub, immX m v, immC v, b, a, d, ctl⟩ = v := by
  have hx : BitVec.extractLsb' 0 22 (immX m v) = v.extractLsb' 10 22 := by
    simp -index (disch := decide) only [immX, BitVec.extractLsb'_append_eq_of_add_le, BitVec.extractLsb'_eq_self]
  rw [Raw.imm, hx, immC, BitVec.extractLsb'_append_extractLsb'_eq_extractLsb' (show 10 = 0 + 10 from rfl)]
  exact BitVec.extractLsb'_eq_self

theorem immX_getLsbD (b : Bool) (v : Word) : (immX (BitVec.ofBool b ++ 0#1) v).getLsbD 23 = b := by
  simp -index (disch := decide) only [immX, BitVec.getLsbD_append, Nat.reduceSub, Nat.reduceLT, if_false, getLsbD_ofBool_zero]

/-! A type in SUB (R50, R59) -/

theorem Ty.toNat_enc (t : Ty) : t.enc.toNat = t.code := by cases t <;> rfl

theorem Ty.any_code (l : List Ty) (t : Ty) : l.any (fun u => u.code == t.enc.toNat) = l.contains t := by
  have hinj : ∀ u : Ty, (u.code == t.enc.toNat) = (t == u) := fun u => by
    rw [Ty.toNat_enc, Bool.eq_iff_iff, beq_iff_eq, beq_iff_eq]
    refine ⟨fun h => ?_, fun h => h ▸ rfl⟩
    have henc : t.enc = u.enc := congrArg (BitVec.ofNat 8) h.symm
    exact Option.some.inj ((Ty.dec_enc t).symm.trans (henc ▸ Ty.dec_enc u))
  simp only [hinj, List.contains_eq_any_beq]

theorem Op.ofCode_opc (o : Op) : Op.ofCode (BitVec.ofNat 8 o.code).toNat = some o := by
  have := Op.code_lt o
  rw [BitVec.toNat_ofNat, Nat.mod_eq_of_lt (by omega), Op.ofCode_code]

/-! SUB of the forms that hold more than a type (02 R51): an upper half, and ORD with SCOPE or a lower half of 0 -/

theorem halves_toNat (h l : BitVec 4) : (h ++ l : BitVec 8).toNat = 16 * h.toNat + l.toNat := by
  rw [BitVec.toNat_append, ← Nat.shiftLeft_add_eq_or_of_lt l.isLt, Nat.shiftLeft_eq]
  omega

theorem ordSub_div (h : BitVec 4) (o : Option Scope) : (h ++ ordEnc o : BitVec 8).toNat / 16 = h.toNat := by
  have := (ordEnc o).isLt
  rw [halves_toNat]
  omega

theorem ordSub_mod (h : BitVec 4) (o : Option Scope) : ((h ++ ordEnc o : BitVec 8).toNat % 8 != 7) = true := by
  have hscope : (ordEnc o).toNat % 8 ≠ 7 := by
    rcases o with _ | c
    · decide
    · cases c <;> decide
  rw [halves_toNat, bne_iff_ne]
  omega

theorem ordSub_lt (h : BitVec 4) (o : Option Scope) : ((h ++ ordEnc o : BitVec 8).toNat < 128) = (h.toNat < 8) := by
  have := (ordEnc o).isLt
  rw [halves_toNat, eq_iff_iff]
  omega

theorem plainSub_div (h : BitVec 4) : (h ++ 0#4 : BitVec 8).toNat / 16 = h.toNat := by
  rw [halves_toNat, BitVec.toNat_zero]
  omega

theorem plainSub_mod (h : BitVec 4) : (h ++ 0#4 : BitVec 8).toNat % 16 = 0 := by
  rw [halves_toNat, BitVec.toNat_zero]
  omega

/-- A form whose SUB is legal has it in its opcode's SUB space. -/
theorem Instr.subOk_raw {i : Instr} {r : Raw} (hr : i.raw = some r) (hs : i.subOk = true) :
    ∃ o, Op.ofCode r.opc.toNat = some o ∧ o.subOk r.sub.toNat = true := by
  cases i
  all_goals simp only [Instr.raw, Option.some.injEq, reduceCtorEq] at hr
  all_goals subst hr
  all_goals refine ⟨_, Op.ofCode_opc _, ?_⟩
  all_goals simp -index only [Op.subOk, Instr.raw.mk, Ty.any_code, memSub, ordSub_div, ordSub_mod, ordSub_lt, plainSub_div, plainSub_mod,
    Bool.and_true]
  case shfl m _ _ _ _ => cases m <;> rfl
  case vote m _ _ => cases m <;> rfl
  case lanemask m _ _ | halloc m _ _ _ | cpy m _ _ _ _ _ _ _ | cpy2d m _ _ _ _ _ _ _ => cases m <;> rfl
  case fence m sc => cases m <;> cases sc <;> rfl
  case ld sp sz _ _ _ _ | st sp sz _ _ _ _ => cases sp <;> cases sz <;> exact hs
  case ldr sp w _ _ _ _ | stc sp w _ _ _ _ _ => cases sp <;> cases w <;> rfl
  case spill sz _ _ _ | fill sz _ _ _ | rmtLd sz _ _ _ _ _ | rmtSt sz _ _ _ _ _ => cases sz <;> exact hs
  case redBlk op _ _ _ | redDie op _ _ _ => cases op <;> exact hs
  all_goals exact hs

/-! Optional fields, and the forms -/

theorem ite_isSome_getD {α : Type} (o : Option α) (a : α) : (if o.isSome = true then some (o.getD a) else none) = o := by cases o <;> rfl

theorem ite_isNone_getD {α : Type} (o : Option α) (a : α) : (if o.isNone = true then none else some (o.getD a)) = o := by cases o <;> rfl

/-- Each form's fields, read by its opcode, give it back. -/
theorem Instr.parse_raw {i : Instr} {r : Raw} (hr : i.raw = some r) : ∃ o, Op.ofCode r.opc.toNat = some o ∧ o.parse r = some i := by
  cases i
  all_goals simp only [Instr.raw, Option.some.injEq, reduceCtorEq] at hr
  all_goals subst hr
  all_goals refine ⟨_, Op.ofCode_opc _, ?_⟩
  all_goals simp -index (disch := decide) only [Op.parse, Instr.raw.mk, Ctl.dec_enc, Opnd.dec_enc, Ty.dec_enc, Rm.dec_enc, Rel.dec_enc,
    ShflMode.dec_enc, VoteKind.dec_enc, FenceKind.dec_enc, InjKind.dec_enc, Sp.dec_enc, Size.dec_enc, Scope.dec_enc, ordDec_ordEnc, AOp.ofBits_enc,
    imm_immX_immC, immX_getLsbD, ite_isSome_getD, ite_isNone_getD, getLsbD_ofBool_zero,
    BitVec.extractLsb'_append_eq_of_le, BitVec.extractLsb'_append_eq_of_add_le, BitVec.getLsbD_append, Nat.reduceSub, Nat.reduceLT,
    BitVec.extractLsb'_eq_self, if_true, if_false]
  all_goals rfl

theorem Instr.raw_opc_lt {i : Instr} {r : Raw} (hr : i.raw = some r) : r.opc.toNat < 0xF0 := by
  obtain ⟨o, ho, -⟩ := Instr.parse_raw hr
  rw [← Op.ofCode_eq_some.1 ho]
  exact Op.code_lt o

theorem decode_pack {i : Instr} {r : Raw} (hr : i.raw = some r) (hs : i.subOk = true) (hf : i.fieldsWf = true) : decode r.pack = .ok i := by
  have hlt := Instr.raw_opc_lt hr
  obtain ⟨o, ho, hsub⟩ := Instr.subOk_raw hr hs
  obtain ⟨o', ho', hparse⟩ := Instr.parse_raw hr
  obtain rfl : o = o' := Option.some.inj (ho.symm.trans ho')
  have hfill : r.opc ≠ 0xFF#8 := fun h => by simp [h] at hlt
  unfold decode
  simp only [Raw.unpack_pack, hfill, if_false, ho, hsub, if_true, hparse, hr, hf]
  rw [if_neg (by omega)]
  rfl

theorem Raw.pack_unpack (w : IWord) : (Raw.unpack w).pack = w := by
  simp only [Raw.pack, Raw.unpack]
  have join {s₁ l₁ s₂ l₂ : Nat} (h : s₂ = s₁ + l₁) := BitVec.extractLsb'_append_extractLsb'_eq_extractLsb' (x := w) (len₂ := l₂) h
  rw [join (show 88 = 80 + 8 from rfl), join (show 80 = 56 + 24 from rfl), join (show 56 = 46 + 10 from rfl),
    join (show 46 = 36 + 10 from rfl), join (show 36 = 26 + 10 from rfl), join (show 26 = 16 + 10 from rfl),
    join (show 16 = 0 + 16 from rfl)]
  exact BitVec.extractLsb'_eq_self

/-! The emulation class (02 R60) -/

/-- The word of the emulation class with this SUB and these lower 80 bits. -/
def emulWord (b : BitVec 8) (rest : BitVec 80) : IWord := 0xF2#8 ++ b ++ rest

theorem emulWord_opc (b : BitVec 8) (rest : BitVec 80) : (emulWord b rest).extractLsb' 88 8 = 0xF2#8 := by
  simp -index (disch := decide) only [emulWord, BitVec.extractLsb'_append_eq_of_le, Nat.reduceSub, BitVec.extractLsb'_eq_self]

theorem emulWord_sub (b : BitVec 8) (rest : BitVec 80) : (emulWord b rest).extractLsb' 80 8 = b := by
  simp -index (disch := decide) only [emulWord, BitVec.extractLsb'_append_eq_of_le, BitVec.extractLsb'_append_eq_of_add_le,
    Nat.reduceSub, BitVec.extractLsb'_eq_self]

theorem emulWord_rest (b : BitVec 8) (rest : BitVec 80) : (emulWord b rest).extractLsb' 0 80 = rest := by
  simp -index (disch := decide) only [emulWord, BitVec.extractLsb'_append_eq_of_add_le, BitVec.extractLsb'_eq_self]

theorem emulWord_getLsbD (b : BitVec 8) (rest : BitVec 80) : (emulWord b rest).getLsbD 87 = b.getLsbD 7 := by
  simp -index (disch := decide) only [emulWord, BitVec.getLsbD_append, Nat.reduceSub, Nat.reduceLT, if_true, if_false]

theorem emulWord_fields {w : IWord} (h : w.extractLsb' 88 8 = 0xF2#8) : emulWord (w.extractLsb' 80 8) (w.extractLsb' 0 80) = w := by
  rw [emulWord, ← h, BitVec.extractLsb'_append_extractLsb'_eq_extractLsb' (show 88 = 80 + 8 from rfl),
    BitVec.extractLsb'_append_extractLsb'_eq_extractLsb' (show 80 = 0 + 80 from rfl)]
  exact BitVec.extractLsb'_eq_self

/-- `div` and `rem` are the words of the class whose SUB is the code of their type, bit 7 telling them apart. -/
def emulInstr (t : Ty) (rem : Bool) (rest : BitVec 80) : Instr := if rem then .rem t rest else .div t rest

theorem decode_of_emul {w : IWord} (h : w.extractLsb' 88 8 = 0xF2#8) : decode w = decodeEmul w :=
  (if_neg (show ¬ w.extractLsb' 88 8 = 0xFF#8 by rw [h]; decide)).trans
    (if_pos (show 0xF0 ≤ (w.extractLsb' 88 8).toNat ∧ (w.extractLsb' 88 8).toNat ≤ 0xF7 by rw [h]; decide))

theorem decode_emulWord {b : BitVec 8} {t : Ty} (ht : Ty.int4.contains t = true) (hb : b &&& 0x7F#8 = t.enc) (rest : BitVec 80) :
    decode (emulWord b rest) = .ok (emulInstr t (b.getLsbD 7) rest) := by
  rw [decode_of_emul (emulWord_opc b rest)]
  simp only [decodeEmul, emulWord_opc, emulWord_sub, emulWord_rest, emulWord_getLsbD, hb, Ty.dec_enc, ht, if_true, emulInstr]

/-- The SUB of `div` and `rem`. -/
def emulSub (t : Ty) (rem : Bool) : BitVec 8 := if rem then t.enc ||| 0x80#8 else t.enc

theorem emulSub_low (t : Ty) (rem : Bool) : emulSub t rem &&& 0x7F#8 = t.enc := by cases t <;> cases rem <;> rfl

theorem emulSub_high (t : Ty) (rem : Bool) : (emulSub t rem).getLsbD 7 = rem := by cases t <;> cases rem <;> rfl

/-- A SUB is the code of its low seven bits, with bit 7 set or clear. -/
theorem emulSub_of_low {b : BitVec 8} {t : Ty} (hb : b &&& 0x7F#8 = t.enc) : emulSub t (b.getLsbD 7) = b := by
  have hbits : ∀ c : BitVec 8, (if c.getLsbD 7 then (c &&& 0x7F#8) ||| 0x80#8 else c &&& 0x7F#8) = c := by decide
  rw [emulSub, ← hb]
  exact hbits b

theorem emulInstr_subOk (t : Ty) (rem : Bool) (rest : BitVec 80) : (emulInstr t rem rest).subOk = Ty.int4.contains t := by cases rem <;> rfl

theorem encode_emulInstr (t : Ty) (rem : Bool) (rest : BitVec 80) : encode (emulInstr t rem rest) = some (emulWord (emulSub t rem) rest) := by
  cases rem <;> rfl

/-! Words and instructions -/

/-- Three kinds of words: of their fields, of the emulation class, and the fill word. An event has no fields and no word. -/
theorem encode_cases (i : Instr) : encode i = i.raw.map Raw.pack ∨
    (∃ t rem rest, i = emulInstr t rem rest) ∨ i = .fillWord := by
  cases i
  case div t rest => exact .inr (.inl ⟨t, false, rest, rfl⟩)
  case rem t rest => exact .inr (.inl ⟨t, true, rest, rfl⟩)
  case fillWord => exact .inr (.inr rfl)
  all_goals exact .inl rfl

theorem encode_of_raw {i : Instr} {r : Raw} (hr : i.raw = some r) : encode i = some r.pack := by
  obtain he | ⟨t, rem, rest, rfl⟩ | rfl := encode_cases i
  · rw [he, hr]
    rfl
  · cases rem <;> cases hr
  · cases hr

/-- Settles O35: the word of each kind of instruction word is read back. -/
theorem decodeOfEncode : Obligations.DecodeOfEncode := by
  intro i N w hwf hw
  simp only [Instr.wf, Instr.subWf, Bool.and_eq_true] at hwf
  obtain ⟨⟨hsub, hfields⟩, -⟩ := hwf
  obtain he | ⟨t, rem, rest, rfl⟩ | rfl := encode_cases i
  · obtain ⟨r, hr, rfl⟩ := Option.map_eq_some_iff.1 (he ▸ hw)
    exact decode_pack hr hsub hfields
  · rw [encode_emulInstr] at hw
    cases hw
    rw [emulInstr_subOk] at hsub
    rw [decode_emulWord hsub (emulSub_low t rem), emulSub_high]
  · cases hw
    rfl

theorem decodeEmul_ok {w : IWord} {i : Instr} (h : decodeEmul w = .ok i) :
    w.extractLsb' 88 8 = 0xF2#8 ∧ ∃ t, w.extractLsb' 80 8 &&& 0x7F#8 = t.enc ∧ i = emulInstr t (w.getLsbD 87) (w.extractLsb' 0 80) := by
  unfold decodeEmul at h
  split at h
  · next hE =>
    split at h
    · next t ht =>
      split at h
      · exact ⟨hE, t, (Ty.dec_eq_some.1 ht).symm, (Except.ok.inj h).symm⟩
      · cases h
    · cases h
  · cases h

/-- What a decoded word is: the fill word, one of the emulation class, or one whose fields are the instruction's. -/
theorem decode_ok_cases {w : IWord} {i : Instr} (h : decode w = .ok i) :
    (w.extractLsb' 88 8 = 0xFF#8 ∧ i = .fillWord) ∨ decodeEmul w = .ok i ∨ i.raw = some (Raw.unpack w) := by
  unfold decode at h
  dsimp only at h
  split at h
  · next hF => exact .inl ⟨hF, (Except.ok.inj h).symm⟩
  · split at h
    · exact .inr (.inl h)
    · split at h
      · cases h
      · split at h
        · split at h
          · split at h
            · next hc =>
              cases h
              exact .inr (.inr (of_decide_eq_true (Bool.and_eq_true_iff.1 hc).1))
            · cases h
          · cases h
        · cases h

/-- Settles O36: a word is packed from the fields that it decodes by. -/
theorem encodeOfDecode : Obligations.EncodeOfDecode := by
  intro i w h
  obtain ⟨hF, rfl⟩ | he | hr := decode_ok_cases h
  · exact ⟨fun hne => absurd hF hne, fun _ => rfl⟩
  · obtain ⟨hE, t, ht, rfl⟩ := decodeEmul_ok he
    refine ⟨fun _ => ?_, fun hF => absurd (hE.symm.trans hF) (by decide)⟩
    have hbit := emulWord_getLsbD (w.extractLsb' 80 8) (w.extractLsb' 0 80)
    rw [emulWord_fields hE] at hbit
    rw [encode_emulInstr, hbit, emulSub_of_low ht, emulWord_fields hE]
  · refine ⟨fun _ => (encode_of_raw hr).trans (congrArg some (Raw.pack_unpack w)), fun hF => ?_⟩
    have hlt := Instr.raw_opc_lt hr
    rw [show (Raw.unpack w).opc = w.extractLsb' 88 8 from rfl, hF] at hlt
    exact absurd hlt (by decide)

theorem not_ok_of_error {w : IWord} {e : DecErr} (h : decode w = .error e) (i : Instr) : decode w ≠ .ok i := fun h' => by cases h.symm.trans h'

/-- Settles O34: each word, decoded. -/
theorem specWordsDecode : Obligations.SpecWordsDecode := by
  unfold Obligations.SpecWordsDecode
  refine ⟨rfl, rfl, rfl, rfl, rfl, rfl, rfl, rfl, rfl, rfl, rfl, rfl, rfl, rfl, rfl, rfl, rfl, ?_, ?_, ?_⟩
  · exact not_ok_of_error (e := .reserved) rfl
  · exact not_ok_of_error (e := .unassigned) rfl
  · exact not_ok_of_error (e := .sub) rfl

end Sys2Proof.Machine
end

section
/-! Transfers of control (13 R271, R281-R284): a run over lanes in which some take a transfer. -/

namespace Sys2Proof.Machine

open Host (Outcome)

/-- The issue after transfers of the lanes of `ls` that `mv` holds of, those that `bk` holds of backward (13 R271, R273). -/
def Issue.moves (q : Issue) (mv bk : Nat → Bool) (ls : List Nat) : Issue :=
  { q with moved := q.moved ||| maskOfList (ls.filter mv), backward := q.backward || ls.any (fun l => mv l && bk l) }

/-- The state after each lane of `ls` has changed by `F`, with those transfers noted in its issue. -/
def State.moves (s : State) (gid : Nat) (F : Nat → Lane → Lane) (mv bk : Nat → Bool) (ls : List Nat) : State :=
  { s with groups := tmod s.groups gid (fun y => y.onLanes ls F), issue := s.issue.map (fun q => q.moves mv bk ls) }

theorem Issue.moves_nil (q : Issue) (mv bk : Nat → Bool) : q.moves mv bk [] = q := by simp [Issue.moves, maskOfList]

theorem Issue.moves_cons (q : Issue) (mv bk : Nat → Bool) (l : Nat) (ls : List Nat) :
    (q.moves mv bk [l]).moves mv bk ls = q.moves mv bk (l :: ls) := by
  have hmask : q.moved ||| maskOfList ([l].filter mv) ||| maskOfList (ls.filter mv) = q.moved ||| maskOfList ((l :: ls).filter mv) := by
    cases h : mv l <;> simp [h, maskOfList_cons, BitVec.or_assoc, show maskOfList [] = 0 from rfl]
  simp only [Issue.moves, hmask, List.any_cons, List.any_nil, Bool.or_false, Bool.or_assoc]

theorem Group.onLanes_singleton (g : Group) (l : Nat) (F : Nat → Lane → Lane) : g.onLanes [l] F = g.modLane l (F l) := by
  rw [← Group.onLanes_cons (ls := []) (by simp), Group.onLanes_nil]

theorem State.moves_cons (s : State) (gid : Nat) (F : Nat → Lane → Lane) (mv bk : Nat → Bool) {l : Nat} {ls : List Nat} (hl : l ∉ ls) :
    (s.moves gid F mv bk [l]).moves gid F mv bk ls = s.moves gid F mv bk (l :: ls) := by
  simp only [State.moves, tmod_tmod, Group.onLanes_singleton, Group.onLanes_cons hl, Option.map_map, Function.comp_def, Issue.moves_cons]

/-- A run over lanes whose every step changes its own lane, and may transfer it, is one change of the group and its issue. -/
theorem State.foldl_moves {step : State → Nat → State} {gid : Nat} {F : Nat → Lane → Lane} {mv bk : Nat → Bool} {ls : List Nat}
    (hn : ls.Nodup) :
    ∀ {s : State} {g : Group}, tget s.groups gid = some g →
      (∀ t h, tget t.groups gid = some h → h = { g with lanes := h.lanes } → t = { s with groups := t.groups, issue := t.issue } →
        t.issue.map Issue.word = s.issue.map Issue.word → ∀ l ∈ ls, h.lane l = g.lane l → step t l = t.moves gid F mv bk [l]) →
      ls.foldl step s = s.moves gid F mv bk ls := by
  induction ls with
  | nil =>
    intro s g hg _
    rw [List.foldl_nil, State.moves, tmod_eq_self hg (Group.onLanes_nil g F)]
    simp only [Issue.moves_nil, Option.map_id_fun', id]
  | cons l ls ih =>
    intro s g hg hstep
    obtain ⟨hl, hn⟩ := List.nodup_cons.1 hn
    rw [List.foldl_cons, hstep s g hg rfl rfl rfl l (List.mem_cons_self ..) rfl, ih (g := g.onLanes [l] F) hn (tget_tmod_of_some hg),
      State.moves_cons _ _ _ _ _ hl]
    intro t h ht hh hs hw j hj hlane
    refine hstep t h ht hh hs ?_ j (List.mem_cons_of_mem _ hj) ?_
    · rw [hw, State.moves, Option.map_map]
      rfl
    · rw [hlane, Group.onLanes_singleton, Group.lane_modLane_of_ne]
      exact fun e => hl (e ▸ hj)

/-- A lane that takes a transfer. -/
theorem State.take_moves {t : State} {c : Ctx} {h : Group} (ht : tget t.groups c.gid = some h) {l target depth : Nat} {F : Nat → Lane → Lane}
    {mv bk : Nat → Bool} (hmv : mv l = true) (hF : F l (h.lane l) = { h.lane l with pc := BitVec.ofNat 20 target, depth := BitVec.ofNat 8 depth })
    (hbk : bk l = decide ((F l (h.lane l)).key ≤ ({ h.lane l with pc := c.pc } : Lane).key)) :
    t.take c l target depth = t.moves c.gid F mv bk [l] := by
  have hg : tmod t.groups c.gid (fun y => y.modLane l (fun _ => F l (h.lane l))) = tmod t.groups c.gid (fun y => y.onLanes [l] F) := by
    refine tmod_congr ht (Eq.trans ?_ (Group.onLanes_singleton h l F).symm)
    exact Group.modLane_congr rfl
  have hq : ∀ q : Issue, { q with moved := q.moved ||| (1#64 <<< l), backward := q.backward || bk l } = q.moves mv bk [l] := fun q => by
    simp [Issue.moves, hmv, maskOfList]
  simp only [State.take, State.group_of_tget ht, State.moves, State.modGroup, State.modIssue, ← hF, hg, ← hbk, hq]

/-- A lane that changes and takes no transfer. -/
theorem State.modLane_moves {t : State} {gid : Nat} {h : Group} (ht : tget t.groups gid = some h) {l : Nat} {F : Nat → Lane → Lane}
    {mv bk : Nat → Bool} {f : Lane → Lane} (hmv : mv l = false) (hF : f (h.lane l) = F l (h.lane l)) :
    t.modGroup gid (fun y => y.modLane l f) = t.moves gid F mv bk [l] := by
  have hq : ∀ q : Issue, q.moves mv bk [l] = q := fun q => by simp [Issue.moves, hmv, maskOfList]
  have hg : tmod t.groups gid (fun y => y.modLane l f) = tmod t.groups gid (fun y => y.onLanes [l] F) :=
    tmod_congr ht ((Group.modLane_congr hF).trans (Group.onLanes_singleton h l F).symm)
  simp only [State.moves, State.modGroup, hg, hq, Option.map_id_fun', id]

theorem Group.lane_modLanes (g : Group) (m : Mask) (f : Lane → Lane) {l : Nat} (h : l < g.lanes.length) :
    (g.modLanes m f).lane l = if m.getLsbD l then f (g.lane l) else g.lane l := lane_mapFrom h

/-- As a word begins, a lane keeps all but its reservation and what it notes of remote executions. -/
theorem enteredGroup_lane {i : Instr} {x : Issue} {g : Group} {l : Nat} (h : l < g.lanes.length) : ∃ resv front frontRd,
    (enteredGroup i x g).lane l = { g.lane l with resv := resv, front := front, frontRd := frontRd } := by
  unfold enteredGroup Group.noteWord
  dsimp only
  split
  · rw [show ∀ (y : Group) (n : Nat), ({ y with seq := n } : Group).lane l = y.lane l from fun _ _ => rfl, Group.lane_modLanes _ _ _ h]
    split
    · exact ⟨_, _, _, rfl⟩
    · exact ⟨_, _, _, rfl⟩
  · exact ⟨_, _, _, rfl⟩

section
variable {i : Instr} {s : State} {x : Issue} {g : Group}

/-- Whether the change `F` of lane `l` is a backward transfer from the word's PC (13 R273). -/
def goesBack (i : Instr) (x : Issue) (g : Group) (F : Nat → Lane → Lane) (l : Nat) : Bool :=
  decide ((F l ((enteredGroup i x g).lane l)).key ≤ ({ (enteredGroup i x g).lane l with pc := x.pc } : Lane).key)

/-- An accepted word that runs over its lanes, changing each by itself and transferring some, and then gives results. -/
theorem changesLanes_of_moves (ha : Accepts i s x g) (hlen : g.lanes.length = 64) {step : State → Nat → State} {body : Ctx → State → State}
    {mv moved : Nat → Bool} {F f : Nat → Lane → Lane} {res : List Landing} (he : exec i s = withIssue i s body)
    (hb : body (ctxOf i s x g) (s.entered i x g) =
      ((ctxOf i s x g).lanes.foldl step (s.entered i x g)).modGroup x.gid (fun y => { y with pend := y.pend ++ res }))
    (hstep : ∀ t h, tget t.groups x.gid = some h → h = { enteredGroup i x g with lanes := h.lanes } →
      t = { s.entered i x g with groups := t.groups, issue := t.issue } → t.issue.map Issue.word = some x.word → ∀ l ∈ (ctxOf i s x g).lanes,
        h.lane l = (enteredGroup i x g).lane l → step t l = t.moves x.gid F mv (goesBack i x g F) [l])
    (hmoved : ∀ l, moved l = ((ctxOf i s x g).sel.getLsbD l && mv l))
    (hf : ∀ l, l < 64 → f l ((enteredGroup i x g).lane l) =
      if (ctxOf i s x g).sel.getLsbD l then F l ((enteredGroup i x g).lane l) else (enteredGroup i x g).lane l) :
    ChangesLanes i s x g moved res f := by
  have hrun := State.foldl_moves (lanesOf_nodup _) (tget_entered s i x g) hstep
  have hsize : (enteredGroup i x g).lanes.length = 64 := by simp [hlen]
  have hlane : ∀ l, l < 64 → ((enteredGroup i x g).onLanes (ctxOf i s x g).lanes F).lane l = f l ((enteredGroup i x g).lane l) := fun l hl => by
    rw [Group.lane_onLanes (by omega), hf l hl]
    simp only [Ctx.mem_lanes]
  refine ⟨((s.entered i x g).moves x.gid F mv (goesBack i x g F) (ctxOf i s x g).lanes).modGroup x.gid (fun y => { y with pend := y.pend ++ res }),
    { (enteredGroup i x g).onLanes (ctxOf i s x g).lanes F with pend := g.pend ++ res },
    (x.ran i).moves mv (goesBack i x g F) (ctxOf i s x g).lanes, ?_, ?_, ?_, rfl, ?_, ?_, rfl, fun l hl => ⟨hlane l hl, ?_, ?_⟩⟩
  · rw [he, withIssue_of_accepts ha]
    exact congrArg Outcome.next (hb.trans (congrArg (fun t : State => t.modGroup x.gid _) hrun))
  · refine OnlyGroup.of_tset (g := { (enteredGroup i x g).onLanes (ctxOf i s x g).lanes F with
      pend := (enteredGroup i x g).pend ++ res }) ?_
    simp only [State.modGroup, State.moves, State.entered, State.began, State.setGroup, tmod_tset]
    rfl
  · rw [← enteredGroup_pend i x g]
    exact State.tget_modGroup (tget_tmod_of_some (tget_entered s i x g))
  · rfl
  · simp [hlen]
  · refine (BitVec.getLsbD_or ..).trans (congrArg (x.moved.getLsbD l || ·) ?_)
    rw [Bool.eq_iff_iff, getLsbD_maskOfList _ hl, List.mem_filter, Ctx.mem_lanes, hmoved, Bool.and_eq_true]
  · change (x.backward || (ctxOf i s x g).lanes.any _) = true ↔ _
    rw [Bool.or_eq_true, List.any_eq_true]
    refine or_congr_right (exists_congr fun j => ?_)
    rw [Ctx.mem_lanes, hmoved, Bool.and_eq_true, Bool.and_eq_true, and_assoc]
    constructor
    · intro ⟨hsel, hmv, hback⟩
      have hj : j < 64 := BitVec.lt_of_getLsbD hsel
      refine ⟨hj, hsel, hmv, ?_⟩
      rw [show Group.lane { (enteredGroup i x g).onLanes (ctxOf i s x g).lanes F with pend := g.pend ++ res } j = _ from hlane j hj, hf j hj,
        if_pos hsel]
      exact of_decide_eq_true hback
    · intro ⟨hj, hsel, hmv, hback⟩
      refine ⟨hsel, hmv, ?_⟩
      rw [show Group.lane { (enteredGroup i x g).onLanes (ctxOf i s x g).lanes F with pend := g.pend ++ res } j = _ from hlane j hj, hf j hj,
        if_pos hsel] at hback
      exact decide_eq_true hback

/-- A lane parks with the word of the issue it is in. -/
theorem State.parkLane_issue {t : State} (hw : t.issue.map Issue.word = some x.word) (l : Nat) (r : TrapRec) :
    t.parkLane (ctxOf i s x g) l r = t.park x.gid l x.pc { r with word := x.word } := by
  obtain ⟨q, hq, hword⟩ := Option.map_eq_some_iff.1 hw
  simp only [State.parkLane, hq, Option.map_some, Option.getD_some, hword]
  rfl

theorem enteredGroup_depth (l : Nat) : ((enteredGroup i x g).lane l).depth = (g.lane l).depth := by
  by_cases h : l < g.lanes.length
  · obtain ⟨_, _, _, he⟩ := enteredGroup_lane (i := i) (x := x) h
    rw [he]
  · simp [Group.lane, h]

/-- A run over lanes in which a lane that acts takes its transfer, or parks when it may not. -/
def transferStep (k : Ctx) (acts ok : Nat → Bool) (tgt dep : Nat → Nat) (r : Nat → TrapRec) (t : State) (l : Nat) : State :=
  if acts l then (if ok l then t.take k l (tgt l) (dep l) else t.parkLane k l (r l)) else t

/-- What such a run does to a lane. -/
def transferLane (pc : BitVec 20) (w : IWord) (acts ok : Nat → Bool) (f : Nat → Lane → Lane)
    (r : Nat → TrapRec) (l : Nat) (e : Lane) : Lane :=
  if acts l && ok l then f l e else if acts l then e.parkOnce pc { r l with word := w } else e

/-- An accepted word that is such a run, and then gives results. -/
theorem transfers_of_run {body : Ctx → State → State} {step : State → Nat → State} {acts ok : Nat → Bool} {tgt dep : Nat → Nat}
    {r : Nat → TrapRec} {res : List Landing} {f : Nat → Lane → Lane} (he : exec i s = withIssue i s body)
    (hb : body (ctxOf i s x g) (s.entered i x g) =
      ((ctxOf i s x g).lanes.foldl step (s.entered i x g)).modGroup x.gid (fun y => { y with pend := y.pend ++ res }))
    (hstep : ∀ t l, t = { s.entered i x g with groups := t.groups, issue := t.issue } →
      step t l = transferStep (ctxOf i s x g) acts ok tgt dep r t l)
    (hf : ∀ l e, e.depth = (g.lane l).depth → ok l = true → f l e = { e with pc := BitVec.ofNat 20 (tgt l), depth := BitVec.ofNat 8 (dep l) }) :
    Transfers i s x g acts ok res f r := by
  intro ha hlen hpark
  refine changesLanes_of_moves (F := transferLane x.pc x.word acts ok f r) (mv := fun l => acts l && ok l) ha hlen he hb ?_ ?_ ?_
  · intro t h ht hh hs hw l hl hlane
    have hsel : (ctxOf i s x g).sel.getLsbD l = true := Ctx.mem_lanes.1 hl
    rw [hstep t l hs, transferStep]
    cases hact : acts l
    · exact (State.modGroup_eq_self ht (Group.modLane_eq_self (f := id) rfl)).symm.trans
        (State.modLane_moves ht (by simp [hact]) (by simp [transferLane, hact]))
    · cases hok : ok l
      · have hidle : h.hphase = .idle := by
          rw [hh]
          simpa using hpark.resolve_right fun hno => by simpa [hok] using hno l (by simp [hsel, hact])
        rw [if_pos rfl, if_neg (by simp), State.parkLane_issue hw]
        exact (State.park_of_plain ht (.inl (Group.parksPlain_of_idle hidle l)) _ _).trans
          (State.modLane_moves ht (by simp [hok]) (by simp [transferLane, hact, hok]))
      · rw [if_pos rfl, if_pos rfl]
        refine State.take_moves (c := ctxOf i s x g) ht (by simp [hact, hok]) ?_ ?_
        · simp only [transferLane, hact, hok, Bool.and_self, if_true]
          refine hf l _ ?_ hok
          rw [hlane, enteredGroup_depth]
        · rw [hlane]
          rfl
  · intro l
    exact Bool.and_assoc ..
  · intro l hl
    simp only [transferLane, Lane.parkOnce]
    cases (ctxOf i s x g).sel.getLsbD l <;> cases acts l <;> cases ok l <;> simp
end

/-! Targets (13 R281) -/

theorem State.validTarget_iff (s : State) (g : Group) (u : Nat) : s.validTarget g u = true ↔ IsTarget s g u := by
  by_cases h : slotPc (s.grid g.grid).base u = true
  · rw [← isTarget_iff_lineAt h, State.validTarget, h]
    cases s.lineAt g u <;> simp
  · have hno : ¬ IsTarget s g u := fun ⟨hb, _, hs, _⟩ => h (slotPc_iff.2 ⟨hb, hs⟩)
    simp [State.validTarget, h, hno]

theorem Ctx.branchTarget_eq_some {k : Ctx} {sofs : Word} {t : Nat} :
    k.branchTarget sofs = some t ↔ IsSlotAfter k sofs.toInt t := by
  unfold Ctx.branchTarget IsSlotAfter slotOf
  dsimp only
  push_cast
  split
  · next hn =>
    simp only [reduceCtorEq, false_iff]
    rintro ⟨n, hn', -⟩
    omega
  · next hn =>
    rw [Option.some.injEq]
    constructor
    · intro h
      exact ⟨_, Int.toNat_of_nonneg (not_lt.1 hn), h.symm⟩
    · rintro ⟨n, hn', rfl⟩
      rw [← hn', Int.toNat_natCast]

theorem Ctx.branchTarg_eq {k : Ctx} {sofs : Word} {t : Nat} (h : IsSlotAfter k sofs.toInt t) : k.branchTarg sofs = BitVec.ofNat 32 t := by
  obtain ⟨n, hn, rfl⟩ := h
  unfold Ctx.branchTarg slotOf
  dsimp only
  push_cast at hn ⊢
  rw [← hn, ← BitVec.ofInt_natCast]
  push_cast
  rfl

theorem tmod_of_fixed {α : Type} {f : α → α} (hf : ∀ a, f a = a) (t : Tbl α) (n : Nat) : tmod t n f = t := by
  induction t with
  | nil => rfl
  | cons p t ih => simp only [tmod, ih, hf, ite_self]

theorem State.modGroup_pend_nil (s : State) (gid : Nat) : s.modGroup gid (fun y => { y with pend := y.pend ++ [] }) = s := by
  rw [State.modGroup, tmod_of_fixed fun y => by rw [List.append_nil]]

section
variable {i : Instr} {s : State} {x : Issue} {g : Group} {sofs : Word} {cond : Nat → Bool} {body : Ctx → State → State}

/-- A branch to a slot of the image. -/
theorem branch_transfers {t : Nat} (he : exec i s = withIssue i s body)
    (hb : body (ctxOf i s x g) (s.entered i x g) = branch (ctxOf i s x g) sofs cond (s.entered i x g))
    (ht : IsSlotAfter (ctxOf i s x g) sofs.toInt t) :
    Transfers i s x g cond (fun _ => s.validTarget g t) [] (fun _ e => { e with pc := BitVec.ofNat 20 t })
      (fun _ => { trap := 3, cause := 0, targ := BitVec.ofNat 32 t }) := by
  refine transfers_of_run (tgt := fun _ => t) (dep := fun l => (g.lane l).depth.toNat) he (hb.trans (State.modGroup_pend_nil _ _).symm) ?_ ?_
  · intro u l hu
    have hv : u.validTarget (ctxOf i s x g).g t = s.validTarget g t := by rw [hu]; rfl
    simp only [Ctx.branchTarget_eq_some.2 ht, Ctx.branchTarg_eq ht, hv, transferStep]
    cases cond l <;> rfl
  · intro l e he _
    simp [← he]

/-- A branch to below slot 0. -/
theorem branch_parks (he : exec i s = withIssue i s body)
    (hb : body (ctxOf i s x g) (s.entered i x g) = branch (ctxOf i s x g) sofs cond (s.entered i x g))
    (ht : ∀ u, ¬ IsSlotAfter (ctxOf i s x g) sofs.toInt u) :
    Transfers i s x g cond (fun _ => false) [] (fun _ e => e)
      (fun _ => { trap := 3, cause := 0, targ := (ctxOf i s x g).branchTarg sofs }) := by
  have hnone : (ctxOf i s x g).branchTarget sofs = none :=
    Option.eq_none_iff_forall_ne_some.2 fun u hu => ht u (Ctx.branchTarget_eq_some.1 hu)
  refine transfers_of_run (tgt := fun _ => 0) (dep := fun _ => 0) he (hb.trans (State.modGroup_pend_nil _ _).symm) ?_ (by simp)
  intro u l _
  simp only [hnone, transferStep]
  cases cond l <;> rfl

end

/-- Settles O17: a branch is a run over the lanes whose condition holds, to one target that is the same for all of them. -/
theorem branchResults : Obligations.BranchResults := by
  intro c a sofs s x g t goes below zero
  exact ⟨s.validTarget_iff g, branch_transfers rfl rfl, branch_transfers rfl rfl, branch_transfers rfl rfl,
    fun h => ⟨_, branch_parks rfl rfl h⟩, fun h => ⟨_, branch_parks rfl rfl h⟩, fun h => ⟨_, branch_parks rfl rfl h⟩⟩

/-- A source reads the same in every state that differs in groups and issue alone. -/
theorem Ctx.src32_of_issue {i : Instr} {s u : State} {x : Issue} {g : Group}
    (hu : u = { s.entered i x g with groups := u.groups, issue := u.issue }) (c : Ctx) (l : Nat) (o : Opnd) : c.src32 u l o = c.src32 s l o := by
  rw [hu]; rfl

theorem validTarget_of_issue {i : Instr} {s u : State} {x : Issue} {g : Group}
    (hu : u = { s.entered i x g with groups := u.groups, issue := u.issue }) (n : Nat) : u.validTarget (ctxOf i s x g).g n = s.validTarget g n := by
  rw [hu]; rfl

theorem depth_succ (d : BitVec 8) : BitVec.ofNat 8 (d.toNat + 1) = d + 1 := by
  bv_omega

theorem depth_pred {d : BitVec 8} (h : d ≠ 0) : BitVec.ofNat 8 (d.toNat - 1) = d - 1 := by
  bv_omega

/-- Settles O18: `jmp` and `ret` are runs over lanes that each take their own target from a register. -/
theorem jumpResults : Obligations.JumpResults := by
  intro c a s x g
  refine ⟨s.validTarget_iff g, ?_, ?_⟩
  · intro tgt
    refine transfers_of_run (tgt := fun l => (tgt l a).toNat) (dep := fun l => (g.lane l).depth.toNat) rfl
      (State.modGroup_pend_nil _ _).symm ?_ ?_
    · intro u l hu
      simp only [Ctx.src32_of_issue hu, validTarget_of_issue hu]
      rfl
    · intro l e he _
      simp [← he]
  · intro tgt
    refine transfers_of_run (tgt := fun l => (tgt l a).toNat) (dep := fun l => (g.lane l).depth.toNat - 1) rfl
      (State.modGroup_pend_nil _ _).symm ?_ ?_
    · intro u l hu
      simp only [Ctx.src32_of_issue hu, validTarget_of_issue hu]
      change (if (g.lane l).depth.toNat = 0 then _ else if s.validTarget g (tgt l a).toNat = true then _ else _) =
        (if ((g.lane l).depth != 0 && s.validTarget g (tgt l a).toNat) = true then _ else _)
      by_cases hz : (g.lane l).depth = 0
      · simp [hz]
      · have hz' : (g.lane l).depth.toNat ≠ 0 := fun h => hz (BitVec.eq_of_toNat_eq h)
        simp only [if_neg hz, if_neg hz', bne_iff_ne.2 hz, Bool.true_and]
        rfl
    · intro l e he hok
      rw [Bool.and_eq_true, bne_iff_ne] at hok
      rw [depth_pred hok.1, BitVec.ofNat_toNat, he]

theorem depth_bne (d : BitVec 8) : (d.toNat != 255) = (d != 255) := by
  rw [Bool.eq_iff_iff, bne_iff_ne, bne_iff_ne]
  exact not_congr (BitVec.toNat_inj (y := 255#8))

/-- Whether a call's target stands at a slot and is valid; `none` names no slot. -/
def callHits (s : State) (g : Group) : Option Nat → Bool
  | some t => s.validTarget g t
  | none => false

/-- Of a call's lanes, those below depth 255 with a valid target go. -/
def callGoes (s : State) (g : Group) (tgt : Nat → Option Nat) (l : Nat) : Bool := (g.lane l).depth != 255 && callHits s g (tgt l)

/-- What a call does to one lane. -/
def callStep (s : State) (k : Ctx) (tgt : Nat → Option Nat) (targ : Nat → Word) (u : State) (l : Nat) : State :=
  if (k.g.lane l).depth.toNat = 255 then u.parkLane k l { trap := 4, cause := 1 }
  else if callGoes s k.g tgt l then u.take k l ((tgt l).getD 0) ((k.g.lane l).depth.toNat + 1)
  else u.badTarget k l (targ l)

theorem callTo_eq (k : Ctx) (d : Opnd) (tgt : Nat → Option Nat) (targ : Nat → Word) (s : State) : callTo k d tgt targ s =
    (k.lanes.foldl (callStep s k tgt targ) s).result k 1 d
      ((k.lanes.filter (callGoes s k.g tgt)).map (fun l => { lane := l, ws := [0#12 ++ succPc k.base k.pc] })) := by
  have hgoes : callGoes s k.g tgt = fun l => (k.g.lane l).depth.toNat != 255 && callHits s k.g (tgt l) :=
    funext fun l => by rw [callGoes, depth_bne]
  unfold callTo callStep
  rw [hgoes]
  rfl

section
variable {i : Instr} {s : State} {x : Issue} {g : Group} {d : Opnd} {body : Ctx → State → State} {tgt : Nat → Option Nat} {targ : Nat → Word}

/-- A call, whatever its target's source, in which a target `none` names no slot. -/
theorem callTo_transfers (he : exec i s = withIssue i s body)
    (hb : body (ctxOf i s x g) (s.entered i x g) = callTo (ctxOf i s x g) d tgt targ (s.entered i x g)) :
    Transfers i s x g (fun _ => true) (callGoes s g tgt)
      [{ due := s.turn + 1, seq := g.seq + 1, dst := d, pc := x.pc
         res := ((ctxOf i s x g).lanes.filter (callGoes s g tgt)).map (fun l => { lane := l, ws := [0#12 ++ succPc (ctxOf i s x g).base x.pc] }) }]
      (fun l e => { e with pc := BitVec.ofNat 20 ((tgt l).getD 0), depth := e.depth + 1 })
      (fun l => if (g.lane l).depth = 255 then { trap := 4, cause := 1 } else { trap := 3, cause := 0, targ := targ l }) := by
  refine transfers_of_run (tgt := fun l => (tgt l).getD 0) (dep := fun l => (g.lane l).depth.toNat + 1)
    he (hb.trans (callTo_eq _ _ _ _ _)) ?_ ?_
  · intro u l _
    rw [transferStep, if_pos rfl]
    change (if (g.lane l).depth.toNat = 255 then _ else if callGoes s g tgt l = true then _ else _) = _
    by_cases hz : (g.lane l).depth = 255
    · have hok : callGoes s g tgt l = false := by simp [callGoes, hz]
      simp [hz, hok]
    · have hz' : (g.lane l).depth.toNat ≠ 255 := fun h => hz (BitVec.eq_of_toNat_eq h)
      simp only [if_neg hz, if_neg hz']
      rfl
  · intro l e he _
    rw [he, depth_succ]

/-- A call whose every target stands at a slot. -/
theorem calls_transfers {tgt : Nat → Nat} (htarg : ∀ l, targ l = BitVec.ofNat 32 (tgt l)) (he : exec i s = withIssue i s body)
    (hb : body (ctxOf i s x g) (s.entered i x g) = callTo (ctxOf i s x g) d (fun l => some (tgt l)) targ (s.entered i x g)) :
    let ok := fun l => (g.lane l).depth != 255 && s.validTarget g (tgt l)
    Transfers i s x g (fun _ => true) ok
      [{ due := s.turn + 1, seq := g.seq + 1, dst := d, pc := x.pc
         res := ((ctxOf i s x g).lanes.filter ok).map (fun l => { lane := l, ws := [0#12 ++ succPc (ctxOf i s x g).base x.pc] }) }]
      (fun l e => { e with pc := BitVec.ofNat 20 (tgt l), depth := e.depth + 1 })
      (fun l => if (g.lane l).depth = 255 then { trap := 4, cause := 1 } else { trap := 3, cause := 0, targ := BitVec.ofNat 32 (tgt l) }) := by
  simp only [← htarg]
  exact callTo_transfers he hb

/-- A call to below slot 0. -/
theorem calls_park (he : exec i s = withIssue i s body)
    (hb : body (ctxOf i s x g) (s.entered i x g) = callTo (ctxOf i s x g) d (fun _ => none) (fun _ => targ 0) (s.entered i x g)) :
    Transfers i s x g (fun _ => true) (fun _ => false)
      [{ due := s.turn + 1, seq := g.seq + 1, dst := d, pc := x.pc, res := [] }] (fun _ e => e)
      (fun l => if (g.lane l).depth = 255 then { trap := 4, cause := 1 } else { trap := 3, cause := 0, targ := targ 0 }) := by
  have hno : callGoes s g (fun _ => none) = fun _ => false := funext fun l => Bool.and_false _
  have h := callTo_transfers he hb
  simpa only [Transfers, hno, List.filter_false, List.map_nil, Bool.and_false, Bool.false_eq_true, if_false] using h

end

/-- Settles O19: `call` and `jcall` are runs over lanes, followed by the link of those that go. -/
theorem callResults : Obligations.CallResults := by
  intro c d a sofs s x g calls
  refine ⟨s.validTarget_iff g, fun t ht => ?_, fun ht => ⟨(ctxOf (.call c d sofs) s x g).branchTarg sofs, ?_⟩, ?_⟩
  · refine calls_transfers (fun _ => Ctx.branchTarg_eq ht) rfl ?_
    rw [← Ctx.branchTarget_eq_some.2 ht]
  · have hnone := Option.eq_none_iff_forall_ne_some.2 fun u hu => ht u (Ctx.branchTarget_eq_some.1 hu)
    refine calls_park (targ := fun _ => (ctxOf (.call c d sofs) s x g).branchTarg sofs) rfl ?_
    rw [← hnone]
  · exact calls_transfers (fun l => (BitVec.ofNat_toNat ..).symm) rfl rfl

end Sys2Proof.Machine
end

section
/-! What follows a word (02 R45, 13 R271, R275, 18 R401, R402). -/

namespace Sys2Proof.Machine

/-- The CRC-32C of a string is continued by the bytes that follow it. -/
theorem crcCont_crc32c (as bs : List Byte) : crcCont (crc32c as) bs = crc32c (as ++ bs) := by
  unfold crc32c crcCont
  rw [BitVec.not_not, List.foldl_append]

theorem crc32c_nil : crc32c [] = 0 := by
  unfold crc32c crcCont
  rw [List.foldl_nil, BitVec.not_not]

theorem Issue.fold_of_sigchk {x : Issue} (h : x.word.extractLsb' 88 8 = 0x0A#8) (sig : Word) : x.fold sig = crc32c [] := by
  rw [Issue.fold, if_pos h, crc32c_nil]

/-- A word adds its bytes to a lane's span, or begins a new one. -/
theorem Issue.fold_of_crc {x : Issue} (h : x.word.extractLsb' 88 8 ≠ 0x0A#8) (span : List Byte) :
    x.fold (crc32c span) = crc32c ((if x.tgt then [] else span) ++ toBytes 12 x.word.toNat) := by
  have hspan : (if x.tgt then 0 else crc32c span) = crc32c (if x.tgt then [] else span) := by
    cases x.tgt
    · rfl
    · exact crc32c_nil.symm
  rw [Issue.fold, if_neg h, foldSig, hspan, crcCont_crc32c]

section
variable {s : State} {x : Issue} {g : Group} {base l : Nat}

/-- A lane as its word ends. -/
theorem endWord_lane (h : l < g.lanes.length) : (endWord x base g).lane l =
    if x.iset.getLsbD l && (g.lane l).isLive && (g.lane l).trec.isNone then
      { g.lane l with pc := if x.moved.getLsbD l then (g.lane l).pc else succPc base x.pc, sig := x.fold (g.lane l).sig }
    else if x.iset.getLsbD l && g.leftUnparked (g.lane l) then { g.lane l with sig := x.fold (g.lane l).sig }
    else g.lane l := lane_mapFrom h

/-- The end of a word changes PCs and signatures alone. -/
theorem endWord_lane_eq (h : l < g.lanes.length) : (endWord x base g).lane l =
    { g.lane l with pc := ((endWord x base g).lane l).pc, sig := ((endWord x base g).lane l).sig } := by
  rw [endWord_lane h]
  split
  · rfl
  · split <;> rfl

theorem endWord_lane_pc (h : l < g.lanes.length) : ((endWord x base g).lane l).pc =
    if x.iset.getLsbD l && (g.lane l).isLive && (g.lane l).trec.isNone && !x.moved.getLsbD l then succPc base x.pc else (g.lane l).pc := by
  rw [endWord_lane h]
  cases x.iset.getLsbD l && (g.lane l).isLive && (g.lane l).trec.isNone
  · rw [if_neg Bool.false_ne_true, Bool.false_and, if_neg Bool.false_ne_true]
    split <;> rfl
  · cases hm : x.moved.getLsbD l <;> simp

/-- A lane outside I, or one that stands parked, keeps its signature. -/
theorem endWord_sig_of_parked (h : l < g.lanes.length)
    (hl : x.iset.getLsbD l = false ∨ (g.lane l).isLive = true ∧ (g.lane l).trec.isSome = true) :
    ((endWord x base g).lane l).sig = (g.lane l).sig := by
  rw [endWord_lane h]
  rcases hl with hout | ⟨hlive, hrec⟩
  · simp [hout]
  · have hstays : g.leftUnparked (g.lane l) = false := by
      have : (g.lane l).life = .live := by simpa [Lane.isLive] using hlive
      simp [Group.leftUnparked, this]
    rw [if_neg (by simp [Option.isSome_iff_ne_none.1 hrec]), if_neg (by simp [hstays])]

/-- A lane of I that the word does not park folds it. -/
theorem endWord_sig_of_passed (h : l < g.lanes.length) (hi : x.iset.getLsbD l = true) (hrec : (g.lane l).trec = none)
    (hq : (g.lane l).life ≠ .quenched) : ((endWord x base g).lane l).sig = x.fold (g.lane l).sig := by
  rw [endWord_lane h, hi, hrec]
  cases hlife : (g.lane l).life with
  | live => simp [Lane.isLive, hlife]
  | retired => simp [Lane.isLive, Group.leftUnparked, hlife]
  | quenched => exact absurd hlife hq

theorem endIssue_lane {all : Mask} {turn : Nat} (h : l < g.lanes.length) : (endIssue x all turn g).lane l =
    { g.lane l with w := if all.getLsbD l || !g.selMask.getLsbD l then 0 else if (g.lane l).w = 0xFFFF then 0xFFFF else (g.lane l).w + 1 } := by
  refine (lane_mapFrom h).trans ?_
  split
  · rfl
  · by_cases hw : (g.lane l).w = 0xFFFF#16 <;> simp [hw]

theorem Group.getLsbD_maskOf_eq (g : Group) (p : Lane → Bool) (hl : l < 64) (h : l < g.lanes.length) :
    (g.maskOf p).getLsbD l = p (g.lane l) := by
  rw [Bool.eq_iff_iff, Group.getLsbD_maskOf g p hl, and_iff_right h]

/-- Whether a lane is selectable does not turn on its PC or its signature. -/
theorem endWord_selectable (h : l < g.lanes.length) :
    (endWord x base g).selectable ((endWord x base g).lane l) = g.selectable (g.lane l) := by
  rw [endWord_lane_eq h]
  rfl

theorem finishWord_of_single (hi : s.issue = some x) (hv : x.void = false) (hg : tget s.groups x.gid = some g) (h2 : x.second = none) :
    s.finishWord = { s with groups := tset s.groups x.gid (endIssue x x.all s.turn (endWord x (s.grid g.grid).base g))
                            issue := none, pos := s.pos + 1 } := by
  simp only [State.finishWord, hi, hg, hv, h2, State.setGroup, tset_tset, Bool.false_eq_true, if_false]

/-- The issue of a pair's second word. -/
def Issue.follows (x : Issue) (base : Nat) (g : Group) (w : IWord) : Issue :=
  { x with pc := succPc base x.pc, iset := g.maskOf (fun l => l.isLive && l.trec.isNone) &&& x.iset, word := w, second := none
           isSecond := true, moved := 0, tgt := x.tgt2 }

theorem finishWord_of_pair {w : IWord} (hi : s.issue = some x) (hv : x.void = false) (hg : tget s.groups x.gid = some g)
    (h2 : x.second = some w) : s.finishWord =
      let h := endWord x (s.grid g.grid).base g
      { s with groups := tset s.groups x.gid h, issue := some (x.follows (s.grid g.grid).base h w) } := by
  simp only [State.finishWord, hi, hg, h2]
  rw [if_neg (by simp [hv])]
  rfl

end

/-- Settles O38: the end of a word is one change of its group's lanes, after which the issue ends or the pair's second word follows. -/
theorem lanesMovePastTheWord : Obligations.LanesMovePastTheWord := by
  intro s x g hi hv hg hlen base moves stays signs
  have hsize : ∀ l, l < 64 → l < g.lanes.length := fun l hl => by omega
  have hend : (endWord x base g).lanes.length = 64 := (length_mapFrom _ _ _).trans hlen
  have hstays : stays (endWord x base g) := fun l hl =>
    ⟨endWord_lane_pc (hsize l hl), by rw [endWord_lane_eq (hsize l hl)]; exact ⟨rfl, rfl, rfl, rfl, rfl⟩⟩
  have hsigns : signs (endWord x base g) := fun l hl => ⟨endWord_sig_of_parked (hsize l hl), fun hin hrec hq => by
    rw [endWord_sig_of_passed (hsize l hl) hin hrec hq]
    exact ⟨fun hop => Issue.fold_of_sigchk hop _, fun hop span hspan => by rw [hspan, Issue.fold_of_crc hop]⟩⟩
  constructor
  · intro h2
    rw [finishWord_of_single hi hv hg h2]
    have hlane : ∀ l, l < 64 → _ := fun l hl => endIssue_lane (x := x) (all := x.all) (turn := s.turn) (h := hend.symm ▸ hl)
    refine ⟨_, tget_tset_self _ _ _, rfl, fun l hl => ?_, fun l hl => ?_, rfl, fun l hl => ?_⟩
    · rw [hlane l hl]
      exact hstays l hl
    · rw [hlane l hl]
      exact hsigns l hl
    · rw [hlane l hl, endWord_lane_eq (hsize l hl), Group.selMask, Group.getLsbD_maskOf_eq _ _ hl (hend.symm ▸ hl),
        endWord_selectable (hsize l hl)]
  · intro w h2
    rw [finishWord_of_pair hi hv hg h2]
    refine ⟨_, _, tget_tset_self _ _ _, rfl, hstays, hsigns, rfl, rfl, rfl, fun l hl => ?_⟩
    refine (BitVec.getLsbD_and ..).trans ?_
    rw [Group.getLsbD_maskOf_eq _ _ hl (hend.symm ▸ hl), endWord_lane_eq (hsize l hl)]
    exact (Bool.and_comm ..).trans (Bool.and_assoc ..).symm

end Sys2Proof.Machine
end

section
/-! SUPPORT. Early readers (02 R55, R57). -/

namespace Sys2Proof.Machine

open Host (Outcome)

theorem foldl_max_lt {α : Type} (f : α → Nat) (n : Nat) : ∀ (l : List α) (m : Nat),
    n < l.foldl (fun m a => Nat.max m (f a)) m ↔ n < m ∨ ∃ a ∈ l, n < f a
  | [], m => by simp
  | a :: l, m => by
    rw [List.foldl_cons, foldl_max_lt f n l, List.exists_mem_cons_iff, ← or_assoc]
    exact or_congr_left lt_max_iff

theorem Landing.lt_width {p : Landing} {n : Nat} : n < p.width ↔ n < 1 ∨ ∃ r ∈ p.res, n < r.ws.length := foldl_max_lt _ _ _ _

/-- Results that are neither matrix nor remote ones are outstanding until the last of them is due (02 R57). -/
theorem Group.lt_settled {g : Group} {n : Nat} : n < g.settled ↔ ∃ p ∈ g.pend, p.kind = .ord ∧ p.res ≠ [] ∧ n < p.due := by
  rw [Group.settled, foldl_max_lt, or_iff_right (Nat.not_lt_zero n)]
  simp [List.mem_filter, and_assoc]

/-- A pending result meets `n` registers from `u`: the first of its own, from `w`, lies among them, or a lane's reach past `u`. -/
def Landing.meets (p : Landing) (u w n : Nat) : Prop := w < u + n ∧ (u ≤ w ∨ ∃ r ∈ p.res, u < w + r.ws.length)

theorem Landing.meets_iff {p : Landing} {u w n : Nat} : (decide (w < u + n) && decide (u < w + p.width)) = true ↔ p.meets u w n := by
  have hreach : u < w + p.width ↔ u ≤ w ∨ ∃ r ∈ p.res, u < w + r.ws.length := by
    by_cases h : u ≤ w
    · have hpos : 0 < p.width := Landing.lt_width.2 (.inl Nat.one_pos)
      exact iff_of_true (by omega) (.inl h)
    · rw [or_iff_right h, show u < w + p.width ↔ u - w < p.width by omega, Landing.lt_width, or_iff_right (by omega)]
      exact exists_congr fun r => and_congr_right fun _ => by omega
  rw [Bool.and_eq_true, decide_eq_true_eq, decide_eq_true_eq, hreach]
  rfl

/-- A lane's read of `n` registers from operand `o` meets a result of the lane that is on its way (02 R55). -/
def Group.readsEarly (g : Group) (l : Nat) (o : Opnd) (n : Nat) : Prop :=
  ∃ p ∈ g.pend, (∃ r ∈ p.res, r.lane = l) ∧
    match o, p.dst with
    | .lat, _ => (g.lane l).latSeq < p.seq
    | .v u, .v w => p.meets u.toNat w.toNat n
    | .o u, .o w => p.meets u.toNat w.toNat n
    | _, _ => False

theorem Group.pendingRead_iff {g : Group} {l : Nat} {o : Opnd} {n : Nat} : g.pendingRead l o n = true ↔ g.readsEarly l o n := by
  rw [Group.pendingRead, List.any_eq_true]
  refine exists_congr fun p => and_congr_right fun _ => ?_
  rw [Bool.and_eq_true, List.any_eq_true]
  refine and_congr (exists_congr fun r => and_congr_right fun _ => beq_iff_eq) ?_
  cases o with
  | lat => exact decide_eq_true_iff
  | v u =>
    cases p.dst with
    | v w => exact Landing.meets_iff
    | _ => exact iff_of_false Bool.false_ne_true id
  | o u =>
    cases p.dst with
    | o w => exact Landing.meets_iff
    | _ => exact iff_of_false Bool.false_ne_true id
  | spec u => cases p.dst <;> exact iff_of_false Bool.false_ne_true id

theorem State.undersized_of_clear {s : State} {g : Group} (h : (s.part g.pid).sbchk = false) (i : Instr) (m n : Mask) :
    s.undersized i g m n = 0 := by
  rw [State.undersized, h, if_neg Bool.false_ne_true]

section
variable {c : Ctl} {t : Ty} {d a : Opnd} {s : State} {g : Group}

/-- `mov` reads its one source in the lanes it selects. -/
theorem earlyLanes_mov (sel : Mask) : earlyLanes g (.mov c t d a) sel = maskOfList ((lanesOf sel).filter (fun l => g.pendingRead l a t.regs)) := by
  have hown : readersOf g (.mov c t d a) (fun r => r != .low) (lanesOf sel) = (lanesOf sel).filter (fun l => g.pendingRead l a t.regs) :=
    List.append_nil _
  have hlow : ∀ ls, readersOf g (.mov c t d a) (fun r => r == .low) ls = [] := fun _ => rfl
  rw [earlyLanes, hown, hlow]
  exact BitVec.or_zero

theorem getLsbD_maskOfList_filter {m : Mask} {p : Nat → Bool} {l : Nat} (hl : l < 64) :
    (maskOfList ((lanesOf m).filter p)).getLsbD l = true ↔ m.getLsbD l = true ∧ p l = true := by
  rw [getLsbD_maskOfList _ hl, List.mem_filter, mem_lanesOf]

/-- The early lanes of `mov` (02 R55, R57): through its predicate, over a stop's unsettled results, and through its source. -/
theorem undersized_mov_iff (hs : (s.part g.pid).sbchk = true) {iset sel : Mask} {l : Nat} (hl : l < 64) :
    (s.undersized (.mov c t d a) g iset sel).getLsbD l = true ↔
      (c.pe = true ∧ iset.getLsbD l = true ∧ g.pendingRead l (.v c.p) 1 = true) ∨
      (c.stop = true ∧ iset.getLsbD l = true ∧ s.turn < g.settled) ∨
      (sel.getLsbD l = true ∧ g.pendingRead l a t.regs = true) := by
  rw [State.undersized, if_pos hs, earlyLanes_mov]
  change BitVec.getLsbD ((if c.pe then maskOfList ((lanesOf iset).filter (fun l => g.pendingRead l (.v c.p) 1)) else 0) |||
    (if c.stop && true && decide (s.turn < g.settled) then iset else 0) ||| _) l = true ↔ _
  rw [BitVec.getLsbD_or, BitVec.getLsbD_or, Bool.or_eq_true, Bool.or_eq_true, or_assoc, getLsbD_maskOfList_filter hl]
  refine or_congr ?_ (or_congr_left ?_)
  · cases c.pe
    · simp
    · rw [if_pos rfl, getLsbD_maskOfList_filter hl, and_iff_right rfl]
  · cases c.stop <;> by_cases h : s.turn < g.settled <;> simp [h]

end

/-- An issue in a group whose decode checks pass runs the word's effect on the lanes that are not early, and parks those that are. -/
theorem withIssue_of_passes {i : Instr} {s : State} {x : Issue} {g : Group} (hx : s.issue = some x) (hg : tget s.groups x.gid = some g)
    (h : s.rejects i g x.iset x.lineBad = none) (body : Ctx → State → State) :
    let early := s.undersized i g x.iset (predSel g x.iset i)
    let sel := predSel g x.iset i &&& ~~~early
    withIssue i s body = .next ((body (wordCtx s x g sel) (s.began i x g sel)).parkMask x.gid early x.pc
      { trap := 5, cause := 1, word := x.word }) := by
  intro early sel
  have e : withIssue i s body = .next (runWord i x g s body) := by simp only [withIssue, hx, hg]
  rw [e, runWord, h]

theorem mov_parks_early {c : Ctl} {t : Ty} {d a : Opnd} {s : State} {x : Issue} {g : Group} (hx : s.issue = some x)
    (hg : tget s.groups x.gid = some g) (hpass : s.rejects (.mov c t d a) g x.iset x.lineBad = none) (hlen : g.lanes.length = 64)
    (hidle : g.hphase = .idle) :
    let i : Instr := .mov c t d a
    let early := s.undersized i g x.iset (predSel g x.iset i)
    let k := wordCtx s x g (predSel g x.iset i &&& ~~~early)
    ∃ u h, exec i s = .next u ∧ OnlyGroup x.gid s u ∧ tget u.groups x.gid = some h ∧
      h.pend = g.pend ++ [{ due := s.turn + 1, seq := g.seq + 1, dst := d, pc := x.pc
                            res := k.each t.regs (fun l => ((k.src s t.regs l a).toNat, 0)) }] ∧
      ∀ l, l < 64 → h.lane l = if early.getLsbD l && (g.lane l).isLive && (g.lane l).trec.isNone then
        (g.lane l).parkedAt x.pc { trap := 5, cause := 1, word := x.word } else g.lane l := by
  intro i early k
  set land : Landing := { due := s.turn + 1, seq := g.seq + 1, dst := d, pc := x.pc
                          res := k.each t.regs (fun l => ((k.src s t.regs l a).toNat, 0)) }
  set h : Group := { g with seq := g.seq + 1, pend := g.pend ++ [land] }
  set u : State := { s with groups := tset s.groups x.gid h, issue := some (x.ran i) }
  have hrun : exec i s = .next (u.parkMask x.gid early x.pc { trap := 5, cause := 1, word := x.word }) := by
    refine (withIssue_of_passes hx hg hpass _).trans (congrArg (fun v : State => Outcome.next (v.parkMask _ _ _ _)) ?_)
    change (s.began i x g _).modGroup x.gid (fun y => { y with pend := y.pend ++ [land] }) = u
    simp only [State.began, State.modGroup, State.setGroup, tmod_tset]
    rfl
  have hgroup : tget u.groups x.gid = some h := tget_tset_self _ _ _
  rw [State.parkMask_of_idle hgroup hidle] at hrun
  refine ⟨_, _, hrun, (OnlyGroup.of_tset (g := h) rfl).trans (OnlyGroup.of_tmod rfl), State.tget_modGroup hgroup, rfl, fun l hl => ?_⟩
  rw [Group.lane_onLanes (hlen.symm ▸ hl)]
  simp only [mem_lanesOf, Lane.parkOnce, Bool.and_assoc, Bool.and_eq_true]
  rw [← ite_and]
  rfl

/-- Settles O32: which results count as pending, then the frame of every word, which acts in the lanes that are not early and parks those that are. -/
theorem earlyReadersPark : Obligations.EarlyReadersPark := by
  refine ⟨fun i s g m n h => State.undersized_of_clear h i m n, ?_, ?_⟩
  · intro c t d a s g iset l hs hl
    refine (undersized_mov_iff hs hl).trans (or_congr ?_ (or_congr ?_ ?_))
    · exact and_congr_right fun _ => and_congr_right fun _ => Group.pendingRead_iff
    · exact and_congr_right fun _ => and_congr_right fun _ => Group.lt_settled
    · exact and_congr_right fun _ => Group.pendingRead_iff
  · intro c t d a s x g i early k hx hg hpass hlen hidle
    exact mov_parks_early hx hg hpass hlen hidle

end Sys2Proof.Machine
end

section
/-! What the updates of the state keep (02 R53, 09 R187, 10 R210): the frame of each, once. -/

namespace Sys2Proof.Machine

/-- Lane `m` has the registers, the latch and the flags of lane `l`. -/
def Lane.Keeps (l m : Lane) : Prop :=
  (m.v = l.v ∧ m.o = l.o ∧ m.lat = l.lat) ∧ m.qread = l.qread ∧ m.hexh = l.hexh ∧ m.wovf = l.wovf

/-- Group `h` has the spill memory and the flags of group `g`, and its lanes those of `g`. -/
structure Group.Keeps (g h : Group) : Prop where
  spill : h.spill = g.spill
  te : h.te = g.te
  fl : h.fl = g.fl
  lane : ∀ l, (g.lane l).Keeps (h.lane l)

theorem Lane.Keeps.refl (l : Lane) : l.Keeps l := ⟨⟨rfl, rfl, rfl⟩, rfl, rfl, rfl⟩

theorem Group.Keeps.refl (g : Group) : g.Keeps g := ⟨rfl, rfl, rfl, fun _ => .refl _⟩

theorem Lane.Keeps.trans {l m n : Lane} (h : l.Keeps m) (k : m.Keeps n) : l.Keeps n := by
  obtain ⟨⟨hv, ho, hlat⟩, hq, hx, hw⟩ := h
  obtain ⟨⟨kv, ko, klat⟩, kq, kx, kw⟩ := k
  exact ⟨⟨kv.trans hv, ko.trans ho, klat.trans hlat⟩, kq.trans hq, kx.trans hx, kw.trans hw⟩

theorem Group.Keeps.trans {g h k : Group} (a : g.Keeps h) (b : h.Keeps k) : g.Keeps k :=
  ⟨b.spill.trans a.spill, b.te.trans a.te, b.fl.trans a.fl, fun l => (a.lane l).trans (b.lane l)⟩

/-- A change of a lane that leaves its registers, its latch and its flags. -/
theorem Lane.Keeps.of_rest {l m : Lane} (hv : m.v = l.v := by rfl) (ho : m.o = l.o := by rfl) (hlat : m.lat = l.lat := by rfl)
    (hq : m.qread = l.qread := by rfl) (hx : m.hexh = l.hexh := by rfl) (hw : m.wovf = l.wovf := by rfl) : l.Keeps m :=
  ⟨⟨hv, ho, hlat⟩, hq, hx, hw⟩

/-- A change of a group that leaves its lanes, its spill memory and its flags. -/
theorem Group.Keeps.of_lanes {g h : Group} (hl : h.lanes = g.lanes := by rfl) (hs : h.spill = g.spill := by rfl) (ht : h.te = g.te := by rfl)
    (hf : h.fl = g.fl := by rfl) : g.Keeps h := ⟨hs, ht, hf, fun l => by rw [Group.lane, Group.lane, hl]; exact .refl _⟩

theorem Group.modLane_keeps {g : Group} {i : Nat} {f : Lane → Lane} (hf : (g.lane i).Keeps (f (g.lane i))) : g.Keeps (g.modLane i f) := by
  refine ⟨rfl, rfl, rfl, fun l => ?_⟩
  rw [Group.lane_modLane]
  split
  · next h => rw [← h.1]; exact hf
  · exact .refl _

theorem Group.modLanes_keeps {g : Group} {m : Mask} {f : Lane → Lane} (hf : ∀ l : Lane, l.Keeps (f l)) : g.Keeps (g.modLanes m f) := by
  refine ⟨rfl, rfl, rfl, fun l => ?_⟩
  by_cases h : l < g.lanes.length
  · rw [Group.lane_modLanes _ _ _ h]
    split
    · exact hf _
    · exact .refl _
  · have hno : ¬ l < (g.modLanes m f).lanes.length := by simpa [Group.modLanes] using h
    rw [Group.lane, Group.lane, List.getD_eq_default _ _ (not_lt.1 hno), List.getD_eq_default _ _ (not_lt.1 h)]
    exact .refl _

/-- A change of one lane, and of what holds no storage. -/
theorem Group.Keeps.of_modLane {g h : Group} {i : Nat} {f : Lane → Lane} (hl : h.lanes = (g.modLane i f).lanes)
    (hf : (g.lane i).Keeps (f (g.lane i))) (hs : h.spill = g.spill := by rfl) (ht : h.te = g.te := by rfl) (hfl : h.fl = g.fl := by rfl) :
    g.Keeps h := (Group.modLane_keeps hf).trans (.of_lanes hl hs ht hfl)

/-- A change of the lanes of a mask, and of what holds no storage. -/
theorem Group.Keeps.of_modLanes {g h : Group} {m : Mask} {f : Lane → Lane} (hl : h.lanes = (g.modLanes m f).lanes)
    (hf : ∀ l : Lane, l.Keeps (f l)) (hs : h.spill = g.spill := by rfl) (ht : h.te = g.te := by rfl) (hfl : h.fl = g.fl := by rfl) : g.Keeps h :=
  (Group.modLanes_keeps hf).trans (.of_lanes hl hs ht hfl)

namespace KeepsStorage

theorem refl (s : State) : KeepsStorage s s :=
  ⟨rfl, rfl, fun _ => rfl, fun _ _ => ⟨rfl, rfl, rfl⟩, fun _ _ => ⟨rfl, rfl, rfl, rfl, rfl⟩, fun _ _ => rfl, fun _ => rfl⟩

theorem trans {s t u : State} (h : KeepsStorage s t) (k : KeepsStorage t u) : KeepsStorage s u where
  hbm := k.hbm.trans h.hbm
  host := k.host.trans h.host
  ram sp := (k.ram sp).trans (h.ram sp)
  regs g l := by rw [(k.regs g l).1, (k.regs g l).2.1, (k.regs g l).2.2]; exact h.regs g l
  flags g l := by
    obtain ⟨kte, kfl, kq, kx, kw⟩ := k.flags g l
    rw [kte, kfl, kq, kx, kw]
    exact h.flags g l
  tiles c n := (k.tiles c n).trans (h.tiles c n)
  parts p := (k.parts p).trans (by rw [h.parts p])

/-- A change of what holds none of this storage. -/
theorem of_same {s t : State} (hhbm : t.hbm = s.hbm) (hhost : t.host = s.host) (hgroups : t.groups = s.groups) (hblocks : t.blocks = s.blocks)
    (hgrids : t.grids = s.grids) (hcores : t.cores = s.cores) (hparts : t.parts = s.parts) : KeepsStorage s t where
  hbm := hhbm
  host := hhost
  ram sp := by cases sp <;> simp only [State.ram, State.block, State.grid, State.group, hgroups, hblocks, hgrids]
  regs g l := by simp only [State.group, hgroups, and_self]
  flags g l := by simp only [State.group, hgroups, and_self]
  tiles c n := by simp only [State.tile, State.core, hcores]
  parts p := by simp only [State.part, hparts]

/-- A change of groups that keep their lanes' registers, their spill memory and their flags. -/
theorem of_groups {s t : State} (ht : t = { s with groups := t.groups }) (hg : ∀ j, (s.group j).Keeps (t.group j)) : KeepsStorage s t := by
  rw [ht]
  exact {
    hbm := rfl
    host := rfl
    ram := fun sp => by
      cases sp with
      | blk b => rfl
      | die g d => rfl
      | spill g => exact (hg g).spill
    regs := fun g l => ((hg g).lane l).1
    flags := fun g l => ⟨(hg g).te, (hg g).fl, ((hg g).lane l).2⟩
    tiles := fun _ _ => rfl
    parts := fun _ => rfl }

theorem foldl {α : Type} {step : State → α → State} (h : ∀ s a, KeepsStorage s (step s a)) (l : List α) (s : State) :
    KeepsStorage s (l.foldl step s) := by
  induction l generalizing s with
  | nil => exact refl s
  | cons a l ih => exact (h s a).trans (ih _)

/-- A choice keeps what both its sides keep. -/
theorem ite {c : Prop} [Decidable c] {s t u : State} (ht : KeepsStorage s t) (hu : KeepsStorage s u) : KeepsStorage s (if c then t else u) := by
  split <;> assumption

end KeepsStorage

section
variable {s : State}

theorem State.setGroup_keeps {gid : Nat} {h : Group} (hh : (s.group gid).Keeps h) : KeepsStorage s (s.setGroup gid h) := by
  refine .of_groups rfl fun j => ?_
  by_cases hj : j = gid
  · subst hj
    rw [show (s.setGroup j h).group j = h from State.group_of_tget (tget_tset_self _ _ _)]
    exact hh
  · simp only [State.setGroup, State.group, tget_tset_of_ne _ _ hj]
    exact .refl _

theorem State.modGroup_keeps {gid : Nat} {f : Group → Group} (hf : (s.group gid).Keeps (f (s.group gid))) :
    KeepsStorage s (s.modGroup gid f) := by
  refine .of_groups rfl fun j => ?_
  by_cases hj : j = gid
  · subst hj
    cases hg : tget s.groups j with
    | none => simp only [State.modGroup, State.group, tget_tmod_self, hg]; exact .refl _
    | some g =>
      rw [State.group_of_tget hg] at hf ⊢
      rw [State.group_of_tget (tget_tmod_of_some hg)]
      exact hf
  · simp only [State.modGroup, State.group, tget_tmod_of_ne _ _ hj]
    exact .refl _

theorem State.modGrid_keeps (gr : Nat) {f : Grid → Grid} (hf : ∀ r, (f r).scr0 = r.scr0 ∧ (f r).scr1 = r.scr1) :
    KeepsStorage s (s.modGrid gr f) := by
  have hgrid : ∀ j, ((s.modGrid gr f).grid j).scr0 = (s.grid j).scr0 ∧ ((s.modGrid gr f).grid j).scr1 = (s.grid j).scr1 := fun j => by
    by_cases hj : j = gr
    · subst hj
      simp only [State.modGrid, State.grid, tget_tmod_self]
      cases tget s.grids j with
      | none => exact ⟨rfl, rfl⟩
      | some r => exact hf r
    · simp only [State.modGrid, State.grid, tget_tmod_of_ne _ _ hj, and_self]
  refine { KeepsStorage.refl s with ram := fun sp => ?_ }
  cases sp with
  | blk b => rfl
  | die g d => simp only [State.ram, hgrid]
  | spill g => rfl

theorem State.setCore_keeps (k : Nat) {c : Core} (hc : ∀ n, (c.tiles.getD n {}).words = ((s.core k).tiles.getD n {}).words) :
    KeepsStorage s (s.setCore k c) := by
  refine { KeepsStorage.refl s with tiles := fun j n => ?_ }
  by_cases hj : j = k
  · subst hj
    rw [State.tile, State.core_setCore_self]
    exact hc n
  · rw [State.tile, State.core_setCore_of_ne _ _ hj]
    rfl

theorem State.modCore_keeps (k : Nat) {f : Core → Core} (hf : ∀ c, (f c).tiles = c.tiles := by intro _; rfl) : KeepsStorage s (s.modCore k f) :=
  State.setCore_keeps k fun n => by rw [hf]

/-- A change of a partition's pending writes, faults and counts. -/
theorem State.modPart_keeps (p : Nat) {f : Part → Part}
    (hf : ∀ q, f q = { q with pend := (f q).pend, faults := (f q).faults, scmant := (f q).scmant, scce := (f q).scce } := by intro _; rfl) :
    KeepsStorage s (s.modPart p f) := by
  refine { KeepsStorage.refl s with parts := fun j => ?_ }
  have hpart : (s.modPart p f).part j = if p = j ∧ j < s.parts.length then f (s.part j) else s.part j := getD_lmod _ _ _ _ _
  rw [hpart]
  split
  · exact hf _
  · rfl

theorem State.modIssue_keeps (f : Issue → Issue) : KeepsStorage s (s.modIssue f) := .of_same rfl rfl rfl rfl rfl rfl rfl

theorem State.setIssue_keeps (q : Option Issue) : KeepsStorage s { s with issue := q } := .of_same rfl rfl rfl rfl rfl rfl rfl

theorem State.setIdent_keeps (n : Nat) : KeepsStorage s { s with ident := n } := .of_same rfl rfl rfl rfl rfl rfl rfl

theorem State.setDev_keeps (d : Dev) : KeepsStorage s { s with dev := d } := .of_same rfl rfl rfl rfl rfl rfl rfl

theorem State.setSemq_keeps (q : List SemAcc) : KeepsStorage s { s with semq := q } := .of_same rfl rfl rfl rfl rfl rfl rfl

/-! Results -/

theorem State.result_keeps (k : Ctx) (lat : Nat) (d : Opnd) (res : List LRes) (kind : RKindL) : KeepsStorage s (s.result k lat d res kind) :=
  State.modGroup_keeps .of_lanes

theorem State.put_keeps (k : Ctx) (lat : Nat) (d : Opnd) (n : Nat) (f : Nat → Nat) : KeepsStorage s (s.put k lat d n f) :=
  State.result_keeps _ _ _ _ _

theorem State.putF_keeps (k : Ctx) (lat : Nat) (d : Opnd) (n : Nat) (f : Nat → Nat × BitVec 8) : KeepsStorage s (s.putF k lat d n f) :=
  State.result_keeps _ _ _ _ _

theorem State.reserve_keeps (k : Ctx) (due : Nat) (d : Opnd) (n : Nat) (kind : RKindL) : KeepsStorage s (s.reserve k due d n kind) :=
  State.modGroup_keeps .of_lanes

/-! Lanes that leave, park and wait -/

theorem State.modLane_keeps {gid lane : Nat} {f : Lane → Lane} (hf : ((s.group gid).lane lane).Keeps (f ((s.group gid).lane lane))) :
    KeepsStorage s (s.modGroup gid (fun g => g.modLane lane f)) := State.modGroup_keeps (Group.modLane_keeps hf)

theorem State.raise_keeps (p : Nat) (f : CFault) : KeepsStorage s (s.raise p f) := State.modPart_keeps p

theorem State.quench_keeps (gid lane cause : Nat) : KeepsStorage s (s.quench gid lane cause) := by
  unfold State.quench
  refine .ite (.trans (State.setGroup_keeps ?_) (State.modGrid_keeps _ fun _ => ⟨rfl, rfl⟩)) (.refl s)
  exact .of_modLane (i := lane) (f := fun l => l.gone .quenched) rfl .of_rest

theorem State.quenchAll_keeps (gid : Nat) (lanes : List Nat) (cause : Nat) : KeepsStorage s (s.quenchAll gid lanes cause) :=
  .foldl (fun _ _ => State.quench_keeps _ _ _) _ _

theorem State.park_keeps (gid lane : Nat) (pc : BitVec 20) (r : TrapRec) : KeepsStorage s (s.park gid lane pc r) := by
  have hpark : ∀ u : State, KeepsStorage u (u.modGroup gid (fun x => x.modLane lane (fun l => l.parkedAt pc r))) :=
    fun u => State.modLane_keeps .of_rest
  unfold State.park
  refine .ite (.refl s) (.ite (.ite (.trans (State.raise_keeps _ _) (hpark _)) (State.quench_keeps _ _ _)) ?_)
  split
  · exact .ite (.refl s) (hpark s)
  · exact hpark s

theorem State.parkMask_keeps (gid : Nat) (m : Mask) (pc : BitVec 20) (r : TrapRec) : KeepsStorage s (s.parkMask gid m pc r) :=
  .foldl (fun _ _ => State.park_keeps _ _ _ _) _ _

theorem State.parkLane_keeps (k : Ctx) (lane : Nat) (r : TrapRec) : KeepsStorage s (s.parkLane k lane r) := State.park_keeps _ _ _ _

theorem State.parkSel_keeps (k : Ctx) (r : TrapRec) : KeepsStorage s (s.parkSel k r) := State.parkMask_keeps _ _ _ _

theorem State.parkEach_keeps (k : Ctx) (trap cause : Nat) (targ : Nat → Word) : KeepsStorage s (s.parkEach k trap cause targ) :=
  .foldl (fun _ _ => State.parkLane_keeps _ _ _) _ _

theorem State.violate_keeps (k : Ctx) (cause : Nat) (adr : DWord) (peer : Word) : KeepsStorage s (s.violate k cause adr peer) :=
  .trans (State.raise_keeps _ _) (State.modIssue_keeps _)

theorem State.waitLane_keeps (k : Ctx) (lane : Nat) (c : Cond) (since : Nat) : KeepsStorage s (s.waitLane k lane c since) :=
  State.modLane_keeps .of_rest

theorem State.take_keeps (k : Ctx) (lane target depth : Nat) : KeepsStorage s (s.take k lane target depth) :=
  .trans (State.modLane_keeps .of_rest) (State.modIssue_keeps _)

/-- The wait of a lane, given to each lane of a list. -/
theorem State.waitLanes_keeps (k : Ctx) (c : Nat → Cond) (since : Nat) (ls : List Nat) :
    KeepsStorage s (ls.foldl (fun s l => s.waitLane k l (c l) since) s) := .foldl (fun _ _ => State.waitLane_keeps _ _ _ _) _ _

end
end Sys2Proof.Machine
end

section
/-! The words that reach past their group: what each of their shared meanings keeps (07 R148, 09 R193, 10 R213, 11 R231, 14 R308). -/

namespace Sys2Proof.Machine

section
variable {s : State}

theorem State.enqueue_keeps (k : Ctx) (sp : Space) (bank : Nat) (op : AccOp) (lanes : List ALane) (d : Opnd) :
    KeepsStorage s (s.enqueue k sp bank op lanes d) := .of_same rfl rfl rfl rfl rfl rfl rfl

/-- An access that joins the banks and reserves its result. -/
theorem State.enqueue_reserve_keeps (k : Ctx) (sp : Space) (bank : Nat) (op : AccOp) (lanes : List ALane) (d : Opnd) (due : Nat) (e : Opnd)
    (n : Nat) (kind : RKindL) : KeepsStorage s ((s.enqueue k sp bank op lanes d).reserve k due e n kind) :=
  .trans (State.enqueue_keeps _ _ _ _ _ _) (State.reserve_keeps _ _ _ _ _)

theorem State.defer_keeps (k : Ctx) (due : Nat) (w : PWrite) : KeepsStorage s (s.defer k due w) := State.modPart_keeps _

theorem State.badIndex_keeps (k : Ctx) (v : Word) : KeepsStorage s (s.badIndex k v) := State.parkEach_keeps _ _ _ _

/-! Transfers of control -/

theorem State.badTarget_keeps (k : Ctx) (lane : Nat) (t : Word) : KeepsStorage s (s.badTarget k lane t) := State.parkLane_keeps _ _ _

theorem branch_keeps (k : Ctx) (sofs : Word) (cond : Nat → Bool) : KeepsStorage s (branch k sofs cond s) := by
  refine .foldl (fun u l => .ite (.refl u) ?_) _ _
  split
  · exact .ite (State.take_keeps _ _ _ _) (State.badTarget_keeps _ _ _)
  · exact State.badTarget_keeps _ _ _

theorem callTo_keeps (k : Ctx) (d : Opnd) (tgt : Nat → Option Nat) (targ : Nat → Word) : KeepsStorage s (callTo k d tgt targ s) := by
  refine .trans (.foldl (fun u l => ?_) _ _) (State.result_keeps _ _ _ _ _)
  exact .ite (State.parkLane_keeps _ _ _) (.ite (State.take_keeps _ _ _ _) (State.badTarget_keeps _ _ _))

/-! Matrix words -/

theorem State.modTile_keeps (k n : Nat) {f : Tile → Tile} (hf : ∀ t, (f t).words = t.words) : KeepsStorage s (s.modTile k n f) := by
  refine State.setCore_keeps k fun j => ?_
  rw [getD_lmod]
  split
  · exact hf _
  · rfl

theorem Group.close_keeps (g : Group) (c : Bool) : g.Keeps (if c then g.close else g) := by
  cases c
  · exact .refl g
  · exact .of_lanes

theorem State.accept_keeps (k : Ctx) (c : EKind) (occ : Nat) (d : Opnd) (fa fb : Nat) (busy : Option (List Busy)) (cls : Bool) :
    KeepsStorage s (s.accept k c occ d fa fb busy cls) := by
  have hqueue : ∀ (n : Nat) (e : ECmd), KeepsStorage s (({ s with ident := n } : State).modCore k.g.core (fun q => { q with eq := q.eq ++ [e] })) :=
    fun n e => .trans (State.setIdent_keeps n) (State.modCore_keeps _)
  cases busy with
  | none => exact hqueue _ _
  | some b => exact (hqueue _ _).trans (State.modGroup_keeps (.trans .of_lanes (Group.close_keeps _ _)))

theorem State.acceptLoop_keeps (k : Ctx) (m : MLoop) (retry cls : Bool) : KeepsStorage s (s.acceptLoop k m retry cls) := by
  unfold State.acceptLoop
  refine .ite (State.parkEach_keeps _ _ _ _) ?_
  have hloop := (State.accept_keeps (s := s) k (.mloop m retry) (m.occ (Nat.max m.fa m.fb) 0) (.spec 0) m.fa m.fb (some []) cls).trans
    (State.modGroup_keeps (gid := k.gid) (f := fun g => { g with
      prog := loopRecord m.tile 0, progSrc := some s.ident, progN := m.nk, mrec := loopRecord m.tile 0, mrecSrc := some s.ident, mrecN := m.nk })
      .of_lanes)
  exact .ite hloop (hloop.trans (State.modTile_keeps _ _ fun _ => rfl))

theorem engineWord_keeps (k : Ctx) {go : State → State} (hgo : ∀ u, KeepsStorage u (go u)) : KeepsStorage s (engineWord k s go) :=
  .ite (.refl s) (.ite (State.parkEach_keeps _ _ _ _) (hgo s))

/-- A command whose result comes later. -/
theorem State.accept_later_keeps (k : Ctx) (c : EKind) (occ : Nat) (d : Opnd) (n : Nat) :
    KeepsStorage s ((s.accept k c occ d).later k d n) := .trans (State.accept_keeps _ _ _ _ _ _ _ _) (State.reserve_keeps _ _ _ _ _)

/-- A command that ends what `mretry` could repeat on its tile. -/
theorem State.accept_modTile_keeps (k : Ctx) (c : EKind) (occ : Nat) (d : Opnd) (fa fb : Nat) (busy : Option (List Busy)) (cls : Bool)
    (core n : Nat) {f : Tile → Tile} (hf : ∀ t, (f t).words = t.words) :
    KeepsStorage s ((s.accept k c occ d fa fb busy cls).modTile core n f) :=
  .trans (State.accept_keeps _ _ _ _ _ _ _ _) (State.modTile_keeps _ _ hf)

/-! Scratch words -/

theorem Group.horizon_keeps (g : Group) (k : AccShape) (bank turn : Nat) : g.Keeps (g.horizon k bank turn) := by
  unfold Group.horizon
  split
  · exact .refl g
  · exact .of_lanes

theorem scratchWord_keeps (k : Ctx) (a : AccShape) (adr : Nat → Word) {go : Space → Nat → (Nat → Nat) → State → State}
    (hgo : ∀ sp bank at_ u, KeepsStorage u (go sp bank at_ u)) : KeepsStorage s (scratchWord k a adr s go) := by
  unfold scratchWord
  split
  · exact .refl s
  · dsimp only
    split
    · exact State.violate_keeps _ _ _ _
    · split
      · exact State.violate_keeps _ _ _ _
      · refine .ite (State.parkEach_keeps _ _ _ _) (.ite (State.parkEach_keeps _ _ _ _) (.ite (State.parkEach_keeps _ _ _ _)
          (.ite (State.parkEach_keeps _ _ _ _) ((hgo _ _ _ s).trans (State.modGroup_keeps (Group.horizon_keeps _ _ _ _))))))

theorem spillWordOp_keeps (k : Ctx) (n : Nat) (adr : Nat → Word) {go : State → State} (hgo : ∀ u, KeepsStorage u (go u)) :
    KeepsStorage s (spillWordOp k n adr s go) :=
  .ite (State.parkEach_keeps _ _ _ _) (.ite (State.parkEach_keeps _ _ _ _) (.ite (.refl s) (hgo s)))

theorem atomWord_keeps (k : Ctx) (die : Bool) (op : AOp) (ord : Bool) (d a b cc : Opnd) (ofs : BitVec 24) :
    KeepsStorage s (atomWord k die op ord d a b cc ofs s) :=
  scratchWord_keeps _ _ _ fun _ _ _ _ => State.enqueue_reserve_keeps _ _ _ _ _ _ _ _ _ _

theorem redWord_keeps (k : Ctx) (die : Bool) (op : AOp) (a b : Opnd) (ofs : BitVec 24) : KeepsStorage s (redWord k die op a b ofs s) := by
  unfold redWord
  refine scratchWord_keeps _ _ _ fun sp bank at_ u => ?_
  dsimp only
  exact .ite (.trans (State.modCore_keeps _) (State.modGroup_keeps (Group.modLanes_keeps fun _ => .of_rest)))
    (State.enqueue_keeps _ _ _ _ _ _)

theorem State.flush_keeps (k t lim : Nat) : KeepsStorage s (s.flush k t lim).1 := by
  unfold State.flush
  dsimp only
  split
  · exact .refl s
  · exact State.setCore_keeps _ fun _ => rfl

/-! Copy words -/

theorem Core.setQueue_tiles (c : Core) (cl : CClass) (q : List CCmd) : (c.setQueue cl q).tiles = c.tiles := by
  cases cl <;> rfl

theorem copyWord_keeps (k : Ctx) (c : CopyShape) {go : State → State} (hgo : ∀ u, KeepsStorage u (go u)) :
    KeepsStorage s (copyWord k c s go) := by
  unfold copyWord
  refine .ite (.refl s) ?_
  split
  · exact State.violate_keeps _ _ _ _
  · split
    · exact State.parkEach_keeps _ _ _ _
    · exact State.parkEach_keeps _ _ _ _
    · dsimp only
      split
      · exact State.parkEach_keeps _ _ _ _
      · exact .ite (State.parkEach_keeps _ _ _ _) (hgo s)

theorem State.acceptCopy_keeps (k : Ctx) (cl : CClass) (kind : CKind) (units vol : Nat) (mir : Bool) (busy : List (Bool × Nat × Nat × Bool))
    (prog : Option Nat) (cls : Bool) (d : Opnd) : KeepsStorage s (s.acceptCopy k cl kind units vol mir busy prog cls d) := by
  have hqueue : ∀ (n : Nat) (e : CCmd), KeepsStorage s
      (({ s with ident := n } : State).modCore k.g.core (fun q => q.setQueue cl (q.queue cl ++ [e]))) :=
    fun n e => .trans (State.setIdent_keeps n) (State.modCore_keeps _ fun _ => Core.setQueue_tiles _ _ _)
  refine .trans (.trans (hqueue _ _) (State.modGroup_keeps ?_)) (State.put_keeps _ _ _ _ _)
  refine .trans ?_ (Group.close_keeps _ cls)
  cases prog <;> exact .of_lanes

theorem indexWord_keeps (k : Ctx) (scat : Bool) (far : Option (BitVec 5)) (die : Bool) (esz : BitVec 3) (cls : Bool) (d a b cc : Opnd) :
    KeepsStorage s (indexWord k scat far die esz cls d a b cc s) :=
  .ite (State.violate_keeps _ _ _ _) (.ite (State.violate_keeps _ _ _ _)
    (copyWord_keeps _ _ fun _ => State.acceptCopy_keeps _ _ _ _ _ _ _ _ _ _))

/-! Remote words -/

theorem remoteWord_keeps (k : Ctx) (rk : RKind) (n : Nat) (signed ord : Bool) (adr : Nat → Nat) (b : Nat → DWord × DWord) (pw : Nat → Word)
    (d : Opnd) (nd : Nat) : KeepsStorage s (remoteWord k rk n signed ord adr b pw d nd s) := by
  unfold remoteWord
  refine .ite (.refl s) ?_
  split
  · exact State.violate_keeps _ _ _ _
  · refine .ite (State.parkEach_keeps _ _ _ _) (.ite (State.parkEach_keeps _ _ _ _) (.ite (State.parkEach_keeps _ _ _ _) ?_))
    have hout : ∀ (m : Nat) (q : List RExec) (f : Issue → Issue), KeepsStorage s
        ((({ s with ident := m } : State).modGroup k.gid (fun g => { g with runq := g.runq ++ q })).modIssue f) := fun m q f =>
      .trans (State.setIdent_keeps m) (.trans (State.modGroup_keeps .of_lanes) (State.modIssue_keeps _))
    exact .ite ((hout _ _ _).trans (State.reserve_keeps _ _ _ _ _)) (hout _ _ _)

/-! Rings and semaphores -/

theorem ringIssue_keeps (k : Ctx) (op : Nat) (a : Opnd) (v : Word) (d : Opnd) (nd : Nat) : KeepsStorage s (ringIssue k op a v d nd s) := by
  have hput : ∀ (sp : Space) (bank : Nat) (o : AccOp) (ls : List ALane) (q : AccShape), KeepsStorage s
      ((s.enqueue k sp bank o ls d).modGroup k.gid (fun g => g.horizon q bank (s.enqueue k sp bank o ls d).turn)) := fun sp bank o ls q =>
    .trans (State.enqueue_keeps _ _ _ _ _ _) (State.modGroup_keeps (Group.horizon_keeps _ _ _ _))
  exact .ite (.refl s) (.ite (State.violate_keeps _ _ _ _) (.ite (State.parkEach_keeps _ _ _ _) (.ite (State.badIndex_keeps _ _)
    (.ite (State.violate_keeps _ _ _ _) (.ite (State.parkEach_keeps _ _ _ _) (.ite (State.parkEach_keeps _ _ _ _)
      (.ite (hput _ _ _ _ _) ((hput _ _ _ _ _).trans (State.reserve_keeps _ _ _ _ _)))))))))

theorem semWord_keeps (k : Ctx) (kind : Nat) (intr : Bool) (a b d : Opnd) : KeepsStorage s (semWord k kind intr a b d s) := by
  have hq : ∀ (q : List SemAcc) (m : Nat) (f : Group → Group), (∀ g : Group, g.Keeps (f g)) →
      KeepsStorage s (({ s with ident := m, semq := q } : State).modGroup k.gid f) := fun q m f hf =>
    .trans (.trans (State.setIdent_keeps m) (State.setSemq_keeps q)) (State.modGroup_keeps (hf _))
  refine .ite (.refl s) (.ite (State.badIndex_keeps _ _) (.ite (.trans (hq _ _ _ ?_) (State.reserve_keeps _ _ _ _ _)) (hq _ _ _ ?_)))
  · exact fun g => .of_lanes
  · exact fun g => .of_lanes

/-! Correctable events -/

theorem State.markCore_keeps (k : Nat) : KeepsStorage s (s.markCore k) :=
  .ite (.refl s) (.trans (State.modCore_keeps k) (State.setDev_keeps _))

theorem State.correctable_keeps (k : Nat) : KeepsStorage s (s.correctable k) := by
  have hcount : KeepsStorage s ((s.modCore k (fun c => { c with cecnt := c.cecnt + 1, ceWin := c.ceWin + 1 })).modPart
      ((s.modCore k (fun c => { c with cecnt := c.cecnt + 1, ceWin := c.ceWin + 1 })).partOf k) (fun p => { p with scce := satInc p.scce })) :=
    .trans (State.modCore_keeps k) (State.modPart_keeps _)
  exact .ite (hcount.trans (State.markCore_keeps k)) hcount

end
end Sys2Proof.Machine
end

section
/-! No instruction word changes storage: the frame of every word, and each word's own effect within it (02 R53, 09 R187, 10 R210, 16 R374). -/

namespace Sys2Proof.Machine

open Host (Outcome)

theorem Group.noteWord_keeps (g : Group) (i : Instr) (sel : Mask) : g.Keeps (g.noteWord i sel) := by
  unfold Group.noteWord
  dsimp only
  split
  · exact .of_modLanes rfl fun _ => .of_rest
  · exact .of_lanes

theorem State.began_keeps {s : State} {x : Issue} {g : Group} (hg : tget s.groups x.gid = some g) (i : Instr) (sel : Mask) :
    KeepsStorage s (s.began i x g sel) := by
  refine .trans (State.setGroup_keeps ?_) (State.setIssue_keeps _)
  rw [State.group_of_tget hg]
  exact Group.noteWord_keeps _ _ _

/-- A word changes no storage where its own effect changes none: what it does besides parks lanes and ends reservations. -/
theorem withIssue_keeps {i : Instr} {s t : State} {body : Ctx → State → State} (h : withIssue i s body = .next t)
    (hb : ∀ k u, KeepsStorage u (body k u)) : KeepsStorage s t := by
  unfold withIssue at h
  split at h
  · cases h
  · split at h
    · cases h
    · next x _ g hg =>
      cases h
      unfold runWord
      split
      · exact .trans (State.parkMask_keeps _ _ _ _) (State.setIssue_keeps _)
      · exact (State.began_keeps hg _ _).trans ((hb _ _).trans (State.parkMask_keeps _ _ _ _))

theorem parkWord_keeps {r : TrapRec} {s t : State} (h : parkWord r s = .next t) : KeepsStorage s t := by
  unfold parkWord at h
  split at h
  · cases h
  · cases h
    exact .trans (State.parkMask_keeps _ _ _ _) (State.setIssue_keeps _)

section
variable {s t : State}

/-! Words whose effect is a case analysis of their own -/

theorem exit_keeps {c : Ctl} (h : exec (.exit c) s = .next t) : KeepsStorage s t :=
  withIssue_keeps h fun _ _ => State.modGroup_keeps (.of_modLanes rfl fun _ => .of_rest)

theorem yield_keeps {c : Ctl} (h : exec (.yield c) s = .next t) : KeepsStorage s t :=
  withIssue_keeps h fun _ u => .ite (State.modGroup_keeps .of_lanes) (.refl u)

theorem sigchk_keeps {c : Ctl} {imm : Word} (h : exec (.sigchk c imm) s = .next t) : KeepsStorage s t := by
  refine withIssue_keeps h fun k u => ?_
  split
  · exact .refl u
  · exact State.raise_keeps _ _

theorem ret_keeps {c : Ctl} {a : Opnd} (h : exec (.ret c a) s = .next t) : KeepsStorage s t :=
  withIssue_keeps h fun _ _ => .foldl (fun _ _ => .ite (State.parkLane_keeps _ _ _)
    (.ite (State.take_keeps _ _ _ _) (State.badTarget_keeps _ _ _))) _ _

theorem jmp_keeps {c : Ctl} {a : Opnd} (h : exec (.jmp c a) s = .next t) : KeepsStorage s t :=
  withIssue_keeps h fun _ _ => .foldl (fun _ _ => .ite (State.take_keeps _ _ _ _) (State.badTarget_keeps _ _ _)) _ _

theorem waitc_keeps {c : Ctl} {a : Opnd} (h : exec (.waitc c a) s = .next t) : KeepsStorage s t :=
  withIssue_keeps h fun _ _ => .foldl (fun v _ => .ite (State.waitLane_keeps _ _ _ _) (.refl v)) _ _

theorem bwait_keeps {c : Ctl} {a : Opnd} {imm : Word} (h : exec (.bwait c a imm) s = .next t) : KeepsStorage s t :=
  withIssue_keeps h fun _ _ => .foldl (fun v _ => .ite (State.parkLane_keeps _ _ _) (.ite (State.waitLane_keeps _ _ _ _) (.refl v))) _ _

theorem bbar_keeps {c : Ctl} {a b : Opnd} (h : exec (.bbar c a b) s = .next t) : KeepsStorage s t :=
  withIssue_keeps h fun _ u => .ite (.refl u) (.ite (State.badIndex_keeps _ _) (.ite (.refl u) (State.waitLanes_keeps _ _ _ _)))

theorem shfl_keeps {c : Ctl} {mode : ShflMode} {w64 : Bool} {d a b : Opnd} (h : exec (.shfl c mode w64 d a b) s = .next t) : KeepsStorage s t :=
  withIssue_keeps h fun _ _ => .trans (State.parkSel_keeps _ _) (State.putF_keeps _ _ _ _ _)

theorem mloop_keeps {c : Ctl} {ty : Ty} {tile : BitVec 3} {sc acc adie bdie cls : Bool} {d a b cc : Opnd}
    (h : exec (.mloop c ty tile sc acc adie bdie cls d a b cc) s = .next t) : KeepsStorage s t :=
  withIssue_keeps h fun _ _ => engineWord_keeps _ fun _ => .ite (State.parkEach_keeps _ _ _ _)
    (.trans (State.acceptLoop_keeps _ _ _ _) (State.result_keeps _ _ _ _ _))

theorem maccLd_keeps {c : Ctl} {tile : BitVec 3} {die cls : Bool} {a : Opnd} (h : exec (.maccLd c tile die cls a) s = .next t) :
    KeepsStorage s t := by
  refine withIssue_keeps h fun k u => engineWord_keeps _ fun v => ?_
  dsimp only
  split
  · exact State.violate_keeps _ _ _ _
  · exact .ite (State.parkEach_keeps _ _ _ _) (.ite (State.parkEach_keeps _ _ _ _) (State.accept_modTile_keeps _ _ _ _ _ _ _ _ _ _ fun _ => rfl))

theorem maccSt_keeps {c : Ctl} {tile : BitVec 3} {die cls : Bool} {a : Opnd} (h : exec (.maccSt c tile die cls a) s = .next t) :
    KeepsStorage s t := by
  refine withIssue_keeps h fun k u => engineWord_keeps _ fun v => ?_
  dsimp only
  split
  · exact State.violate_keeps _ _ _ _
  · exact .ite (State.violate_keeps _ _ _ _) (.ite (State.parkEach_keeps _ _ _ _)
      (.ite (State.parkEach_keeps _ _ _ _) (State.accept_keeps _ _ _ _ _ _ _ _)))

theorem mretry_keeps {c : Ctl} {tile : BitVec 3} {cls : Bool} (h : exec (.mretry c tile cls) s = .next t) : KeepsStorage s t := by
  refine withIssue_keeps h fun k u => engineWord_keeps _ fun v => ?_
  dsimp only
  split
  · exact .trans (State.parkEach_keeps _ _ _ _) (State.modPart_keeps _)
  · exact State.acceptLoop_keeps _ _ _ _

theorem fence_keeps {c : Ctl} {k : FenceKind} {sc : Scope} (h : exec (.fence c k sc) s = .next t) : KeepsStorage s t :=
  withIssue_keeps h fun _ u => .ite (.refl u) (State.modGroup_keeps .of_lanes)

theorem aflush_keeps {c : Ctl} {d : Opnd} (h : exec (.aflush c d) s = .next t) : KeepsStorage s t :=
  withIssue_keeps h fun _ u => .ite (.refl u) (.ite
    (.trans (State.flush_keeps _ _ _) (.trans (State.modGroup_keeps .of_lanes) (State.put_keeps _ _ _ _ _))) (State.put_keeps _ _ _ _ _))

theorem bclose_keeps {c : Ctl} {sc : Scope} {d : Opnd} (h : exec (.bclose c sc d) s = .next t) : KeepsStorage s t :=
  withIssue_keeps h fun _ u => .ite (.refl u) (.trans (State.modGroup_keeps .of_lanes) (State.put_keeps _ _ _ _ _))

theorem rti_keeps {c : Ctl} (h : exec (.rti c) s = .next t) : KeepsStorage s t :=
  withIssue_keeps h fun _ u => .ite (.refl u) (.trans (State.modIssue_keeps _) (.ite
    (.foldl (fun _ _ => .trans (State.waitLane_keeps _ _ _ _) (State.modLane_keeps .of_rest)) _ _)
    (State.parkSel_keeps _ _)))

theorem syswr_keeps {c : Ctl} {num : BitVec 12} {a : Opnd} (h : exec (.syswr c num a) s = .next t) : KeepsStorage s t :=
  withIssue_keeps h fun _ u => .ite (.refl u) (.ite (State.defer_keeps _ _ _) (State.defer_keeps _ _ _))

theorem finj_keeps {c : Ctl} {k : InjKind} {die : Bool} {a : Opnd} (h : exec (.finj c k die a) s = .next t) : KeepsStorage s t := by
  refine withIssue_keeps h fun x u => .ite (.refl u) ?_
  cases k with
  | acc => exact engineWord_keeps _ fun _ => .ite (State.badIndex_keeps _ _) (State.accept_keeps _ _ _ _ _ _ _ _)
  | poison =>
    dsimp only
    split
    · exact State.violate_keeps _ _ _ _
    · exact State.enqueue_keeps _ _ _ _ _ _
  | parity => exact .ite (State.defer_keeps _ _ _) (State.badIndex_keeps _ _)
  | cevt => exact .ite (State.correctable_keeps _) (State.badIndex_keeps _ _)

end

/-- Settles O42: within the frame of every word, each word's own effect is put together from operations that keep all storage. -/
theorem wordsKeepStorage : Obligations.WordsKeepStorage := by
  intro i s t hi h
  cases i with
  | nop | stopmark => exact withIssue_keeps h fun _ u => .refl u
  | bra | brz | brnz => exact withIssue_keeps h fun _ _ => branch_keeps _ _ _
  | call | jcall => exact withIssue_keeps h fun _ _ => callTo_keeps _ _ _ _
  | ret => exact ret_keeps h
  | jmp => exact jmp_keeps h
  | exit => exact exit_keeps h
  | yield => exact yield_keeps h
  | sigchk => exact sigchk_keeps h
  | waitc => exact waitc_keeps h
  | add | sub | addImm | subImm | mulLo | mulLoImm | mulHi | mad | min | max | abs | and | or | xor | andImm | orImm | xorImm | andn | not
  | shl | shr | sar | rot | bfe | bfi | popc | clz | ctz | brev | sel | cmp | lea | ext | trunc | mov | movImm | movs | vote | bcast
  | matchAny | scanAdd | lanemask | fclass | wclr | wbase | wsign | mprog | podt =>
    exact withIssue_keeps h fun _ _ => State.put_keeps _ _ _ _ _
  | shfl => exact shfl_keeps h
  | fadd | fsub | fmul | ffma | fdot2 | fmin | fmax | fcmp | frcp | frsq | fsqrt | fexp2 | flog2 | fsin | fcos | fround | fldexp | ffrexp
  | cvt | cvtSr | bpack | bunpack | wfma | wadd | wrnd => exact withIssue_keeps h fun _ _ => State.putF_keeps _ _ _ _ _
  | mma | mdrain | mchk | mloc | mfix => exact withIssue_keeps h fun _ _ => engineWord_keeps _ fun _ => State.accept_later_keeps _ _ _ _ _
  | mmab | mzero =>
    exact withIssue_keeps h fun _ _ => engineWord_keeps _ fun _ => State.accept_modTile_keeps _ _ _ _ _ _ _ _ _ _ fun _ => rfl
  | mtol => exact withIssue_keeps h fun _ _ => engineWord_keeps _ fun _ => State.accept_keeps _ _ _ _ _ _ _ _
  | mloop => exact mloop_keeps h
  | maccLd => exact maccLd_keeps h
  | maccSt => exact maccSt_keeps h
  | mretry => exact mretry_keeps h
  | ld | ldr | stc | halloc | launch =>
    exact withIssue_keeps h fun _ _ => scratchWord_keeps _ _ _ fun _ _ _ _ => State.enqueue_reserve_keeps _ _ _ _ _ _ _ _ _ _
  | st | hfree => exact withIssue_keeps h fun _ _ => scratchWord_keeps _ _ _ fun _ _ _ _ => State.enqueue_keeps _ _ _ _ _ _
  | spill => exact withIssue_keeps h fun _ _ => spillWordOp_keeps _ _ _ fun _ => State.enqueue_keeps _ _ _ _ _ _
  | fill => exact withIssue_keeps h fun _ _ => spillWordOp_keeps _ _ _ fun _ => State.enqueue_reserve_keeps _ _ _ _ _ _ _ _ _ _
  | atomBlk | atomDie => exact withIssue_keeps h fun _ _ => atomWord_keeps _ _ _ _ _ _ _ _ _
  | redBlk | redDie => exact withIssue_keeps h fun _ _ => redWord_keeps _ _ _ _ _ _
  | fence => exact fence_keeps h
  | aflush => exact aflush_keeps h
  | cpy | cpy2d | cpyAtom | cpyDigest =>
    exact withIssue_keeps h fun _ _ => copyWord_keeps _ _ fun _ => State.acceptCopy_keeps _ _ _ _ _ _ _ _ _ _
  | gather | scatter => exact withIssue_keeps h fun _ _ => indexWord_keeps _ _ _ _ _ _ _ _ _ _
  | bclose => exact bclose_keeps h
  | bwait => exact bwait_keeps h
  | rmtLd | rmtSt | rmtAtom => exact withIssue_keeps h fun _ _ => remoteWord_keeps _ _ _ _ _ _ _ _ _ _
  | rmtWait => exact withIssue_keeps h fun _ _ => State.modGroup_keeps .of_lanes
  | bar | gbar => exact withIssue_keeps h fun _ _ => State.waitLanes_keeps _ _ _ _
  | bbar => exact bbar_keeps h
  | ringPut | ringGet | ringPeek => exact withIssue_keeps h fun _ _ => ringIssue_keeps _ _ _ _ _ _
  | signal | semWait | semPost => exact withIssue_keeps h fun _ _ => semWord_keeps _ _ _ _ _ _
  | trap => exact withIssue_keeps h fun _ _ => State.parkSel_keeps _ _
  | rti => exact rti_keeps h
  | sysrd => exact withIssue_keeps h fun _ _ => .ite (State.put_keeps _ _ _ _ _) (State.put_keeps _ _ _ _ _)
  | syswr => exact syswr_keeps h
  | quench => exact withIssue_keeps h fun _ _ => State.quenchAll_keeps _ _ _
  | snap | evt => exact withIssue_keeps h fun _ u => .ite (.refl u) (State.defer_keeps _ _ _)
  | finj => exact finj_keeps h
  | leaseChk => exact withIssue_keeps h fun _ _ => .ite (State.parkEach_keeps _ _ _ _) (State.put_keeps _ _ _ _ _)
  | div | rem | fillWord => exact parkWord_keeps h
  | _ => simp [Instr.ctl?] at hi

end Sys2Proof.Machine
end

section
/-! Rounding (04 R86–R88): the spacing of a dyadic number, its two neighbours, and the encoding of the one that is picked. Stated over any
ordered field with a floor, for values that are rational and values that are not. -/

namespace Sys2Proof.Machine

/-! The layouts -/

/-- What the layouts of 04 R78 have in common: the greatest finite mantissa has the hidden bit, exponents run from that of the least normal, and
the greatest finite value lies below the encodings of infinities and NaNs. -/
structure Fmt.Regular (f : Fmt) : Prop where
  width : f.m + 2 ≤ f.width
  mant : 2 ^ f.m ≤ f.maxMant ∧ f.maxMant < 2 ^ (f.m + 1)
  exps : f.emin ≤ f.emax
  top : f.emax + f.bias + (if f.inf then 1 else 0 : Nat) ≤ ((2 ^ (f.width - 1 - f.m) - 1 : Nat) : Int)
  nan : f.qnan.isSome = true → f.inf = false → f.maxMant + 1 < 2 ^ (f.m + 1)

theorem floatFmts_regular {f : Fmt} (h : f ∈ floatFmts) : Fmt.Regular f := by
  simp only [floatFmts, List.mem_cons, List.not_mem_nil, or_false] at h
  rcases h with rfl | rfl | rfl | rfl | rfl | rfl | rfl | rfl <;> constructor <;> decide

/-- The fields of an encoding: `b` the sign, `r` below the sign bit at `A * T`. -/
theorem signed_fields {A T r : Nat} (hr : r < A * T) (neg : Bool) (x : Nat) (hx : x = (if neg then A * T else 0) + r) :
    (x / (A * T) % 2 == 1) = neg ∧ x % (A * T) = r ∧ x % A = r % A := by
  have hpos : 0 < A * T := by omega
  cases neg
  · simp only [Bool.false_eq_true, if_false, Nat.zero_add] at hx
    subst hx
    exact ⟨by rw [Nat.div_eq_of_lt hr]; rfl, Nat.mod_eq_of_lt hr, rfl⟩
  · simp only [if_true] at hx
    subst hx
    refine ⟨by rw [Nat.add_div_left _ hpos, Nat.div_eq_of_lt hr]; rfl, by rw [Nat.add_mod_left, Nat.mod_eq_of_lt hr], ?_⟩
    rw [Nat.add_mod, Nat.mul_mod_right, Nat.zero_add, Nat.mod_mod]

/-- A mantissa of `f` in units of the spacing at the exponent field `E` (or at 1, for a subnormal one), encoded, decodes to itself. -/
theorem Fmt.decode_encoded {f : Fmt} (hf : Fmt.Regular f) (neg : Bool) {E p : Nat} (hsub : E = 0 ∨ 2 ^ f.m ≤ p) (hp : p < 2 ^ (f.m + 1))
    (hE : E + f.emin ≤ f.emax) (hmax : E + f.emin = f.emax → p ≤ f.maxMant) :
    f.decode (f.signBit neg + E * 2 ^ f.m + p) = .num neg p (E + f.emin - f.m) := by
  obtain ⟨hw, ⟨hm1, hm2⟩, hexps, htop, hnan⟩ := hf
  have hS : 2 ^ (f.width - 1) = 2 ^ f.m * 2 ^ (f.width - 1 - f.m) := by rw [← Nat.pow_add]; congr 1; omega
  have hA : 0 < 2 ^ f.m := Nat.two_pow_pos _
  have hemin : f.emin = 1 - (f.bias : Int) := rfl
  have hET : E + 1 + (if f.inf then 1 else 0) ≤ 2 ^ (f.width - 1 - f.m) - 1 := by
    generalize hx : (if f.inf = true then 1 else 0 : Nat) = x at htop ⊢
    omega
  rw [Nat.pow_succ] at hp hm2
  have hr : E * 2 ^ f.m + p < 2 ^ f.m * 2 ^ (f.width - 1 - f.m) := by
    have : 2 ^ f.m * (E + 2) ≤ 2 ^ f.m * 2 ^ (f.width - 1 - f.m) := Nat.mul_le_mul_left _ (by omega)
    rw [Nat.mul_add, Nat.mul_comm] at this
    omega
  obtain ⟨hsign, hrest, hfrac⟩ := signed_fields hr neg (f.signBit neg + E * 2 ^ f.m + p) (by rw [Fmt.signBit, hS, Nat.add_assoc])
  unfold Fmt.decode
  simp only [hS, hsign, hrest, hfrac, Nat.mul_add_mod']
  rw [Nat.add_comm, Nat.add_mul_div_right _ _ hA]
  rcases Nat.lt_or_ge p (2 ^ f.m) with hlt | hge
  · obtain rfl : E = 0 := by omega
    simp [Nat.div_eq_of_lt hlt, Nat.mod_eq_of_lt hlt]
  · have hdiv : p / 2 ^ f.m = 1 := Nat.div_eq_of_lt_le (by omega) (by omega)
    have hmod : p % 2 ^ f.m = p - 2 ^ f.m := by rw [Nat.mod_eq_sub_mod hge, Nat.mod_eq_of_lt (by omega)]
    rw [hdiv, hmod, if_neg (by omega), if_neg (by intro ⟨hi, h⟩; simp only [hi, if_true] at hET; omega), if_neg]
    · congr 1 <;> omega
    · rintro ⟨hq, hi, h, hfr⟩
      have := hnan hq (by simpa using hi)
      rw [Nat.pow_succ] at this
      simp only [hi] at htop
      have := hmax (by omega)
      omega

section
variable {K : Type} [Field K] [LinearOrder K] [IsStrictOrderedRing K] [FloorRing K]

/-! The fraction above the lower neighbour -/

/-- `rem` / 2 ^ `k` stands for the fraction φ of a spacing in all that the modes of 04 R86 ask of it. -/
structure StandsFor (φ : K) (rem k : Nat) : Prop where
  zero : rem = 0 ↔ φ = 0
  above : 2 ^ k < 2 * rem ↔ 1 / 2 < φ
  half : 2 * rem = 2 ^ k ↔ φ = 1 / 2
  scaled : ((rem * 2 ^ 32 / 2 ^ k : Nat) : Int) = ⌊φ * 2 ^ 32⌋

theorem standsFor_div (rem k : Nat) : StandsFor ((rem : K) / 2 ^ k) rem k := by
  have hk : (0 : K) < 2 ^ k := by positivity
  refine ⟨?_, ?_, ?_, ?_⟩
  · rw [div_eq_zero_iff, or_iff_left hk.ne', Nat.cast_eq_zero]
  · rw [div_lt_div_iff₀ two_pos hk, ← Nat.cast_lt (α := K)]
    push_cast
    rw [one_mul, mul_comm (rem : K)]
  · rw [div_eq_div_iff hk.ne' two_ne_zero, ← Nat.cast_inj (R := K)]
    push_cast
    rw [one_mul, mul_comm (rem : K)]
  · rw [← Nat.floor_div_eq_div (K := K), Int.natCast_floor_eq_floor (by positivity)]
    push_cast
    congr 1
    ring

/-- A fraction below 2 ^ −40 is told from 0, and from nothing else. -/
theorem standsFor_tiny {φ : K} (h0 : 0 < φ) (h1 : φ * 2 ^ 40 < 1) : StandsFor φ 1 40 := by
  have hhalf : φ < 1 / 2 := by nlinarith
  refine ⟨?_, ?_, ?_, ?_⟩
  · simp [h0.ne']
  · simp only [show ¬ (2 ^ 40 < 2 * 1) by decide, false_iff, not_lt, hhalf.le]
  · simp only [show ¬ (2 * 1 = 2 ^ 40) by decide, hhalf.ne]
  · rw [show 1 * 2 ^ 32 / 2 ^ 40 = 0 by decide, eq_comm, Nat.cast_zero, Int.floor_eq_zero_iff]
    exact ⟨by positivity, by nlinarith⟩

/-- The pick of 04 R87, read off the lower neighbour and the fraction above it. -/
theorem pickOf_eq (f : Fmt) (mode : RMode) (neg : Bool) {a φ : K} {lo rem k : Nat} (h0 : 0 ≤ φ) (h1 : φ < 1) (hs : StandsFor φ rem k)
    (ha : a = (lo + φ) * 2 ^ (max (Int.log 2 a) f.emin - f.m)) :
    pickOf f mode neg a = ((if rem ≠ 0 ∧ roundUp mode neg lo rem k then lo + 1 else lo : Nat) : K) * 2 ^ (max (Int.log 2 a) f.emin - f.m) := by
  have hq : (0 : K) < 2 ^ (max (Int.log 2 a) f.emin - (f.m : Int)) := zpow_pos two_pos _
  unfold pickOf
  dsimp only
  generalize (2 : K) ^ (max (Int.log 2 a) f.emin - (f.m : Int)) = q at *
  have hdiv : a / q = lo + φ := by rw [ha, mul_div_cancel_right₀ _ hq.ne']
  have hfloor : ⌊a / q⌋ = (lo : Int) := by
    rw [hdiv, Int.floor_natCast_add, Int.floor_eq_zero_iff.2 ⟨h0, h1⟩, add_zero]
  have hlo : a - lo * q = φ * q := by rw [ha]; ring
  have hhi : lo * q + q - a = (1 - φ) * q := by rw [ha]; ring
  have hexact : a = lo * q ↔ rem = 0 := by rw [hs.zero, ← sub_eq_zero, hlo, mul_eq_zero, or_iff_left hq.ne']
  simp only [hfloor, Int.cast_natCast, hexact, hlo, hhi, mul_lt_mul_iff_left₀ hq, mul_div_cancel_right₀ _ hq.ne', ← hs.scaled]
  have hup : ((lo : K) + 1) * q = lo * q + q := add_one_mul _ _
  by_cases hr : rem = 0
  · simp [hr]
  · rw [if_neg hr]
    simp only [ne_eq, hr, not_false_eq_true, true_and]
    rcases mode with ((_ | _ | _ | _) | rnd)
    · have habove : φ < 1 - φ ↔ ¬ 2 ^ k < 2 * rem ∧ 2 * rem ≠ 2 ^ k := by
        rw [hs.above, Ne, hs.half]; constructor
        · intro h; constructor <;> [skip; intro h'] <;> linarith
        · rintro ⟨h, h'⟩; have := lt_of_le_of_ne (not_lt.1 h) h'; linarith
      have hbelow : 1 - φ < φ ↔ 2 ^ k < 2 * rem := by rw [hs.above]; constructor <;> intro <;> linarith
      have hpar : ((lo : Int) % 2 = 0) ↔ lo % 2 = 0 := by omega
      simp only [habove, hbelow, hpar, roundUp, Bool.or_eq_true, decide_eq_true_eq, Bool.and_eq_true, beq_iff_eq]
      rcases lt_trichotomy (2 ^ k) (2 * rem) with h | h | h
      · simp [h, hup]
      · rcases Nat.mod_two_eq_zero_or_one lo with h' | h' <;> simp [← h, h', hup]
      · simp [h.ne, h.not_gt]
    · simp [roundUp]
    · cases neg <;> simp [roundUp, hup]
    · cases neg <;> simp [roundUp, hup]
    · simp only [roundUp, decide_eq_true_eq, Nat.cast_lt]
      split <;> simp [hup]

/-! The neighbours of a dyadic number -/

/-- The number m × 2^e in units of 2^q: lower neighbour, and a remainder with its scale for the fraction above it. -/
def dyadicParts (q : Int) (m : Nat) (e : Int) : Nat × Nat × Nat :=
  if q ≤ e then (m * 2 ^ (e - q).toNat, 0, 0)
  else if Nat.log2 m + 40 < (q - e).toNat then (0, 1, 40)
  else (m / 2 ^ (q - e).toNat, m % 2 ^ (q - e).toNat, (q - e).toNat)

/-- The neighbour that a mode picks, in the same units. -/
def pickUnits (mode : RMode) (neg : Bool) (p : Nat × Nat × Nat) : Nat :=
  if p.2.1 ≠ 0 ∧ roundUp mode neg p.1 p.2.1 p.2.2 then p.1 + 1 else p.1

/-- The exponent of the spacing of `f` at m × 2^e (04 R87). -/
def spacingOf (f : Fmt) (m : Nat) (e : Int) : Int := max (Nat.log2 m + e) f.emin - f.m

theorem Fmt.roundTo_of_emax_lt (f : Fmt) (mode : RMode) (neg : Bool) {m : Nat} {e : Int} (hm : m ≠ 0) (h : f.emax < Nat.log2 m + e) :
    f.roundTo mode neg m e = (f.ovf neg mode false, 0x05#8) := by
  unfold Fmt.roundTo
  rw [if_neg hm, if_pos h]
  rfl

theorem Fmt.roundTo_of_le_emax (f : Fmt) (mode : RMode) (neg : Bool) {m : Nat} {e : Int} (hm : m ≠ 0) (h : ¬ f.emax < Nat.log2 m + e) :
    f.roundTo mode neg m e =
      let q := spacingOf f m e
      let p := dyadicParts q m e
      if q = f.emax - f.m ∧ f.maxMant < pickUnits mode neg p then (f.ovf neg mode false, 0x05#8)
      else (f.signBit neg + (q + f.m + f.bias - 1).toNat * 2 ^ f.m + pickUnits mode neg p,
        if p.2.1 = 0 then 0 else if pickUnits mode neg p < 2 ^ f.m then 0x03#8 else 0x01#8) := by
  have hq : (if (Nat.log2 m : Int) + e < f.emin then f.emin else Nat.log2 m + e) - (f.m : Int) = spacingOf f m e := by
    unfold spacingOf; split <;> omega
  unfold Fmt.roundTo
  rw [if_neg hm, if_neg h, hq]
  dsimp only
  unfold dyadicParts
  split
  · rfl
  · split <;> rfl

theorem dyadicParts_spec (q : Int) {m : Nat} (e : Int) (hm : m ≠ 0) :
    ∃ φ : K, 0 ≤ φ ∧ φ < 1 ∧ StandsFor φ (dyadicParts q m e).2.1 (dyadicParts q m e).2.2 ∧
      (m : K) * 2 ^ e = ((dyadicParts q m e).1 + φ) * 2 ^ q := by
  unfold dyadicParts
  split
  next h =>
    refine ⟨0, le_rfl, one_pos, by simpa using standsFor_div (K := K) 0 0, ?_⟩
    obtain ⟨d, rfl⟩ := Int.le.dest h
    rw [add_sub_cancel_left, Int.toNat_natCast, zpow_add₀ two_ne_zero, zpow_natCast]
    push_cast
    ring
  next h =>
    obtain ⟨k, hk⟩ := Int.le.dest (Int.le_of_lt (Int.not_le.1 h))
    obtain rfl : q = e + k := hk.symm
    rw [add_sub_cancel_left, Int.toNat_natCast, zpow_add₀ two_ne_zero, zpow_natCast]
    have hpow : (0 : K) < 2 ^ k := by positivity
    split
    next hk =>
      have hlt : m * 2 ^ 40 < 2 ^ k := calc
        m * 2 ^ 40 < 2 ^ (Nat.log2 m + 1) * 2 ^ 40 := Nat.mul_lt_mul_of_pos_right Nat.lt_log2_self (by decide)
        _ = 2 ^ (Nat.log2 m + 41) := (Nat.pow_add ..).symm
        _ ≤ 2 ^ k := Nat.pow_le_pow_right (by decide) (by omega)
      have hlt' : (m : K) * 2 ^ 40 < 2 ^ k := by exact_mod_cast hlt
      have hpos : (0 : K) < m / 2 ^ k := by positivity
      have htiny : (m : K) / 2 ^ k * 2 ^ 40 < 1 := by rw [div_mul_eq_mul_div, div_lt_one hpow]; exact hlt'
      refine ⟨m / 2 ^ k, hpos.le, by nlinarith, standsFor_tiny hpos htiny, ?_⟩
      rw [Nat.cast_zero, zero_add]
      field_simp
    next hk =>
      refine ⟨_, by positivity, ?_, standsFor_div (m % 2 ^ k) k, ?_⟩
      · rw [div_lt_one hpow]
        exact_mod_cast Nat.mod_lt _ (Nat.two_pow_pos k)
      · have := congrArg (Nat.cast (R := K)) (Nat.div_add_mod m (2 ^ k))
        push_cast at this
        rw [← this]
        field_simp

/-- The binary logarithm of a dyadic number. -/
theorem log_dyadic {m : Nat} (e : Int) (hm : m ≠ 0) : Int.log 2 ((m : K) * 2 ^ e) = Nat.log2 m + e := by
  have hpos : (0 : K) < m * 2 ^ e := by positivity
  have hle : (2 : K) ^ Nat.log2 m ≤ m := by exact_mod_cast Nat.log2_self_le hm
  have hlt : (m : K) < 2 ^ (Nat.log2 m + 1) := by exact_mod_cast Nat.lt_log2_self
  have h2 : (0 : K) < 2 ^ e := by positivity
  apply le_antisymm
  · rw [← Int.lt_add_one_iff, ← Int.lt_zpow_iff_log_lt one_lt_two hpos]
    push_cast
    rw [add_right_comm, zpow_add₀ two_ne_zero, zpow_add_one₀ two_ne_zero, zpow_natCast, ← pow_succ]
    exact mul_lt_mul_of_pos_right hlt h2
  · rw [← Int.zpow_le_iff_le_log one_lt_two hpos]
    push_cast
    rw [zpow_add₀ two_ne_zero, zpow_natCast]
    exact mul_le_mul_of_nonneg_right hle h2.le

/-! The result (04 R87, R88) -/

theorem lower_lt (f : Fmt) {m : Nat} (e : Int) (hm : m ≠ 0) : (dyadicParts (spacingOf f m e) m e).1 < 2 ^ (f.m + 1) := by
  obtain ⟨φ, h0, _, _, ha⟩ := dyadicParts_spec (K := ℚ) (spacingOf f m e) e hm
  generalize (dyadicParts (spacingOf f m e) m e).1 = lo at *
  have hq : (0 : ℚ) < 2 ^ spacingOf f m e := by positivity
  have hlt : (m : ℚ) * 2 ^ e < 2 ^ (f.m + 1) * 2 ^ spacingOf f m e := by
    rw [← zpow_natCast, ← zpow_add₀ two_ne_zero]
    have := (Int.lt_zpow_iff_log_lt (b := 2) one_lt_two (x := (f.m + 1 : Nat) + spacingOf f m e) (by positivity : (0 : ℚ) < m * 2 ^ e)).2
      (by rw [log_dyadic e hm]; unfold spacingOf; omega)
    exact_mod_cast this
  rw [ha, mul_lt_mul_iff_left₀ hq] at hlt
  exact_mod_cast (lt_of_le_of_lt (le_add_of_nonneg_right h0) hlt : (lo : ℚ) < 2 ^ (f.m + 1))

theorem le_lower (f : Fmt) {m : Nat} {e : Int} (hm : m ≠ 0) (h : f.emin ≤ Nat.log2 m + e) :
    2 ^ f.m ≤ (dyadicParts (spacingOf f m e) m e).1 := by
  obtain ⟨φ, _, h1, _, ha⟩ := dyadicParts_spec (K := ℚ) (spacingOf f m e) e hm
  generalize (dyadicParts (spacingOf f m e) m e).1 = lo at *
  have hq : (0 : ℚ) < 2 ^ spacingOf f m e := by positivity
  have hle : (2 : ℚ) ^ f.m * 2 ^ spacingOf f m e ≤ m * 2 ^ e := by
    rw [← zpow_natCast, ← zpow_add₀ two_ne_zero]
    have := (Int.zpow_le_iff_le_log (b := 2) one_lt_two (x := f.m + spacingOf f m e) (by positivity : (0 : ℚ) < m * 2 ^ e)).2
      (by rw [log_dyadic e hm]; unfold spacingOf; omega)
    exact_mod_cast this
  rw [ha, mul_le_mul_iff_left₀ hq] at hle
  have : (2 : ℚ) ^ f.m < lo + 1 := lt_of_le_of_lt hle (by linarith)
  exact Nat.lt_succ_iff.1 (by exact_mod_cast this)

theorem le_pickUnits (mode : RMode) (neg : Bool) (p : Nat × Nat × Nat) : p.1 ≤ pickUnits mode neg p ∧ pickUnits mode neg p ≤ p.1 + 1 := by
  unfold pickUnits; split <;> omega

/-- The pick is the number itself just when nothing remains. -/
theorem pickUnits_exact_iff (mode : RMode) (neg : Bool) {p : Nat × Nat × Nat} {φ : K} (h0 : 0 ≤ φ) (h1 : φ < 1) (hs : StandsFor φ p.2.1 p.2.2) :
    (pickUnits mode neg p : K) = p.1 + φ ↔ p.2.1 = 0 := by
  unfold pickUnits
  constructor
  · intro h
    rw [hs.zero]
    split at h
    · push_cast at h; linarith
    · linarith
  · intro h
    rw [if_neg (by simp [h]), hs.zero.1 h, add_zero]

theorem pickOf_dyadic (f : Fmt) (mode : RMode) (neg : Bool) {m : Nat} (e : Int) (hm : m ≠ 0) :
    pickOf f mode neg ((m : K) * 2 ^ e) = (pickUnits mode neg (dyadicParts (spacingOf f m e) m e) : K) * 2 ^ spacingOf f m e := by
  obtain ⟨φ, h0, h1, hs, ha⟩ := dyadicParts_spec (K := K) (spacingOf f m e) e hm
  have hq : max (Int.log 2 ((m : K) * 2 ^ e)) f.emin - f.m = spacingOf f m e := by rw [log_dyadic e hm]; rfl
  rw [pickOf_eq f mode neg h0 h1 hs (by rw [hq]; exact ha), hq]
  rfl

/-- A mantissa with the hidden bit or a subnormal one, on the scale of an exponent at most the greatest, exceeds the greatest finite value
only at that exponent. -/
theorem maxFinite_lt_iff {f : Fmt} (hf : Fmt.Regular f) {q : Int} {p : Nat} (hq : q ≤ f.emax - f.m) (hp : p ≤ 2 ^ (f.m + 1)) :
    (f.maxMant : K) * 2 ^ (f.emax - f.m) < p * 2 ^ q ↔ q = f.emax - f.m ∧ f.maxMant < p := by
  rcases eq_or_lt_of_le hq with rfl | hlt
  · rw [mul_lt_mul_iff_left₀ (by positivity), Nat.cast_lt]; simp
  · refine iff_of_false (not_lt.2 ?_) (by omega)
    calc (p : K) * 2 ^ q ≤ 2 ^ (f.m + 1) * 2 ^ q := by gcongr; exact_mod_cast hp
      _ = 2 ^ f.m * 2 ^ (q + 1) := by rw [zpow_add_one₀ two_ne_zero]; ring
      _ ≤ f.maxMant * 2 ^ (f.emax - f.m) := by
        gcongr
        · exact_mod_cast hf.mant.1
        · exact one_le_two
        · omega

/-- A pick lies below the least normal magnitude when it lacks the hidden bit. -/
theorem below_normal_iff {f : Fmt} {q : Int} {p : Nat} (hq : f.emin - f.m ≤ q) (hsub : q = f.emin - f.m ∨ 2 ^ f.m ≤ p) :
    (p : K) * 2 ^ q < 2 ^ f.emin ↔ p < 2 ^ f.m := by
  have hsplit : (2 : K) ^ f.emin = 2 ^ f.m * 2 ^ (f.emin - f.m) := by rw [← zpow_natCast, ← zpow_add₀ two_ne_zero]; congr 1; ring
  rw [hsplit]
  rcases hsub with rfl | hp
  · rw [mul_lt_mul_iff_left₀ (by positivity)]; exact_mod_cast Iff.rfl
  · refine iff_of_false (not_lt.2 ?_) (by omega)
    gcongr
    · exact_mod_cast hp
    · exact one_le_two

omit [IsStrictOrderedRing K] in
/-- A pick in units of its spacing that is not above the greatest finite value, encoded, decodes to itself. -/
theorem decode_pick {f : Fmt} (hf : Fmt.Regular f) (neg : Bool) {q : Int} {p : Nat} (hq : f.emin - f.m ≤ q) (hq' : q ≤ f.emax - f.m)
    (hp : p ≤ 2 ^ (f.m + 1)) (hsub : q = f.emin - f.m ∨ 2 ^ f.m ≤ p) (hmax : q = f.emax - f.m → p ≤ f.maxMant) :
    ∃ m' e', f.decode (f.signBit neg + (q + f.m + f.bias - 1).toNat * 2 ^ f.m + p) = .num neg m' e' ∧ (m' : K) * 2 ^ e' = p * 2 ^ q := by
  have hemin : f.emin = 1 - (f.bias : Int) := rfl
  obtain ⟨E, hE⟩ : ∃ E : Nat, q = E + f.emin - f.m := ⟨(q - f.emin + f.m).toNat, by omega⟩
  obtain rfl := hE
  rw [show ((E : Int) + f.emin - f.m + f.m + f.bias - 1).toNat = E by omega]
  rcases Nat.lt_or_eq_of_le hp with hlt | rfl
  · exact ⟨p, _, Fmt.decode_encoded hf neg (by omega) hlt (by omega) (fun h => hmax (by omega)), rfl⟩
  · have hfin := hf.mant.2
    refine ⟨2 ^ f.m, ((E + 1 : Nat) : Int) + f.emin - f.m, ?_, ?_⟩
    · rw [show f.signBit neg + E * 2 ^ f.m + 2 ^ (f.m + 1) = f.signBit neg + (E + 1) * 2 ^ f.m + 2 ^ f.m by rw [Nat.pow_succ]; ring]
      exact Fmt.decode_encoded hf neg (.inr le_rfl) (Nat.pow_lt_pow_right (by decide) (by omega)) (by push_cast; omega) (fun _ => hf.mant.1)
    · push_cast
      rw [show (E : Int) + 1 + f.emin - f.m = (E + f.emin - f.m) + 1 by ring, zpow_add_one₀ two_ne_zero]
      ring

/-- `roundTo` rounds every nonzero dyadic number correctly. -/
theorem roundTo_correct {f : Fmt} (hf : Fmt.Regular f) (mode : RMode) (neg : Bool) {m : Nat} (e : Int) (hm : m ≠ 0) :
    CorrectlyRounds f mode neg ((m : K) * 2 ^ e) (f.roundTo mode neg m e) := by
  obtain ⟨φ, h0, h1, hs, ha⟩ := dyadicParts_spec (K := K) (spacingOf f m e) e hm
  have hlo := lower_lt f e hm
  have hlo' := fun h => le_lower f (e := e) hm h
  have hexps := hf.exps
  unfold CorrectlyRounds
  simp only [pickOf_dyadic f mode neg e hm]
  obtain ⟨hp, hp'⟩ := le_pickUnits mode neg (dyadicParts (spacingOf f m e) m e)
  by_cases htop : f.emax < Nat.log2 m + e
  · rw [if_pos, Fmt.roundTo_of_emax_lt f mode neg hm htop]
    calc (f.maxMant : K) * 2 ^ (f.emax - f.m) < 2 ^ (f.m + 1) * 2 ^ (f.emax - f.m) := by gcongr; exact_mod_cast hf.mant.2
      _ = 2 ^ f.m * 2 ^ (f.emax - f.m + 1) := by rw [zpow_add_one₀ two_ne_zero]; ring
      _ ≤ _ := by
        gcongr
        · exact_mod_cast (hlo' (by omega)).trans hp
        · exact one_le_two
        · unfold spacingOf; omega
  · have hq : spacingOf f m e ≤ f.emax - f.m := by unfold spacingOf; omega
    have hq' : f.emin - f.m ≤ spacingOf f m e := by unfold spacingOf; omega
    have hsub : spacingOf f m e = f.emin - f.m ∨ 2 ^ f.m ≤ (dyadicParts (spacingOf f m e) m e).1 := by
      rcases le_or_gt f.emin (Nat.log2 m + e) with h | h
      · exact .inr (hlo' h)
      · left; unfold spacingOf; omega
    rw [Fmt.roundTo_of_le_emax f mode neg hm htop]
    dsimp only
    have hexact := pickUnits_exact_iff mode neg h0 h1 hs
    generalize spacingOf f m e = q at *
    generalize dyadicParts q m e = p at *
    have hover := maxFinite_lt_iff (K := K) hf hq (p := pickUnits mode neg p) (by omega)
    by_cases h : q = f.emax - f.m ∧ f.maxMant < pickUnits mode neg p
    · rw [if_pos (hover.2 h), if_pos h]
    · rw [if_neg fun h' => h (hover.1 h'), if_neg h]
      refine ⟨decode_pick hf neg hq' hq (by omega) (by omega) (by omega), ?_⟩
      have hq0 : (2 : K) ^ q ≠ 0 := by positivity
      have hexact' : (pickUnits mode neg p : K) * 2 ^ q = m * 2 ^ e ↔ p.2.1 = 0 := by rw [ha, mul_left_inj' hq0, hexact]
      simp only [hexact', below_normal_iff (K := K) hq' (show q = f.emin - f.m ∨ 2 ^ f.m ≤ pickUnits mode neg p by omega)]
      rfl

end

/-- Settles O7: the eight layouts are regular, and in a regular one the pick, its encoding and its flags are those of the two neighbours. -/
theorem roundIsRoundOfR87 : Obligations.RoundIsRoundOfR87 :=
  fun _ hf mode neg _ e hm => roundTo_correct (floatFmts_regular hf) mode neg e hm.ne'

end Sys2Proof.Machine
end

section
/-! Conversions (06 R135, R136, 04 R89, R92, R93): to a float type, to an integer, and the generator of stochastic rounding. -/

namespace Sys2Proof.Machine

/-! Conversion to a float type -/

/-- The row's encodings are those of its layout. -/
structure RowOf (row : Fmt × Option Nat × Option Nat × Nat) : Prop where
  fmt : row.1 ∈ floatFmts
  inf : row.1.inf = row.2.1.isSome
  infBits : ∀ i neg, row.2.1 = some i → row.1.infBits neg = row.1.signBit neg + i
  nan : row.1.qnan = row.2.2.1
  big : row.1.maxBits = row.2.2.2

theorem floatEnds_rows {row : Fmt × Option Nat × Option Nat × Nat} (h : row ∈ floatEnds) : RowOf row := by
  simp only [floatEnds, List.mem_cons, List.not_mem_nil, or_false] at h
  rcases h with rfl | rfl | rfl | rfl | rfl | rfl | rfl | rfl <;>
  exact ⟨by decide, rfl, by rintro i (_ | _) ⟨⟩ <;> rfl, rfl, rfl⟩

/-- `exceeds` says that a number is above the greatest finite value. -/
theorem Fmt.exceeds_iff {f : Fmt} (hf : Fmt.Regular f) {m : Nat} (e : Int) (hm : m ≠ 0) :
    f.exceeds m e = true ↔ (f.maxMant : ℚ) * 2 ^ (f.emax - f.m) < m * 2 ^ e := by
  have hpos : (0 : ℚ) < m * 2 ^ e := by positivity
  have hlog := log_dyadic (K := ℚ) e hm
  unfold Fmt.exceeds
  simp only [bne_iff_ne.2 hm, Bool.true_and, Bool.or_eq_true, decide_eq_true_eq, Bool.and_eq_true, beq_iff_eq]
  rcases lt_trichotomy f.emax (Nat.log2 m + e) with h | h | h
  · refine iff_of_true (.inl h) ?_
    calc (f.maxMant : ℚ) * 2 ^ (f.emax - f.m) < 2 ^ (f.m + 1) * 2 ^ (f.emax - f.m) := by gcongr; exact_mod_cast hf.mant.2
      _ = 2 ^ (f.emax + 1) := by rw [← zpow_natCast, ← zpow_add₀ two_ne_zero]; congr 1; push_cast; ring
      _ ≤ m * 2 ^ e := by
        have := (Int.zpow_le_iff_le_log (b := 2) one_lt_two (x := f.emax + 1) hpos).2 (by rw [hlog]; omega)
        exact_mod_cast this
  · simp only [← h, lt_irrefl, false_or, true_and]
    split
    next hq =>
      obtain ⟨d, rfl⟩ := Int.le.dest hq
      rw [add_sub_cancel_left, Int.toNat_natCast, zpow_add₀ two_ne_zero, zpow_natCast, ← mul_assoc, mul_right_comm,
        mul_lt_mul_iff_left₀ (by positivity), decide_eq_true_eq, ← Nat.cast_lt (α := ℚ)]
      push_cast
      rfl
    next hq =>
      obtain ⟨d, hd⟩ := Int.le.dest (Int.not_le.1 hq).le
      rw [← hd, add_sub_cancel_left, Int.toNat_natCast, zpow_add₀ two_ne_zero, zpow_natCast, mul_comm ((2 : ℚ) ^ e), ← mul_assoc,
        mul_lt_mul_iff_left₀ (by positivity), decide_eq_true_eq, ← Nat.cast_lt (α := ℚ)]
      push_cast
      rfl
  · refine iff_of_false (by omega) (not_lt.2 ?_)
    calc (m : ℚ) * 2 ^ e ≤ 2 ^ f.emax := by
          have := (Int.lt_zpow_iff_log_lt (b := 2) one_lt_two (x := f.emax) hpos).2 (by rw [hlog]; omega)
          exact_mod_cast this.le
      _ = 2 ^ f.m * 2 ^ (f.emax - f.m) := by rw [← zpow_natCast, ← zpow_add₀ two_ne_zero]; congr 1; ring
      _ ≤ _ := by gcongr; exact_mod_cast hf.mant.1

/-- A conversion in which `.sat` clamps nothing rounds. -/
theorem Fmt.convert_num {f : Fmt} (hf : Fmt.Regular f) (sat : Bool) (mode : RMode) (neg : Bool) {m : Nat} (e : Int) (hm : m ≠ 0) :
    f.convert sat mode (.num neg m e) =
      if sat = true ∧ (f.maxMant : ℚ) * 2 ^ (f.emax - f.m) < m * 2 ^ e then (f.signBit neg + f.maxBits, 0x05#8)
      else f.roundTo mode neg m e := by
  simp only [Fmt.convert, Bool.and_eq_true, Fmt.exceeds_iff hf e hm]

/-- A zero converts to the zero of its sign. -/
theorem Fmt.convert_zero (f : Fmt) (sat : Bool) (mode : RMode) (neg : Bool) (e : Int) :
    f.convert sat mode (.num neg 0 e) = (f.signBit neg, 0) := by
  simp [Fmt.convert, Fmt.exceeds, Fmt.roundTo, Fmt.zeroBits]

/-- `convert` converts as 04 R92 and R93 say. -/
theorem convert_converts {row : Fmt × Option Nat × Option Nat × Nat} (h : row ∈ floatEnds) (sat : Bool) (mode : RMode) (x : FV) :
    Converts row sat mode x (row.1.convert sat mode x) := by
  obtain ⟨hfmt, hinf, hbits, hnan, hbig⟩ := floatEnds_rows h
  have hf := floatFmts_regular hfmt
  clear h
  obtain ⟨f, inf, nan, big⟩ := row
  dsimp only at *
  subst hnan hbig
  unfold Converts
  cases x with
  | nan sig =>
    dsimp only [Fmt.convert, Fmt.nanBits]
    cases f.qnan <;> simp [flagNV]
  | inf neg =>
    dsimp only [Fmt.convert]
    cases sat
    · cases inf with
      | some i => simp [Fmt.ovf, hinf, hbits i neg rfl, Fmt.signBit]
      | none => cases hq : f.qnan <;> simp [Fmt.ovf, hinf, hq, Fmt.nanBits, Fmt.signBit]
    · rfl
  | num neg m e =>
    dsimp only
    rcases eq_or_ne m 0 with rfl | hm
    · rw [if_pos rfl, Fmt.convert_zero]
      rfl
    · have hround := roundTo_correct (K := ℚ) hf mode neg e hm
      rw [if_neg hm, Fmt.convert_num hf sat mode neg e hm]
      split
      · rfl
      · split
        next hover =>
          simp only [CorrectlyRounds, if_pos hover] at hround
          rw [hround]
          cases inf with
          | some i =>
            simp only [Fmt.ovf, hinf, hbits i neg rfl, Option.isSome_some, if_true, Bool.false_eq_true, if_false]
            rcases mode with ((_ | _ | _ | _) | _) <;> cases neg <;> simp [Fmt.signBit]
          | none => cases hq : f.qnan <;> simp [Fmt.ovf, hinf, hq, Fmt.nanBits, Fmt.signBit]
        next => exact hround

/-! Conversion to an integer -/

theorem Ty.sat_eq_clamp (t : Ty) (v : Int) : t.sat v = max (leastOf t) (min (greatestOf t) v) := by
  have h : leastOf t ≤ greatestOf t := by cases t <;> decide
  change (if v < leastOf t then leastOf t else if greatestOf t < v then greatestOf t else v) = _
  split
  · omega
  · split <;> omega

theorem Ty.out_eq (t : Ty) (v : Int) : t.out v = modBits (32 * t.regs) v := rfl

/-- The integer neighbour that a mode picks, read off the lower neighbour and the fraction above it. -/
theorem intPick_eq (rm : Rm) (neg : Bool) {a φ : ℚ} {lo rem k : Nat} (h0 : 0 ≤ φ) (h1 : φ < 1) (hs : StandsFor φ rem k) (ha : a = lo + φ) :
    intPick rm neg a = (pickUnits (.mode rm) neg (lo, rem, k) : Int) := by
  have hfloor : ⌊a⌋ = (lo : Int) := by rw [ha, Int.floor_natCast_add, Int.floor_eq_zero_iff.2 ⟨h0, h1⟩, add_zero]
  have hfrac : a - (lo : Int) = φ := by rw [ha]; push_cast; ring
  have hceil : ⌈a⌉ = if rem = 0 then (lo : Int) else lo + 1 := by
    split
    next h => rw [Int.ceil_eq_iff, ha, hs.zero.1 h]; constructor <;> push_cast <;> linarith
    next h =>
      have : 0 < φ := lt_of_le_of_ne h0 (fun e => h (hs.zero.2 e.symm))
      rw [Int.ceil_eq_iff, ha]; constructor <;> push_cast <;> linarith
  unfold pickUnits intPick
  simp only [hfloor, hfrac, hceil]
  cases rm with
  | rn =>
    have hbelow : φ < 1 / 2 ↔ ¬ 2 ^ k < 2 * rem ∧ 2 * rem ≠ 2 ^ k := by
      rw [hs.above, Ne, hs.half, not_lt]; exact lt_iff_le_and_ne
    have hpar : ((lo : Int) % 2 = 0) ↔ lo % 2 = 0 := by omega
    have hpow := Nat.two_pow_pos k
    simp only [hbelow, ← hs.above, hpar, roundUp, Bool.or_eq_true, decide_eq_true_eq, Bool.and_eq_true, beq_iff_eq]
    split_ifs <;> omega
  | rz => simp [roundUp]
  | ru => cases neg <;> simp [roundUp]
  | rd => cases neg <;> simp [roundUp]

/-- `roundInt` rounds a dyadic number to an integer, and tells whether that changed it. -/
theorem roundInt_spec (rm : Rm) (neg : Bool) (m : Nat) (e : Int) :
    ((roundInt rm neg m e).1 : Int) = intPick rm neg (m * (2 : ℚ) ^ e) ∧
    ((roundInt rm neg m e).2 = false ↔ (intPick rm neg (m * (2 : ℚ) ^ e) : ℚ) = m * (2 : ℚ) ^ e) := by
  have exact_or_not : ∀ {φ : ℚ} {lo rem k : Nat}, 0 ≤ φ → φ < 1 → StandsFor φ rem k → (m : ℚ) * 2 ^ e = lo + φ →
      (pickUnits (.mode rm) neg (lo, rem, k) : Int) = intPick rm neg (m * (2 : ℚ) ^ e) ∧
      (rem = 0 ↔ (intPick rm neg (m * (2 : ℚ) ^ e) : ℚ) = m * (2 : ℚ) ^ e) := by
    intro φ lo rem k h0 h1 hs ha
    have hpick := intPick_eq rm neg h0 h1 hs ha
    refine ⟨hpick.symm, ?_⟩
    rw [hpick, ha, Int.cast_natCast, pickUnits_exact_iff (.mode rm) neg (p := (lo, rem, k)) h0 h1 hs]
  unfold roundInt
  split
  next h =>
    obtain ⟨d, rfl⟩ := Int.eq_ofNat_of_zero_le h
    have := exact_or_not (lo := m * 2 ^ d) (rem := 0) (k := 0) le_rfl one_pos (by simpa using standsFor_div (K := ℚ) 0 0)
      (by push_cast; rw [zpow_natCast, add_zero])
    simpa [pickUnits] using this
  next h =>
    obtain ⟨d, hd⟩ := Int.le.dest (Int.not_le.1 h).le
    obtain rfl : e = -(d : Int) := by omega
    rw [neg_neg, Int.toNat_natCast] at *
    have hpow : (0 : ℚ) < 2 ^ d := by positivity
    have := exact_or_not (lo := m / 2 ^ d) (φ := ((m % 2 ^ d : Nat) : ℚ) / 2 ^ d) (by positivity)
      (by rw [div_lt_one hpow]; exact_mod_cast Nat.mod_lt _ (Nat.two_pow_pos d)) (standsFor_div (m % 2 ^ d) d)
      (by
        have := congrArg (Nat.cast (R := ℚ)) (Nat.div_add_mod m (2 ^ d))
        push_cast at this
        rw [← this, zpow_neg, zpow_natCast]
        field_simp)
    simpa [pickUnits] using this

/-- A float becomes an integer as 04 R92 says. -/
theorem Ty.ofFloat_num (t : Ty) (rm : Rm) (neg : Bool) (m : Nat) (e : Int) :
    let p := intPick rm neg (m * (2 : ℚ) ^ e)
    let r := (if neg then -1 else 1) * p
    let clamp := max (leastOf t) (min (greatestOf t) r)
    t.ofFloat rm (.num neg m e) = (clamp, (if (p : ℚ) = m * (2 : ℚ) ^ e then 0x00#8 else 0x01#8) ||| flagNV (decide (clamp ≠ r))) := by
  intro p r clamp
  obtain ⟨hval, hexact⟩ := roundInt_spec rm neg m e
  have hr : (if neg then -((roundInt rm neg m e).1 : Int) else (roundInt rm neg m e).1) = r := by
    rw [hval]; cases neg <;> simp [r, p]
  have hnx : (if (roundInt rm neg m e).2 then (0x01#8) else 0) = if (p : ℚ) = m * (2 : ℚ) ^ e then 0x00#8 else 0x01#8 := by
    cases h : (roundInt rm neg m e).2
    · rw [if_pos (hexact.1 h)]; rfl
    · have hne : ¬ (p : ℚ) = m * (2 : ℚ) ^ e := fun h' => by simp [hexact.2 h'] at h
      exact (if_neg hne).symm
  unfold Ty.ofFloat
  dsimp only
  rw [hr, hnx, Ty.sat_eq_clamp]
  simp [flagNV, clamp]

/-! The words -/

/-- An accepted `cvt` completes with what `cvtRes` makes of its source. -/
theorem cvt_yields {c : Ctl} {t ts : Ty} {sat : Bool} {rm : Rm} {d a : Opnd} {r : State → Ctx → Nat → FRes}
    (h : ∀ s k l, cvtRes t ts sat rm (k.srcT s ts ts.regs l a) = r s k l) : Yields (.cvt c t ts sat rm d a) 2 d t.regs r :=
  yields_of (f := fun s k l => cvtRes t ts sat rm (k.srcT s ts ts.regs l a)) rfl (fun _ => rfl) (fun s x g _ l => h s (ctxOf _ s x g) l)

theorem Ty.isInt_ne {t : Ty} (h : t.isInt = true) : ¬ (t = .b32 ∨ t = .b64) ∧ t ≠ .e8m0 := by
  cases t <;> simp_all [Ty.isInt]

theorem Ty.float_ne {t : Ty} (h : t ∈ [Ty.f64, .f32, .f16, .bf16, .e4m3, .e5m2, .e3m2, .e2m1]) :
    ¬ (t = .b32 ∨ t = .b64) ∧ t ≠ .e8m0 ∧ t.isInt = false := by
  cases t <;> simp_all [Ty.isInt]

/-- The generator of 04 R89, at element 0. -/
theorem srRnd_eq (seed : Word) (group lane : Nat) :
    srRnd seed group lane 0 =
      let x0 : Word := seed ^^^ BitVec.ofNat 32 (group * 2 ^ 12) ^^^ BitVec.ofNat 32 (lane * 2 ^ 6)
      let x1 := if x0 = 0 then 1 else x0
      let x2 := x1 ^^^ (x1 <<< 13)
      let x3 := x2 ^^^ (x2 >>> 17)
      (x3 ^^^ (x3 <<< 5)).toNat := by
  have hshift : ∀ n k : Nat, BitVec.ofNat 32 n <<< k = BitVec.ofNat 32 (n * 2 ^ k) := by
    intro n k
    apply BitVec.eq_of_toNat_eq
    simp [Nat.shiftLeft_eq, Nat.mul_mod]
  unfold srRnd
  simp only [hshift, BitVec.ofNat_eq_ofNat, BitVec.xor_zero]

/-- Settles O13: a conversion to a float type is `convert`'s, one to an integer `ofFloat`'s or the clamped integer, and each word completes with
the result of its types. -/
theorem conversionResults : Obligations.ConversionResults := by
  refine ⟨fun row h sat mode x => convert_converts h sat mode x, fun c t ts sat rm d a b => ⟨?_, ?_, ?_, ?_, ?_, ?_, ?_⟩⟩
  · intro ht hts
    refine cvt_yields fun s k l => ?_
    simp [cvtRes, Ty.isInt_ne ht, Ty.isInt_ne hts, ht, hts, Ty.val_eq, Ty.wrap, Ty.out_eq, Ty.sat_eq_clamp, flagNV]
  · intro ht hts
    obtain ⟨_, hts8, hts⟩ := Ty.float_ne hts
    refine cvt_yields fun s k l => ?_
    simp only [cvtRes, Ty.isInt_ne ht, hts8, ht, hts, if_true, if_false, Bool.false_eq_true]
    cases ts.fmt.decode (k.srcT s ts ts.regs l a).toNat with
    | nan sig => simp [Ty.ofFloat, Ty.out_eq, modBits]
    | inf neg => rfl
    | num neg m e => simp only [Ty.ofFloat_num, Ty.out_eq]
  · intro ht hts
    obtain ⟨htb, ht8, ht⟩ := Ty.float_ne ht
    refine cvt_yields fun s k l => ?_
    simp [cvtRes, htb, Ty.isInt_ne hts, ht, hts, Ty.val_eq]
  · intro ht hts
    obtain ⟨htb, _, ht⟩ := Ty.float_ne ht
    obtain ⟨_, hts8, hts⟩ := Ty.float_ne hts
    refine cvt_yields fun s k l => ?_
    simp [cvtRes, htb, hts8, ht, hts]
  · rintro ht rfl
    obtain ⟨htb, _, ht⟩ := Ty.float_ne ht
    refine cvt_yields fun s k l => ?_
    simp only [cvtRes, htb, if_false, if_true, e8m0]
    by_cases hx : (k.srcT s .e8m0 Ty.e8m0.regs l a).toNat % 256 = 255 <;> simp [hx]
  · intro ht
    refine cvt_yields fun s k l => ?_
    simp only [cvtRes, if_pos ht]
  · refine yields_of (f := fun s k l => t.fmt.convert sat (.sr (srRnd (k.src32 s l b) k.g.index l 0)) (ts.fmt.decode (k.fbits s ts l a))) rfl
      (fun _ => rfl) fun s x g _ l => ?_
    rw [Ctx.src32_began, Ctx.fbits_began, srRnd_eq]

end Sys2Proof.Machine
end

section
/-! Scaled blocks (06 R137, R138): the greatest exponent of a block's values, and its scale. -/

namespace Sys2Proof.Machine

/-- The greatest exponent so far, `b`, raised to that of a value; a zero has none (06 R137). -/
def raiseTop (b : Option Int) : FV → Option Int
  | .num _ m e => if m = 0 then b else
      (match b with
       | none => some (Nat.log2 m + e)
       | some x => some (if x < Nat.log2 m + e then Nat.log2 m + e else x))
  | _ => b

/-- The exponent of a magnitude; 0 has none. -/
def topOf (a : ℚ) : Option Int := if a = 0 then none else some (Int.log 2 a)

theorem abs_ratOf_num (s : Bool) (m : Nat) (e : Int) : |ratOf (.num s m e)| = m * (2 : ℚ) ^ e := by
  have h : (0 : ℚ) ≤ m * (2 : ℚ) ^ e := by positivity
  cases s <;> simp [ratOf, abs_of_nonneg h]

/-- Raising the exponent of a magnitude is taking the greater magnitude. -/
theorem raiseTop_topOf {a : ℚ} (ha : 0 ≤ a) (v : FV) : raiseTop (topOf a) v = topOf (max a |ratOf v|) := by
  cases v with
  | nan _ | inf _ => simp [raiseTop, ratOf, ha]
  | num s m e =>
    rw [abs_ratOf_num]
    rcases eq_or_ne m 0 with rfl | hm
    · simp [raiseTop, ha]
    · have hpos : (0 : ℚ) < m * (2 : ℚ) ^ e := by positivity
      simp only [raiseTop, if_neg hm, ← log_dyadic (K := ℚ) e hm]
      generalize (m : ℚ) * (2 : ℚ) ^ e = b at *
      rcases ha.eq_or_lt with rfl | ha
      · simp [topOf, hpos.le, hpos.ne']
      · rw [topOf, topOf, if_neg ha.ne', if_neg (lt_max_of_lt_left ha).ne']
        rcases le_total a b with h | h
        · have := Int.log_mono_right (b := 2) ha h
          rw [max_eq_right h]; dsimp only; congr 1; split <;> omega
        · have := Int.log_mono_right (b := 2) hpos h
          rw [max_eq_left h]; dsimp only; congr 1; split <;> omega

theorem foldl_raiseTop (vs : List FV) : ∀ {a : ℚ}, 0 ≤ a →
    vs.foldl raiseTop (topOf a) = topOf ((vs.map (fun v => |ratOf v|)).foldl max a) := by
  induction vs with
  | nil => intros; rfl
  | cons v vs ih =>
    intro a ha
    rw [List.foldl_cons, raiseTop_topOf ha, ih (ha.trans (le_max_left _ _))]
    rfl

/-- The scale of a block without NaNs and infinities, from its greatest magnitude. -/
theorem bpackScale_eq (t : Ty) {vs : List FV} (h : vs.any (fun v => v.isNan || v.isInf) = false) :
    let amax : ℚ := (vs.map (fun v => |ratOf v|)).foldr max 0
    (bpackScale t vs : Int) = if amax = 0 then 127 else min (max (Int.log 2 amax - bpackEmax t + 127) 0) 254 := by
  intro amax
  have htop : vs.foldl raiseTop none = topOf amax := by
    rw [show none = topOf 0 from rfl, foldl_raiseTop vs le_rfl, List.foldl_eq_foldr]
  have hscale : bpackScale t vs = match topOf amax with
      | none => 127
      | some e => let x := e - bpackEmax t + 127; if x < 0 then 0 else if 254 < x then 254 else x.toNat := by
    rw [← htop]; unfold bpackScale; rw [h]; rfl
  rw [hscale, topOf]
  by_cases h0 : amax = 0
  · simp [h0]
  · simp only [if_neg h0]
    clear hscale
    generalize Int.log 2 amax - bpackEmax t + 127 = x
    split
    next h => rw [max_eq_right (by omega)]; rfl
    next h =>
      rw [max_eq_left (by omega)]
      split
      next h' => rw [min_eq_right (by omega)]; rfl
      next h' => rw [min_eq_left (by omega), Int.toNat_of_nonneg (by omega)]

/-- The scale of a block is 255 just where a value is a NaN or infinite. -/
theorem bpackScale_bad (t : Ty) {vs : List FV} (h : vs.any (fun v => v.isNan || v.isInf) = true) : bpackScale t vs = 255 := by
  unfold bpackScale; rw [h]; rfl

theorem bpackScale_ne (t : Ty) {vs : List FV} (h : vs.any (fun v => v.isNan || v.isInf) = false) : bpackScale t vs ≠ 255 := by
  have := bpackScale_eq t h
  dsimp only at this
  split at this <;> omega

/-- A word whose result in each selected lane is `f'` completes with that result. -/
theorem yields_of_lanes {i : Instr} {lat : Nat} {d : Opnd} {n : Nat} {f f' : State → Ctx → Nat → Nat × BitVec 8} (h : Yields i lat d n f)
    (hf : ∀ s k, ∀ l ∈ k.lanes, f s k l = f' s k l) : Yields i lat d n f' := by
  intro s x g ha
  rw [h s x g ha, Ctx.each, Ctx.each, List.map_congr_left fun l hl => by rw [hf s _ l hl]]

/-- One lane's value and scale unpacked (06 R138). -/
def unpackRes (t : Ty) (w : Nat) : FRes :=
  match e8m0 (w / 2 ^ 8), t.fmt.decode w with
  | none, _ => (Fmt.f32.nanBits, 0)
  | some sc, .num n m e => Fmt.f32.roundTo (.mode .rn) n m (e + sc)
  | some _, .inf n => (Fmt.f32.infBits n, 0)
  | some _, .nan _ => (Fmt.f32.nanBits, 0)

theorem e8m0_of_ne {x : Nat} (h : x % 256 ≠ 255) : e8m0 x = some (((x % 256 : Nat) : Int) - 127) := if_neg h

/-- One lane's value divided by its block's scale, converted, below the scale byte (06 R137). -/
def packRes (t : Ty) (sc : Nat) (neg : Bool) (m : Nat) (e : Int) : FRes :=
  let r := t.fmt.convert true (.mode .rn) (.num neg m (e - (sc - 127)))
  (sc * 2 ^ 8 + r.1, r.2 &&& 0x01#8)

/-- Settles O14: a block's scale is that of its greatest magnitude, an element is `convert`'s, and unpacking multiplies. -/
theorem blockScaleResults : Obligations.BlockScaleResults := by
  refine ⟨fun row h x => convert_converts h true (.mode .rn) x, fun c t d a => ⟨?_, ?_⟩⟩
  · refine yields_of_lanes (f := fun s k l => bpackRes t (bpackScale t ((k.lanes.filter (fun j => j / 32 == l / 32)).map
      fun j => Fmt.f32.decode (k.fbits s .f32 j a))) (Fmt.f32.decode (k.fbits s .f32 l a)))
      (yields_of rfl (fun _ => rfl) fun _ _ _ _ _ => rfl) fun s k l hl => ?_
    dsimp only
    have hmem : l ∈ k.lanes.filter (fun j => j / 32 == l / 32) := List.mem_filter.2 ⟨hl, by simp⟩
    generalize k.lanes.filter (fun j => j / 32 == l / 32) = block at *
    have hany : block.any (fun j => (Fmt.f32.decode (k.fbits s .f32 j a)).isNan || (Fmt.f32.decode (k.fbits s .f32 j a)).isInf) =
        (block.map fun j => Fmt.f32.decode (k.fbits s .f32 j a)).any (fun v => v.isNan || v.isInf) := by rw [List.any_map]; rfl
    cases hbad : (block.map fun j => Fmt.f32.decode (k.fbits s .f32 j a)).any (fun v => v.isNan || v.isInf) with
    | true => rw [hany, hbad, if_pos rfl, bpackScale_bad t hbad]; rfl
    | false =>
      rw [hany, hbad, if_neg Bool.false_ne_true]
      unfold bpackRes
      rw [if_neg (bpackScale_ne t hbad)]
      have hsc := bpackScale_eq t hbad
      rw [List.map_map] at hsc
      have hfin : (Fmt.f32.decode (k.fbits s .f32 l a)).isNan = false ∧ (Fmt.f32.decode (k.fbits s .f32 l a)).isInf = false := by
        have := List.any_eq_false.1 hbad _ (List.mem_map_of_mem hmem)
        simpa using this
      generalize hv : Fmt.f32.decode (k.fbits s .f32 l a) = v at *
      cases v with
      | nan sig => simp [FV.isNan] at hfin
      | inf neg => simp [FV.isInf] at hfin
      | num neg m e =>
        have hres : ∀ sc : Int, (bpackScale t (block.map fun j => Fmt.f32.decode (k.fbits s .f32 j a)) : Int) = sc →
            packRes t (bpackScale t (block.map fun j => Fmt.f32.decode (k.fbits s .f32 j a))) neg m e =
              (sc.toNat * 256 + (t.fmt.convert true (.mode .rn) (.num neg m (e - (sc - 127)))).1,
                (t.fmt.convert true (.mode .rn) (.num neg m (e - (sc - 127)))).2 &&& 0x01#8) := by rintro _ rfl; rfl
        exact hres _ hsc
  · refine yields_of (f := fun s k l => unpackRes t (k.src32 s l a).toNat) rfl (fun _ => rfl) fun s x g _ l => ?_
    rw [Ctx.src32_began]
    generalize ((ctxOf (.bunpack c t d a) s x g).src32 s l a).toNat = w
    by_cases h : w / 256 % 256 = 255
    · simp [unpackRes, e8m0, h]
    · rw [if_neg h, unpackRes, show w / 2 ^ 8 = w / 256 from rfl, e8m0_of_ne h]
      cases t.fmt.decode w <;> rfl

end Sys2Proof.Machine
end

section
/-! The system instructions (16 R372–R379, 17 R382, R383): what they read, what they leave to a later turn, and what they do at once. -/

namespace Sys2Proof.Machine

open Host (Outcome)

/-! Reads -/

/-- A special register is read as the group and the issue stand before the word. -/
theorem Ctx.sreg_began {i : Instr} {s : State} {x : Issue} {g : Group} (ha : Accepts i s x g) (sel : Mask) (c : Ctx) (l num : Nat) (fmt : Option Ty) :
    c.sreg (s.began i x g sel) l num fmt = c.sreg s l num fmt := by
  unfold Ctx.sreg
  rw [ha.issue]
  rfl

theorem sysrd_special (c : Ctl) (num : BitVec 12) (d : Opnd) (h : num.toNat < 0x100) :
    Gives (.sysrd c num d) 1 d (if num.toNat = 7 ∨ num.toNat = 8 then 2 else 1) (fun s k l => k.sreg s l num.toNat none) := by
  have hwide : (if sysWide num.toNat then 2 else 1) = if num.toNat = 7 ∨ num.toNat = 8 then 2 else 1 := by
    simp [sysWide, show num.toNat ≠ 0x105 by omega]
  refine yields_of (f := fun s k l => (k.sreg s l num.toNat none, 0)) rfl (fun s => ?_) fun s x g ha l => by rw [Ctx.sreg_began ha]
  change execSysrd c num d s = _
  simp only [execSysrd, if_pos h, hwide]
  rfl

theorem sysrd_partition (c : Ctl) (num : BitVec 12) (d : Opnd) (h : 0x100 ≤ num.toNat) :
    Gives (.sysrd c num d) 4 d (if num.toNat = 0x105 then 2 else 1) (fun s k _ => k.sysReg s num.toNat) := by
  have hwide : (if sysWide num.toNat then 2 else 1) = if num.toNat = 0x105 then 2 else 1 := by
    simp [sysWide, show num.toNat ≠ 7 by omega, show num.toNat ≠ 8 by omega]
  refine yields_of (f := fun s k l => (k.sysReg s num.toNat, 0)) rfl (fun s => ?_) fun s x g ha l => rfl
  change execSysrd c num d s = _
  simp only [execSysrd, if_neg (Nat.not_lt.2 h), hwide]
  rfl

/-! Writes for a later turn -/

/-- An accepted word that leaves a write to a later turn, and does nothing else. -/
theorem exec_defers {i : Instr} {s : State} {x : Issue} {g : Group} (ha : Accepts i s x g) {body : Ctx → State → State} {due : Nat} {w : PWrite}
    (he : exec i s = withIssue i s body) (hb : body (ctxOf i s x g) (s.entered i x g) = (s.entered i x g).defer (ctxOf i s x g) due w) :
    exec i s = .next (s.deferOf i x g due w) := by
  rw [he, withIssue_of_accepts ha]
  exact congrArg Outcome.next hb

theorem systemWords : SystemWords := by
  refine fun c num d a b => ⟨sysrd_special c num d, sysrd_partition c num d, fun s x g => ⟨?_, ?_, ?_, ?_, ?_⟩⟩
  · rintro i k ⟨ha, hs⟩
    have hwide : (if sysWide num.toNat then 2 else 1) = if num.toNat = 7 ∨ num.toNat = 8 ∨ num.toNat = 0x105 then 2 else 1 := by
      simp [sysWide, or_assoc]
    refine ⟨fun h => exec_defers ha rfl ?_, fun h => exec_defers ha rfl ?_⟩
    · exact (if_neg hs).trans (if_pos h)
    · refine (if_neg hs).trans ((if_neg h).trans ?_)
      rw [hwide]
      rfl
  · rintro ⟨ha, hs⟩
    exact exec_defers ha rfl (if_neg hs)
  · rintro i k ⟨ha, hs⟩
    exact exec_defers ha rfl (if_neg hs)
  · intro i k ha hok
    have hany : ((ctxOf (.leaseChk c d a) s x g).lanes.any fun l => !s.peerOk ((ctxOf (.leaseChk c d a) s x g).src32 s l a)) = false := by
      simpa using hok
    rw [show exec (.leaseChk c d a) s = execLeaseChk c d a s from rfl, execLeaseChk, withIssue_of_accepts ha]
    refine congrArg Outcome.next ((if_neg (Bool.not_eq_true _ ▸ hany)).trans ?_)
    exact State.began_result s rfl x g 1 d _
  · rintro i k ha ⟨l, hl, hbad⟩ hlen hidle
    have hany : ((ctxOf (.leaseChk c d a) s x g).lanes.any fun l => !s.peerOk ((ctxOf (.leaseChk c d a) s x g).src32 s l a)) = true :=
      List.any_eq_true.2 ⟨l, hl, Bool.not_eq_true' _ ▸ hbad⟩
    exact parksAll_of_fold ha hlen hidle rfl (if_pos hany) fun t ht l => State.parkLane_entered ht l _

/-! What takes effect at once -/

theorem enteredGroup_of_plain {i : Instr} (x : Issue) (g : Group) (h : endsHeld i.opc = false) (hf : i.front = (false, false) := by rfl)
    (hu : (unitOf i.opc == 5) = false := by rfl) : enteredGroup i x g = { g with seq := g.seq + 1 } := by
  simp only [enteredGroup, Group.noteWord, h, hf, hu]
  rfl

theorem quench_quenches {c : Ctl} {s : State} {x : Issue} {g : Group} (ha : Accepts (.quench c) s x g) (hq : g.nq ≤ 255) :
    let k := ctxOf (.quench c) s x g
    let hit := k.lanes.filter (fun l => (g.lane l).isLive)
    ∃ t, exec (.quench c) s = .next t ∧ tget t.groups x.gid = some (({ g with seq := g.seq + 1 } : Group).quenched hit 4) := by
  intro k hit
  have hplain : s.entered (.quench c) x g = ({ s with issue := some (x.ran (.quench c)) } : State).setGroup x.gid { g with seq := g.seq + 1 } := by
    rw [← enteredGroup_of_plain x g (i := .quench c) rfl]; rfl
  refine ⟨(s.entered (.quench c) x g).quenchAll x.gid k.lanes 4, ?_, ?_⟩
  · rw [show exec (.quench c) s = execQuench c s from rfl, execQuench, withIssue_of_accepts ha]
    rfl
  · have hall := State.quenchAll_setGroup (gid := x.gid) (cause := 4) (lanesOf_nodup k.sel) ({ s with issue := some (x.ran (.quench c)) } : State)
      { g with seq := g.seq + 1 } hq
    rw [hplain, Ctx.lanes, hall]
    exact tget_tset_self _ _ _

theorem State.core_markCore_cecnt (s : State) (k : Nat) : ((s.markCore k).core k).cecnt = (s.core k).cecnt := by
  unfold State.markCore
  split
  · rfl
  · have h := State.core_modCore_self s k fun c => { c with marked := true }
    exact (congrArg Core.cecnt h :)

/-- A correctable event is counted (18 R405). -/
theorem State.core_correctable_cecnt (s : State) (k : Nat) : ((s.correctable k).core k).cecnt = (s.core k).cecnt + 1 := by
  have hcount : ((s.modCore k fun c => { c with cecnt := c.cecnt + 1, ceWin := c.ceWin + 1 }).core k).cecnt = (s.core k).cecnt + 1 :=
    congrArg Core.cecnt (State.core_modCore_self s k _)
  unfold State.correctable
  dsimp only
  split
  · rw [State.core_markCore_cecnt]; exact hcount
  · exact hcount

/-- A field of an injection word. -/
theorem injField (w : Word) (n len : Nat) : (w.extractLsb' n len).toNat = w.toNat / 2 ^ n % 2 ^ len := by
  rw [BitVec.extractLsb'_toNat, Nat.shiftRight_eq_div_pow]

section
variable {c : Ctl} {die : Bool} {a : Opnd} {s : State} {x : Issue} {g : Group}

theorem finj_acc (ha : Accepts (.finj c .acc die a) s x g) (hs : (ctxOf (.finj c .acc die a) s x g).sel ≠ 0)
    (hw : ((ctxOf (.finj c .acc die a) s x g).low32 s a).toNat % 2 ^ 12 = 0) (hm : (s.grid g.grid).desc.hasMatrix = true)
    (hq : (s.core g.core).eq.length < 4) :
    let w := ((ctxOf (.finj c .acc die a) s x g).low32 s a).toNat
    JoinsEngine (.finj c .acc die a) s x g (.acc (w / 2 ^ 27) (w / 2 ^ 24 % 8) (w / 2 ^ 18 % 64) (w / 2 ^ 12 % 64)) (.spec 0) [] := by
  intro w
  have hlow : ((ctxOf (.finj c .acc die a) s x g).low32 s a).extractLsb' 0 12 = 0#12 := by
    apply BitVec.eq_of_toNat_eq; rw [injField]; simpa using hw
  have hbit : w / 2 ^ 27 % 2 ^ 5 = w / 2 ^ 27 := Nat.mod_eq_of_lt (by omega)
  refine ⟨(s.entered (.finj c .acc die a) x g).accept (ctxOf (.finj c .acc die a) s x g)
    (.acc (w / 2 ^ 27) (w / 2 ^ 24 % 8) (w / 2 ^ 18 % 64) (w / 2 ^ 12 % 64)) 1, _, enteredGroup (.finj c .acc die a) x g, ?_,
    congrArg Core.eq (State.core_modCore_self _ _ _), rfl, rfl, rfl, rfl, rfl, rfl, rfl, tget_entered _ _ _ _, ?_, rfl, rfl, rfl, rfl,
    fun k hk => State.core_setCore_of_ne _ _ hk⟩
  · rw [show exec (.finj c .acc die a) s = execFinj c .acc die a s from rfl, execFinj, withIssue_of_accepts ha]
    refine congrArg Outcome.next ((if_neg hs).trans ((if_neg hs).trans ((if_neg (Nat.not_le.2 hq)).trans ((if_neg ?_).trans ?_))))
    · change ¬ (((ctxOf (.finj c .acc die a) s x g).low32 s a).extractLsb' 0 12 != 0 || !(s.grid g.grid).desc.hasMatrix) = true
      simp [hlow, hm]
    · change (s.entered (.finj c .acc die a) x g).accept _ (.acc (BitVec.toNat _) (BitVec.toNat _) (BitVec.toNat _) (BitVec.toNat _)) 1 = _
      simp only [injField]
      exact congrArg (fun n => (s.entered (.finj c .acc die a) x g).accept (ctxOf (.finj c .acc die a) s x g) (.acc n _ _ _) 1) hbit
  · simp

theorem finj_poison (ha : Accepts (.finj c .poison die a) s x g) (hs : (ctxOf (.finj c .poison die a) s x g).sel ≠ 0) {sp : Space} {o : Nat}
    (hloc : s.locate g die ((ctxOf (.finj c .poison die a) s x g).low32 s a).toNat 1 = some (sp, o)) :
    exec (.finj c .poison die a) s = .next (s.accessOf (.finj c .poison die a) x g
      { die := die, n := 1, reads := false, writes := false, turnless := true } sp .poison
      [{ lane := (ctxOf (.finj c .poison die a) s x g).low, adr := o }] (.spec 0) []) := by
  rw [show exec (.finj c .poison die a) s = execFinj c .poison die a s from rfl, execFinj, withIssue_of_accepts ha]
  refine congrArg Outcome.next ((if_neg hs).trans ?_)
  change (match s.locate g die ((ctxOf (.finj c .poison die a) s x g).low32 s a).toNat 1 with
    | none => _
    | some (sp, o) => (s.entered (.finj c .poison die a) x g).enqueue _ sp _ .poison [{ lane := _, adr := o }]) = _
  rw [hloc]
  have hgroup : ({ enteredGroup (.finj c .poison die a) x g with pend := g.pend ++ [] } : Group) = enteredGroup (.finj c .poison die a) x g := by
    rw [List.append_nil, ← enteredGroup_pend (.finj c .poison die a) x g]
  simp only [State.accessOf, hgroup]
  rfl

theorem finj_parity (ha : Accepts (.finj c .parity die a) s x g) (hs : (ctxOf (.finj c .parity die a) s x g).sel ≠ 0) :
    let w := ((ctxOf (.finj c .parity die a) s x g).low32 s a).toNat
    w < 64 * (s.grid g.grid).desc.nlines → w % 64 % 12 = 0 → w % 64 < 60 →
    exec (.finj c .parity die a) s = .next (s.deferOf (.finj c .parity die a) x g (s.turn + 1)
      (.parity g.core (((s.grid g.grid).base + w) / 64) (w % 64 / 12))) := by
  intro w hw h12 h60
  refine exec_defers ha rfl ((if_neg hs).trans (if_pos ?_))
  have hslot : w % 64 = 0 ∨ w % 64 = 12 ∨ w % 64 = 24 ∨ w % 64 = 36 ∨ w % 64 = 48 := by omega
  change (decide (w < 64 * (s.grid g.grid).desc.nlines) && slotPc 0 w) = true
  simpa [slotPc, hw] using hslot

theorem finj_cevt (ha : Accepts (.finj c .cevt die a) s x g) (hs : (ctxOf (.finj c .cevt die a) s x g).sel ≠ 0)
    (hw : ((ctxOf (.finj c .cevt die a) s x g).low32 s a).toNat = 0) :
    ∃ t, exec (.finj c .cevt die a) s = .next t ∧ (t.core g.core).cecnt = (s.core g.core).cecnt + 1 := by
  refine ⟨(s.entered (.finj c .cevt die a) x g).correctable g.core, ?_, State.core_correctable_cecnt _ _⟩
  rw [show exec (.finj c .cevt die a) s = execFinj c .cevt die a s from rfl, execFinj, withIssue_of_accepts ha]
  exact congrArg Outcome.next ((if_neg hs).trans (if_pos (BitVec.eq_of_toNat_eq hw)))

end

theorem quenchAndInject : QuenchAndInject := by
  refine fun c die a s x g => ⟨?_, fun kd => ?_⟩
  · intro i k hit ha hlen hq
    obtain ⟨t, ht, hg⟩ := quench_quenches ha hq
    refine ⟨t, _, ht, hg, fun l hl => ?_, rfl, fun hne => ⟨if_neg hne, if_neg hne⟩, rfl⟩
    exact lane_mapFrom (g := g) (by omega)
  · intro i k w ha hs
    refine ⟨?_, ?_, ?_, ?_⟩
    · rintro rfl hw hm hq
      exact finj_acc ha hs hw hm hq
    · rintro rfl sp o hloc
      exact finj_poison ha hs hloc
    · rintro rfl hw h12 h60
      exact finj_parity ha hs hw h12 h60
    · rintro rfl hw
      exact finj_cevt ha hs hw

end Sys2Proof.Machine
end

section
/-! What the pending writes of a partition do at their turn (16 R373, R374, R376, R377, R379, 04 R90, 18 R414). -/

namespace Sys2Proof.Machine

open Host (Outcome)

/-! One partition changed more than once -/

theorem lmod_lmod {α : Type} (l : List α) (i : Nat) (f f' : α → α) : lmod (lmod l i f) i f' = lmod l i (fun a => f' (f a)) := by
  induction l generalizing i with
  | nil => rfl
  | cons a t ih => cases i <;> simp [lmod, ih]

theorem lmod_congr {α : Type} {l : List α} {i : Nat} {f f' : α → α} (d : α) (h : f (l.getD i d) = f' (l.getD i d)) : lmod l i f = lmod l i f' := by
  induction l generalizing i with
  | nil => rfl
  | cons a t ih =>
    cases i with
    | zero => exact congrArg (· :: t) h
    | succ i => exact congrArg (a :: ·) (ih h)

theorem lmod_id {α : Type} (l : List α) (i : Nat) : lmod l i (fun a => a) = l := by
  induction l generalizing i with
  | nil => rfl
  | cons a t ih => cases i <;> simp [lmod, ih]

theorem State.modPart_modPart (s : State) (p : Nat) (f f' : Part → Part) : (s.modPart p f).modPart p f' = s.modPart p (fun q => f' (f q)) := by
  simp only [State.modPart, lmod_lmod]

/-- A partition changed depends only on what becomes of that partition. -/
theorem State.modPart_congr {s : State} {p : Nat} {f f' : Part → Part} (h : f (s.part p) = f' (s.part p)) : s.modPart p f = s.modPart p f' := by
  unfold State.modPart
  rw [lmod_congr {} h]

theorem State.modPart_eq_self {s : State} {p : Nat} {f : Part → Part} (h : f (s.part p) = s.part p) : s.modPart p f = s := by
  rw [State.modPart_congr (f' := fun q => q) h, State.modPart, lmod_id]

/-! Writes that are due -/

/-- The partition's pending writes are these alone. -/
def State.onlyPend (s : State) (p : Nat) (ws : List Pending) : State := s.modPart p (fun q => { q with pend := ws })

theorem PWrite.late_eq (w : PWrite) : w.late = decide (w = .snap) := by cases w <;> rfl

theorem State.pend_onlyPend {s : State} {p : Nat} (hp : p < s.parts.length) (ws : List Pending) : ((s.onlyPend p ws).part p).pend = ws := by
  rw [State.onlyPend, State.part_modPart hp]

theorem State.onlyPend_eq_self {s : State} {p : Nat} {ws : List Pending} (h : (s.part p).pend = ws) : s.onlyPend p ws = s :=
  State.modPart_eq_self (h ▸ rfl)

/-- Of the pending writes `ws` those that are due take effect in order, and the others stay. -/
theorem State.applyWrites_onlyPend {s : State} {p : Nat} (hp : p < s.parts.length) (ws : List Pending) (late : Bool) :
    (s.onlyPend p ws).applyWrites p late =
      (sortBy (fun a b => a.key ≤ b.key) (ws.filter (fun q => decide (q.due ≤ s.turn) && q.write.late == late))).foldl (fun s q => s.applyWrite p q.write)
        (s.onlyPend p (ws.filter (fun q => !(decide (q.due ≤ s.turn) && q.write.late == late)))) := by
  unfold State.applyWrites
  dsimp only
  rw [State.pend_onlyPend hp]
  congr 1
  refine (State.modPart_modPart s p _ _).trans ?_
  exact State.modPart_congr rfl

/-- A write that is due takes effect once, before the results of its turn or after them. -/
theorem State.applyWrites_one {s : State} {p : Nat} (hp : p < s.parts.length) {w : Pending} (hw : w.due ≤ s.turn) :
    (s.onlyPend p [w]).applyWrites p w.write.late = (s.onlyPend p []).applyWrite p w.write ∧
    (s.onlyPend p [w]).applyWrites p (!w.write.late) = s.onlyPend p [w] := by
  constructor <;> rw [State.applyWrites_onlyPend hp]
  · simp [hw, sortBy, insertBy]
  · simp [hw, sortBy]

/-! Registers, tolerances and records -/

theorem State.applyWrite_reg (s : State) (p n : Nat) (v : DWord) : (s.onlyPend p []).applyWrite p (.reg n v) = s.modPart p (fun q => { q with
    pend := []
    fairlim := if n = 0x00C ∧ v.toNat % 2 ^ 15 ≠ 0 then v.toNat % 2 ^ 15 else q.fairlim
    sbchk := if n = 0x101 then v.getLsbD 0 else q.sbchk
    bwdog := if n = 0x102 ∧ v.setWidth 32 ≠ 0#32 then v.setWidth 32 else q.bwdog
    bwdogAt := if n = 0x102 ∧ v.setWidth 32 ≠ 0#32 then 16 * s.turn else q.bwdogAt
    snapt := if n = 0x105 then v else q.snapt }) := by
  refine (State.modPart_modPart s p _ _).trans (State.modPart_congr ?_)
  dsimp only
  split
  · simp only [Part.setFairlim]; split <;> simp_all
  · simp
  · simp only [Part.setBwdog]
    split <;> simp_all
    rfl
  · simp
  · simp_all

theorem find?_replaced (tol : List (Ty × Word)) (ty ty' : Ty) (v : Word) :
    ((tol.map (fun e => if e.1 == ty then (ty, v) else e)).find? (fun e => e.1 == ty')).map (·.2) =
      if ty' = ty ∧ (∃ e ∈ tol, e.1 = ty) then some v else (tol.find? (fun e => e.1 == ty')).map (·.2) := by
  induction tol with
  | nil => simp
  | cons e tol ih =>
    by_cases he : e.1 = ty
    · by_cases ht : ty = ty'
      · subst ht; simp [he]
      · simp only [List.map_cons, he, beq_self_eq_true, if_true, List.find?_cons, beq_eq_false_iff_ne.2 ht, ih, Ne.symm ht, false_and]
    · by_cases he' : e.1 = ty'
      · subst he'; simp [he]
      · simp only [List.map_cons, List.find?_cons, beq_eq_false_iff_ne.2 he, beq_eq_false_iff_ne.2 he', Bool.false_eq_true, if_false, ih, List.mem_cons,
          exists_eq_or_imp, he, false_or]

theorem State.applyWrite_tol {s : State} {p : Nat} (hp : p < s.parts.length) (ty : Ty) (v : Word) :
    let t := (s.onlyPend p []).applyWrite p (.tol ty v)
    (∀ ty', (t.part p).tolOf ty' = if ty' = ty ∧ (∃ e ∈ (s.part p).tol, e.1 = ty) then v else (s.part p).tolOf ty') ∧
      t = s.modPart p (fun q => { q with pend := [], tol := (t.part p).tol }) := by
  intro t
  have ht : t = s.modPart p (fun q => { q with pend := [], tol := q.tol.map (fun e => if e.1 == ty then (ty, v) else e) }) :=
    State.modPart_modPart s p _ _
  have htol : (t.part p).tol = (s.part p).tol.map (fun e => if e.1 == ty then (ty, v) else e) := by rw [ht, State.part_modPart hp]
  refine ⟨fun ty' => ?_, ?_⟩
  · unfold Part.tolOf
    rw [htol, find?_replaced]
    split <;> rfl
  · rw [htol]
    exact ht.trans (State.modPart_congr rfl)

theorem State.applyWrite_evt {s : State} {p : Nat} (hp : p < s.parts.length) (bs : List Byte) :
    let q := s.part p
    (s.onlyPend p []).applyWrite p (.evt bs) =
      if q.elogwp - q.elogrd = q.elogsz then s.modPart p (fun q => { q with pend := [], elogdrop := q.elogdrop + 1 })
      else ({ s with hbm := s.hbm.write (q.elogbase.toNat + 32 * (q.elogwp.toNat % Nat.max q.elogsz.toNat 1)) bs } : State).modPart p
        (fun q => { q with pend := [], elogwp := q.elogwp + 1 }) := by
  intro q
  have hq : (s.onlyPend p []).part p = { q with pend := [] } := State.part_modPart hp _
  have hlog : (s.onlyPend p []).applyWrite p (.evt bs) = (s.onlyPend p []).logEvent p bs := rfl
  rw [hlog, State.logEvent, hq]
  simp only [beq_iff_eq, State.onlyPend, State.modPart, lmod_lmod]

theorem State.applyWrite_parity (u : State) (p c n slot : Nat) :
    let t := u.applyWrite p (.parity c n slot)
    (∀ k, k ≠ c → t.core k = u.core k) ∧ (∀ m, m ≠ n → tget (t.core c).lines m = tget (u.core c).lines m) ∧
      ∀ l, tget (u.core c).lines n = some l → tget (t.core c).lines n = some { l with lw := l.lw ^^^ (1#32 <<< (24 + slot)) } := by
  intro t
  have hc : t.core c = { u.core c with lines := tmod (u.core c).lines n (fun l => { l with lw := l.lw ^^^ (1#32 <<< (24 + slot)) }) } :=
    State.core_modCore_self u c _
  rw [hc]
  exact ⟨fun k hk => State.core_setCore_of_ne _ _ hk, fun m hm => tget_tmod_of_ne _ _ hm, fun l hl => tget_tmod_of_some hl⟩


/-! FLAGS -/

/-- FLAGS of one lane written (04 R90). -/
def Lane.writeFlags (l : Lane) (v : Word) : Lane := { l with qread := v.getLsbD 7, hexh := v.getLsbD 6, wovf := v.getLsbD 5 }

/-- The lane bits of FLAGS written for each entry. -/
def Group.writeLaneFlags (g : Group) (vals : List (Nat × Word)) : Group :=
  vals.foldl (fun g e => g.modLane e.1 (fun l => l.writeFlags e.2)) g

theorem Group.lane_writeFlags (g : Group) (vals : List (Nat × Word)) (l : Nat) : (g.writeFlags vals).lane l = (g.writeLaneFlags vals).lane l := by
  cases vals <;> rfl

theorem Group.lane_writeLaneFlags_of_not_mem {vals : List (Nat × Word)} {l : Nat} (h : l ∉ vals.map (·.1)) (g : Group) :
    (g.writeLaneFlags vals).lane l = g.lane l := by
  induction vals generalizing g with
  | nil => rfl
  | cons e vals ih =>
    rw [List.map_cons, List.mem_cons, not_or] at h
    exact (ih h.2 _).trans (Group.lane_modLane_of_ne _ (Ne.symm h.1))

theorem Group.lane_writeLaneFlags_of_mem {vals : List (Nat × Word)} (hn : (vals.map (·.1)).Nodup) {e : Nat × Word} (he : e ∈ vals) {g : Group}
    (hl : e.1 < g.lanes.length) : (g.writeLaneFlags vals).lane e.1 = (g.lane e.1).writeFlags e.2 := by
  induction vals generalizing g with
  | nil => simp at he
  | cons e' vals ih =>
    rw [List.map_cons, List.nodup_cons] at hn
    rcases List.mem_cons.1 he with rfl | he
    · exact (Group.lane_writeLaneFlags_of_not_mem hn.1 _).trans (Group.lane_modLane_self _ hl)
    · have hne : e'.1 ≠ e.1 := fun h => hn.1 (h ▸ List.mem_map_of_mem he)
      exact (ih hn.2 he (g := g.modLane e'.1 _) (by simpa [Group.modLane] using hl)).trans (by rw [Group.lane_modLane_of_ne _ hne])

/-! Snapshots -/

/-- Blocks changed one after the other. -/
def State.eachBlock (s : State) (ids : List Nat) (f : Nat → Block → Block) : State := ids.foldl (fun s n => s.modBlock n (f n)) s

theorem State.eachBlock_parts (s : State) (ids : List Nat) (f : Nat → Block → Block) : (s.eachBlock ids f).parts = s.parts := by
  induction ids generalizing s with
  | nil => rfl
  | cons n ids ih => exact ih _

theorem State.tget_eachBlock {ids : List Nat} (hn : ids.Nodup) (s : State) (f : Nat → Block → Block) (n : Nat) :
    tget (s.eachBlock ids f).blocks n = if n ∈ ids then (tget s.blocks n).map (f n) else tget s.blocks n := by
  induction ids generalizing s with
  | nil => rfl
  | cons m ids ih =>
    rw [List.nodup_cons] at hn
    refine (ih hn.2 (s.modBlock m (f m))).trans ?_
    by_cases h : n = m
    · subst h; simp [hn.1, State.modBlock, tget_tmod_self]
    · simp [h, State.modBlock, tget_tmod_of_ne _ _ h]

/-- A block with its snapshot replaced. -/
def Block.withSnap (x : Block) (bs : List Byte) : Block := { x with snap := bs }

/-- What a snapshot of block `b` reads does not change when the snapshot area of a block does. -/
theorem State.blockSnap_modBlock (s : State) (m : Nat) (F : Block → List Byte) (b trig tick : Nat) :
    (s.modBlock m (fun x => x.withSnap (F x))).blockSnap b trig tick = s.blockSnap b trig tick := by
  have hb : ∃ bs, (s.modBlock m (fun x => x.withSnap (F x))).block b = (s.block b).withSnap bs := by
    unfold State.block State.modBlock
    by_cases h : b = m
    · subst h
      dsimp only
      rw [tget_tmod_self]
      cases hx : tget s.blocks b with
      | none => exact ⟨_, rfl⟩
      | some x => exact ⟨_, rfl⟩
    · rw [tget_tmod_of_ne _ _ h]; exact ⟨_, rfl⟩
  obtain ⟨bs, hb⟩ := hb
  have hbar : (s.modBlock m (fun x => x.withSnap (F x))).barMask b = s.barMask b := by
    unfold State.barMask State.barHere
    rw [hb]; rfl
  unfold State.blockSnap
  rw [hb, hbar]
  rfl


/-- The blocks of a partition that hold a place, or hold none any more. -/
def State.blocksOf (s : State) (p : Nat) (released : Bool) : List Nat :=
  (s.blocks.filter (fun b => b.2.released == released && (s.grid b.2.grid).pid == p)).map (·.1)

/-- Every block of `ids` latches what the state holds. -/
theorem State.foldl_blockSnap (bs : List (Nat × Block)) (trig tick : Nat) {s u : State} (h : ∀ b, u.blockSnap b trig tick = s.blockSnap b trig tick) :
    bs.foldl (fun s b => s.modBlock b.1 (fun x => { x with snap := s.blockSnap b.1 trig tick })) u =
      u.eachBlock (bs.map (·.1)) (fun b x => x.withSnap (s.blockSnap b trig tick)) := by
  induction bs generalizing u with
  | nil => rfl
  | cons b bs ih =>
    simp only [List.foldl_cons, h]
    exact ih (fun c => (State.blockSnap_modBlock u b.1 (fun _ => s.blockSnap b.1 trig tick) c trig tick).trans (h c))

theorem State.blockSnap_eachBlock (ids : List Nat) (F : Nat → Block → List Byte) (s : State) (b trig tick : Nat) :
    (s.eachBlock ids (fun n x => x.withSnap (F n x))).blockSnap b trig tick = s.blockSnap b trig tick := by
  induction ids generalizing s with
  | nil => rfl
  | cons n ids ih => exact (ih _).trans (State.blockSnap_modBlock s n (F n) b trig tick)

theorem State.foldl_modBlock (bs : List (Nat × Block)) (f : Block → Block) (s : State) :
    bs.foldl (fun s b => s.modBlock b.1 f) s = s.eachBlock (bs.map (·.1)) (fun _ => f) := by
  rw [State.eachBlock, List.foldl_map]

theorem State.snapshot_empty {s : State} {p : Nat} (h : (s.part p).snheld = false) (trig tick : Nat) :
    s.snapshot p trig tick = (((s.eachBlock (s.blocksOf p true) (fun _ x => x.withSnap [])).eachBlock (s.blocksOf p false)
      (fun b x => x.withSnap (s.blockSnap b trig tick)))).modPart p (fun q => { q with snheld := true, snTrig := tick }) := by
  unfold State.snapshot
  simp only [h, Bool.false_and, Bool.false_eq_true, if_false]
  rw [State.foldl_modBlock, State.foldl_blockSnap _ _ _ (s := s)]
  · simp only [State.blocksOf, Block.withSnap, beq_true, beq_false]
  · intro b
    exact State.blockSnap_eachBlock _ (fun _ _ => []) s b trig tick

theorem State.snapshot_same {s : State} {p tick : Nat} (h : (s.part p).snheld = true) (ht : (s.part p).snTrig = tick) (trig : Nat) :
    s.snapshot p trig tick = s.eachBlock (s.blocksOf p false) (fun _ x => x.withSnap (lmod x.snap 0xC (fun v => v ||| BitVec.ofNat 8 trig))) := by
  unfold State.snapshot
  simp only [h, ht, Bool.true_and, beq_self_eq_true, if_true]
  rw [State.foldl_modBlock]
  simp only [State.blocksOf, Block.withSnap, beq_false]

theorem State.snapshot_missed {s : State} {p tick : Nat} (h : (s.part p).snheld = true) (ht : (s.part p).snTrig ≠ tick) (trig : Nat) :
    s.snapshot p trig tick = s.modPart p (fun q => { q with snmiss := Nat.min (q.snmiss + 1) 65535 }) := by
  unfold State.snapshot
  simp [h, ht]

theorem State.mem_blocksOf {s : State} {p : Nat} (hn : (s.blocks.map (·.1)).Nodup) {b : Nat} {x : Block} (hx : tget s.blocks b = some x) (released : Bool) :
    b ∈ s.blocksOf p released ↔ x.released = released ∧ (s.grid x.grid).pid = p := by
  constructor
  · intro h
    obtain ⟨⟨c, y⟩, hy, rfl⟩ := List.mem_map.1 h
    obtain ⟨hmem, hp⟩ := List.mem_filter.1 hy
    have : x = y := Option.some.inj (hx.symm.trans (tget_of_mem hn hmem))
    simpa [this] using hp
  · intro h
    exact List.mem_map.2 ⟨(b, x), List.mem_filter.2 ⟨mem_of_tget hx, by simpa using h⟩, rfl⟩

theorem State.blocksOf_nodup {s : State} (hn : (s.blocks.map (·.1)).Nodup) (p : Nat) (released : Bool) : (s.blocksOf p released).Nodup :=
  hn.sublist (List.filter_sublist.map _)

/-- What a `snap` at tick `tick` does to partition `p`, whose pending writes are `ws` then (18 R414). -/
theorem State.snapshot_latches {s : State} {p : Nat} (hp : p < s.parts.length) (hn : (s.blocks.map (·.1)).Nodup) (ws : List Pending) (tick : Nat) :
    let q := s.part p
    let t := (s.onlyPend p ws).snapshot p 1 tick
    (t.part p).snheld = true ∧
    (q.snheld = false → (t.part p).snTrig = tick ∧ (t.part p).snmiss = q.snmiss ∧
      ∀ b x, tget s.blocks b = some x → (s.grid x.grid).pid = p → (t.block b).snap = if x.released then [] else s.blockSnap b 1 tick) ∧
    (q.snheld = true → q.snTrig = tick → (t.part p).snmiss = q.snmiss ∧
      ∀ b x, tget s.blocks b = some x → (s.grid x.grid).pid = p → x.released = false → (t.block b).snap = lmod x.snap 0xC (fun v => v ||| 1)) ∧
    (q.snheld = true → q.snTrig ≠ tick → t = s.modPart p (fun q => { q with pend := ws, snmiss := Nat.min (q.snmiss + 1) 65535 })) := by
  intro q t
  have hq : (s.onlyPend p ws).part p = { q with pend := ws } := State.part_modPart hp _
  have hblk : ∀ r, (s.onlyPend p ws).blocksOf p r = s.blocksOf p r := fun _ => rfl
  cases h : q.snheld with
  | false =>
    have ht := State.snapshot_empty (s := s.onlyPend p ws) (p := p) (by rw [hq]; exact h) 1 tick
    rw [hblk, hblk] at ht
    have hpart : t.part p = { q with pend := ws, snheld := true, snTrig := tick } := by
      change State.part (State.snapshot _ _ _ _) p = _
      rw [ht, State.part_modPart (by simpa only [State.eachBlock_parts, State.onlyPend, State.modPart, length_lmod] using hp)]
      simp only [State.part, State.eachBlock_parts] at hq ⊢
      rw [hq]
    refine ⟨by rw [hpart], fun _ => ⟨by rw [hpart], by rw [hpart], fun b x hx hg => ?_⟩, nofun, nofun⟩
    have hold := State.mem_blocksOf (p := p) hn hx true
    have hmine := State.mem_blocksOf (p := p) hn hx false
    have : tget t.blocks b = some (x.withSnap (if x.released then [] else s.blockSnap b 1 tick)) := by
      change tget (State.snapshot _ _ _ _).blocks b = _
      rw [ht]
      change tget (State.eachBlock (State.eachBlock _ _ _) _ _).blocks b = _
      rw [State.tget_eachBlock (State.blocksOf_nodup hn p false), State.tget_eachBlock (State.blocksOf_nodup hn p true)]
      cases hr : x.released <;> simp only [hr, hg, and_true, Bool.false_eq_true, Bool.true_eq_false, iff_true, iff_false] at hold hmine
      · rw [if_pos hmine, if_neg hold]
        exact congrArg (Option.map _) hx
      · rw [if_neg hmine, if_pos hold]
        exact congrArg (Option.map _) hx
    rw [State.block, this]; rfl
  | true =>
    by_cases htick : q.snTrig = tick
    · have ht := State.snapshot_same (s := s.onlyPend p ws) (p := p) (tick := tick) (by rw [hq]; exact h) (by rw [hq]; exact htick) 1
      rw [hblk] at ht
      have hpart : t.part p = { q with pend := ws } := by
        change State.part (State.snapshot _ _ _ _) p = _
        rw [ht, State.part, State.eachBlock_parts]; exact hq
      refine ⟨by rw [hpart]; exact h, nofun, fun _ _ => ⟨by rw [hpart], fun b x hx hg hr => ?_⟩, fun _ hne => absurd htick hne⟩
      have : tget t.blocks b = some (x.withSnap (lmod x.snap 0xC (fun v => v ||| 1))) := by
        change tget (State.snapshot _ _ _ _).blocks b = _
        rw [ht, State.tget_eachBlock (State.blocksOf_nodup hn p false), if_pos ((State.mem_blocksOf hn hx false).2 ⟨hr, hg⟩)]
        exact congrArg (Option.map _) hx
      rw [State.block, this]; rfl
    · have ht : t = s.modPart p (fun q => { q with pend := ws, snmiss := Nat.min (q.snmiss + 1) 65535 }) :=
        (State.snapshot_missed (by rw [hq]; exact h) (by rw [hq]; exact htick) 1).trans (State.modPart_modPart s p _ _)
      exact ⟨by rw [ht, State.part_modPart hp]; exact h, nofun, fun _ e => absurd e htick, fun _ _ => ht⟩


/-! What a write leaves of the partition's pending writes -/

/-- The turn, the number of partitions and the pending writes of `p` are those of `s`. -/
def State.SamePend (p : Nat) (s t : State) : Prop := t.turn = s.turn ∧ t.parts.length = s.parts.length ∧ (t.part p).pend = (s.part p).pend

theorem State.SamePend.trans {p : Nat} {s t u : State} (h : s.SamePend p t) (h' : t.SamePend p u) : s.SamePend p u :=
  ⟨h'.1.trans h.1, h'.2.1.trans h.2.1, h'.2.2.trans h.2.2⟩

theorem State.SamePend.modPart {p : Nat} {s : State} (hp : p < s.parts.length) {f : Part → Part} (hf : (f (s.part p)).pend = (s.part p).pend) :
    s.SamePend p (s.modPart p f) :=
  ⟨rfl, length_lmod _ _ _, by rw [State.part_modPart hp, hf]⟩

theorem State.SamePend.eachBlock (p : Nat) (s : State) (ids : List Nat) (f : Nat → Block → Block) : s.SamePend p (s.eachBlock ids f) := by
  induction ids generalizing s with
  | nil => exact ⟨rfl, rfl, rfl⟩
  | cons n ids ih => exact State.SamePend.trans (t := s.modBlock n (f n)) ⟨rfl, rfl, rfl⟩ (ih _)

theorem State.SamePend.snapshot {p : Nat} {s : State} (hp : p < s.parts.length) (trig tick : Nat) : s.SamePend p (s.snapshot p trig tick) := by
  cases h : (s.part p).snheld with
  | false =>
    rw [State.snapshot_empty h]
    have hb := (State.SamePend.eachBlock p s (s.blocksOf p true) (fun _ x => x.withSnap [])).trans
      (State.SamePend.eachBlock p _ (s.blocksOf p false) (fun b x => x.withSnap (s.blockSnap b trig tick)))
    exact hb.trans (State.SamePend.modPart (by rw [hb.2.1]; exact hp) rfl)
  | true =>
    by_cases ht : (s.part p).snTrig = tick
    · rw [State.snapshot_same h ht]; exact State.SamePend.eachBlock ..
    · rw [State.snapshot_missed h ht]; exact State.SamePend.modPart hp rfl

/-- A write that takes effect touches no pending write. -/
theorem State.SamePend.applyWrite {p : Nat} {s : State} (hp : p < s.parts.length) (w : PWrite) : s.SamePend p (s.applyWrite p w) := by
  cases w with
  | reg n v =>
    refine State.SamePend.modPart hp ?_
    split
    · simp only [Part.setFairlim]; split <;> rfl
    · rfl
    · simp only [Part.setBwdog]; split <;> rfl
    · rfl
    · rfl
  | tol ty v => exact State.SamePend.modPart hp rfl
  | flags i vals => exact ⟨rfl, rfl, rfl⟩
  | snap => exact State.SamePend.snapshot hp ..
  | evt bs =>
    change s.SamePend p (s.logEvent p bs)
    unfold State.logEvent
    dsimp only
    split
    · exact State.SamePend.modPart hp rfl
    · exact State.SamePend.trans (t := { s with hbm := _ }) ⟨rfl, rfl, rfl⟩ (State.SamePend.modPart hp rfl)
  | parity c n slot => exact ⟨rfl, rfl, rfl⟩

/-! The order of two writes -/

theorem Pending.key_lt {a b : Pending} (ha : a.core < 256) (hqa : a.quarter < 4) (hb : b.core < 256) (hqb : b.quarter < 4)
    (h : a.tick < b.tick ∨ (a.tick = b.tick ∧ (a.core < b.core ∨ (a.core = b.core ∧ a.quarter < b.quarter)))) : a.key < b.key := by
  unfold Pending.key; omega

/-- Two writes that are due take effect in the order of their keys, whichever was left first. -/
theorem State.applyWrites_two {s : State} {p : Nat} (hp : p < s.parts.length) {a b : Pending} (ha : a.due ≤ s.turn) (hb : b.due ≤ s.turn)
    (hsa : a.write ≠ .snap) (hsb : b.write ≠ .snap) (hk : a.key < b.key) {ws : List Pending} (hws : ws ∈ [[a, b], [b, a]]) :
    (s.onlyPend p ws).applyWrites p false = ((s.onlyPend p []).applyWrite p a.write).applyWrite p b.write := by
  have hla : a.write.late = false := by simp [PWrite.late_eq, hsa]
  have hlb : b.write.late = false := by simp [PWrite.late_eq, hsb]
  rw [State.applyWrites_onlyPend hp]
  simp only [List.mem_cons, List.not_mem_nil, or_false] at hws
  rcases hws with rfl | rfl <;> simp [ha, hb, hla, hlb, sortBy, insertBy, hk.le, hk.not_ge]

theorem State.applyWrites_in_order {s : State} {p : Nat} (hp : p < s.parts.length) {a b : Pending} (ha : a.due ≤ s.turn) (hb : b.due ≤ s.turn)
    (hsa : a.write ≠ .snap) (hsb : b.write ≠ .snap) (hk : a.key < b.key) {ws : List Pending} (hws : ws ∈ [[a, b], [b, a]]) :
    (s.onlyPend p ws).applyWrites p false = (((s.onlyPend p [a]).applyWrites p false).onlyPend p [b]).applyWrites p false := by
  rw [State.applyWrites_two hp ha hb hsa hsb hk hws]
  have hla : a.write.late = false := by simp [PWrite.late_eq, hsa]
  have hlb : b.write.late = false := by simp [PWrite.late_eq, hsb]
  have hfirst := (State.applyWrites_one hp ha).1
  rw [hla] at hfirst
  rw [hfirst]
  have hp0 : p < (s.onlyPend p []).parts.length := by rw [State.onlyPend, State.modPart, length_lmod]; exact hp
  obtain ⟨hturn, hlen, hpend⟩ := State.SamePend.applyWrite hp0 a.write
  rw [State.pend_onlyPend hp] at hpend
  have hsecond := (State.applyWrites_one (s := (s.onlyPend p []).applyWrite p a.write) (w := b) (by rw [hlen]; exact hp0) (by rw [hturn]; exact hb)).1
  rw [hlb] at hsecond
  rw [hsecond, State.onlyPend_eq_self hpend]

/-! No turn goes past a write that is due -/

theorem firstSome_eq_none {α β : Type} {f : α → Option β} {l : List α} (h : firstSome f l = none) : ∀ a ∈ l, f a = none := by
  induction l with
  | nil => simp
  | cons a t ih =>
    rw [firstSome, Option.or_eq_none_iff] at h
    exact List.forall_mem_cons.2 ⟨h.1, ih h.2⟩

theorem State.silent_eq_none {s : State} {c : Bool} {f : State → State} : s.silent c f = none ↔ c = false := by
  cases c <;> simp [State.silent]

theorem State.early_not_due {s : State} {p : Nat} (h : s.duePart p = none) {w : Pending} (hw : w ∈ (s.part p).pend) (hs : w.write ≠ .snap) :
    s.turn < w.due := by
  simp only [State.duePart, Option.orElse_eq_none, State.silent_eq_none] at h
  obtain ⟨_, _, _, _, _, _, _, _, hany, _⟩ := h
  have := List.any_eq_false.1 hany w hw
  simpa [PWrite.late_eq, hs] using this

theorem State.late_not_due {s : State} {p : Nat} (hp : p < 8) (h : s.dueLand = none) {w : Pending} (hw : w ∈ (s.part p).pend) (hs : w.write = .snap) :
    s.turn < w.due := by
  simp only [State.dueLand, Option.orElse_eq_none] at h
  obtain ⟨_, _, hnone, _, _⟩ := h
  have hany := State.silent_eq_none.1 (firstSome_eq_none hnone p (List.mem_range.2 hp))
  have := List.any_eq_false.1 hany w hw
  simpa [PWrite.late_eq, hs] using this

/-! The obligation -/

theorem State.applyWrites_writes {s : State} {p : Nat} (hp : p < s.parts.length) {w : Pending} (hw : w.due ≤ s.turn) :
    let o := s.onlyPend p [w]
    let t := o.applyWrites p (decide (w.write = .snap))
    o.applyWrites p (!decide (w.write = .snap)) = o ∧ (t.part p).pend = [] ∧ t = (s.onlyPend p []).applyWrite p w.write := by
  intro o t
  obtain ⟨hon, hoff⟩ := State.applyWrites_one hp hw
  rw [PWrite.late_eq] at hon hoff
  refine ⟨hoff, ?_, hon⟩
  change ((o.applyWrites p _).part p).pend = []
  have hp0 : p < (s.onlyPend p []).parts.length := by rw [State.onlyPend, State.modPart, length_lmod]; exact hp
  rw [hon, (State.SamePend.applyWrite hp0 w.write).2.2, State.pend_onlyPend hp]

theorem State.applyWrite_flags (u : State) (p i : Nat) {vals : List (Nat × Word)} (hn : (vals.map (·.1)).Nodup) {g : Group} (hg : tget u.groups i = some g)
    (h64 : g.lanes.length = 64) :
    let t := u.applyWrite p (.flags i vals)
    ∃ h, tget t.groups i = some h ∧
      (∀ j, j ≠ i → tget t.groups j = tget u.groups j) ∧
      (∀ e ∈ vals, e.1 < 64 → h.lane e.1 = { g.lane e.1 with qread := e.2.getLsbD 7, hexh := e.2.getLsbD 6, wovf := e.2.getLsbD 5 }) ∧
      (∀ l, l ∉ vals.map (·.1) → h.lane l = g.lane l) ∧
      (vals = [] → h.fl = g.fl ∧ h.te = g.te) ∧
      ∀ l v rest, vals = (l, v) :: rest → h.fl = v.extractLsb' 0 5 ∧ h.te = v.extractLsb' 16 5 := by
  refine ⟨g.writeFlags vals, tget_tmod_of_some hg, fun j hj => tget_tmod_of_ne _ _ hj, fun e he hl => ?_, fun l hl => ?_, ?_, ?_⟩
  · rw [Group.lane_writeFlags]
    exact Group.lane_writeLaneFlags_of_mem hn he (by rw [h64]; exact hl)
  · rw [Group.lane_writeFlags, Group.lane_writeLaneFlags_of_not_mem hl]
  · rintro rfl
    exact ⟨rfl, rfl⟩
  · rintro l v rest rfl
    exact ⟨rfl, rfl⟩

theorem pendingWrites : PendingWrites := by
  refine ⟨fun s p w hp8 hlen hw => ?_, fun s p a b hp8 hlen ha hb hsa hsb hca hcb hqa hqb hlt => ?_, fun s p hp8 w hw => ?_⟩
  · have hp : p < s.parts.length := hlen ▸ hp8
    intro q o t
    obtain ⟨hoff, hpend, ht⟩ := State.applyWrites_writes hp hw
    refine ⟨hoff, hpend, ?_⟩
    replace ht : t = (s.onlyPend p []).applyWrite p w.write := ht
    clear_value t
    subst ht
    obtain ⟨due, tick, core, quarter, write⟩ := w
    cases write with
    | reg n v => exact State.applyWrite_reg s p n v
    | tol ty v => exact State.applyWrite_tol hp ty v
    | flags i vals => exact fun hn g hg h64 => State.applyWrite_flags (s.onlyPend p []) p i hn hg h64
    | snap => exact fun hn => State.snapshot_latches hp hn [] (16 * s.turn)
    | evt bs => exact State.applyWrite_evt hp bs
    | parity c n slot => exact State.applyWrite_parity (s.onlyPend p []) p c n slot
  · have hp : p < s.parts.length := hlen ▸ hp8
    intro only ws hws
    exact State.applyWrites_in_order hp ha hb hsa hsb (Pending.key_lt hca hqa hcb hqb hlt) hws
  · exact ⟨fun hs h => State.early_not_due h hw hs, fun hs h => State.late_not_due hp8 h hw hs⟩

/-- Settles O30: each word by what its `exec` does in an accepted issue, and each pending write by what the partition's fold over the due
writes does with that one. -/
theorem systemInstructions : Obligations.SystemInstructions := ⟨systemWords, quenchAndInject, pendingWrites⟩

end Sys2Proof.Machine
end

section
/-! Exact sums of products (04 R94, R95): what `sumNums`, `prodSum` and `intSum` compute. -/

namespace Sys2Proof

/-! The exact sum over the least exponent -/

/-- The least exponent of the nonzero numbers of a list, from `e` on. -/
def leastExp (e : Int) (ts : List FV) : Int :=
  ts.foldl (fun e t => match t with | .num _ m x => if m ≠ 0 ∧ x < e then x else e | _ => e) e

/-- A number in units of 2^e0, added to `n`. -/
def addUnits (e0 n : Int) (t : FV) : Int :=
  match t with
  | .num s m x => if m = 0 then n else
      let v : Int := (m * 2 ^ (x - e0).toNat : Nat)
      if s then n - v else n + v
  | _ => n

theorem sumNums_def (ts : List FV) : sumNums ts = (ts.foldl (addUnits (leastExp 5000 ts)) 0, leastExp 5000 ts) := rfl

theorem leastExp_cons (e : Int) (t : FV) (ts : List FV) :
    leastExp e (t :: ts) = leastExp (match t with | .num _ m x => if m ≠ 0 ∧ x < e then x else e | _ => e) ts := rfl

theorem leastExp_le (ts : List FV) : ∀ e, leastExp e ts ≤ e ∧ ∀ s m x, FV.num s m x ∈ ts → m ≠ 0 → leastExp e ts ≤ x := by
  induction ts with
  | nil => intro e; exact ⟨le_refl e, fun _ _ _ h => absurd h (List.not_mem_nil)⟩
  | cons t ts ih =>
    intro e
    rw [leastExp_cons]
    obtain ⟨hle, hmem⟩ := ih (match t with | .num _ m x => if m ≠ 0 ∧ x < e then x else e | _ => e)
    refine ⟨hle.trans ?_, fun s m x h hm => ?_⟩
    · split
      · split <;> omega
      · exact le_refl e
    · rcases List.mem_cons.1 h with rfl | h
      · refine hle.trans ?_
        dsimp only
        split <;> omega
      · exact hmem s m x h hm

/-- The least exponent is the starting one or that of a nonzero number. -/
theorem leastExp_eq (ts : List FV) : ∀ e, leastExp e ts = e ∨ ∃ s m, m ≠ 0 ∧ FV.num s m (leastExp e ts) ∈ ts := by
  induction ts with
  | nil => intro e; exact .inl rfl
  | cons t ts ih =>
    intro e
    rw [leastExp_cons]
    rcases ih (match t with | .num _ m x => if m ≠ 0 ∧ x < e then x else e | _ => e) with h | ⟨s, m, hm, h⟩
    · cases t with
      | num s m x =>
        by_cases hx : m ≠ 0 ∧ x < e
        · simp only [if_pos hx] at h ⊢
          exact .inr ⟨s, m, hx.1, by rw [h]; exact List.mem_cons_self⟩
        · simp only [if_neg hx] at h ⊢
          exact .inl h
      | _ => exact .inl h
    · exact .inr ⟨s, m, hm, List.mem_cons_of_mem _ h⟩

/-! Kinds of values -/

/-- A value that an s8 input or an s32 word stands for. -/
def FV.Whole (v : FV) : Prop := ∃ s m, v = .num s m 0

theorem FV.Whole.mul {a b : FV} (ha : FV.Whole a) (hb : FV.Whole b) : FV.Whole (a.mul b) := by
  obtain ⟨s, m, rfl⟩ := ha
  obtain ⟨s', m', rfl⟩ := hb
  exact ⟨_, _, rfl⟩

/-- Neither a NaN nor an infinity. -/
def FV.finite (v : FV) : Bool := !v.isNan && !v.isInf

theorem FV.finite_iff {v : FV} : FV.finite v = true ↔ ∃ s m e, v = .num s m e := by
  cases v <;> simp [FV.finite, FV.isNan, FV.isInf]

namespace Machine

/-- A number in units of 2^e0 that divide it. -/
theorem addUnits_eq (e0 n : Int) (t : FV) (h : ∀ s m x, t = .num s m x → m ≠ 0 → e0 ≤ x) :
    (addUnits e0 n t : ℚ) * 2 ^ e0 = n * 2 ^ e0 + ratOf t := by
  cases t with
  | nan _ | inf _ => simp [addUnits, ratOf]
  | num s m x =>
    by_cases hm : m = 0
    · simp [addUnits, ratOf, hm]
    · obtain ⟨k, hk⟩ := Int.le.dest (h s m x rfl hm)
      have hpow : (2 : ℚ) ^ x = 2 ^ k * 2 ^ e0 := by rw [← hk, zpow_add₀ two_ne_zero, zpow_natCast, mul_comm]
      simp only [addUnits, if_neg hm, ratOf, hpow, show (x - e0).toNat = k by omega]
      cases s <;> simp only [Bool.false_eq_true, if_false, if_true] <;> push_cast <;> ring

theorem foldl_addUnits (e0 : Int) (ts : List FV) (h : ∀ s m x, FV.num s m x ∈ ts → m ≠ 0 → e0 ≤ x) :
    ∀ n : Int, ((ts.foldl (addUnits e0) n : Int) : ℚ) * 2 ^ e0 = n * 2 ^ e0 + (ts.map ratOf).sum := by
  induction ts with
  | nil => intro n; simp
  | cons t ts ih =>
    intro n
    rw [List.foldl_cons, ih (fun s m x hm => h s m x (List.mem_cons_of_mem _ hm)),
      addUnits_eq e0 n t (fun s m x ht => h s m x (ht ▸ List.mem_cons_self)), List.map_cons, List.sum_cons, add_assoc]

/-- `sumNums` is the exact sum of the numbers of a list. -/
theorem sumNums_value (ts : List FV) : ((sumNums ts).1 : ℚ) * 2 ^ (sumNums ts).2 = (ts.map ratOf).sum := by
  rw [sumNums_def]
  refine (foldl_addUnits _ ts (leastExp_le ts 5000).2 0).trans ?_
  simp

/-- The sum's sign and magnitude, as `roundTo` takes them. -/
theorem sumNums_abs (ts : List FV) : ((sumNums ts).1.natAbs : ℚ) * 2 ^ (sumNums ts).2 = |(ts.map ratOf).sum| := by
  rw [← sumNums_value, abs_mul, abs_of_pos (show (0 : ℚ) < 2 ^ (sumNums ts).2 by positivity), Nat.cast_natAbs, Int.cast_abs]

theorem sumNums_neg (ts : List FV) : (sumNums ts).1 < 0 ↔ (ts.map ratOf).sum < 0 := by
  rw [← sumNums_value, ← not_le, ← not_le, mul_nonneg_iff_of_pos_right (by positivity)]
  exact_mod_cast Iff.rfl

theorem sumNums_zero (ts : List FV) : (sumNums ts).1 = 0 ↔ (ts.map ratOf).sum = 0 := by
  rw [← sumNums_value, mul_eq_zero, or_iff_left (by positivity)]
  exact_mod_cast Iff.rfl

/-- A sum that is not zero, rounded. -/
theorem correctlyRounds_sumNums {f : Fmt} (hf : Fmt.Regular f) (mode : RMode) {ts : List FV} (h : (ts.map ratOf).sum ≠ 0) :
    CorrectlyRounds f mode (decide ((ts.map ratOf).sum < 0)) |(ts.map ratOf).sum|
      (f.roundTo mode (decide ((sumNums ts).1 < 0)) (sumNums ts).1.natAbs (sumNums ts).2) := by
  rw [decide_eq_decide.2 (sumNums_neg ts), ← sumNums_abs]
  exact roundTo_correct hf _ _ _ (Int.natAbs_ne_zero.2 fun h0 => h ((sumNums_zero ts).1 h0))

/-! Sums of whole numbers -/

/-- The exact sum of whole numbers is itself whole. -/
theorem sumNums_whole {ts : List FV} (h : ∀ t ∈ ts, FV.Whole t) : ((sumNums ts).1 : ℚ) = (ts.map ratOf).sum := by
  have hv := sumNums_value ts
  rcases leastExp_eq ts 5000 with he | ⟨s, m, hm, hmem⟩
  · have hz : ∀ t ∈ ts, ratOf t = 0 := by
      intro t ht
      obtain ⟨s, m, rfl⟩ := h t ht
      by_cases hm : m = 0
      · simp [ratOf, hm]
      · have := (leastExp_le ts 5000).2 s m 0 ht hm
        omega
    have hsum : (ts.map ratOf).sum = 0 := List.sum_eq_zero (by simpa using hz)
    rw [hsum, (sumNums_zero ts).2 hsum, Int.cast_zero]
  · obtain ⟨s', m', he⟩ := h _ hmem
    have he0 : (sumNums ts).2 = 0 := (FV.num.inj he).2.2
    rw [← hv, he0, zpow_zero, mul_one]

/-! Products -/

theorem ratOf_mul {a b : FV} (ha : a.isNan = false) (hb : b.isNan = false) (hz : a.badProd b = false) : ratOf (a.mul b) = ratOf a * ratOf b := by
  cases a <;> cases b <;> simp_all [FV.mul, ratOf, FV.isNan]
  rename_i s m e s' m' e'
  rw [zpow_add₀ two_ne_zero]
  cases s <;> cases s' <;> simp <;> ring

/-- Neither a NaN nor zero times infinity. -/
def goodPairs (ps : List (FV × FV)) : Prop := ∀ p ∈ ps, p.1.isNan = false ∧ p.2.isNan = false ∧ p.1.badProd p.2 = false

theorem any_congr_of_mem {α : Type} {l : List α} {f f' : α → Bool} (h : ∀ a ∈ l, f a = f' a) : l.any f = l.any f' := by
  induction l with
  | nil => rfl
  | cons a l ih => rw [List.any_cons, List.any_cons, h a List.mem_cons_self, ih fun b hb => h b (List.mem_cons_of_mem _ hb)]

/-- Infinite products of one sign. -/
def infinitePair (neg : Bool) (p : FV × FV) : Bool := (p.1.isInf || p.2.isInf) && ((p.1.sign != p.2.sign) == neg)

theorem isInf_mul {a b : FV} (ha : a.isNan = false) (hb : b.isNan = false) (neg : Bool) :
    ((a.mul b).isInf && ((a.mul b).sign == neg)) = infinitePair neg (a, b) := by
  cases a <;> cases b <;> simp_all [FV.mul, infinitePair, FV.isNan, FV.isInf, FV.sign]

theorem any_isInf_mul {ps : List (FV × FV)} (h : goodPairs ps) (neg : Bool) :
    (ps.map (fun p => p.1.mul p.2)).any (fun t => t.isInf && (t.sign == neg)) = ps.any (infinitePair neg) := by
  rw [List.any_map]
  refine any_congr_of_mem fun p hp => ?_
  obtain ⟨h1, h2, _⟩ := h p hp
  exact isInf_mul h1 h2 neg

theorem sum_ratOf_mul {ps : List (FV × FV)} (h : goodPairs ps) :
    ((ps.map (fun p => p.1.mul p.2)).map ratOf).sum = (ps.map (fun p => ratOf p.1 * ratOf p.2)).sum := by
  rw [List.map_map]
  refine congrArg List.sum (List.map_congr_left fun p hp => ?_)
  obtain ⟨h1, h2, h3⟩ := h p hp
  exact ratOf_mul h1 h2 h3

/-- `prodSum` is the value of the exact sum. -/
theorem chunkSum_prodSum (rm : Rm) (ps : List (FV × FV)) : ChunkSum rm ps (prodSum rm ps) := by
  have hbad : ps.any (fun p => p.1.isNan || p.2.isNan || (p.1.isZero && p.2.isInf) || (p.1.isInf && p.2.isZero)) =
      ps.any (fun p => p.1.isNan || p.2.isNan || p.1.badProd p.2) := any_congr_of_mem fun p _ => by rw [FV.badProd, Bool.or_assoc]
  unfold ChunkSum prodSum
  dsimp only
  rw [hbad]
  by_cases hb : ps.any (fun p => p.1.isNan || p.2.isNan || p.1.badProd p.2) = true
  · simp [hb]
  have hgood : goodPairs ps := by
    intro p hp
    have := List.any_eq_false.1 (Bool.not_eq_true _ ▸ hb) p hp
    simpa only [Bool.not_eq_true, Bool.or_eq_false_iff, and_assoc] using this
  have hneg := any_isInf_mul hgood true
  have hpos := any_isInf_mul hgood false
  unfold infinitePair at hneg hpos
  simp only [beq_true, beq_false] at hneg hpos ⊢
  rw [Bool.eq_false_of_not_eq_true hb, hneg, hpos]
  cases ps.any (fun p => (p.1.isInf || p.2.isInf) && (p.1.sign != p.2.sign)) <;>
    cases ps.any (fun p => (p.1.isInf || p.2.isInf) && !(p.1.sign != p.2.sign)) <;>
    simp only [Bool.and_true, Bool.and_false, Bool.or_true, Bool.or_false, Bool.false_eq_true, if_true, if_false]
  -- no infinity: the exact sum is rounded
  rw [← sum_ratOf_mul hgood]
  split
  next h => simp [Fmt.roundTo, (sumNums_zero _).2 h, Fmt.zeroBits, Fmt.signBit]
  next h => exact ⟨_, correctlyRounds_sumNums (floatFmts_regular (by decide)) _ h⟩

/-- A sum without NaNs and infinities has the value of any other such sum that is exactly as great. -/
theorem ChunkSum.of_value {rm : Rm} {ps qs : List (FV × FV)} {w : Nat} (h : ChunkSum rm ps w) (hp : ∀ p ∈ ps, FV.finite p.1 ∧ FV.finite p.2)
    (hq : ∀ p ∈ qs, FV.finite p.1 ∧ FV.finite p.2) (hv : (qs.map (fun p => ratOf p.1 * ratOf p.2)).sum = (ps.map (fun p => ratOf p.1 * ratOf p.2)).sum) :
    ChunkSum rm qs w := by
  have hany : ∀ ps : List (FV × FV), (∀ p ∈ ps, FV.finite p.1 ∧ FV.finite p.2) →
      ps.any (fun p => p.1.isNan || p.2.isNan || (p.1.isZero && p.2.isInf) || (p.1.isInf && p.2.isZero)) = false ∧
      ∀ neg, ps.any (fun p => (p.1.isInf || p.2.isInf) && ((p.1.sign != p.2.sign) == neg)) = false := by
    intro ps hps
    refine ⟨List.any_eq_false.2 fun p hp => ?_, fun neg => List.any_eq_false.2 fun p hp => ?_⟩ <;>
    · have := hps p hp
      simp only [FV.finite, Bool.and_eq_true, Bool.not_eq_true'] at this
      simp [this]
  unfold ChunkSum at h ⊢
  dsimp only at h ⊢
  simp only [(hany ps hp).1, (hany ps hp).2] at h
  simp only [(hany qs hq).1, (hany qs hq).2, hv]
  exact h

end Machine
end Sys2Proof
end

section
/-! The values of a product's lines: words, totals and the bound MAG (04 R94, R95, 08 R167, R168). -/

namespace Sys2Proof.Machine

/-! f32 results as bits -/

theorem roundTo_f32_le (mode : RMode) (neg : Bool) (m : Nat) (e : Int) :
    (Fmt.f32.roundTo mode neg m e).1 ≤ Fmt.f32.signBit neg + Fmt.f32.infBits false := by
  rcases eq_or_ne m 0 with rfl | hm
  · exact Nat.le_add_right _ _
  have hinf : Fmt.f32.infBits false = 0x7F800000 := by decide
  have hovf : Fmt.f32.ovf neg mode false ≤ Fmt.f32.signBit neg + Fmt.f32.infBits false := by
    have hsr : Fmt.f32.infBits neg ≤ Fmt.f32.signBit neg + Fmt.f32.infBits false := by cases neg <;> decide
    cases mode with
    | sr _ => exact hsr
    | mode r => cases r <;> cases neg <;> decide
  by_cases h : Fmt.f32.emax < Nat.log2 m + e
  · rw [Fmt.roundTo_of_emax_lt _ _ _ hm h]; exact hovf
  · rw [Fmt.roundTo_of_le_emax _ _ _ hm h]
    have hlo := lower_lt Fmt.f32 e hm
    have hq : spacingOf Fmt.f32 m e ≤ 104 := by
      have : Fmt.f32.emax = 127 := rfl
      have : Fmt.f32.emin = -126 := rfl
      have : Fmt.f32.m = 23 := rfl
      unfold spacingOf; omega
    dsimp only
    obtain ⟨_, hp⟩ := le_pickUnits mode neg (dyadicParts (spacingOf Fmt.f32 m e) m e)
    split
    · exact hovf
    next hmax =>
      have hm23 : (Fmt.f32.m : Int) = 23 ∧ (Fmt.f32.bias : Int) = 127 ∧ Fmt.f32.emax = 127 ∧ Fmt.f32.maxMant = 2 ^ 24 - 1 ∧ 2 ^ Fmt.f32.m = 2 ^ 23 ∧
        2 ^ (Fmt.f32.m + 1) = 2 ^ 24 := ⟨rfl, rfl, rfl, rfl, rfl, rfl⟩
      obtain ⟨h1, h2, h3, h4, h5, h6⟩ := hm23
      rw [h1, h3, h4] at hmax
      rw [h6] at hlo
      rw [h1, h2, h5, hinf]
      dsimp only
      omega

/-- The f32 layout (04 R79). -/
theorem decode_f32 (n : Nat) :
    Fmt.f32.decode n =
      if n % 2 ^ 31 / 2 ^ 23 = 0 then .num (n / 2 ^ 31 % 2 == 1) (n % 2 ^ 23) (-149)
      else if n % 2 ^ 31 / 2 ^ 23 = 255 then
        if n % 2 ^ 23 = 0 then .inf (n / 2 ^ 31 % 2 == 1) else .nan (decide (n % 2 ^ 23 < 2 ^ 22))
      else .num (n / 2 ^ 31 % 2 == 1) (2 ^ 23 + n % 2 ^ 23) ((n % 2 ^ 31 / 2 ^ 23 : Nat) - 150) := by
  have h : Fmt.f32.decode n =
      if n % 2 ^ 31 / 2 ^ 23 = 0 then .num (n / 2 ^ 31 % 2 == 1) (n % 2 ^ 23) (-149)
      else if True ∧ n % 2 ^ 31 / 2 ^ 23 = 255 then
        if n % 2 ^ 23 = 0 then .inf (n / 2 ^ 31 % 2 == 1) else .nan (true && decide (n % 2 ^ 23 < 2 ^ 22))
      else if True ∧ ¬ True ∧ n % 2 ^ 31 / 2 ^ 23 = 255 ∧ n % 2 ^ 23 = 2 ^ 23 - 1 then .nan false
      else .num (n / 2 ^ 31 % 2 == 1) (2 ^ 23 + n % 2 ^ 23) ((n % 2 ^ 31 / 2 ^ 23 : Nat) - 127 - 23) := by
    unfold Fmt.decode
    simp only [Fmt.f32, eq_self, Option.isSome_some]
    rfl
  simpa only [true_and, not_true_eq_false, false_and, if_false, Bool.true_and, Int.sub_sub, Int.reduceAdd] using h

/-- No NaN stands below +infinity. -/
theorem isNan_decode_f32 {n : Nat} (h : n ≤ Fmt.f32.infBits false) : (Fmt.f32.decode n).isNan = false := by
  have hn : n ≤ 0x7F800000 := h
  rw [decode_f32]
  split
  · rfl
  · split
    · rw [if_pos (by omega)]; rfl
    · rfl

theorem isNan_nanBits_f32 : (Fmt.f32.decode Fmt.f32.nanBits).isNan = true := by decide

/-! Sums of magnitudes -/

theorem prodSum_bad {rm : Rm} {ps : List (FV × FV)} {p : FV × FV} (hp : p ∈ ps) (h : (p.1.isNan || p.2.isNan || p.1.badProd p.2) = true) :
    prodSum rm ps = Fmt.f32.nanBits := by
  unfold prodSum
  rw [if_pos (List.any_eq_true.2 ⟨p, hp, h⟩)]

theorem goodPairs_iff {ps : List (FV × FV)} : goodPairs ps ↔ ps.any (fun p => p.1.isNan || p.2.isNan || p.1.badProd p.2) = false := by
  simp only [goodPairs, List.any_eq_false, Bool.not_eq_true, Bool.or_eq_false_iff, and_assoc]

/-- Products without signs. -/
def unsignedPairs (ps : List (FV × FV)) : Prop := ∀ p ∈ ps, p.1.sign = false ∧ p.2.sign = false

theorem ratOf_nonneg {v : FV} (h : v.sign = false) : 0 ≤ ratOf v := by
  cases v with
  | num s m e => obtain rfl : s = false := h; simp only [ratOf, Bool.false_eq_true, if_false]; positivity
  | _ => exact le_rfl

section
variable {rm : Rm} {ps : List (FV × FV)} (hg : goodPairs ps) (hu : unsignedPairs ps)
include hg hu

/-- A sum of products without signs, none of them bad: infinite, or the rounded sum. -/
theorem prodSum_unsigned : prodSum rm ps = if ps.any (fun p => p.1.isInf || p.2.isInf) then Fmt.f32.infBits false else
    (Fmt.f32.roundTo (.mode rm) false (sumNums (ps.map (fun p => p.1.mul p.2))).1.natAbs (sumNums (ps.map (fun p => p.1.mul p.2))).2).1 := by
  have hneg := any_isInf_mul hg true
  have hpos := any_isInf_mul hg false
  have hn : ps.any (infinitePair true) = false := List.any_eq_false.2 fun p hp => by simp [infinitePair, hu p hp]
  have hp : ps.any (infinitePair false) = ps.any (fun p => p.1.isInf || p.2.isInf) := any_congr_of_mem fun p hp => by simp [infinitePair, hu p hp]
  simp only [beq_true, beq_false, hn, hp] at hneg hpos
  have hsum : ¬ (sumNums (ps.map (fun p => p.1.mul p.2))).1 < 0 := by
    rw [sumNums_neg, sum_ratOf_mul hg, not_lt]
    refine List.sum_nonneg fun v hv => ?_
    obtain ⟨p, hp, rfl⟩ := List.mem_map.1 hv
    exact mul_nonneg (ratOf_nonneg (hu p hp).1) (ratOf_nonneg (hu p hp).2)
  unfold prodSum
  rw [goodPairs_iff.1 hg]
  dsimp only
  simp only [hneg, hpos, hsum, Bool.and_false, Bool.or_false, Bool.false_eq_true, if_false, decide_false]

theorem prodSum_le : prodSum rm ps ≤ Fmt.f32.infBits false := by
  rw [prodSum_unsigned hg hu]
  split
  · exact le_rfl
  · simpa [Fmt.signBit] using roundTo_f32_le (.mode rm) false _ _

theorem prodSum_infinite {p : FV × FV} (hp : p ∈ ps) (h : (p.1.isInf || p.2.isInf) = true) : prodSum rm ps = Fmt.f32.infBits false := by
  rw [prodSum_unsigned hg hu, if_pos (List.any_eq_true.2 ⟨p, hp, h⟩)]

end

/-- A NaN or a magnitude. -/
theorem prodSum_nan_or_le {rm : Rm} {ps : List (FV × FV)} (hu : unsignedPairs ps) : prodSum rm ps = Fmt.f32.nanBits ∨ prodSum rm ps ≤ Fmt.f32.infBits false := by
  by_cases hg : goodPairs ps
  · exact .inr (prodSum_le hg hu)
  · refine .inl ?_
    rw [goodPairs_iff, Bool.not_eq_false] at hg
    obtain ⟨p, hp, h⟩ := List.any_eq_true.1 hg
    exact prodSum_bad hp h

/-- The products of magnitudes. -/
def absPairs (ps : List (FV × FV)) : List (FV × FV) := ps.map (fun p => (p.1.abs, p.2.abs))

theorem FV.isNan_abs (v : FV) : v.abs.isNan = v.isNan := by cases v <;> rfl
theorem FV.isInf_abs (v : FV) : v.abs.isInf = v.isInf := by cases v <;> rfl
theorem FV.isZero_abs (v : FV) : v.abs.isZero = v.isZero := by
  cases v with
  | num s m e => cases m <;> rfl
  | _ => rfl
theorem FV.sign_abs (v : FV) : v.abs.sign = false := by cases v <;> rfl
theorem FV.ratOf_abs (v : FV) : ratOf v.abs = |ratOf v| := by
  cases v with
  | num s m e => rw [abs_ratOf_num]; simp [FV.abs, ratOf]
  | _ => simp [FV.abs, ratOf]

theorem unsignedPairs_abs (ps : List (FV × FV)) : unsignedPairs (absPairs ps) := by
  intro p hp
  obtain ⟨q, _, rfl⟩ := List.mem_map.1 hp
  exact ⟨FV.sign_abs _, FV.sign_abs _⟩

theorem FV.bad_abs (a b : FV) : (a.abs.isNan || b.abs.isNan || a.abs.badProd b.abs) = (a.isNan || b.isNan || a.badProd b) := by
  simp only [FV.badProd, FV.isNan_abs, FV.isInf_abs, FV.isZero_abs]

/-! The largest of them -/

theorem maxF_of_le {a b : Nat} (ha : a ≤ Fmt.f32.infBits false) (hb : b ≤ Fmt.f32.infBits false) : maxF a b = max a b := by
  unfold maxF
  rw [isNan_decode_f32 ha, isNan_decode_f32 hb]
  simp only [Bool.false_eq_true, if_false]
  split <;> omega

theorem maxF_nan_left (b : Nat) : maxF Fmt.f32.nanBits b = Fmt.f32.nanBits := by simp [maxF, isNan_nanBits_f32]

theorem maxF_nan_right {a : Nat} (ha : a ≤ Fmt.f32.infBits false) : maxF a Fmt.f32.nanBits = Fmt.f32.nanBits := by
  simp [maxF, isNan_nanBits_f32, isNan_decode_f32 ha]

theorem foldl_maxF_nan (ms : List Nat) : ms.foldl maxF Fmt.f32.nanBits = Fmt.f32.nanBits := by
  induction ms with
  | nil => rfl
  | cons m ms ih => rw [List.foldl_cons, maxF_nan_left, ih]

theorem nanBits_not_le : ¬ Fmt.f32.nanBits ≤ Fmt.f32.infBits false := by decide

/-- The largest of a list of magnitudes and `a`; a NaN stands. -/
theorem foldl_maxF (ms : List Nat) (h : ∀ m ∈ ms, m = Fmt.f32.nanBits ∨ m ≤ Fmt.f32.infBits false) : ∀ {a : Nat}, a ≤ Fmt.f32.infBits false →
    if Fmt.f32.nanBits ∈ ms then ms.foldl maxF a = Fmt.f32.nanBits
    else (ms.foldl maxF a = a ∨ ms.foldl maxF a ∈ ms) ∧ a ≤ ms.foldl maxF a ∧ ∀ n ∈ ms, n ≤ ms.foldl maxF a := by
  induction ms with
  | nil => intro a _; simp
  | cons m ms ih =>
    intro a ha
    have hms := fun n hn => h n (List.mem_cons_of_mem _ hn)
    rw [List.foldl_cons]
    rcases h m List.mem_cons_self with rfl | hm
    · rw [if_pos List.mem_cons_self, maxF_nan_right ha, foldl_maxF_nan]
    · rw [maxF_of_le ha hm]
      have hne : Fmt.f32.nanBits ≠ m := fun e => nanBits_not_le (e ▸ hm)
      have := ih hms (a := max a m) (max_le ha hm)
      by_cases hn : Fmt.f32.nanBits ∈ ms
      · rw [if_pos hn] at this
        rw [if_pos (List.mem_cons_of_mem _ hn), this]
      · rw [if_neg hn] at this
        obtain ⟨hmem, hge, hall⟩ := this
        rw [if_neg (by simp [hne, hn])]
        refine ⟨?_, (le_max_left _ _).trans hge, List.forall_mem_cons.2 ⟨(le_max_right _ _).trans hge, hall⟩⟩
        rcases hmem with e | hmem
        · rcases max_choice a m with h' | h' <;> rw [h'] at e
          · exact .inl (by rw [h', e])
          · exact .inr (by rw [h', e]; exact List.mem_cons_self)
        · exact .inr (List.mem_cons_of_mem _ hmem)

/-- Where each line has its sum of magnitudes in `ms`, `foldl maxF 0` gives the largest. -/
theorem largestSum_of {lines : List (List (FV × FV))} {ms : List Nat} (hne : lines ≠ [])
    (hs : List.Forall₂ (fun l n => ChunkSum .ru (absPairs l) n) lines ms) (h : ∀ m ∈ ms, m = Fmt.f32.nanBits ∨ m ≤ Fmt.f32.infBits false) :
    LargestSum lines (ms.foldl maxF 0) := by
  refine ⟨ms, hs, ?_⟩
  have := foldl_maxF ms h (a := 0) (Nat.zero_le _)
  split
  next hn => rwa [if_pos hn] at this
  next hn =>
    rw [if_neg hn] at this
    obtain ⟨hmem, _, hall⟩ := this
    refine ⟨hmem.elim (fun h0 => ?_) id, hall⟩
    obtain ⟨l, lines, rfl⟩ := List.exists_cons_of_ne_nil hne
    obtain ⟨n, ns, _, _, rfl⟩ := List.forall₂_cons_left_iff.1 hs
    have hn0 : n = 0 := Nat.le_zero.1 (h0 ▸ hall n List.mem_cons_self)
    rw [h0, hn0]
    exact List.mem_cons_self

end Sys2Proof.Machine
end

section
/-! The bound MAG of a chunk (08 R167): the largest sum of magnitudes over the lines of its products. -/

namespace Sys2Proof.Machine

/-! Lines of inputs -/

theorem length_eq_map_inputAt {l : List FV} {kn : Nat} (h : l.length = kn) : (List.range kn).map (inputAt l) = l := by
  subst h
  apply List.ext_getElem
  · simp
  · intro i h1 h2
    simp [inputAt, h2]

theorem mem_iff_inputAt {l : List FV} {kn : Nat} (h : l.length = kn) {v : FV} : v ∈ l ↔ ∃ k, k < kn ∧ inputAt l k = v := by
  conv_lhs => rw [← length_eq_map_inputAt h]
  simp

theorem columnOf_eq (rows : List (List FV)) (k : Nat) : columnOf rows k = rows.map (fun r => inputAt r k) := rfl

/-- The products of one line of `xs` with every line of `ls`. -/
def crossLine (kn : Nat) (ls : List (List FV)) (f : List FV → Nat → FV × FV) : List (FV × FV) :=
  ls.flatMap (fun l => (List.range kn).map (f l))

theorem mem_crossLine {kn : Nat} {ls : List (List FV)} {f : List FV → Nat → FV × FV} {p : FV × FV} :
    p ∈ crossLine kn ls f ↔ ∃ l ∈ ls, ∃ k, k < kn ∧ f l k = p := by simp [crossLine]

/-- The lines of a chunk's products: each column of B with every row of A, then each row with every column. -/
def chunkLines (rows cols : List (List FV)) (kn : Nat) : List (List (FV × FV)) :=
  cols.map (fun c => crossLine kn rows (fun r k => (inputAt r k, inputAt c k))) ++
    rows.map (fun r => crossLine kn cols (fun c k => (inputAt r k, inputAt c k)))

section
variable {rows cols : List (List FV)} {kn : Nat}

theorem mem_of_mem_chunkLines {l : List (FV × FV)} (hl : l ∈ chunkLines rows cols kn) {p : FV × FV} (hp : p ∈ l) :
    ∃ r ∈ rows, ∃ c ∈ cols, ∃ k, k < kn ∧ p = (inputAt r k, inputAt c k) := by
  rcases List.mem_append.1 hl with h | h <;> obtain ⟨x, hx, rfl⟩ := List.mem_map.1 h <;> obtain ⟨y, hy, k, hk, rfl⟩ := mem_crossLine.1 hp
  · exact ⟨y, hy, x, hx, k, hk, rfl⟩
  · exact ⟨x, hx, y, hy, k, hk, rfl⟩

theorem exists_chunkLine {r c : List FV} {k : Nat} (hr : r ∈ rows) (hc : c ∈ cols) (hk : k < kn) :
    ∃ l ∈ chunkLines rows cols kn, (inputAt r k, inputAt c k) ∈ l :=
  ⟨_, List.mem_append_left _ (List.mem_map_of_mem hc), mem_crossLine.2 ⟨r, hr, k, hk, rfl⟩⟩

/-! The cases of the bound -/

/-- A pair of values whose product is a NaN. -/
def badPair (a b : FV) : Bool := a.isNan || b.isNan || a.badProd b

/-- A chunk has a NaN, or a zero and an infinity that meet. -/
def chunkBad (rows cols : List (List FV)) (kn : Nat) : Bool :=
  (rows ++ cols).flatten.any FV.isNan || (List.range kn).any (fun k =>
    ((columnOf rows k).any FV.isZero && (columnOf cols k).any FV.isInf) || ((columnOf rows k).any FV.isInf && (columnOf cols k).any FV.isZero))

/-- The exact sum of magnitudes of a list. -/
def sumAbs (l : List FV) : FV := .num false (sumNums (l.map FV.abs)).1.natAbs (sumNums (l.map FV.abs)).2

/-- One line's value by the exact sums over the lines that cross it. -/
def crossMag (ls : List (List FV)) (kn : Nat) (x : List FV) : Nat :=
  prodSum .ru (((List.range kn).map (fun k => sumAbs (columnOf ls k))).zip (x.map FV.abs))

theorem chunkMag_def (rows cols : List (List FV)) (kn : Nat) :
    chunkMag rows cols kn = if chunkBad rows cols kn then Fmt.f32.nanBits else if (rows ++ cols).flatten.any FV.isInf then Fmt.f32.infBits false
      else (cols.map (crossMag rows kn) ++ rows.map (crossMag cols kn)).foldl maxF 0 := rfl

/-- The sums of magnitudes of the lines, each rounded up. -/
def lineMags (lines : List (List (FV × FV))) : List Nat := lines.map (fun l => prodSum .ru (absPairs l))

theorem lineMags_bounds (lines : List (List (FV × FV))) : ∀ m ∈ lineMags lines, m = Fmt.f32.nanBits ∨ m ≤ Fmt.f32.infBits false := by
  intro m hm
  obtain ⟨l, _, rfl⟩ := List.mem_map.1 hm
  exact prodSum_nan_or_le (unsignedPairs_abs l)

/-- The largest of the rounded sums of any lines. -/
theorem largestSum_lineMags {lines : List (List (FV × FV))} (hne : lines ≠ []) : LargestSum lines ((lineMags lines).foldl maxF 0) := by
  refine largestSum_of hne ?_ (lineMags_bounds lines)
  rw [lineMags, List.forall₂_map_right_iff, List.forall₂_same]
  exact fun l _ => chunkSum_prodSum .ru (absPairs l)

theorem goodPairs_abs {ps : List (FV × FV)} (h : goodPairs ps) : goodPairs (absPairs ps) := by
  intro p hp
  obtain ⟨q, hq, rfl⟩ := List.mem_map.1 hp
  simpa only [FV.isNan_abs, FV.badProd, FV.isInf_abs, FV.isZero_abs] using h q hq

theorem chunkLines_ne_nil (hcn : cols ≠ []) : chunkLines rows cols kn ≠ [] := by simp [chunkLines, hcn]

variable (hr : ∀ r ∈ rows, r.length = kn) (hc : ∀ c ∈ cols, c.length = kn) (hrn : rows ≠ []) (hcn : cols ≠ [])
include hr hc hrn hcn

theorem any_flatten_iff (p : FV → Bool) :
    (rows ++ cols).flatten.any p = true ↔ ∃ r ∈ rows, ∃ c ∈ cols, ∃ k, k < kn ∧ (p (inputAt r k) || p (inputAt c k)) = true := by
  obtain ⟨r0, hr0⟩ := List.exists_mem_of_ne_nil rows hrn
  obtain ⟨c0, hc0⟩ := List.exists_mem_of_ne_nil cols hcn
  simp only [List.any_eq_true, List.mem_flatten, List.mem_append, Bool.or_eq_true]
  constructor
  · rintro ⟨v, ⟨l, hl | hl, hv⟩, hp⟩
    · obtain ⟨k, hk, rfl⟩ := (mem_iff_inputAt (hr l hl)).1 hv
      exact ⟨l, hl, c0, hc0, k, hk, .inl hp⟩
    · obtain ⟨k, hk, rfl⟩ := (mem_iff_inputAt (hc l hl)).1 hv
      exact ⟨r0, hr0, l, hl, k, hk, .inr hp⟩
  · rintro ⟨r, hr', c, hc', k, hk, hp | hp⟩
    · exact ⟨_, ⟨r, .inl hr', (mem_iff_inputAt (hr r hr')).2 ⟨k, hk, rfl⟩⟩, hp⟩
    · exact ⟨_, ⟨c, .inr hc', (mem_iff_inputAt (hc c hc')).2 ⟨k, hk, rfl⟩⟩, hp⟩

theorem chunkBad_iff : chunkBad rows cols kn = true ↔ ∃ r ∈ rows, ∃ c ∈ cols, ∃ k, k < kn ∧ badPair (inputAt r k) (inputAt c k) = true := by
  rw [chunkBad, Bool.or_eq_true, any_flatten_iff hr hc hrn hcn FV.isNan]
  simp only [badPair, FV.badProd, List.any_eq_true, columnOf_eq, List.mem_map, List.mem_range, Bool.or_eq_true, Bool.and_eq_true,
    exists_exists_and_eq_and]
  constructor
  · rintro (⟨r, hr', c, hc', k, hk, h⟩ | ⟨k, hk, ⟨⟨r, hr', h⟩, c, hc', h'⟩ | ⟨⟨r, hr', h⟩, c, hc', h'⟩⟩)
    · exact ⟨r, hr', c, hc', k, hk, .inl h⟩
    · exact ⟨r, hr', c, hc', k, hk, .inr (.inl ⟨h, h'⟩)⟩
    · exact ⟨r, hr', c, hc', k, hk, .inr (.inr ⟨h, h'⟩)⟩
  · rintro ⟨r, hr', c, hc', k, hk, h | ⟨h, h'⟩ | ⟨h, h'⟩⟩
    · exact .inl ⟨r, hr', c, hc', k, hk, h⟩
    · exact .inr ⟨k, hk, .inl ⟨⟨r, hr', h⟩, c, hc', h'⟩⟩
    · exact .inr ⟨k, hk, .inr ⟨⟨r, hr', h⟩, c, hc', h'⟩⟩

theorem foldl_lineMags_of_bad (h : chunkBad rows cols kn = true) : (lineMags (chunkLines rows cols kn)).foldl maxF 0 = Fmt.f32.nanBits := by
  obtain ⟨r, hr', c, hc', k, hk, hbad⟩ := (chunkBad_iff hr hc hrn hcn).1 h
  obtain ⟨l, hl, hp⟩ := exists_chunkLine hr' hc' hk
  have hnan : Fmt.f32.nanBits ∈ lineMags (chunkLines rows cols kn) :=
    List.mem_map.2 ⟨l, hl, prodSum_bad (List.mem_map_of_mem hp) (by rw [FV.bad_abs]; exact hbad)⟩
  have := foldl_maxF _ (lineMags_bounds (chunkLines rows cols kn)) (a := 0) (Nat.zero_le _)
  rwa [if_pos hnan] at this

theorem goodPairs_of_not_bad (h : chunkBad rows cols kn ≠ true) : ∀ l ∈ chunkLines rows cols kn, goodPairs l := by
  intro l hl p hp
  obtain ⟨r, hr', c, hc', k, hk, rfl⟩ := mem_of_mem_chunkLines hl hp
  have := mt (fun hb => (chunkBad_iff hr hc hrn hcn).2 ⟨r, hr', c, hc', k, hk, hb⟩) h
  simpa only [badPair, Bool.not_eq_true, Bool.or_eq_false_iff, and_assoc] using this

theorem foldl_lineMags_of_inf (h : chunkBad rows cols kn ≠ true) (hinf : (rows ++ cols).flatten.any FV.isInf = true) :
    (lineMags (chunkLines rows cols kn)).foldl maxF 0 = Fmt.f32.infBits false := by
  have hle : ∀ m ∈ lineMags (chunkLines rows cols kn), m ≤ Fmt.f32.infBits false := by
    intro m hm
    obtain ⟨l, hl, rfl⟩ := List.mem_map.1 hm
    exact prodSum_le (goodPairs_abs (goodPairs_of_not_bad hr hc hrn hcn h l hl)) (unsignedPairs_abs l)
  obtain ⟨r, hr', c, hc', k, hk, hi⟩ := (any_flatten_iff hr hc hrn hcn FV.isInf).1 hinf
  obtain ⟨l, hl, hp⟩ := exists_chunkLine hr' hc' hk
  have hmem : Fmt.f32.infBits false ∈ lineMags (chunkLines rows cols kn) := by
    refine List.mem_map.2 ⟨l, hl, prodSum_infinite (goodPairs_abs (goodPairs_of_not_bad hr hc hrn hcn h l hl)) (unsignedPairs_abs l)
      (List.mem_map_of_mem hp) ?_⟩
    rw [FV.isInf_abs, FV.isInf_abs]; exact hi
  have := foldl_maxF _ (lineMags_bounds (chunkLines rows cols kn)) (a := 0) (Nat.zero_le _)
  rw [if_neg fun hn => nanBits_not_le (hle _ hn)] at this
  obtain ⟨h0, _, hall⟩ := this
  refine le_antisymm ?_ (hall _ hmem)
  rcases h0 with h0 | h0
  · rw [h0]; exact Nat.zero_le _
  · exact hle _ h0

/-! The exact sums over crossing lines -/

omit hr hc hrn hcn

theorem ratOf_sumAbs (l : List FV) : ratOf (sumAbs l) = (l.map (fun v => |ratOf v|)).sum := by
  have hmap : (l.map FV.abs).map ratOf = l.map (fun v => |ratOf v|) := by
    rw [List.map_map]; exact List.map_congr_left fun v _ => FV.ratOf_abs v
  have hnonneg : 0 ≤ (l.map (fun v => |ratOf v|)).sum := List.sum_nonneg fun v hv => by
    obtain ⟨w, _, rfl⟩ := List.mem_map.1 hv
    exact abs_nonneg _
  have := sumNums_abs (l.map FV.abs)
  rw [hmap, abs_of_nonneg hnonneg] at this
  simp only [sumAbs, ratOf, Bool.false_eq_true, if_false, one_mul, this]

/-- Sums over crossing lines first, then over one line: the sum over all pairs. -/
theorem sum_cross (ks : List Nat) (ls : List (List FV)) (x : Nat → ℚ) (y : List FV → Nat → ℚ) :
    (ks.map (fun k => (ls.map (fun l => y l k)).sum * x k)).sum = (ls.map (fun l => (ks.map (fun k => y l k * x k)).sum)).sum := by
  induction ls with
  | nil => simp
  | cons l ls ih => simp only [List.map_cons, List.sum_cons, add_mul, List.sum_map_add, ih]

theorem sum_flatMap (ls : List (List FV)) (f : List FV → List (FV × FV)) (w : FV × FV → ℚ) :
    ((ls.flatMap f).map w).sum = (ls.map (fun l => ((f l).map w).sum)).sum := by
  induction ls with
  | nil => rfl
  | cons l ls ih => simp only [List.flatMap_cons, List.map_append, List.sum_append, List.map_cons, List.sum_cons, ih]

/-- One line's value by the exact sums of the lines that cross it is that of all its products. -/
theorem chunkSum_crossMag {ls : List (List FV)} {x : List FV} (hls : ∀ l ∈ ls, l.length = kn) (hx : x.length = kn)
    (hfl : ∀ l ∈ ls, ∀ v ∈ l, FV.finite v) (hfx : ∀ v ∈ x, FV.finite v) {f : List FV → Nat → FV × FV}
    (hf : ∀ l k, f l k = (inputAt l k, inputAt x k) ∨ f l k = (inputAt x k, inputAt l k)) :
    ChunkSum .ru (absPairs (crossLine kn ls f)) (crossMag ls kn x) ∧ crossMag ls kn x ≤ Fmt.f32.infBits false := by
  have hfin : ∀ v : FV, FV.finite v.abs = FV.finite v := fun v => by rw [FV.finite, FV.finite, FV.isNan_abs, FV.isInf_abs]
  have hzip : ((List.range kn).map (fun k => sumAbs (columnOf ls k))).zip (x.map FV.abs) =
      (List.range kn).map (fun k => (sumAbs (columnOf ls k), (inputAt x k).abs)) := by
    conv_lhs => rw [← length_eq_map_inputAt hx, List.map_map, List.zip_map']
    rfl
  have hmem : ∀ p ∈ ((List.range kn).map (fun k => (sumAbs (columnOf ls k), (inputAt x k).abs))), FV.finite p.1 ∧ FV.finite p.2 := by
    intro p hp
    obtain ⟨k, hk, rfl⟩ := List.mem_map.1 hp
    exact ⟨rfl, by rw [hfin]; exact hfx _ ((mem_iff_inputAt hx).2 ⟨k, List.mem_range.1 hk, rfl⟩)⟩
  rw [crossMag, hzip]
  refine ⟨(chunkSum_prodSum .ru _).of_value hmem (fun p hp => ?_) ?_, prodSum_le (fun p hp => ?_) (fun p hp => ?_)⟩
  · obtain ⟨q, hq, rfl⟩ := List.mem_map.1 hp
    obtain ⟨l, hl, k, hk, rfl⟩ := mem_crossLine.1 hq
    have h1 := hfl l hl _ ((mem_iff_inputAt (hls l hl)).2 ⟨k, hk, rfl⟩)
    have h2 := hfx _ ((mem_iff_inputAt hx).2 ⟨k, hk, rfl⟩)
    simp only [hfin]
    rcases hf l k with h | h <;> rw [h]
    · exact ⟨h1, h2⟩
    · exact ⟨h2, h1⟩
  · have hw : ∀ l k, |ratOf (f l k).1| * |ratOf (f l k).2| = |ratOf (inputAt l k)| * |ratOf (inputAt x k)| := by
      intro l k
      rcases hf l k with h | h <;> rw [h]
      exact mul_comm _ _
    rw [absPairs, crossLine, List.map_map, sum_flatMap]
    simp only [List.map_map, Function.comp_def, ratOf_sumAbs, FV.ratOf_abs, columnOf_eq, hw]
    exact (sum_cross _ ls (fun k => |ratOf (inputAt x k)|) (fun l k => |ratOf (inputAt l k)|)).symm
  · obtain ⟨h1, h2⟩ := hmem p hp
    obtain ⟨s, m, e, h1⟩ := FV.finite_iff.1 h1
    obtain ⟨s', m', e', h2⟩ := FV.finite_iff.1 h2
    rw [h1, h2]
    simp [FV.isNan, FV.badProd, FV.isInf]
  · obtain ⟨k, _, rfl⟩ := List.mem_map.1 hp
    exact ⟨rfl, FV.sign_abs _⟩

include hr hc hrn hcn

/-- MAG's bound of a chunk is the largest of the sums of magnitudes over its lines. -/
theorem largestSum_chunkMag : LargestSum (chunkLines rows cols kn) (chunkMag rows cols kn) := by
  rw [chunkMag_def]
  split
  next hbad =>
    rw [← foldl_lineMags_of_bad hr hc hrn hcn hbad]
    exact largestSum_lineMags (chunkLines_ne_nil hcn)
  next hgood =>
    split
    next hinf =>
      rw [← foldl_lineMags_of_inf hr hc hrn hcn hgood hinf]
      exact largestSum_lineMags (chunkLines_ne_nil hcn)
    next hfin =>
      have hfinite : ∀ l ∈ rows ++ cols, ∀ v ∈ l, FV.finite v := by
        intro l hl v hv
        have hv' : v ∈ (rows ++ cols).flatten := List.mem_flatten.2 ⟨l, hl, hv⟩
        have hnan : (rows ++ cols).flatten.any FV.isNan ≠ true := fun h => hgood (by rw [chunkBad, h, Bool.true_or])
        have h1 := List.any_eq_false.1 (Bool.eq_false_of_not_eq_true hnan) v hv'
        have h2 := List.any_eq_false.1 (Bool.eq_false_of_not_eq_true hfin) v hv'
        simp_all [FV.finite]
      have hrow := fun l (hl : l ∈ rows) => hfinite l (List.mem_append_left _ hl)
      have hcol := fun l (hl : l ∈ cols) => hfinite l (List.mem_append_right _ hl)
      refine largestSum_of (chunkLines_ne_nil hcn) (List.rel_append ?_ ?_) fun m hm => .inr ?_
      · rw [List.forall₂_map_left_iff, List.forall₂_map_right_iff, List.forall₂_same]
        exact fun c hc' => (chunkSum_crossMag hr (hc c hc') hrow (hcol c hc') fun _ _ => .inl rfl).1
      · rw [List.forall₂_map_left_iff, List.forall₂_map_right_iff, List.forall₂_same]
        exact fun r hr' => (chunkSum_crossMag hc (hr r hr') hcol (hrow r hr') fun _ _ => .inr rfl).1
      · rcases List.mem_append.1 hm with h | h <;> obtain ⟨x, hx, rfl⟩ := List.mem_map.1 h
        · exact (chunkSum_crossMag (f := fun l k => (inputAt l k, inputAt x k)) hr (hc x hx) hrow (hcol x hx) fun _ _ => .inl rfl).2
        · exact (chunkSum_crossMag (f := fun l k => (inputAt l k, inputAt x k)) hc (hr x hx) hcol (hrow x hx) fun _ _ => .inl rfl).2

end
end Sys2Proof.Machine
end

section
/-! A chunk of products in a sheet of words and its mantle (04 R94, R95, 08 R167), and the seed of a mantle (08 R168). -/

namespace Sys2Proof.Machine

/-! Words and totals -/

theorem goodPairs_of_whole {ps : List (FV × FV)} (h : ∀ p ∈ ps, p.1.Whole ∧ p.2.Whole) : goodPairs ps := by
  intro p hp
  obtain ⟨⟨s, m, h1⟩, s', m', h2⟩ := h p hp
  simp [h1, h2, FV.isNan, FV.badProd, FV.isInf]

/-- An exact sum of whole products. -/
theorem intSum_value {ps : List (FV × FV)} (h : ∀ p ∈ ps, p.1.Whole ∧ p.2.Whole) :
    (intSum ps : ℚ) = (ps.map (fun p => ratOf p.1 * ratOf p.2)).sum := by
  rw [← sum_ratOf_mul (goodPairs_of_whole h)]
  refine sumNums_whole fun t ht => ?_
  obtain ⟨p, hp, rfl⟩ := List.mem_map.1 ht
  exact (h p hp).1.mul (h p hp).2

theorem accumulates_accWord {int : Bool} {ps : List (FV × FV)} (h : int = true → ∀ p ∈ ps, p.1.Whole ∧ p.2.Whole) (w : Word) :
    Accumulates int ps w (accWord int w ps) := by
  unfold Accumulates accWord
  cases int with
  | false => exact ⟨_, chunkSum_prodSum .rn ps, rfl⟩
  | true => simp [← intSum_value (h rfl)]

/-- The total of a column of inputs, as the mantle takes it. -/
def totalOf (int : Bool) (l : List FV) : FV :=
  if int then .num (decide (intSum (l.map (fun v => (v, one))) < 0)) (intSum (l.map (fun v => (v, one)))).natAbs 0
  else Fmt.f32.decode (prodSum .rn (l.map (fun v => (v, one))))

/-- A whole number as a value. -/
def intFV (v : Int) : FV := .num (decide (v < 0)) v.natAbs 0

theorem ratOf_intFV (v : Int) : ratOf (intFV v) = v := by
  have h : (v.natAbs : ℚ) = |(v : ℚ)| := by rw [Nat.cast_natAbs, Int.cast_abs]
  simp only [intFV, ratOf]
  rw [h, zpow_zero, mul_one]
  rcases lt_or_ge v 0 with hv | hv
  · have : (v : ℚ) < 0 := by exact_mod_cast hv
    simp [hv, abs_of_neg this]
  · have : (0 : ℚ) ≤ v := by exact_mod_cast hv
    simp [not_lt.2 hv, abs_of_nonneg this]

theorem whole_one : FV.Whole one := ⟨false, 1, rfl⟩

theorem whole_alone {l : List FV} (h : ∀ v ∈ l, v.Whole) : ∀ p ∈ l.map (fun v => (v, one)), p.1.Whole ∧ p.2.Whole := by
  intro p hp
  obtain ⟨v, hv, rfl⟩ := List.mem_map.1 hp
  exact ⟨h v hv, whole_one⟩

theorem sum_alone (l : List FV) : ((l.map (fun v => (v, one))).map (fun p => ratOf p.1 * ratOf p.2)).sum = (l.map ratOf).sum := by
  rw [List.map_map]
  refine congrArg List.sum (List.map_congr_left fun v _ => ?_)
  simp [ratOf, one]

theorem whole_totalOf {int : Bool} (h : int = true) (l : List FV) : (totalOf int l).Whole := by
  subst h; exact ⟨_, _, rfl⟩

theorem totals_totalOf {int : Bool} {l : List FV} (h : int = true → ∀ v ∈ l, v.Whole) : Totals int l (totalOf int l) := by
  unfold Totals
  cases int with
  | false => exact ⟨_, chunkSum_prodSum .rn (alone l), rfl⟩
  | true => exact ⟨rfl, rfl, by rw [← sum_alone, ← intSum_value (whole_alone (h rfl))]; exact ratOf_intFV _⟩

/-! The chunk -/

theorem getD_mapFrom {α β : Type} (f : Nat → α → β) (l : List α) {j : Nat} (d : α) (d' : β) (h : j < l.length) :
    (mapFrom f 0 l).getD j d' = f j (l.getD j d) := by
  rw [List.getD_eq_getElem?_getD, List.getD_eq_getElem?_getD, getElem?_mapFrom, Nat.zero_add, List.getElem?_eq_getElem h]
  rfl

theorem getD_map_range {α : Type} (f : Nat → α) {n k : Nat} (h : k < n) (d : α) : ((List.range n).map f).getD k d = f k := by
  rw [List.getD_eq_getElem _ _ (by simpa using h), List.getElem_map, List.getElem_range]

/-! Places of a square -/

theorem Sheet.place_lt {n i j : Nat} (hi : i < n) (hj : j < n) : n * i + j < n * n :=
  calc n * i + j < n * (i + 1) := by rw [Nat.mul_succ]; omega
    _ ≤ n * n := Nat.mul_le_mul_left _ hi

theorem Sheet.place_div {n i j : Nat} (hj : j < n) : (n * i + j) / n = i := by rw [Nat.mul_add_div (by omega), Nat.div_eq_of_lt hj, Nat.add_zero]
theorem Sheet.place_mod {n i j : Nat} (hj : j < n) : (n * i + j) % n = j := by rw [Nat.mul_add_mod, Nat.mod_eq_of_lt hj]

/-- A chunk's effect, its products and totals by name. -/
theorem Sheet.chunk_def (t : Sheet) (r0 c0 : Nat) (rows cols : List (List FV)) :
    t.chunk r0 c0 rows cols =
      { t with
        words := t.update r0 c0 rows.length cols.length (fun i j => (rows.toArray.getD i []).zip (cols.toArray.getD j []))
        hem := mapFrom (fun j w => if c0 ≤ j && j < c0 + cols.length then
          accWord t.int w (((List.range (rows.headD []).length).map (fun k => totalOf t.int (columnOf rows k))).zip (cols.toArray.getD (j - c0) [])) else w) 0 t.hem
        cuff := mapFrom (fun i w => if r0 ≤ i && i < r0 + rows.length then
          accWord t.int w ((rows.toArray.getD (i - r0) []).zip ((List.range (rows.headD []).length).map (fun k => totalOf t.int (columnOf cols k)))) else w) 0 t.cuff
        mag := if t.int then t.mag else BitVec.ofNat 32 (addF .ru t.mag.toNat (chunkMag rows cols (rows.headD []).length)) } := rfl

/-- All the words of a sheet, and of its mantle. -/
structure Sheet.Shaped (x : Sheet) : Prop where
  words : x.words.length = x.n * x.n
  hem : x.hem.length = x.n
  cuff : x.cuff.length = x.n

/-- Lines of one length, whole numbers in a sheet of the kind s8. -/
structure LinesFit (int : Bool) (kn : Nat) (ls : List (List FV)) : Prop where
  length : ∀ l ∈ ls, l.length = kn
  ne : ls ≠ []
  whole : int = true → ∀ l ∈ ls, ∀ v ∈ l, v.Whole

theorem getD_toArray_eq {α : Type} (l : List α) (i : Nat) (d : α) : l.toArray.getD i d = l.getD i d := by
  simp

theorem zip_eq_map {kn : Nat} {a b : List FV} (ha : a.length = kn) (hb : b.length = kn) :
    a.zip b = (List.range kn).map (fun k => (inputAt a k, inputAt b k)) := by
  conv_lhs => rw [← length_eq_map_inputAt ha, ← length_eq_map_inputAt hb, List.zip_map']

theorem zip_map_left {kn : Nat} (f : Nat → FV) {b : List FV} (hb : b.length = kn) :
    ((List.range kn).map f).zip b = (List.range kn).map (fun k => (f k, inputAt b k)) := by
  conv_lhs => rw [← length_eq_map_inputAt hb, List.zip_map']

theorem zip_map_right {kn : Nat} (f : Nat → FV) {a : List FV} (ha : a.length = kn) :
    a.zip ((List.range kn).map f) = (List.range kn).map (fun k => (inputAt a k, f k)) := by
  conv_lhs => rw [← length_eq_map_inputAt ha, List.zip_map']

section
variable {x : Sheet} {r0 c0 kn : Nat} {rows cols : List (List FV)}

theorem Sheet.length_update (x : Sheet) (r0 c0 nr nc : Nat) (ps : Nat → Nat → List (FV × FV)) : (x.update r0 c0 nr nc ps).length = x.words.length :=
  length_mapFrom _ _ _

theorem Sheet.length_words_chunk (x : Sheet) (r0 c0 : Nat) (rows cols : List (List FV)) : (x.chunk r0 c0 rows cols).words.length = x.words.length := by
  simp only [Sheet.chunk_def, Sheet.length_update]
theorem Sheet.length_hem_chunk (x : Sheet) (r0 c0 : Nat) (rows cols : List (List FV)) : (x.chunk r0 c0 rows cols).hem.length = x.hem.length := by
  simp only [Sheet.chunk_def, length_mapFrom]
theorem Sheet.length_cuff_chunk (x : Sheet) (r0 c0 : Nat) (rows cols : List (List FV)) : (x.chunk r0 c0 rows cols).cuff.length = x.cuff.length := by
  simp only [Sheet.chunk_def, length_mapFrom]

/-- The word (i, j) of a sheet after a chunk: its products accumulated where it lies in the window. -/
theorem Sheet.word_chunk (hx : x.words.length = x.n * x.n) {i j : Nat} (hi : i < x.n) (hj : j < x.n) :
    (x.chunk r0 c0 rows cols).words.getD (x.n * i + j) 0 =
      if r0 ≤ i ∧ i < r0 + rows.length ∧ c0 ≤ j ∧ j < c0 + cols.length then
        accWord x.int (x.words.getD (x.n * i + j) 0) ((rows.getD (i - r0) []).zip (cols.getD (j - c0) []))
      else x.words.getD (x.n * i + j) 0 := by
  have hlt : x.n * i + j < x.words.length := hx ▸ Sheet.place_lt hi hj
  rw [Sheet.chunk_def]
  refine (getD_mapFrom _ _ 0 _ hlt).trans ?_
  simp only [Sheet.place_div hj, Sheet.place_mod hj, getD_toArray_eq, Bool.and_eq_true, decide_eq_true_eq, and_assoc]

theorem getD_mem_of_lt {α : Type} {l : List α} {i : Nat} (h : i < l.length) (d : α) : l.getD i d ∈ l := by
  rw [List.getD_eq_getElem _ _ h]; exact List.getElem_mem h

variable (hr : LinesFit x.int kn rows) (hc : LinesFit x.int kn cols)

theorem LinesFit.whole_inputAt {int : Bool} (h : LinesFit int kn rows) (hi : int = true) {r : List FV} (hm : r ∈ rows) (k : Nat) : (inputAt r k).Whole := by
  unfold inputAt
  by_cases hk : k < r.length
  · exact h.whole hi r hm _ (getD_mem_of_lt hk _)
  · rw [List.getD_eq_default _ _ (Nat.le_of_not_lt hk)]; exact ⟨_, _, rfl⟩

theorem LinesFit.headD_length {int : Bool} (h : LinesFit int kn rows) : (rows.headD []).length = kn := by
  obtain ⟨r, rs, rfl⟩ := List.exists_cons_of_ne_nil h.ne
  exact h.length r List.mem_cons_self

theorem LinesFit.totals {int : Bool} (h : LinesFit int kn rows) (k : Nat) : Totals int (rows.map (fun r => inputAt r k)) (totalOf int (columnOf rows k)) := by
  refine totals_totalOf fun hi v hv => ?_
  obtain ⟨r, hm, rfl⟩ := List.mem_map.1 hv
  exact h.whole_inputAt hi hm k

include hr hc

/-- One chunk is a step of 04 R94, R95 and 08 R167. -/
theorem Sheet.chunk_step (hx : x.Shaped) : ChunkStep r0 c0 rows cols x (x.chunk r0 c0 rows cols) := by
  have hk := hr.headD_length
  unfold ChunkStep
  rw [hk]
  refine ⟨rfl, rfl, Sheet.length_words_chunk .., Sheet.length_hem_chunk .., Sheet.length_cuff_chunk .., fun i j hi hj => ?_,
    ⟨fun k => totalOf x.int (columnOf rows k), fun k => totalOf x.int (columnOf cols k), fun k _ => ⟨hr.totals k, hc.totals k⟩, fun j hj => ?_, fun i hi => ?_⟩,
    fun hi => ?_, fun hi => ⟨chunkMag rows cols kn, largestSum_chunkMag hr.length hc.length hr.ne hc.ne, ?_⟩⟩
  · dsimp only
    rw [Sheet.word_chunk hx.words hi hj]
    split
    next h =>
      obtain ⟨h1, h2, h3, h4⟩ := h
      have hrow := getD_mem_of_lt (l := rows) (i := i - r0) (by omega) []
      have hcol := getD_mem_of_lt (l := cols) (i := j - c0) (by omega) []
      rw [zip_eq_map (hr.length _ hrow) (hc.length _ hcol)]
      refine accumulates_accWord (fun hi p hp => ?_) _
      obtain ⟨k, _, rfl⟩ := List.mem_map.1 hp
      exact ⟨hr.whole_inputAt hi hrow k, hc.whole_inputAt hi hcol k⟩
    · rfl
  · rw [Sheet.chunk_def, hk]
    dsimp only
    rw [getD_mapFrom _ _ 0 _ (by rw [hx.hem]; exact hj)]
    simp only [Bool.and_eq_true, decide_eq_true_eq, getD_toArray_eq]
    split
    next h =>
      have hcol := getD_mem_of_lt (l := cols) (i := j - c0) (by omega) []
      rw [zip_map_left _ (hc.length _ hcol)]
      refine accumulates_accWord (fun hi p hp => ?_) _
      obtain ⟨k, _, rfl⟩ := List.mem_map.1 hp
      exact ⟨whole_totalOf hi _, hc.whole_inputAt hi hcol k⟩
    · rfl
  · rw [Sheet.chunk_def, hk]
    dsimp only
    rw [getD_mapFrom _ _ 0 _ (by rw [hx.cuff]; exact hi)]
    simp only [Bool.and_eq_true, decide_eq_true_eq, getD_toArray_eq]
    split
    next h =>
      have hrow := getD_mem_of_lt (l := rows) (i := i - r0) (by omega) []
      rw [zip_map_right _ (hr.length _ hrow)]
      refine accumulates_accWord (fun hi p hp => ?_) _
      obtain ⟨k, _, rfl⟩ := List.mem_map.1 hp
      exact ⟨hr.whole_inputAt hi hrow k, whole_totalOf hi _⟩
    · rfl
  · rw [Sheet.chunk_def, hi]; rfl
  · rw [Sheet.chunk_def, hi, hk]; rfl

omit hr hc

theorem Sheet.Shaped.chunk (hx : x.Shaped) (r0 c0 : Nat) (rows cols : List (List FV)) : (x.chunk r0 c0 rows cols).Shaped :=
  ⟨(Sheet.length_words_chunk ..).trans hx.words, (Sheet.length_hem_chunk ..).trans hx.hem, (Sheet.length_cuff_chunk ..).trans hx.cuff⟩

/-- The part of the lines from 16c on. -/
def chunkOf (c : Nat) (ls : List (List FV)) : List (List FV) := ls.map (fun l => (l.drop (16 * c)).take 16)

theorem LinesFit.chunkOf {int : Bool} (h : LinesFit int kn rows) (c : Nat) : LinesFit int (min 16 (kn - 16 * c)) (chunkOf c rows) where
  length l hl := by
    obtain ⟨r, hm, rfl⟩ := List.mem_map.1 hl
    rw [List.length_take, List.length_drop, h.length r hm]
  ne := by simpa [Machine.chunkOf] using h.ne
  whole hi l hl v hv := by
    obtain ⟨r, hm, rfl⟩ := List.mem_map.1 hl
    exact h.whole hi r hm v (List.mem_of_mem_drop (List.mem_of_mem_take hv))

/-- A sheet after the first `c` chunks. -/
def Sheet.chunksTo (x : Sheet) (r0 c0 : Nat) (rows cols : List (List FV)) (c : Nat) : Sheet :=
  (List.range c).foldl (fun t c => t.chunk r0 c0 (chunkOf c rows) (chunkOf c cols)) x

theorem Sheet.chunks_eq (x : Sheet) (r0 c0 : Nat) (rows cols : List (List FV)) (k : Nat) :
    x.chunks r0 c0 rows cols k = x.chunksTo r0 c0 rows cols ((k + 15) / 16) := rfl

theorem Sheet.chunksTo_succ (x : Sheet) (r0 c0 : Nat) (rows cols : List (List FV)) (c : Nat) :
    x.chunksTo r0 c0 rows cols (c + 1) = (x.chunksTo r0 c0 rows cols c).chunk r0 c0 (Machine.chunkOf c rows) (Machine.chunkOf c cols) := by
  rw [Sheet.chunksTo, List.range_succ, List.foldl_append]; rfl

theorem Sheet.chunksTo_shaped (hx : x.Shaped) (r0 c0 : Nat) (rows cols : List (List FV)) (c : Nat) :
    (x.chunksTo r0 c0 rows cols c).Shaped ∧ (x.chunksTo r0 c0 rows cols c).n = x.n ∧ (x.chunksTo r0 c0 rows cols c).int = x.int := by
  induction c with
  | zero => exact ⟨hx, rfl, rfl⟩
  | succ c ih =>
    obtain ⟨h1, h2, h3⟩ := ih
    rw [Sheet.chunksTo_succ]
    exact ⟨h1.chunk _ _ _ _, h2, h3⟩

include hr hc

/-- A product of depth k, chunk by chunk. -/
theorem Sheet.chunks_steps (hx : x.Shaped) (k : Nat) : Chunks r0 c0 rows cols k x (x.chunks r0 c0 rows cols k) := by
  refine ⟨x.chunksTo r0 c0 rows cols, rfl, (Sheet.chunks_eq ..).symm, fun c _ => ?_⟩
  obtain ⟨hs, _, hi⟩ := Sheet.chunksTo_shaped hx r0 c0 rows cols c
  rw [Sheet.chunksTo_succ]
  exact Sheet.chunk_step (hi ▸ hr.chunkOf c) (hi ▸ hc.chunkOf c) hs

end

end Sys2Proof.Machine
end

section
/-! The seed of a mantle (08 R168), and the words of an s8 product (04 R95). -/

namespace Sys2Proof.Machine

/-! The seed -/

theorem Sheet.row_eq {x : Sheet} (hx : x.words.length = x.n * x.n) {i : Nat} (hi : i < x.n) :
    x.row i = (List.range x.n).map (fun j => x.words.getD (x.n * i + j) 0) := by
  have hle : x.n * i + x.n ≤ x.words.length := by
    rw [hx, ← Nat.mul_succ]; exact Nat.mul_le_mul_left _ hi
  apply List.ext_getElem
  · simp only [Sheet.row, List.length_take, List.length_drop, List.length_map, List.length_range]
    omega
  · intro j h1 h2
    have hj : j < x.n := by simpa using h2
    simp only [Sheet.row, List.getElem_take, List.getElem_drop, List.getElem_map, List.getElem_range]
    rw [List.getD_eq_getElem]

theorem Sheet.col_eq (x : Sheet) (j : Nat) : x.col j = (List.range x.n).map (fun i => x.words.getD (x.n * i + j) 0) := by
  simp only [Sheet.col, getD_toArray_eq]

theorem whole_kindVal (w : Word) : (kindVal true w).Whole := ⟨_, _, rfl⟩

/-- The sum of a line as the mantle holds it. -/
theorem lineSum_spec (int : Bool) (ws : List Word) :
    if int then lineSum int ws = BitVec.ofInt 32 ⌊((ws.map (kindVal int)).map ratOf).sum⌋
    else ∃ n, ChunkSum .rn (alone (ws.map (kindVal int))) n ∧ lineSum int ws = BitVec.ofNat 32 n := by
  have hps : ws.map (fun w => (kindVal int w, one)) = (ws.map (kindVal int)).map (fun v => (v, one)) := by rw [List.map_map]; rfl
  cases int with
  | false => exact ⟨_, chunkSum_prodSum .rn _, by simp only [lineSum, hps, alone]; rfl⟩
  | true =>
    have hw : ∀ v ∈ ws.map (kindVal true), v.Whole := by
      intro v hv
      obtain ⟨w, _, rfl⟩ := List.mem_map.1 hv
      exact whole_kindVal w
    rw [if_pos rfl, ← sum_alone, ← intSum_value (whole_alone hw), Int.floor_intCast]
    simp only [lineSum, if_true, hps]

/-- MAG of words: the lines of magnitudes, rounded up, of which the largest is taken. -/
theorem foldl_lineMags (ls : List (List Word)) :
    ls.foldl (fun m ws => maxF m (prodSum .ru (ws.map (fun w => ((kindVal false w).abs, one))))) 0 =
      (lineMags (ls.map (fun ws => alone (ws.map (kindVal false))))).foldl maxF 0 := by
  rw [lineMags, List.map_map, List.foldl_map]
  congr 1
  funext m ws
  simp only [Function.comp_apply, absPairs, alone, List.map_map]
  rfl

theorem Sheet.seed_seeds {x : Sheet} (hx : x.words.length = x.n * x.n) (hn : x.n ≠ 0) (int : Bool) : Seeds int x (x.seed int) := by
  have hval : (fun w : Word => if int then FV.num w.msb w.toInt.natAbs 0 else Fmt.f32.decode w.toNat) = kindVal int := rfl
  have hline : ∀ f : Nat → Nat, (List.range x.n).map (fun i => kindVal int (x.words.getD (f i) 0)) =
      ((List.range x.n).map (fun i => x.words.getD (f i) 0)).map (kindVal int) := fun f => by rw [List.map_map]; rfl
  unfold Seeds
  rw [hval]
  dsimp only
  simp only [hline]
  refine ⟨rfl, rfl, rfl, by simp [Sheet.seed], by simp [Sheet.seed], fun j hj => ?_, fun i hi => ?_, fun hint => ?_⟩
  · have : (x.seed int).hem.getD j 0 = lineSum int (x.col j) := by
      simp [Sheet.seed, hj]
    rw [this, Sheet.col_eq]
    exact lineSum_spec int _
  · have : (x.seed int).cuff.getD i 0 = lineSum int (x.row i) := by
      simp [Sheet.seed, hi]
    rw [this, Sheet.row_eq hx hi]
    exact lineSum_spec int _
  · subst hint
    have hrows : (List.range x.n).map x.row = (List.range x.n).map (fun i => (List.range x.n).map (fun j => x.words.getD (x.n * i + j) 0)) :=
      List.map_congr_left fun i hi => Sheet.row_eq hx (List.mem_range.1 hi)
    have hcols : (List.range x.n).map x.col = (List.range x.n).map (fun j => (List.range x.n).map (fun i => x.words.getD (x.n * i + j) 0)) :=
      List.map_congr_left fun j _ => Sheet.col_eq x j
    refine ⟨_, ?_, rfl⟩
    rw [foldl_lineMags, hrows, hcols]
    convert largestSum_lineMags ?_ using 3
    · simp only [List.map_append, List.map_map, Function.comp_def]
    · simpa using hn

/-! An s8 product -/

theorem intSum_intFV (a b : List Int) : intSum ((a.map intFV).zip (b.map intFV)) = (List.zipWith (· * ·) a b).sum := by
  have hw : ∀ p ∈ (a.map intFV).zip (b.map intFV), p.1.Whole ∧ p.2.Whole := by
    intro p hp
    obtain ⟨h1, h2⟩ := List.of_mem_zip (show (p.1, p.2) ∈ _ from hp)
    obtain ⟨v, _, h1⟩ := List.mem_map.1 h1
    obtain ⟨v', _, h2⟩ := List.mem_map.1 h2
    rw [← h1, ← h2]
    exact ⟨⟨_, _, rfl⟩, _, _, rfl⟩
  apply Int.cast_injective (α := ℚ)
  rw [intSum_value hw]
  clear hw
  induction a generalizing b with
  | nil => simp
  | cons v a ih =>
    cases b with
    | nil => simp
    | cons v' b => simp [ih, ratOf_intFV]

theorem chunkOf_getD (c : Nat) (ls : List (List FV)) (i : Nat) : (chunkOf c ls).getD i [] = ((ls.getD i []).drop (16 * c)).take 16 := by
  rw [chunkOf, List.getD_eq_getElem?_getD, List.getElem?_map, List.getD_eq_getElem?_getD]
  cases ls[i]? <;> simp

/-- The words of a square s8 product, chunk by chunk: each gains the sum over K modulo 2^32. -/
theorem Sheet.word_chunksTo_int {x : Sheet} (hi : x.int = true) (hx : x.words.length = x.n * x.n) {rows cols : List (List FV)}
    (hr : rows.length = x.n) (hc : cols.length = x.n) {i j : Nat} (hin : i < x.n) (hjn : j < x.n) {a b : List Int}
    (ha : rows.getD i [] = a.map intFV) (hb : cols.getD j [] = b.map intFV) (c : Nat) :
    let y := x.chunksTo 0 0 rows cols c
    y.int = true ∧ y.n = x.n ∧ y.words.length = x.n * x.n ∧
      y.words.getD (x.n * i + j) 0 = x.words.getD (x.n * i + j) 0 + BitVec.ofInt 32 (List.zipWith (· * ·) (a.take (16 * c)) (b.take (16 * c))).sum := by
  induction c with
  | zero => exact ⟨hi, rfl, hx, by simp [Sheet.chunksTo]⟩
  | succ c ih =>
    obtain ⟨h1, h2, h3, h4⟩ := ih
    rw [Sheet.chunksTo_succ]
    refine ⟨h1, h2, (Sheet.length_words_chunk ..).trans h3, ?_⟩
    have hword := Sheet.word_chunk (x := x.chunksTo 0 0 rows cols c) (r0 := 0) (c0 := 0) (rows := chunkOf c rows) (cols := chunkOf c cols)
      (by rw [h3, h2]) (i := i) (j := j) (by rw [h2]; exact hin) (by rw [h2]; exact hjn)
    have hwin : 0 ≤ i ∧ i < 0 + (chunkOf c rows).length ∧ 0 ≤ j ∧ j < 0 + (chunkOf c cols).length := by
      simp [chunkOf, hr, hc, hin, hjn]
    rw [if_pos hwin, h2, h1, h4, chunkOf_getD, chunkOf_getD, Nat.sub_zero, Nat.sub_zero, ha, hb, ← List.map_drop, ← List.map_take, ← List.map_drop,
      ← List.map_take] at hword
    rw [hword, accWord, if_pos rfl, intSum_intFV, BitVec.add_assoc, ← BitVec.ofInt_add]
    simp only [← List.take_zipWith, ← List.drop_zipWith]
    rw [Nat.mul_succ, List.take_add, List.sum_append]

end Sys2Proof.Machine
end

section
/-! Drains (08 R169, R170, R174): the exact differences of a sheet and its mantle, and the bound that they are held to. -/

namespace Sys2Proof.Machine

/-! Words in units -/

/-- A word of a sheet as a number (08 R169). -/
def numOf (int : Bool) (w : Word) : ℚ := if int then (w.toInt : ℚ) else ratOf (Fmt.f32.decode w.toNat)
/-- The same number in units: 1 in a sheet of s8 products, else 2^−1200. -/
def unitsOf (int : Bool) (w : Word) : Int := if int then w.toInt else (Fmt.f32.decode w.toNat).scaled
/-- How many units make 1. -/
def perOne (int : Bool) : ℚ := if int then 1 else 2 ^ 1200

/-- A word that is no number. -/
def wild (w : Word) : Bool := (Fmt.f32.decode w.toNat).isNan || (Fmt.f32.decode w.toNat).isInf

theorem scaled_eq {n : Nat} (h1 : (Fmt.f32.decode n).isNan = false) (h2 : (Fmt.f32.decode n).isInf = false) :
    ((Fmt.f32.decode n).scaled : ℚ) = ratOf (Fmt.f32.decode n) * 2 ^ 1200 := by
  have hnum : ∃ s m e, Fmt.f32.decode n = .num s m e ∧ -149 ≤ e := by
    rw [decode_f32] at h1 h2 ⊢
    split at h1
    next h => exact ⟨_, _, _, if_pos h, le_rfl⟩
    next h =>
      rw [if_neg h] at h2 ⊢
      split at h1
      next h' => rw [if_pos h'] at h2; split at h1 <;> simp_all [FV.isInf, FV.isNan]
      next h' => exact ⟨_, _, _, if_neg h', by omega⟩
  obtain ⟨s, m, e, hd, he⟩ := hnum
  obtain ⟨k, hk⟩ := Int.le.dest (show (0 : Int) ≤ e + 1200 by omega)
  have hpow : (2 : ℚ) ^ k = 2 ^ e * 2 ^ 1200 := by
    rw [← zpow_natCast, show (k : Int) = e + 1200 by omega, zpow_add₀ two_ne_zero, show (1200 : Int) = (1200 : Nat) from rfl,
      zpow_natCast]
  rw [hd]
  generalize (2 : ℚ) ^ 1200 = u at hpow ⊢
  simp only [FV.scaled, ratOf, show (e + 1200).toNat = k by omega]
  cases s <;> simp only [Bool.false_eq_true, if_false, if_true] <;> push_cast <;> rw [hpow] <;> ring

theorem unitsOf_eq {int : Bool} {w : Word} (h : int = true ∨ wild w = false) : (unitsOf int w : ℚ) = numOf int w * perOne int := by
  cases int with
  | true => simp [unitsOf, numOf, perOne]
  | false =>
    obtain ⟨h1, h2⟩ := Bool.or_eq_false_iff.1 (h.resolve_left (by simp))
    exact scaled_eq h1 h2

/-! Differences -/

/-- A line less its mantle word, in units. -/
def lineDiff (int : Bool) (ws : List Word) (m : Word) : Int := ws.foldl (fun n w => n + unitsOf int w) 0 - unitsOf int m

theorem foldl_add_units (int : Bool) (ws : List Word) : ∀ n : Int, ws.foldl (fun n w => n + unitsOf int w) n = n + (ws.map (unitsOf int)).sum := by
  induction ws with
  | nil => simp
  | cons w ws ih => intro n; rw [List.foldl_cons, ih, List.map_cons, List.sum_cons, add_assoc]

theorem lineDiff_eq {int : Bool} {ws : List Word} {m : Word} (hw : int = true ∨ ∀ w ∈ ws, wild w = false) (hm : int = true ∨ wild m = false) :
    (lineDiff int ws m : ℚ) = ((ws.map (numOf int)).sum - numOf int m) * perOne int := by
  have hsum : (((ws.map (unitsOf int)).sum : Int) : ℚ) = (ws.map (numOf int)).sum * perOne int := by
    rw [Int.cast_list_sum, List.map_map, ← List.sum_map_mul_right]
    exact congrArg List.sum (List.map_congr_left fun w h => unitsOf_eq (hw.imp_right fun hw => hw w h))
  rw [lineDiff, foldl_add_units, zero_add, Int.cast_sub, hsum, unitsOf_eq hm, sub_mul]

/-! The bound -/

/-- Whether a difference is more than the tolerance `tol` allows beside the bound `mag` (08 R169, R174). -/
def beyond (tol mag : Word) (v : ℚ) : Bool :=
  tol.toNat % 256 != 255 &&
    decide (max (if tol.toNat % 256 = 0 then 0 else (2 : ℚ) ^ (((tol.toNat % 256 : Nat) : Int) - 127))
      ((2 : ℚ) ^ (-((tol.toNat / 256 % 64 : Nat) : Int)) * |ratOf (Fmt.f32.decode mag.toNat)|) < |v|)

theorem not_within {tol mag : Word} (hm : wild mag = false) {d : Int} {v : ℚ} (hd : (d : ℚ) = v * 2 ^ 1200) : (!within tol mag.toNat d) = beyond tol mag v := by
  obtain ⟨h1, h2⟩ := Bool.or_eq_false_iff.1 hm
  have hmag : ((Fmt.f32.decode mag.toNat).scaled.natAbs : ℚ) = |ratOf (Fmt.f32.decode mag.toNat)| * 2 ^ 1200 := by
    rw [Nat.cast_natAbs, Int.cast_abs, scaled_eq h1 h2, abs_mul, abs_of_pos (show (0 : ℚ) < 2 ^ 1200 by positivity)]
  have hdiff : (d.natAbs : ℚ) = |v| * 2 ^ 1200 := by
    rw [Nat.cast_natAbs, Int.cast_abs, hd, abs_mul, abs_of_pos (show (0 : ℚ) < 2 ^ 1200 by positivity)]
  have hfloor : ∀ a : Nat, d.natAbs ≤ (if a = 0 then 0 else 2 ^ (1200 + a - 127)) ↔ |v| ≤ if a = 0 then 0 else (2 : ℚ) ^ ((a : Int) - 127) := by
    intro a
    rw [← Nat.cast_le (α := ℚ), hdiff]
    split
    · rw [Nat.cast_zero]
      exact ⟨fun h => nonpos_of_mul_nonpos_left h (by positivity), fun h => mul_nonpos_of_nonpos_of_nonneg h (by positivity)⟩
    · have : ((2 ^ (1200 + a - 127) : Nat) : ℚ) = 2 ^ ((a : Int) - 127) * 2 ^ 1200 := by
        push_cast
        rw [← zpow_natCast (2 : ℚ) (1200 + a - 127), show ((1200 + a - 127 : Nat) : Int) = ((a : Int) - 127) + (1200 : Nat) by omega,
          zpow_add₀ two_ne_zero, zpow_natCast]
      rw [this, mul_le_mul_iff_left₀ (by positivity)]
  have hrel : ∀ r : Nat, d.natAbs ≤ (Fmt.f32.decode mag.toNat).scaled.natAbs / 2 ^ r ↔ |v| ≤ (2 : ℚ) ^ (-(r : Int)) * |ratOf (Fmt.f32.decode mag.toNat)| := by
    intro r
    rw [Nat.le_div_iff_mul_le (by positivity), ← Nat.cast_le (α := ℚ), Nat.cast_mul, hdiff, hmag, zpow_neg, zpow_natCast, inv_mul_eq_div,
      le_div_iff₀ (by positivity)]
    push_cast
    rw [mul_right_comm, mul_le_mul_iff_left₀ (by positivity)]
  unfold within beyond
  dsimp only
  rw [Bool.eq_iff_iff]
  simp only [Bool.not_eq_true', Bool.or_eq_false_iff, beq_eq_false_iff_ne, decide_eq_false_iff_not, Bool.and_eq_true, bne_iff_ne, decide_eq_true_eq,
    max_lt_iff, and_assoc, show (2 : Nat) ^ 8 = 256 from rfl, show (2 : Nat) ^ 6 = 64 from rfl, hfloor, hrel, not_le]

/-! The drain -/

/-- The outcome of a drain from the differences of its columns, in units, and the columns and rows that fail. -/
def outcomeOf (int : Bool) (dc : Nat → Int) (fc fr : List Nat) : Drain :=
  match fc, fr with
  | [], [] => { stat := 0 }
  | [c], [r] => { stat := 1, ncol := 1, nrow := 1, row := r, col := c, dm := dc c, de := if int then 0 else -1200 }
  | _, _ => { stat := 2, ncol := fc.length, nrow := fr.length }

section
variable (x : Sheet) (tol : Word)

/-- The differences of column `j` and row `i`, in units, as the drain holds them. -/
def Sheet.colDiff (j : Nat) : Int := (mapFrom (fun j m => lineDiff x.int (x.col j) m) 0 x.hem).getD j 0
def Sheet.rowDiff (i : Nat) : Int := (mapFrom (fun i m => lineDiff x.int (x.row i) m) 0 x.cuff).getD i 0

/-- Whether a difference in units fails. -/
def Sheet.unitFails (d : Int) : Bool := !(if x.int then d % 2 ^ 32 == 0 else within tol x.mag.toNat d)

/-- A word of the sheet or of its mantle is no number. -/
def Sheet.wild : Bool := (x.mag :: x.words ++ x.hem ++ x.cuff).any Machine.wild

theorem Sheet.drain_def (poison : Bool) : x.drain tol poison =
    if poison then { stat := 3 }
    else if !x.int && x.wild then { stat := 4 }
    else outcomeOf x.int x.colDiff ((List.range x.n).filter (fun j => x.unitFails tol (x.colDiff j)))
      ((List.range x.n).filter (fun i => x.unitFails tol (x.rowDiff i))) := by
  have hwild : (x.words.any Machine.wild || x.hem.any Machine.wild || x.cuff.any Machine.wild || Machine.wild x.mag) = x.wild := by
    simp only [Sheet.wild, List.cons_append, List.any_cons, List.any_append]
    cases Machine.wild x.mag <;> simp
  rw [← hwild]
  rfl

/-- The exact differences of 08 R169. -/
def Sheet.colError (j : Nat) : ℚ := ((List.range x.n).map (fun i => numOf x.int (x.words.getD (x.n * i + j) 0))).sum - numOf x.int (x.hem.getD j 0)
def Sheet.rowError (i : Nat) : ℚ := ((List.range x.n).map (fun j => numOf x.int (x.words.getD (x.n * i + j) 0))).sum - numOf x.int (x.cuff.getD i 0)

/-- Whether a difference fails (08 R169, R174). -/
def Sheet.fails (v : ℚ) : Bool := if x.int then ⌊v⌋ % 2 ^ 32 != 0 else beyond tol x.mag v

variable {x tol} (hx : x.Shaped) (hw : (!x.int && x.wild) = false)
include hw

theorem Sheet.tame {w : Word} (h : w = x.mag ∨ w ∈ x.words ∨ w ∈ x.hem ∨ w ∈ x.cuff) : x.int = true ∨ Machine.wild w = false := by
  cases hi : x.int with
  | true => exact .inl rfl
  | false =>
    rw [hi] at hw
    have hmem : w ∈ x.mag :: x.words ++ x.hem ++ x.cuff := by simpa [or_assoc] using h
    exact .inr (by simpa using List.any_eq_false.1 hw w hmem)

theorem Sheet.unitFails_eq {d : Int} {v : ℚ} (h : (d : ℚ) = v * perOne x.int) : x.unitFails tol d = x.fails tol v := by
  have hmag := Sheet.tame hw (.inl rfl)
  unfold Sheet.unitFails Sheet.fails
  cases hi : x.int with
  | true =>
    have : ⌊v⌋ = d := by rw [show v = d by rw [h, hi]; simp [perOne], Int.floor_intCast]
    simp [this, bne]
  | false =>
    rw [hi] at h hmag
    exact not_within (hmag.resolve_left (by simp)) h

include hx

theorem Sheet.colDiff_eq {j : Nat} (hj : j < x.n) : (x.colDiff j : ℚ) = x.colError j * perOne x.int := by
  have hlt : j < x.hem.length := by rw [hx.hem]; exact hj
  rw [Sheet.colDiff, getD_mapFrom _ _ 0 0 hlt, lineDiff_eq _ (Sheet.tame hw (.inr (.inr (.inl (getD_mem_of_lt hlt 0))))), Sheet.col_eq, List.map_map]
  · rfl
  · by_cases hi : x.int = true
    · exact .inl hi
    · refine .inr fun w h => ((Sheet.tame hw (.inr (.inl ?_))).resolve_left hi)
      rw [Sheet.col_eq] at h
      obtain ⟨i, hi, rfl⟩ := List.mem_map.1 h
      refine getD_mem_of_lt ?_ 0
      rw [hx.words]
      exact Sheet.place_lt (List.mem_range.1 hi) hj

theorem Sheet.rowDiff_eq {i : Nat} (hi : i < x.n) : (x.rowDiff i : ℚ) = x.rowError i * perOne x.int := by
  have hlt : i < x.cuff.length := by rw [hx.cuff]; exact hi
  rw [Sheet.rowDiff, getD_mapFrom _ _ 0 0 hlt, lineDiff_eq _ (Sheet.tame hw (.inr (.inr (.inr (getD_mem_of_lt hlt 0))))), Sheet.row_eq hx.words hi, List.map_map]
  · rfl
  · by_cases hint : x.int = true
    · exact .inl hint
    · exact .inr fun w h => (Sheet.tame hw (.inr (.inl (List.mem_of_mem_drop (List.mem_of_mem_take h))))).resolve_left hint

theorem Sheet.failing_cols : (List.range x.n).filter (fun j => x.unitFails tol (x.colDiff j)) = (List.range x.n).filter (fun j => x.fails tol (x.colError j)) :=
  List.filter_congr fun _ hj => Sheet.unitFails_eq hw (Sheet.colDiff_eq hx hw (List.mem_range.1 hj))

theorem Sheet.failing_rows : (List.range x.n).filter (fun i => x.unitFails tol (x.rowDiff i)) = (List.range x.n).filter (fun i => x.fails tol (x.rowError i)) :=
  List.filter_congr fun _ hi => Sheet.unitFails_eq hw (Sheet.rowDiff_eq hx hw (List.mem_range.1 hi))

end

/-- The outcome of the lines that fail: their numbers, and one column and one row that cross locate the error. -/
theorem outcomeOf_spec (int : Bool) (dc : Nat → Int) (e : Nat → ℚ) (fc fr : List Nat) :
    (∀ j ∈ fc, (dc j : ℚ) = e j * perOne int) →
    let d := outcomeOf int dc fc fr
    d.ncol = fc.length ∧ d.nrow = fr.length ∧
      match fc, fr with
      | [], [] => d.stat = 0
      | [c], [r] => d.stat = 1 ∧ d.col = c ∧ d.row = r ∧ (d.dm : ℚ) * (2 : ℚ) ^ d.de = e c
      | _, _ => d.stat = 2 := by
  have hde : ∀ (d : Int) (v : ℚ), (d : ℚ) = v * perOne int → (d : ℚ) * (2 : ℚ) ^ (if int then (0 : Int) else -1200) = v := by
    intro d v h
    rw [h]
    cases int with
    | true => simp [perOne]
    | false =>
      simp only [perOne, Bool.false_eq_true, if_false]
      have hz : (2 : ℚ) ^ (-1200 : Int) = (2 ^ 1200)⁻¹ := by rw [zpow_neg]; rfl
      rw [mul_assoc, hz, mul_inv_cancel₀ (by positivity), mul_one]
  match fc, fr with
  | [], [] => exact fun _ => ⟨rfl, rfl, rfl⟩
  | [c], [r] => exact fun h => ⟨rfl, rfl, rfl, rfl, rfl, hde _ _ (h c List.mem_cons_self)⟩
  | [], _ :: _ => exact fun _ => ⟨rfl, rfl, rfl⟩
  | [_], [] => exact fun _ => ⟨rfl, rfl, rfl⟩
  | [_], _ :: _ :: _ => exact fun _ => ⟨rfl, rfl, rfl⟩
  | _ :: _ :: _, _ => exact fun _ => ⟨rfl, rfl, rfl⟩

theorem drainOf_def (x : Sheet) (tol : Word) (poison : Bool) (d : Drain) :
    DrainOf x tol poison d =
      if poison then d.stat = 3 ∧ d.ncol = 0 ∧ d.nrow = 0
      else if !x.int && x.wild then d.stat = 4 ∧ d.ncol = 0 ∧ d.nrow = 0
      else
        let fc := (List.range x.n).filter (fun j => x.fails tol (x.colError j))
        let fr := (List.range x.n).filter (fun i => x.fails tol (x.rowError i))
        d.ncol = fc.length ∧ d.nrow = fr.length ∧
          match fc, fr with
          | [], [] => d.stat = 0
          | [c], [r] => d.stat = 1 ∧ d.col = c ∧ d.row = r ∧ (d.dm : ℚ) * (2 : ℚ) ^ d.de = x.colError c
          | _, _ => d.stat = 2 := rfl

/-- A drain is that of 08 R169, R170. -/
theorem Sheet.drain_spec {x : Sheet} (hx : x.Shaped) (tol : Word) (poison : Bool) : DrainOf x tol poison (x.drain tol poison) := by
  rw [Sheet.drain_def, drainOf_def]
  split
  · exact ⟨rfl, rfl, rfl⟩
  · by_cases hw : (!x.int && x.wild) = true
    · rw [if_pos hw, if_pos hw]
      exact ⟨rfl, rfl, rfl⟩
    · rw [if_neg hw, if_neg hw]
      have hw := Bool.eq_false_of_not_eq_true hw
      rw [Sheet.failing_cols hx hw, Sheet.failing_rows hx hw]
      exact outcomeOf_spec x.int x.colDiff x.colError _ _ fun j hj =>
        Sheet.colDiff_eq hx hw (List.mem_range.1 (List.mem_of_mem_filter hj))

end Sys2Proof.Machine
end

section
/-! Tiles: their drains and corrections (08 R169, R170, R176), and the products that they accumulate (07 R155, R160, 08 R168). -/

namespace Sys2Proof.Machine

theorem Tile.fits_shaped {x : Tile} {t : Ty} (h : x.fits t) : x.sheet.Shaped := ⟨h.1, h.2.1, h.2.2.1⟩

/-- A tile is drained with the outcome of its sheet. -/
theorem Tile.drainWith_drained {x : Tile} (h : x.sheet.Shaped) (tol : Word) : Drained tol x (x.drainWith tol) :=
  ⟨_, Sheet.drain_spec h tol x.poison, rfl⟩

/-! Correction -/

theorem lmod_const {α : Type} (l : List α) (i : Nat) (a : α) : lmod l i (fun _ => a) = l.set i a := by
  induction l generalizing i with
  | nil => rfl
  | cons b l ih => cases i <;> simp [lmod, ih]

/-- A difference of two numbers, rounded once: +0 or −0 where it is zero. -/
theorem sum_sub_num (neg : Bool) (m : Nat) (e dm de : Int) :
    let r := (Fmt.f32.sum .rn [] [.num neg m e, .num (decide (0 < dm)) dm.natAbs de]).1
    let v : ℚ := ratOf (.num neg m e) - (dm : ℚ) * (2 : ℚ) ^ de
    r < 2 ^ 32 ∧ if v = 0 then ∃ s, r = Fmt.f32.zeroBits s else ∃ fl, CorrectlyRounds Fmt.f32 (.mode .rn) (v < 0) |v| (r, fl) := by
  have hd : ratOf (.num (decide (0 < dm)) dm.natAbs de) = -((dm : ℚ) * (2 : ℚ) ^ de) := by
    have habs : (dm.natAbs : ℚ) = |(dm : ℚ)| := by rw [Nat.cast_natAbs, Int.cast_abs]
    simp only [ratOf, decide_eq_true_eq, habs]
    rcases lt_or_ge 0 dm with h | h
    · rw [if_pos h, abs_of_pos (by exact_mod_cast h)]; ring
    · rw [if_neg (not_lt.2 h), abs_of_nonpos (by exact_mod_cast h)]; ring
  have hv : ratOf (.num neg m e) - (dm : ℚ) * (2 : ℚ) ^ de = (([.num neg m e, .num (decide (0 < dm)) dm.natAbs de] : List FV).map ratOf).sum := by
    simp only [List.map_cons, List.map_nil, List.sum_cons, List.sum_nil, hd]; ring
  have hsum : ∃ s, Fmt.f32.sum .rn [] [.num neg m e, .num (decide (0 < dm)) dm.natAbs de] =
      if (sumNums [.num neg m e, .num (decide (0 < dm)) dm.natAbs de]).1 = 0 then (Fmt.f32.zeroBits s, 0)
      else Fmt.f32.roundTo (.mode .rn) (decide ((sumNums [.num neg m e, .num (decide (0 < dm)) dm.natAbs de]).1 < 0))
        (sumNums [.num neg m e, .num (decide (0 < dm)) dm.natAbs de]).1.natAbs (sumNums [.num neg m e, .num (decide (0 < dm)) dm.natAbs de]).2 := ⟨_, rfl⟩
  obtain ⟨s, hsum⟩ := hsum
  dsimp only
  rw [hsum, hv]
  generalize ([.num neg m e, .num (decide (0 < dm)) dm.natAbs de] : List FV) = ts
  by_cases h0 : (ts.map ratOf).sum = 0
  · rw [if_pos ((sumNums_zero ts).2 h0), if_pos h0]
    exact ⟨by cases s <;> decide, s, rfl⟩
  · rw [if_neg fun h => h0 ((sumNums_zero ts).1 h), if_neg h0]
    refine ⟨?_, _, correctlyRounds_sumNums (floatFmts_regular (by decide)) _ h0⟩
    refine lt_of_le_of_lt (roundTo_f32_le _ _ _ _) ?_
    cases decide ((sumNums ts).1 < 0) <;> decide

/-- A LOCATED tile's element without its error. -/
def Tile.fixWord (x : Tile) : Word :=
  if x.int then x.words.getD (64 * x.row + x.col) 0 - BitVec.ofInt 32 x.dm
  else BitVec.ofNat 32 (Fmt.f32.sum .rn [] [Fmt.f32.decode (x.words.getD (64 * x.row + x.col) 0).toNat, .num (0 < x.dm) x.dm.natAbs x.de]).1

/-- A tile with another word at its error's place. -/
def Tile.replaced (x : Tile) (w : Word) : Tile := { x with words := x.words.set (64 * x.row + x.col) w }

/-- A tile whose lines all pass is CORRECTED. -/
def Tile.corrected (z : Tile) : Tile := if z.stat = 0 then { z with stat := 7 } else z

theorem Tile.corrected_eq (z : Tile) : z.corrected = { z with stat := if z.stat = 0 then 7 else z.stat } := by
  unfold Tile.corrected
  by_cases h : z.stat = 0
  · rw [if_pos h, if_pos h]
  · rw [if_neg h, if_neg h]

theorem Tile.fix_located {x : Tile} (h : x.stat = 1) (tol : Word) : x.fix tol = ((x.replaced x.fixWord).drainWith tol).corrected := by
  unfold Tile.fix
  simp only [h, if_true, lmod_const]
  rfl

theorem Tile.replaced_shaped {x : Tile} (h : x.sheet.Shaped) (w : Word) : (x.replaced w).sheet.Shaped :=
  ⟨(List.length_set ..).trans h.words, h.hem, h.cuff⟩

/-- `mfix` is 08 R176. -/
theorem Tile.fix_corrected {x : Tile} (h : x.sheet.Shaped) (tol : Word) : Corrected tol x (x.fix tol) := by
  refine ⟨fun hs => if_neg hs, fun hs => ⟨x.fixWord, _, Tile.drainWith_drained (Tile.replaced_shaped h x.fixWord) tol,
    by rw [Tile.fix_located hs, Tile.corrected_eq], fun hi => if_pos hi, fun hi neg m e hd => ?_⟩⟩
  obtain ⟨hlt, hr⟩ := sum_sub_num neg m e x.dm x.de
  have hw : x.fixWord.toNat = (Fmt.f32.sum .rn [] [.num neg m e, .num (decide (0 < x.dm)) x.dm.natAbs x.de]).1 := by
    have hi' : ¬ x.int = true := by simp [hi]
    rw [Tile.fixWord, if_neg hi', hd, BitVec.toNat_ofNat, Nat.mod_eq_of_lt hlt]
  rw [hw]
  dsimp only
  split at hr
  next h0 =>
    rw [if_pos h0]
    obtain ⟨s, hr⟩ := hr
    rw [hr]
    cases s <;> decide
  next h0 => rw [if_neg h0]; exact hr

end Sys2Proof.Machine
end

section
/-! The inputs of matrix products as the engine reads them (07 R151–R155, R159), and the words that `macc.ld` reads. -/

namespace Sys2Proof.Machine

/-! Bytes -/

theorem leNat_append (l l' : List Byte) : leNat (l ++ l') = leNat l + 256 ^ l.length * leNat l' := by
  induction l with
  | nil => simp [leNat]
  | cons b l ih => simp only [List.cons_append, leNat, ih, List.length_cons, Nat.pow_succ]; ring

theorem leNat_lt (l : List Byte) : leNat l < 256 ^ l.length := by
  induction l with
  | nil => simp [leNat]
  | cons b l ih =>
    have hb : b.toNat < 256 := b.isLt
    simp only [leNat, List.length_cons, Nat.pow_succ]
    omega

/-- Byte `q` of a little-endian value. -/
theorem leNat_digit (l : List Byte) (q : Nat) : leNat l / 256 ^ q % 256 = (l.getD q 0).toNat := by
  induction l generalizing q with
  | nil => simp [leNat]
  | cons b l ih =>
    have hb : b.toNat < 256 := b.isLt
    cases q with
    | zero => simp only [leNat, Nat.pow_zero, Nat.div_one, List.getD_cons_zero]; omega
    | succ q =>
      rw [List.getD_cons_succ, ← ih, Nat.pow_succ', ← Nat.div_div_eq_div_mul, leNat, Nat.add_mul_div_left _ _ (by omega), Nat.div_eq_of_lt hb, Nat.zero_add]

/-- Bytes read one by one, 0 beyond the end, have the value of the bytes that are there. -/
theorem leNat_slice (bs : List Byte) (n : Nat) : ∀ a, leNat ((List.range n).map (fun i => bs.getD (a + i) 0)) = leNat ((bs.drop a).take n) := by
  induction n with
  | zero => intro a; rfl
  | succ n ih =>
    intro a
    have hrest : (List.range n).map ((fun i => bs.getD (a + i) 0) ∘ Nat.succ) = (List.range n).map (fun i => bs.getD (a + 1 + i) 0) :=
      List.map_congr_left fun i _ => by simp only [Function.comp_apply]; congr 1; omega
    rw [List.range_succ_eq_map, List.map_cons, List.map_map, hrest, leNat, ih (a + 1), Nat.add_zero]
    by_cases h : a < bs.length
    · rw [List.drop_eq_getElem_cons h, List.take_succ_cons, leNat, List.getD_eq_getElem _ _ h]
    · rw [List.getD_eq_default _ _ (by omega), List.drop_eq_nil_of_le (by omega), List.drop_eq_nil_of_le (by omega)]
      simp [leNat]

theorem memRead_append (m : Mem) (a n k : Nat) : memRead m a (n + k) = memRead m a n ++ memRead m (a + n) k := by
  induction n generalizing a with
  | zero => simp [memRead]
  | succ n ih => rw [Nat.succ_add, memRead, memRead, ih, List.cons_append]; congr 3; omega

theorem length_memRead (m : Mem) (a n : Nat) : (memRead m a n).length = n := by
  induction n generalizing a with
  | zero => rfl
  | succ n ih => rw [memRead, List.length_cons, ih]

/-- Words of a memory, one after the other. -/
theorem toWords_memRead (m : Mem) (n : Nat) : ∀ a, toWords n (leNat (memRead m a (4 * n))) =
    (List.range n).map (fun i => BitVec.ofNat 32 (leNat (memRead m (a + 4 * i) 4))) := by
  induction n with
  | zero => intro a; rfl
  | succ n ih =>
    intro a
    have hlt : leNat (memRead m a 4) < 2 ^ 32 := by simpa [length_memRead] using leNat_lt (memRead m a 4)
    have hrest : (List.range n).map ((fun i => BitVec.ofNat 32 (leNat (memRead m (a + 4 * i) 4))) ∘ Nat.succ) =
        (List.range n).map (fun i => BitVec.ofNat 32 (leNat (memRead m (a + 4 + 4 * i) 4))) :=
      List.map_congr_left fun i _ => by simp only [Function.comp_apply]; congr 3; omega
    have hval : leNat (memRead m a (4 * (n + 1))) = leNat (memRead m a 4) + 2 ^ 32 * leNat (memRead m (a + 4) (4 * n)) := by
      rw [show 4 * (n + 1) = 4 + 4 * n by omega, memRead_append, leNat_append, length_memRead]
      norm_num
    rw [hval, toWords, List.range_succ_eq_map, List.map_cons, List.map_map, hrest, Nat.add_mul_div_left _ _ (by decide), Nat.div_eq_of_lt hlt, Nat.zero_add,
      ih (a + 4)]
    congr 1
    apply BitVec.eq_of_toNat_eq
    simp [Nat.add_mul_mod_self_left]

/-! Values -/

theorem mmaK_eq (t : Ty) : mmaK t = depthOf t := by cases t <;> rfl
theorem mmaC_eq (t : Ty) : mmaC t = boxOf t := by cases t <;> rfl

theorem matVal_eq (t : Ty) (bits : Nat) : matVal t bits = inputOf t bits := by
  unfold matVal inputOf
  split
  · have h : Ty.s8.val (BitVec.ofNat 64 bits) = (BitVec.ofNat 8 bits).toInt := by
      have hb : Ty.s8.bits = 8 := rfl
      have hs : Ty.s8.isSigned = true := rfl
      rw [Ty.val, BitVec.toInt_eq_toNat_cond, hb, hs, BitVec.toNat_ofNat, BitVec.toNat_ofNat]
      simp only [Bool.true_and, decide_eq_true_eq]
      have hm : bits % 2 ^ 64 % 2 ^ 8 = bits % 2 ^ 8 := by omega
      rw [hm]
      split <;> split <;> omega
    rw [h]
  · rfl

theorem container_eq (t : Ty) (regs : List Word) (κ : Nat) : matVal t (container regs (mmaC t) κ) = boxedAt t regs κ := by
  rw [matVal_eq, mmaC_eq]; rfl

theorem fragLine_eq (t : Ty) (m64 : Bool) (regs : List (List Word)) (scr : Option (List Word)) (lo i : Nat) :
    fragLine t m64 regs scr lo i = mmaInputs t m64 regs scr lo i := by
  unfold fragLine mmaInputs
  dsimp only
  rw [mmaK_eq]
  refine List.map_congr_left fun k _ => ?_
  rw [container_eq]
  cases m64 <;> rfl

theorem blockLine_eq (t : Ty) (regs : List (List Word)) (scr : Option (List (List Word))) (which p i : Nat) :
    blockLine t regs (scr.map (fun l => l.map (fun ws => ws.getD which 0))) p i = mmabInputs t regs scr which p i := by
  unfold blockLine mmabInputs
  dsimp only
  rw [mmaK_eq]
  refine List.map_congr_left fun k _ => ?_
  rw [container_eq]
  cases scr with
  | none => rfl
  | some l =>
    have : (l.map (fun ws => ws.getD which 0)).getD (4 * p + i / 4) 0 = (l.getD (4 * p + i / 4) []).getD which 0 := by
      rw [List.getD_eq_getElem?_getD, List.getElem?_map, List.getD_eq_getElem?_getD (l := l)]
      cases l[4 * p + i / 4]? <;> simp
    simp only [Option.map_some, this]

theorem stepRows_eq (t : Ty) (sc : Bool) (bs : List Byte) : stepRows t sc bs = (List.range 64).map (stepInputs t sc bs) := by
  unfold stepRows stepInputs
  dsimp only
  refine List.map_congr_left fun i _ => ?_
  simp only [getD_toArray_eq, leNat_slice, mmaK_eq, matVal_eq]
  rfl

/-! Lines -/

theorem inputOf_s8 (bits : Nat) : inputOf .s8 bits = intFV (BitVec.ofNat 8 bits).toInt := rfl

theorem whole_inputOf_s8 (bits : Nat) : (inputOf .s8 bits).Whole := ⟨_, _, rfl⟩

/-- Lines that a function gives, each of the type's depth. -/
theorem linesFit_range {t : Ty} {n : Nat} (hn : n ≠ 0) {f : Nat → List FV} (hlen : ∀ i, (f i).length = depthOf t)
    (hw : t = .s8 → ∀ i, ∀ v ∈ f i, v.Whole) : LinesFit (t == .s8) (depthOf t) ((List.range n).map f) where
  length l hl := by obtain ⟨i, _, rfl⟩ := List.mem_map.1 hl; exact hlen i
  ne := by simpa using hn
  whole hi l hl := by obtain ⟨i, _, rfl⟩ := List.mem_map.1 hl; exact hw (by simpa using hi) i

end Sys2Proof.Machine
end

section
/-! Products accumulated by `mma`, `mmab` and a K-step of `mloop` (07 R154, R155, R160, 04 R95). -/

namespace Sys2Proof.Machine

/-! The lines of each command -/

/-- Scaled types: a command with scales has no s8 inputs (07 R151). -/
theorem not_s8_of_scaled {t : Ty} {sc : Bool} {ts : List Ty} (h : sc = true → t ∈ ts) (hs : Ty.s8 ∉ ts) (ht : t = .s8) : sc = false := by
  subst ht
  exact Bool.eq_false_of_not_eq_true fun hsc => hs (h hsc)

theorem linesFit_mma {t : Ty} {n : Nat} (hn : n ≠ 0) (m64 : Bool) (regs : List (List Word)) {scr : Option (List Word)} (lo : Nat) (hs : t = .s8 → scr = none) :
    LinesFit (t == .s8) (depthOf t) ((List.range n).map (mmaInputs t m64 regs scr lo)) := by
  refine linesFit_range hn (fun i => by simp [mmaInputs]) fun ht i v hv => ?_
  subst ht
  rw [hs rfl] at hv
  obtain ⟨k, _, rfl⟩ := List.mem_map.1 hv
  exact whole_inputOf_s8 _

theorem linesFit_mmab {t : Ty} {n : Nat} (hn : n ≠ 0) (regs : List (List Word)) {scr : Option (List (List Word))} (which p : Nat) (hs : t = .s8 → scr = none) :
    LinesFit (t == .s8) (depthOf t) ((List.range n).map (mmabInputs t regs scr which p)) := by
  refine linesFit_range hn (fun i => by simp [mmabInputs]) fun ht i v hv => ?_
  subst ht
  rw [hs rfl] at hv
  obtain ⟨k, _, rfl⟩ := List.mem_map.1 hv
  exact whole_inputOf_s8 _

theorem linesFit_step {t : Ty} {n : Nat} (hn : n ≠ 0) {sc : Bool} (bs : List Byte) (hs : t = .s8 → sc = false) :
    LinesFit (t == .s8) (depthOf t) ((List.range n).map (stepInputs t sc bs)) := by
  refine linesFit_range hn (fun i => by simp [stepInputs]) fun ht i v hv => ?_
  subst ht
  rw [hs rfl] at hv
  obtain ⟨k, _, rfl⟩ := List.mem_map.1 hv
  exact whole_inputOf_s8 _

/-! Accumulation in a tile -/

theorem Tile.sheet_ofSheet (t : Tile) {x : Sheet} (h : x.n = 64) : (t.ofSheet x).sheet = x := by
  cases x
  obtain rfl : _ = 64 := h
  rfl

theorem Tile.asKind_of_fits {t : Tile} {ty : Ty} (h : t.fits ty) : t.asKind (ty == .s8) = t := if_pos h.2.2.2

theorem Tile.asKind_int (t : Tile) (int : Bool) : (t.asKind int).int = int := by
  unfold Tile.asKind
  split
  next h => exact h
  · rfl

theorem Tile.asKind_words (t : Tile) (int : Bool) : (t.asKind int).words = t.words := by
  unfold Tile.asKind
  split <;> rfl

section
variable {t : Tile} {ty : Ty} (h : t.fits ty) (r0 c0 : Nat) {rows cols : List (List FV)} (k : Nat)
include h

theorem Tile.sheet_accumulate : (t.accumulate ty r0 c0 rows cols k).sheet = t.sheet.chunks r0 c0 rows cols k := by
  have hn : (t.sheet.chunks r0 c0 rows cols k).n = 64 := (Sheet.chunksTo_shaped (Tile.fits_shaped h) r0 c0 rows cols ((k + 15) / 16)).2.1
  unfold Tile.accumulate
  rw [Tile.asKind_of_fits h]
  exact Tile.sheet_ofSheet t hn

theorem Tile.accumulate_fits : (t.accumulate ty r0 c0 rows cols k).fits ty := by
  obtain ⟨hs, hn, hi⟩ := Sheet.chunksTo_shaped (Tile.fits_shaped h) r0 c0 rows cols ((k + 15) / 16)
  rw [← Sheet.chunks_eq, ← Tile.sheet_accumulate h] at hs hn hi
  exact ⟨hs.words, hs.hem, hs.cuff, hi.trans h.2.2.2⟩

/-- A command's products accumulated into a tile of its kind. -/
theorem Tile.accumulate_chunks (hr : LinesFit (ty == .s8) (depthOf ty) rows) (hc : LinesFit (ty == .s8) (depthOf ty) cols) :
    Chunks r0 c0 rows cols k t.sheet (t.accumulate ty r0 c0 rows cols k).sheet := by
  rw [Tile.sheet_accumulate h]
  have hi : t.sheet.int = (ty == .s8) := h.2.2.2
  exact Sheet.chunks_steps (hi ▸ hr) (hi ▸ hc) (Tile.fits_shaped h) k

end

/-! The sixteen products of an `mmab` -/

/-- The tile after the first `p` products. -/
def Tile.blocksTo (t : Tile) (ty : Ty) (rows cols : Nat → List (List FV)) (p : Nat) : Tile :=
  (List.range p).foldl (fun t p => t.accumulate ty (16 * (p / 4)) (16 * (p % 4)) (rows p) (cols p) (depthOf ty)) t

theorem Tile.blocksTo_succ (t : Tile) (ty : Ty) (rows cols : Nat → List (List FV)) (p : Nat) :
    t.blocksTo ty rows cols (p + 1) = (t.blocksTo ty rows cols p).accumulate ty (16 * (p / 4)) (16 * (p % 4)) (rows p) (cols p) (depthOf ty) := by
  rw [Tile.blocksTo, List.range_succ, List.foldl_append]; rfl

theorem Tile.blocksTo_fits {t : Tile} {ty : Ty} (h : t.fits ty) (rows cols : Nat → List (List FV)) (p : Nat) : (t.blocksTo ty rows cols p).fits ty := by
  induction p with
  | zero => exact h
  | succ p ih => rw [Tile.blocksTo_succ]; exact Tile.accumulate_fits ih _ _ _

theorem Tile.mmab_eq (t : Tile) (ty : Ty) (a b : List (List Word)) (scr : Option (List (List Word))) :
    t.mmab ty a b scr = (t.blocksTo ty (fun p => (List.range 16).map (mmabInputs ty a scr 0 p)) (fun p => (List.range 16).map (mmabInputs ty b scr 1 p)) 16).open' := by
  have ha := fun p => funext fun i => blockLine_eq ty a scr 0 p i
  have hb := fun p => funext fun i => blockLine_eq ty b scr 1 p i
  simp only [Tile.mmab, Tile.blocksTo, mmaK_eq, ha, hb]

/-! s8 products -/

theorem sum_zipWith_range (n : Nat) (f f' : Nat → Int) :
    (List.zipWith (· * ·) ((List.range n).map f) ((List.range n).map f')).sum = ((List.range n).map (fun q => f q * f' q)).sum := by
  rw [List.zipWith_map, List.zipWith_self]

/-- The words of an s8 product of depth 32, whose inputs stand as `fa` and `fb`. -/
theorem Sheet.word_chunks_s8 {x : Sheet} (hi : x.int = true) (hx : x.words.length = x.n * x.n) {rows cols : List (List FV)}
    (hr : rows.length = x.n) (hc : cols.length = x.n) {i j : Nat} (hin : i < x.n) (hjn : j < x.n) {fa fb : Nat → Int}
    (ha : rows.getD i [] = (List.range 32).map (fun q => intFV (fa q))) (hb : cols.getD j [] = (List.range 32).map (fun q => intFV (fb q))) :
    (x.chunks 0 0 rows cols 32).words.getD (x.n * i + j) 0 =
      x.words.getD (x.n * i + j) 0 + BitVec.ofInt 32 (((List.range 32).map (fun q => fa q * fb q)).sum) := by
  obtain ⟨_, _, _, hword⟩ := Sheet.word_chunksTo_int hi hx hr hc hin hjn (a := (List.range 32).map fa) (b := (List.range 32).map fb)
    (by rw [ha, List.map_map]; rfl) (by rw [hb, List.map_map]; rfl) 2
  rw [Sheet.chunks_eq]
  refine hword.trans ?_
  rw [List.take_of_length_le (by simp), List.take_of_length_le (by simp), sum_zipWith_range]

end Sys2Proof.Machine
end

section
/-! The accumulator of an `mma` and its fragment status (07 R152–R154, 08 R173). -/

namespace Sys2Proof.Machine

/-! The status word -/

theorem toNat_append_add {n m : Nat} (x : BitVec n) (y : BitVec m) : (x ++ y).toNat = x.toNat * 2 ^ m + y.toNat := by
  rw [BitVec.toNat_append, ← Nat.shiftLeft_add_eq_or_of_lt y.isLt, Nat.shiftLeft_eq]

/-- The fragment status of a drain (08 R173). -/
def fragStatus (d : Drain) : Word := BitVec.ofNat 4 d.stat ++ 0#5 ++ 1#1 ++ BitVec.ofNat 7 d.ncol ++ BitVec.ofNat 7 d.nrow ++ 0#8

/-- Its fields, as a number. -/
theorem fragStatus_eq {d : Drain} (hc : d.ncol < 128) (hr : d.nrow < 128) :
    fragStatus d = BitVec.ofNat 32 (d.stat * 2 ^ 28 + 2 ^ 22 + d.ncol * 2 ^ 15 + d.nrow * 2 ^ 8) := by
  apply BitVec.eq_of_toNat_eq
  unfold fragStatus
  rw [toNat_append_add, toNat_append_add, toNat_append_add, toNat_append_add, toNat_append_add]
  simp only [BitVec.toNat_ofNat]
  omega

theorem DrainOf.counts_le {x : Sheet} {tol : Word} {poison : Bool} {d : Drain} (h : DrainOf x tol poison d) : d.ncol ≤ x.n ∧ d.nrow ≤ x.n := by
  have hlen : ∀ p : Nat → Bool, ((List.range x.n).filter p).length ≤ x.n := fun p => (List.length_filter_le _ _).trans (by simp)
  rw [drainOf_def] at h
  split at h
  · obtain ⟨_, h1, h2⟩ := h; omega
  · split at h
    · obtain ⟨_, h1, h2⟩ := h; omega
    · obtain ⟨h1, h2, _⟩ := h
      rw [h1, h2]
      exact ⟨hlen _, hlen _⟩

/-! Fragments -/

/-- The side of an `mma`'s square. -/
def mmaSide (m64 : Bool) : Nat := if m64 then 64 else 32

theorem mmaSide_pos (m64 : Bool) : mmaSide m64 ≠ 0 := by cases m64 <;> decide

/-- The accumulator as the fragment C holds it. -/
def mmaStart (t : Ty) (m64 zero : Bool) (cc : List (List Word)) : Sheet :=
  { n := mmaSide m64, int := t == .s8, mag := 0, hem := List.replicate (mmaSide m64) 0, cuff := List.replicate (mmaSide m64) 0
    words := (List.range (mmaSide m64 * mmaSide m64)).map (fun q =>
      if zero then 0 else (cc.getD (accPlace m64 (q / mmaSide m64) (q % mmaSide m64)).1 []).getD (accPlace m64 (q / mmaSide m64) (q % mmaSide m64)).2 0) }

/-- The accumulator with the mantle that an `mma` starts from. -/
def mmaSeeded (t : Ty) (m64 zero : Bool) (cc : List (List Word)) : Sheet :=
  if zero then mmaStart t m64 zero cc else (mmaStart t m64 zero cc).seed (t == .s8)

theorem mmaStart_shaped (t : Ty) (m64 zero : Bool) (cc : List (List Word)) : (mmaStart t m64 zero cc).Shaped :=
  ⟨by simp [mmaStart], by simp [mmaStart], by simp [mmaStart]⟩

theorem Sheet.seed_shaped {x : Sheet} (hx : x.words.length = x.n * x.n) (int : Bool) : (x.seed int).Shaped :=
  ⟨hx, by simp [Sheet.seed], by simp [Sheet.seed]⟩

section
variable (t : Ty) (m64 zero : Bool) (cc : List (List Word))

theorem mmaSeeded_shaped : (mmaSeeded t m64 zero cc).Shaped := by
  unfold mmaSeeded
  split
  · exact mmaStart_shaped ..
  · exact Sheet.seed_shaped (mmaStart_shaped ..).words _

theorem mmaSeeded_n : (mmaSeeded t m64 zero cc).n = mmaSide m64 := by unfold mmaSeeded; split <;> rfl
theorem mmaSeeded_int : (mmaSeeded t m64 zero cc).int = (t == .s8) := by unfold mmaSeeded; split <;> rfl
theorem mmaSeeded_words : (mmaSeeded t m64 zero cc).words = (mmaStart t m64 zero cc).words := by unfold mmaSeeded; split <;> rfl

theorem mmaSeeded_seeds : if zero then mmaSeeded t m64 zero cc = mmaStart t m64 zero cc else Seeds (t == .s8) (mmaStart t m64 zero cc) (mmaSeeded t m64 zero cc) := by
  unfold mmaSeeded
  split
  · rfl
  · exact Sheet.seed_seeds (mmaStart_shaped ..).words (mmaSide_pos m64) _

variable (a b : List (List Word)) (scr : Option (List Word))

theorem mmaSheet_eq : mmaSheet t m64 zero a b cc scr = (mmaSeeded t m64 zero cc).chunks 0 0 ((List.range (mmaSide m64)).map (mmaInputs t m64 a scr 0))
    ((List.range (mmaSide m64)).map (mmaInputs t m64 b scr 2)) (depthOf t) := by
  have hfrag : ∀ (regs : List (List Word)) (lo : Nat), (fun i => fragLine t m64 regs scr lo i) = mmaInputs t m64 regs scr lo :=
    fun regs lo => funext fun i => fragLine_eq t m64 regs scr lo i
  unfold mmaSheet mmaSeeded mmaStart
  dsimp only
  simp only [mmaK_eq, hfrag, getD_toArray_eq]
  rfl

theorem mmaSheet_shaped : (mmaSheet t m64 zero a b cc scr).Shaped ∧ (mmaSheet t m64 zero a b cc scr).n = mmaSide m64 := by
  rw [mmaSheet_eq]
  obtain ⟨hs, hn, _⟩ := Sheet.chunksTo_shaped (mmaSeeded_shaped t m64 zero cc) 0 0 ((List.range (mmaSide m64)).map (mmaInputs t m64 a scr 0))
    ((List.range (mmaSide m64)).map (mmaInputs t m64 b scr 2)) ((depthOf t + 15) / 16)
  exact ⟨hs, hn.trans (mmaSeeded_n ..)⟩

theorem mmaSheet_chunks (hs : t = .s8 → scr = none) : Chunks 0 0 ((List.range (mmaSide m64)).map (mmaInputs t m64 a scr 0))
    ((List.range (mmaSide m64)).map (mmaInputs t m64 b scr 2)) (depthOf t) (mmaSeeded t m64 zero cc) (mmaSheet t m64 zero a b cc scr) := by
  have hi := mmaSeeded_int t m64 zero cc
  rw [mmaSheet_eq]
  exact Sheet.chunks_steps (hi ▸ linesFit_mma (mmaSide_pos m64) m64 a 0 hs) (hi ▸ linesFit_mma (mmaSide_pos m64) m64 b 2 hs) (mmaSeeded_shaped ..) _

end

/-- Element (i, j) in the result fragment (07 R152). -/
theorem mmaOut_place {x : Sheet} {m64 : Bool} (hn : x.n = mmaSide m64) (hx : x.words.length = x.n * x.n) {i j : Nat} (hi : i < mmaSide m64) (hj : j < mmaSide m64) :
    (mmaOut x m64 (accPlace m64 i j).1).getD (accPlace m64 i j).2 0 = x.words.getD (mmaSide m64 * i + j) 0 := by
  have hrow : ∀ k, k < mmaSide m64 → (x.row i).getD k 0 = x.words.getD (mmaSide m64 * i + k) 0 := by
    intro k hk
    rw [Sheet.row_eq hx (hn ▸ hi), hn, getD_map_range _ hk]
  rw [← hrow j hj]
  cases m64 with
  | true => rfl
  | false =>
    have hi : i < 32 := hi
    have hj : j < 32 := hj
    have hlane : (i + 32 * (j / 16)) % 32 = i := by omega
    have hhalf : (i + 32 * (j / 16)) / 32 = j / 16 := by omega
    simp only [mmaOut, accPlace, Bool.false_eq_true, if_false, hlane, hhalf]
    rw [List.getD_eq_getElem?_getD, List.getElem?_take_of_lt (by omega), List.getElem?_drop, Nat.div_add_mod, ← List.getD_eq_getElem?_getD]

/-- The lanes and registers of a fragment, as rows and columns. -/
theorem accPlace_of_lane {m64 : Bool} {l n : Nat} (hl : l < 64) (hn : n < if m64 then 64 else 16) :
    let i := if m64 then l else l % 32
    let j := if m64 then n else 16 * (l / 32) + n
    i < mmaSide m64 ∧ j < mmaSide m64 ∧ accPlace m64 i j = (l, n) := by
  cases m64 with
  | true => exact ⟨hl, hn, rfl⟩
  | false =>
    have hn : n < 16 := hn
    simp only [Bool.false_eq_true, if_false, mmaSide, accPlace, Prod.mk.injEq]
    omega

/-- The element of a fragment that an s8 `mma` starts from. -/
theorem mmaSeeded_word {t : Ty} {m64 zero : Bool} {cc : List (List Word)} {i j : Nat} (hi : i < mmaSide m64) (hj : j < mmaSide m64) :
    (mmaSeeded t m64 zero cc).words.getD (mmaSide m64 * i + j) 0 = if zero then 0 else (cc.getD (accPlace m64 i j).1 []).getD (accPlace m64 i j).2 0 := by
  rw [mmaSeeded_words]
  refine (getD_map_range _ (Sheet.place_lt hi hj) 0).trans ?_
  rw [Sheet.place_div hj, Sheet.place_mod hj]

/-- An input of an s8 fragment (07 R151, R152). -/
def fragByte (m64 : Bool) (rs : List (List Word)) (r q : Nat) : Int :=
  let (w, b) := if m64 then (r, q) else (r + 32 * (q / 16), q % 16)
  (((rs.getD w []).getD (b / 4) 0).extractLsb' (8 * (b % 4)) 8).toInt

theorem mmaInputs_s8 (m64 : Bool) (regs : List (List Word)) (lo i : Nat) :
    mmaInputs .s8 m64 regs none lo i = (List.range 32).map (fun q => intFV (fragByte m64 regs i q)) := by
  have hbyte : ∀ (w : Word) (s : Nat), BitVec.ofNat 8 (w.toNat / 2 ^ s % 2 ^ 8) = w.extractLsb' s 8 := fun w s => by
    apply BitVec.eq_of_toNat_eq
    rw [BitVec.toNat_ofNat, BitVec.extractLsb'_toNat, Nat.mod_mod, Nat.shiftRight_eq_div_pow]
  refine List.map_congr_left fun q _ => ?_
  simp only [boxedAt, inputOf_s8, fragByte]
  cases m64 <;> exact congrArg (fun v : Byte => intFV v.toInt) (hbyte _ _)

/-- The elements of an s8 `mma` (04 R95). -/
theorem mmaOut_s8 (m64 zero : Bool) (a b cc : List (List Word)) {l n : Nat} (hl : l < 64) (hn : n < if m64 then 64 else 16) :
    let i := if m64 then l else l % 32
    let j := if m64 then n else 16 * (l / 32) + n
    (mmaOut (mmaSheet .s8 m64 zero a b cc none) m64 l).getD n 0 = (if zero then 0 else (cc.getD l []).getD n 0) +
      BitVec.ofInt 32 (((List.range 32).map (fun q => fragByte m64 a i q * fragByte m64 b j q)).sum) := by
  intro i j
  obtain ⟨hi, hj, hplace⟩ := accPlace_of_lane hl hn
  obtain ⟨hs, hside⟩ := mmaSheet_shaped .s8 m64 zero cc a b none
  have hout := mmaOut_place hside hs.words hi hj
  have hseed := mmaSeeded_shaped .s8 m64 zero cc
  have hsn := mmaSeeded_n .s8 m64 zero cc
  have hword := Sheet.word_chunks_s8 (mmaSeeded_int .s8 m64 zero cc) hseed.words
    (rows := (List.range (mmaSide m64)).map (mmaInputs .s8 m64 a none 0)) (cols := (List.range (mmaSide m64)).map (mmaInputs .s8 m64 b none 2))
    (by simp [hsn]) (by simp [hsn]) (hsn ▸ hi) (hsn ▸ hj) ((getD_map_range _ hi _).trans (mmaInputs_s8 m64 a 0 _)) ((getD_map_range _ hj _).trans (mmaInputs_s8 m64 b 2 _))
  rw [hplace, mmaSheet_eq] at hout
  rw [hsn, mmaSeeded_word hi hj, hplace] at hword
  rw [mmaSheet_eq]
  exact hout.trans hword

end Sys2Proof.Machine
end

section
/-! What the start of a matrix command changes: tiles, queues and results (07 R146, R154–R157). -/

namespace Sys2Proof.Machine

open Host (Outcome)

/-! Tiles -/

section
variable (s : State) (k : Nat) {n : Nat} (f : Tile → Tile)

theorem State.tile_modTile_self (h : n < (s.core k).tiles.length) : (s.modTile k n f).tile k n = f (s.tile k n) := by
  unfold State.tile State.modTile
  rw [State.core_modCore_self]
  dsimp only
  rw [getD_lmod, if_pos ⟨rfl, h⟩]

theorem State.tile_modTile_of_ne {m : Nat} (h : m ≠ n) : (s.modTile k n f).tile k m = s.tile k m := by
  unfold State.tile State.modTile
  rw [State.core_modCore_self]
  dsimp only
  rw [getD_lmod, if_neg fun e => h e.1.symm]

theorem State.eq_modTile : ((s.modTile k n f).core k).eq = (s.core k).eq := by
  rw [State.modTile, State.core_modCore_self]

end

@[simp] theorem State.countDrain_cores (s : State) (pid stat : Nat) : (s.countDrain pid stat).cores = s.cores := by unfold State.countDrain; split <;> rfl
@[simp] theorem State.countDrain_groups (s : State) (pid stat : Nat) : (s.countDrain pid stat).groups = s.groups := by unfold State.countDrain; split <;> rfl

theorem State.core_of_cores {s t : State} (h : t.cores = s.cores) (k : Nat) : t.core k = s.core k := by rw [State.core, h]; rfl
theorem State.tile_of_cores {s t : State} (h : t.cores = s.cores) (k n : Nat) : t.tile k n = s.tile k n := by rw [State.tile, State.core_of_cores h]; rfl

/-- A tile that a drain has changed, whatever is counted. -/
theorem State.tile_drainTile (s : State) (pid k : Nat) {n : Nat} (h : n < (s.core k).tiles.length) :
    (s.drainTile pid k n).tile k n = (s.tile k n).drainWith ((s.part pid).tolOf (s.tile k n).tolTy) := by
  unfold State.drainTile
  dsimp only
  rw [State.tile_of_cores (State.countDrain_cores ..), State.tile_modTile_self _ _ _ h]

theorem State.eq_drainTile (s : State) (pid k n : Nat) : ((s.drainTile pid k n).core k).eq = (s.core k).eq := by
  unfold State.drainTile
  dsimp only
  rw [State.core_of_cores (State.countDrain_cores ..), State.eq_modTile]

theorem State.groups_drainTile (s : State) (pid k n : Nat) : (s.drainTile pid k n).groups = s.groups := State.countDrain_groups ..

/-! Results -/

theorem State.engineResult_cores (s : State) (c : ECmd) (due : Nat) (f : Nat → List Word) : (s.engineResult c due f).cores = s.cores := rfl

/-- The group with a result's values and turn given. -/
def Group.resolve (g : Group) (seq due : Nat) (res : List LRes) : Group :=
  let filled := g.pend.map (fun p => if p.seq == seq then { p with res := res } else p)
  { g with pend := filled.map (fun p => if p.seq == seq then { p with due := due } else p) }

theorem State.tget_engineResult {u : State} {c : ECmd} {h : Group} (hu : tget u.groups c.gid = some h) (due : Nat) (f : Nat → List Word) :
    tget (u.engineResult c due f).groups c.gid = some (h.resolve c.seq due ((lanesOf c.sel).map (fun l => { lane := l, ws := f l }))) :=
  State.tget_modGroup (State.tget_modGroup hu)

/-- A result given to a command stands in its group with its values and its turn. -/
theorem resolves_engineResult {s u : State} {c : ECmd} {h : Group} (hu : tget u.groups c.gid = some h) (hp : h.pend = (s.group c.gid).pend)
    (due : Nat) (f : Nat → List Word) {t : State} (ht : t.groups = (u.engineResult c due f).groups) :
    Resolves c.gid c.seq due ((lanesOf c.sel).map (fun l => { lane := l, ws := f l })) s t := by
  have hg := State.tget_engineResult hu due f
  rw [← ht] at hg
  rw [Resolves, State.group_of_tget hg]
  simp only [Group.resolve, hp, List.map_map]
  refine List.map_congr_left fun p _ => ?_
  by_cases hs : p.seq = c.seq <;> simp [hs]

/-! The start -/

/-- The command started in this turn. -/
def State.startOf (s : State) (k : Nat) (c c' : ECmd) : ECmd :=
  { c' with
    start := some s.turn
    occ := s.occOf k c
    drained := match c'.kind with
      | .mloop .. => true
      | _ => c'.drained }

/-- The head of the queue started, from the state `u` that the command's effect at its start has left. -/
def State.started (u s : State) (k : Nat) (c : ECmd) : State :=
  (u.modHead k (s.startOf k c)).modCore k
    (fun q => { q with drain := s.drainRun k c })

theorem exec_engineCommandStart {s : State} {k : Nat} {c : ECmd} {rest : List ECmd} (he : (s.core k).eq = c :: rest) (hs : c.start = none) :
    exec (.engineCommandStart k) s = .next ((s.startCommand k c).started s k c) := by
  change execEngineCommandStart k s = _
  unfold execEngineCommandStart
  rw [he]
  simp only [hs, Option.isSome_none, Bool.false_eq_true, if_false]
  rfl

theorem State.started_groups (u s : State) (k : Nat) (c : ECmd) : (u.started s k c).groups = u.groups := rfl
theorem State.started_parts (u s : State) (k : Nat) (c : ECmd) : (u.started s k c).parts = u.parts := rfl

theorem State.started_core (u s : State) (k : Nat) (c : ECmd) : (u.started s k c).core k =
    { u.core k with
      eq := lmod (u.core k).eq 0 (s.startOf k c)
      drain := s.drainRun k c } := by
  rw [State.started, State.core_modCore_self, State.modHead, State.core_modCore_self]

theorem State.started_tile (u s : State) (k : Nat) (c : ECmd) (n : Nat) : (u.started s k c).tile k n = u.tile k n := by
  rw [State.tile, State.started_core]; rfl

/-- A command's effect at its start leaves the queue as it is. -/
theorem State.eq_startCommand (s : State) (k : Nat) (c : ECmd) : ((s.startCommand k c).core k).eq = (s.core k).eq := by
  unfold State.startCommand
  dsimp only
  split
  · exact congrArg Core.eq (State.core_of_cores (State.countDrain_cores ..) k)
  · exact State.eq_modTile ..
  · exact State.eq_modTile ..
  · exact State.eq_modTile ..
  · split
    · exact State.eq_drainTile ..
    · rfl
  · split
    · exact State.eq_drainTile ..
    · rfl
  · rfl
  · rfl
  · refine (congrArg Core.eq (State.core_of_cores (State.countDrain_cores ..) k)).trans ?_
    exact State.eq_modTile ..
  · split
    · rfl
    · exact State.eq_modTile ..
  · rfl
  · exact State.eq_modTile ..

theorem State.started_eq {s : State} {k : Nat} {c : ECmd} {rest : List ECmd} (he : (s.core k).eq = c :: rest) :
    ∃ c', (((s.startCommand k c).started s k c).core k).eq = c' :: rest ∧ c'.start = some s.turn ∧ c'.ident = c.ident ∧ c'.kind = c.kind ∧ c'.steps = c.steps := by
  rw [State.started_core]
  dsimp only
  rw [State.eq_startCommand, he]
  exact ⟨_, rfl, rfl, rfl, rfl, rfl⟩

end Sys2Proof.Machine
end

section
/-! ENGINE_COMMAND_START, command by command (07 R154–R160, 08 R173, R176, 16 R377). -/

namespace Sys2Proof.Machine

section
variable {s : State} {k : Nat} {c : ECmd} {g : Group} (hg : tget s.groups c.gid = some g) (h8 : (s.core k).tiles.length = 8)

/-- The state after the start. -/
abbrev State.afterStart (s : State) (k : Nat) (c : ECmd) : State := (s.startCommand k c).started s k c

theorem State.afterStart_tile (s : State) (k : Nat) (c : ECmd) (n : Nat) : (s.afterStart k c).tile k n = (s.startCommand k c).tile k n := State.started_tile ..

/-- The tolerance that a drain of tile `n` is held to. -/
abbrev State.tolFor (s : State) (g : Group) (k n : Nat) : Word := (s.part g.pid).tolOf (s.tile k n).tolTy

/-! Products -/

section
include hg

theorem start_mma {ty : Ty} {m64 sc zero : Bool} {a b cc : List (List Word)} {scr : List Word} (hk : c.kind = .mma ty m64 sc zero a b cc scr) :
    let t := s.afterStart k c
    let scales := if sc then some scr else none
    ∃ f : Nat → List Word, Resolves c.gid c.seq (s.turn + if m64 then 5 else 4) ((lanesOf c.sel).map (fun l => { lane := l, ws := f l })) s t ∧
      (ty = .s8 → sc = false → ∀ l n, l < 64 → n < (if m64 then 64 else 16) →
        let i := if m64 then l else l % 32
        let j := if m64 then n else 16 * (l / 32) + n
        (f l).getD n 0 = (if zero then 0 else (cc.getD l []).getD n 0) +
          BitVec.ofInt 32 (((List.range 32).map (fun q => fragByte m64 a i q * fragByte m64 b j q)).sum)) ∧
      ((ty = .s8 → sc = false) → ∃ x y d,
        (if zero then x = mmaStart ty m64 zero cc else Seeds (ty == .s8) (mmaStart ty m64 zero cc) x) ∧
        Chunks 0 0 ((List.range (mmaSide m64)).map (mmaInputs ty m64 a scales 0)) ((List.range (mmaSide m64)).map (mmaInputs ty m64 b scales 2)) (depthOf ty) x y ∧
        (∀ i j, i < mmaSide m64 → j < mmaSide m64 → (f (accPlace m64 i j).1).getD (accPlace m64 i j).2 0 = y.words.getD (mmaSide m64 * i + j) 0) ∧
        DrainOf y ((s.part g.pid).tolOf ty) false d ∧
        (t.group c.gid).frag = BitVec.ofNat 32 (d.stat * 2 ^ 28 + 2 ^ 22 + d.ncol * 2 ^ 15 + d.nrow * 2 ^ 8)) := by
  intro t scales
  obtain ⟨hshape, hside⟩ := mmaSheet_shaped ty m64 zero cc a b scales
  have hdrain := Sheet.drain_spec hshape ((s.part g.pid).tolOf ty) false
  obtain ⟨hcol, hrow⟩ := hdrain.counts_le
  have hsmall : mmaSide m64 < 128 := by cases m64 <;> decide
  have hpid : (s.group c.gid).pid = g.pid := by rw [State.group_of_tget hg]
  have hst : ∃ u : State, t.groups = (u.engineResult c (s.turn + if m64 then 5 else 4) (mmaOut (mmaSheet ty m64 zero a b cc scales) m64)).groups ∧
      tget u.groups c.gid = some { g with frag := fragStatus ((mmaSheet ty m64 zero a b cc scales).drain ((s.part g.pid).tolOf ty) false) } := by
    refine ⟨_, by simp only [t, State.started_groups, State.startCommand, hk, hpid]; rfl, ?_⟩
    rw [State.countDrain_groups]
    exact State.tget_modGroup hg
  obtain ⟨u, hgroups, hu⟩ := hst
  refine ⟨mmaOut (mmaSheet ty m64 zero a b cc scales) m64, resolves_engineResult hu (by rw [State.group_of_tget hg]) _ _ hgroups, fun ht hsc l n hl hn => ?_,
    fun hsc => ⟨_, _, _, mmaSeeded_seeds ty m64 zero cc, mmaSheet_chunks ty m64 zero cc a b scales fun ht => ?_,
      fun i j hi hj => mmaOut_place hside hshape.words hi hj, hdrain, ?_⟩⟩
  · subst ht
    have : scales = none := by simp [scales, hsc]
    rw [this]
    exact mmaOut_s8 m64 zero a b cc hl hn
  · simp [scales, hsc ht]
  · have hgt := State.tget_engineResult hu (s.turn + if m64 then 5 else 4) (mmaOut (mmaSheet ty m64 zero a b cc scales) m64)
    rw [← hgroups] at hgt
    rw [State.group_of_tget hgt]
    exact fragStatus_eq (by omega) (by omega)

end

theorem Tile.st_open (t : Tile) : t.open'.st = .open_ := rfl
theorem Tile.stat_open (t : Tile) : t.open'.stat = 5 := rfl
theorem Tile.sheet_open (t : Tile) : t.open'.sheet = t.sheet := rfl

include h8 in
theorem start_mmab {ty : Ty} {n : Nat} {sc : Bool} {a b : List (List Word)} {scr : List (List Word)} (hk : c.kind = .mmab ty n sc a b scr) (hn : n < 8) :
    let t := s.afterStart k c
    (t.tile k n).st = .open_ ∧ ((s.tile k n).fits ty → (ty = .s8 → sc = false) →
      let lines := fun (regs : List (List Word)) (which p : Nat) => (List.range 16).map (mmabInputs ty regs (if sc then some scr else none) which p)
      (t.tile k n).stat = 5 ∧ ∃ z : Nat → Sheet, z 0 = (s.tile k n).sheet ∧ z 16 = (t.tile k n).sheet ∧
        ∀ p, p < 16 → Chunks (16 * (p / 4)) (16 * (p % 4)) (lines a 0 p) (lines b 1 p) (depthOf ty) (z p) (z (p + 1))) := by
  intro t
  have ht : t.tile k n = (s.tile k n).mmab ty a b (if sc then some scr else none) := by
    simp only [t, State.afterStart_tile, State.startCommand, hk]
    exact State.tile_modTile_self _ _ _ (h8 ▸ hn)
  rw [ht, Tile.mmab_eq]
  refine ⟨Tile.st_open _, fun hf hs => ⟨Tile.stat_open _, fun p => (Tile.blocksTo (s.tile k n) ty _ _ p).sheet, rfl, (Tile.sheet_open _).symm, fun p _ => ?_⟩⟩
  have hnone : ty = .s8 → (if sc then some scr else none) = none := fun h => by simp [hs h]
  dsimp only
  rw [Tile.blocksTo_succ]
  exact Tile.accumulate_chunks (Tile.blocksTo_fits hf _ _ p) _ _ _ (linesFit_mmab (by decide) a 0 p hnone) (linesFit_mmab (by decide) b 1 p hnone)

/-! Tiles -/

theorem getD_replicate_zero (m i : Nat) : (List.replicate m (0 : Word)).getD i 0 = 0 := by
  rw [List.getD_eq_getElem?_getD, List.getElem?_replicate]
  split <;> rfl

include h8 in
theorem start_mzero {n : Nat} (hk : c.kind = .mzero n) (hn : n < 8) :
    (∀ i, ((s.afterStart k c).tile k n).words.getD i 0 = 0) ∧ ((s.afterStart k c).tile k n).st = .empty := by
  have ht : (s.afterStart k c).tile k n = { (s.tile k n).clear with retry := (s.tile k n).retry } := by
    simp only [State.afterStart_tile, State.startCommand, hk]
    exact State.tile_modTile_self _ _ _ (h8 ▸ hn)
  rw [ht]
  exact ⟨getD_replicate_zero 4096, rfl⟩

include h8 in
theorem start_maccLd {n : Nat} {sp : Space} {a : Nat} (hk : c.kind = .maccLd n sp a) (hn : n < 8) :
    let t := s.afterStart k c
    (t.tile k n).st = .open_ ∧ Seeds (s.tile k n).int (t.tile k n).sheet (t.tile k n).sheet ∧
      ∀ i, i < 4096 → (t.tile k n).words.getD i 0 = BitVec.ofNat 32 (leNat (memRead (s.ram sp).cells (a + 4 * i) 4)) := by
  intro t
  have hws : toWords 4096 ((s.ram sp).nat a 16384) = (List.range 4096).map (fun i => BitVec.ofNat 32 (leNat (memRead (s.ram sp).cells (a + 4 * i) 4))) :=
    toWords_memRead _ 4096 a
  have ht : t.tile k n = ({ s.tile k n with
      words := toWords 4096 ((s.ram sp).nat a 16384), poison := (s.ram sp).poisoned a 16384, retries := 0, tolTy := .bf16 } : Tile).open'.ofSheet
      (({ (s.tile k n).sheet with words := toWords 4096 ((s.ram sp).nat a 16384) } : Sheet).seed (s.tile k n).int) := by
    simp only [t, State.afterStart_tile, State.startCommand, hk]
    exact State.tile_modTile_self _ _ _ (h8 ▸ hn)
  rw [ht]
  generalize hw : toWords 4096 ((s.ram sp).nat a 16384) = ws at *
  have hlen : ws.length = 64 * 64 := by rw [hws]; simp
  refine ⟨rfl, ?_, fun i hi => ?_⟩
  · rw [Tile.sheet_ofSheet _ rfl]
    exact Sheet.seed_seeds (x := { (s.tile k n).sheet with words := ws }) hlen (by decide : (64 : Nat) ≠ 0) _
  · change ws.getD i 0 = _
    rw [hws, getD_map_range _ hi]

include hg h8

/-- `mdrain` and `macc.st` drain an OPEN tile. -/
theorem start_drains {n : Nat} {u : State} (hu : u.tile k n = (if (s.tile k n).st == .open_ then s.drainTile (s.group c.gid).pid k n else s).tile k n)
    (hn : n < 8) :
    if (s.tile k n).st = .open_ then
      ((s.tile k n).fits (if (s.tile k n).int then .s8 else .f16) → Drained (s.tolFor g k n) (s.tile k n) (u.tile k n)) ∧
      (u.tile k n).st = .drained ∧ (u.tile k n).words = (s.tile k n).words
    else u.tile k n = s.tile k n := by
  rw [State.group_of_tget hg] at hu
  split
  next h =>
    rw [if_pos (by simp [h]), State.tile_drainTile _ _ _ (h8 ▸ hn)] at hu
    rw [hu]
    exact ⟨fun hf => Tile.drainWith_drained (Tile.fits_shaped hf) _, rfl, rfl⟩
  next h =>
    rw [if_neg (by simp [h])] at hu
    exact hu

theorem start_mdrain {n : Nat} (hk : c.kind = .mdrain n) (hn : n < 8) :
    let t := s.afterStart k c
    Resolves c.gid c.seq (s.turn + 3) (c.give [(t.tile k n).status n]) s t ∧
      if (s.tile k n).st = .open_ then
        ((s.tile k n).fits (if (s.tile k n).int then .s8 else .f16) → Drained (s.tolFor g k n) (s.tile k n) (t.tile k n)) ∧
        (t.tile k n).st = .drained ∧ (t.tile k n).words = (s.tile k n).words
      else t.tile k n = s.tile k n := by
  intro t
  have htile : t.tile k n = (if (s.tile k n).st == .open_ then s.drainTile (s.group c.gid).pid k n else s).tile k n := by
    simp only [t, State.afterStart_tile, State.startCommand, hk]
    exact State.tile_of_cores rfl k n
  refine ⟨?_, start_drains hg h8 htile hn⟩
  have hu : tget (if (s.tile k n).st == .open_ then s.drainTile (s.group c.gid).pid k n else s).groups c.gid = some g := by
    split
    · rw [State.groups_drainTile]; exact hg
    · exact hg
  refine resolves_engineResult hu (by rw [State.group_of_tget hg]) (s.turn + 3) (fun _ => [(t.tile k n).status n]) ?_
  simp only [t, State.started_groups, State.startCommand, hk]
  rw [← htile]

theorem start_maccSt {n : Nat} {sp : Space} {a : Nat} (hk : c.kind = .maccSt n sp a) (hn : n < 8) :
    let t := s.afterStart k c
    if (s.tile k n).st = .open_ then
      ((s.tile k n).fits (if (s.tile k n).int then .s8 else .f16) → Drained (s.tolFor g k n) (s.tile k n) (t.tile k n)) ∧
      (t.tile k n).st = .drained ∧ (t.tile k n).words = (s.tile k n).words
    else t.tile k n = s.tile k n := by
  intro t
  refine start_drains hg h8 ?_ hn
  simp only [t, State.afterStart_tile, State.startCommand, hk]

theorem start_mfix {n : Nat} (hk : c.kind = .mfix n) (hn : n < 8) :
    let t := s.afterStart k c
    Resolves c.gid c.seq (s.turn + 3) (c.give [(t.tile k n).status n]) s t ∧
      ((s.tile k n).fits (if (s.tile k n).int then .s8 else .f16) → Corrected (s.tolFor g k n) (s.tile k n) (t.tile k n)) := by
  intro t
  have htile : t.tile k n = (s.tile k n).fix (s.tolFor g k n) := by
    simp only [t, State.afterStart_tile, State.startCommand, hk, State.group_of_tget hg]
    rw [State.tile_of_cores (State.engineResult_cores ..), State.tile_of_cores (State.countDrain_cores ..), State.tile_modTile_self _ _ _ (h8 ▸ hn)]
  refine ⟨?_, fun hf => by rw [htile]; exact Tile.fix_corrected (Tile.fits_shaped hf) _⟩
  have hgroups : t.groups = (State.engineResult (State.countDrain (s.modTile k n (fun _ => t.tile k n)) g.pid (if (s.tile k n).stat = 1 then (t.tile k n).stat else 0)) c
      (s.turn + 3) (fun _ => [(t.tile k n).status n])).groups := by
    rw [htile]
    simp only [t, State.started_groups, State.startCommand, hk, State.group_of_tget hg]
  exact resolves_engineResult (by rw [State.countDrain_groups]; exact hg) (by rw [State.group_of_tget hg]) _ _ hgroups

end
end Sys2Proof.Machine
end

section
/-! The commands that read or clear, the start of an `mloop`, and its K-steps (07 R156, R160, R161, 08 R175, R176, 16 R377). -/

namespace Sys2Proof.Machine

section
variable {s : State} {k : Nat} {c : ECmd} {g : Group} (hg : tget s.groups c.gid = some g) (h8 : (s.core k).tiles.length = 8)

include hg in
theorem start_mchk {n : Nat} {frag : Bool} (hk : c.kind = .mchk n frag) :
    Resolves c.gid c.seq (s.turn + 1) (c.give [if frag then g.frag else (s.tile k n).status n]) s (s.afterStart k c) := by
  refine resolves_engineResult hg (by rw [State.group_of_tget hg]) (s.turn + 1) (fun _ => [if frag then g.frag else (s.tile k n).status n]) ?_
  simp only [State.started_groups, State.startCommand, hk, State.group_of_tget hg]

include hg in
theorem start_mloc {n : Nat} (hk : c.kind = .mloc n) :
    Resolves c.gid c.seq (s.turn + 1) (c.give ((s.tile k n).location n)) s (s.afterStart k c) := by
  refine resolves_engineResult hg (by rw [State.group_of_tget hg]) (s.turn + 1) (fun _ => (s.tile k n).location n) ?_
  simp only [State.started_groups, State.startCommand, hk]

include hg in
theorem start_mtol {ty : Ty} {v : Word} (hk : c.kind = .mtol ty v) (hp : g.pid < s.parts.length) :
    ∃ q, ((s.afterStart k c).part g.pid).pend = (s.part g.pid).pend ++ [q] ∧ q.due = s.turn + 8 ∧ q.tick = c.tick ∧ q.write = .tol ty (v &&& 0x3FFF) := by
  have hpart : (s.afterStart k c).part g.pid = (s.startCommand k c).part g.pid := by rw [State.part, State.started_parts]; rfl
  rw [hpart]
  simp only [State.startCommand, hk, State.group_of_tget hg, State.part_modPart hp]
  exact ⟨_, rfl, rfl, rfl, rfl⟩

include h8 in
theorem start_acc {bit n row col : Nat} (hk : c.kind = .acc bit n row col) (hn : n < 8) {i : Nat} (hi : i < (s.tile k n).words.length) :
    ((s.afterStart k c).tile k n).words.getD i 0 =
      if i = 64 * row + col then (s.tile k n).words.getD i 0 ^^^ (1#32 <<< bit) else (s.tile k n).words.getD i 0 := by
  have ht : ((s.afterStart k c).tile k n).words = lmod (s.tile k n).words (64 * row + col) (fun w => w ^^^ (1#32 <<< bit)) := by
    simp only [State.afterStart_tile, State.startCommand, hk]
    rw [State.tile_modTile_self _ _ _ (h8 ▸ hn)]
    split <;> rfl
  rw [ht, getD_lmod]
  by_cases h : i = 64 * row + col
  · rw [if_pos ⟨h.symm, hi⟩, if_pos h]
  · rw [if_neg fun e => h e.1.symm, if_neg h]

/-! The start of an `mloop` -/

/-- A line of zero words has the sum 0. -/
theorem lineSum_zero {ws : List Word} (h : ∀ w ∈ ws, w = 0) : lineSum true ws = 0 := by
  have hsum : ((ws.map (kindVal true)).map ratOf).sum = 0 := by
    refine List.sum_eq_zero fun v hv => ?_
    obtain ⟨x, hx, rfl⟩ := List.mem_map.1 hv
    obtain ⟨w, hw, rfl⟩ := List.mem_map.1 hx
    rw [h w hw]; simp [kindVal, ratOf]
  have := lineSum_spec true ws
  rw [if_pos rfl, hsum] at this
  simpa using this

/-- A cleared tile under a command's kind: all its words and its mantle 0 (07 R156, 08 R168). -/
theorem Tile.clear_asKind (t : Tile) (r : Nat) (int : Bool) :
    let x := ({ t.clear with retries := r } : Tile).asKind int
    (∀ i, x.words.getD i 0 = 0 ∧ x.hem.getD i 0 = 0 ∧ x.cuff.getD i 0 = 0) ∧ x.mag = 0 ∧ x.retries = r := by
  cases int with
  | false => exact ⟨fun i => ⟨getD_replicate_zero .., getD_replicate_zero .., getD_replicate_zero ..⟩, rfl, rfl⟩
  | true =>
    have hzero : ∀ w ∈ List.replicate 4096 (0 : Word), w = 0 := fun w hw => List.eq_of_mem_replicate hw
    have hcol : ∀ j, ∀ w ∈ ({ t.clear with retries := r } : Tile).sheet.col j, w = 0 := by
      intro j w hw
      rw [Sheet.col_eq] at hw
      obtain ⟨i, _, rfl⟩ := List.mem_map.1 hw
      exact getD_replicate_zero ..
    have hrow : ∀ i, ∀ w ∈ ({ t.clear with retries := r } : Tile).sheet.row i, w = 0 := fun i w hw =>
      hzero w (List.mem_of_mem_drop (List.mem_of_mem_take hw))
    have hlines : ∀ (f : Nat → List Word), (∀ j, ∀ w ∈ f j, w = 0) → ∀ i, (((List.range 64).map f).map (lineSum true)).getD i 0 = 0 := by
      intro f hf i
      rw [List.getD_eq_getElem?_getD, List.map_map, List.getElem?_map]
      cases (List.range 64)[i]? with
      | none => rfl
      | some j => exact lineSum_zero (hf j)
    exact ⟨fun i => ⟨getD_replicate_zero .., hlines _ hcol i, hlines _ hrow i⟩, rfl, rfl⟩

include h8 in
theorem start_mloop {m : MLoop} {retry : Bool} (hk : c.kind = .mloop m retry) (hn : m.tile < 8) (hd : c.drained = false) :
    let t := (s.afterStart k c).tile k m.tile
    t.st = .open_ ∧ (m.acc = true → t.words = (s.tile k m.tile).words) ∧
      (m.acc = false → (∀ i, t.words.getD i 0 = 0 ∧ t.hem.getD i 0 = 0 ∧ t.cuff.getD i 0 = 0) ∧ t.mag = 0 ∧
        t.retries = if retry then min 3 ((s.tile k m.tile).retries + 1) else 0) := by
  intro t
  have ht : t = ((if m.acc then s.tile k m.tile else
      { (s.tile k m.tile).clear with retries := if retry then Nat.min 3 ((s.tile k m.tile).retries + 1) else 0 }).asKind (m.t == .s8)).open' := by
    simp only [t, State.afterStart_tile, State.startCommand, hk, hd, Bool.false_eq_true, if_false]
    exact State.tile_modTile_self _ _ _ (h8 ▸ hn)
  rw [ht]
  refine ⟨rfl, fun ha => ?_, fun ha => ?_⟩
  · rw [if_pos ha]; exact Tile.asKind_words _ _
  · rw [ha]; exact Tile.clear_asKind _ _ _

end

/-! K-steps -/

section
variable {s : State} {k : Nat} {c : ECmd} {rest : List ECmd} {m : MLoop} {retry : Bool} {a b : StepData} {da db : List StepData}

/-- The tile after a K-step. -/
def Tile.kstep (t : Tile) (m : MLoop) (a b : StepData) : Tile :=
  let x := t.accumulate m.t 0 0 (stepRows m.t m.sc a.bytes) (stepRows m.t m.sc b.bytes) (mmaK m.t)
  { x with poison := x.poison || a.poisoned || b.poisoned }

/-- The state after a K-step. -/
def State.kstep (s : State) (k : Nat) (m : MLoop) (a b : StepData) (da db : List StepData) : State :=
  (s.modTile k m.tile (fun t => t.kstep m a b)).modHead k (fun c => { c with da := da, db := db, steps := c.steps + 1 })

theorem exec_mloopKStep (he : (s.core k).eq = c :: rest) (hk : c.kind = .mloop m retry) (ha : c.da = a :: da) (hb : c.db = b :: db) :
    exec (.mloopKStep k) s = .next (s.kstep k m a b da db) := by
  change execMloopKStep k s = _
  unfold execMloopKStep
  rw [he]
  simp only [hk, ha, hb]
  rfl

theorem State.core_kstep (s : State) (k : Nat) (m : MLoop) (a b : StepData) (da db : List StepData) :
    (s.kstep k m a b da db).core k =
      { s.core k with
        tiles := lmod (s.core k).tiles m.tile (fun t => t.kstep m a b)
        eq := lmod (s.core k).eq 0 (fun c => { c with da := da, db := db, steps := c.steps + 1 }) } := by
  unfold State.kstep State.modHead State.modTile
  rw [State.core_modCore_self, State.core_modCore_self]

theorem State.tile_kstep (s : State) (k : Nat) (m : MLoop) (a b : StepData) (da db : List StepData) (n : Nat) :
    (s.kstep k m a b da db).tile k n = (s.modTile k m.tile (fun t => t.kstep m a b)).tile k n := by
  rw [State.tile, State.core_kstep, State.tile, State.modTile, State.core_modCore_self]

theorem Tile.poison_kstep (t : Tile) (m : MLoop) (a b : StepData) : (t.kstep m a b).poison = (t.poison || a.poisoned || b.poisoned) := by
  have : ∀ (rows cols : List (List FV)) (n : Nat), (t.accumulate m.t 0 0 rows cols n).poison = t.poison := by
    intro rows cols n
    unfold Tile.accumulate Tile.asKind
    dsimp only
    split <;> rfl
  rw [Tile.kstep]
  dsimp only
  rw [this]

/-- The products of a K-step (07 R160, 04 R94). -/
theorem Tile.kstep_chunks {t : Tile} (h : t.fits m.t) (hs : m.t = .s8 → m.sc = false) :
    Chunks 0 0 ((List.range 64).map (stepInputs m.t m.sc a.bytes)) ((List.range 64).map (stepInputs m.t m.sc b.bytes)) (depthOf m.t) t.sheet (t.kstep m a b).sheet := by
  have : (t.kstep m a b).sheet = (t.accumulate m.t 0 0 (stepRows m.t m.sc a.bytes) (stepRows m.t m.sc b.bytes) (mmaK m.t)).sheet := rfl
  rw [this, stepRows_eq, stepRows_eq, mmaK_eq]
  exact Tile.accumulate_chunks h 0 0 _ (linesFit_step (by decide) a.bytes hs) (linesFit_step (by decide) b.bytes hs)

theorem stepInputs_s8 (bs : List Byte) (i : Nat) : stepInputs .s8 false bs i = (List.range 32).map (fun q => intFV (bs.getD (32 * i + q) 0).toInt) := by
  refine List.map_congr_left fun q hq => ?_
  have hq : q < 32 := List.mem_range.1 hq
  have hpow : 2 ^ (Ty.s8.bits * q) = 256 ^ q := by rw [Nat.pow_mul]; rfl
  have hbyte : ((bs.drop (32 * i)).take 32).getD q 0 = bs.getD (32 * i + q) 0 := by
    rw [List.getD_eq_getElem?_getD, List.getElem?_take_of_lt hq, List.getElem?_drop, ← List.getD_eq_getElem?_getD]
  have hval : BitVec.ofNat 8 (leNat ((bs.drop (32 * i)).take 32) / 2 ^ (Ty.s8.bits * q) % 2 ^ Ty.s8.bits) = bs.getD (32 * i + q) 0 := by
    rw [hpow]
    change BitVec.ofNat 8 (leNat ((bs.drop (32 * i)).take 32) / 256 ^ q % 256) = _
    rw [leNat_digit, hbyte, BitVec.ofNat_toNat, BitVec.setWidth_eq]
  exact congrArg (fun v : Byte => intFV v.toInt) hval

/-- The words of an s8 K-step, whatever the kind of the tile was (04 R95). -/
theorem Tile.kstep_s8 {t : Tile} (ht : m.t = .s8) (hs : m.sc = false) (hw : t.words.length = 4096) {i j : Nat} (hi : i < 64) (hj : j < 64) :
    (t.kstep m a b).words.getD (64 * i + j) 0 = t.words.getD (64 * i + j) 0 +
      BitVec.ofInt 32 (((List.range 32).map (fun q => (a.bytes.getD (32 * i + q) 0).toInt * (b.bytes.getD (32 * j + q) 0).toInt)).sum) := by
  have hwords : (t.kstep m a b).words = ((t.asKind true).sheet.chunks 0 0 ((List.range 64).map (stepInputs .s8 false a.bytes))
      ((List.range 64).map (stepInputs .s8 false b.bytes)) 32).words := by
    have : (t.kstep m a b).words = ((t.asKind (m.t == .s8)).sheet.chunks 0 0 (stepRows m.t m.sc a.bytes) (stepRows m.t m.sc b.bytes) (mmaK m.t)).words := rfl
    rw [this, ht, hs, stepRows_eq, stepRows_eq]; rfl
  have hold : (t.asKind true).sheet.words = t.words := Tile.asKind_words t true
  have := Sheet.word_chunks_s8 (x := (t.asKind true).sheet) (Tile.asKind_int t true) (by rw [hold]; exact hw)
    (rows := (List.range 64).map (stepInputs .s8 false a.bytes)) (cols := (List.range 64).map (stepInputs .s8 false b.bytes))
    (by simp [Tile.sheet]) (by simp [Tile.sheet]) (i := i) (j := j) hi hj ((getD_map_range _ hi _).trans (stepInputs_s8 _ _)) ((getD_map_range _ hj _).trans (stepInputs_s8 _ _))
  rw [hold] at this
  rw [hwords]
  exact this

end
end Sys2Proof.Machine
end

section
/-! The drain of an `mloop`, a halt, and the end of a matrix command (07 R157, R160, R163, 08 R178). -/

namespace Sys2Proof.Machine

open Host (Outcome)

/-! K-steps and the drain of an `mloop` -/

theorem mloopKStep_goes {s : State} {k : Nat} {c : ECmd} {rest : List ECmd} {m : MLoop} {retry : Bool} {a b : StepData} {da db : List StepData}
    (he : (s.core k).eq = c :: rest) (hk : c.kind = .mloop m retry) (ha : c.da = a :: da) (hb : c.db = b :: db) (hn : m.tile < 8)
    (h8 : (s.core k).tiles.length = 8) :
    Goes (.mloopKStep k) s (fun t => (t.core k).eq = { c with da := da, db := db, steps := c.steps + 1 } :: rest ∧
      (t.tile k m.tile).poison = ((s.tile k m.tile).poison || a.poisoned || b.poisoned) ∧
      (∀ n, n < 8 → n ≠ m.tile → t.tile k n = s.tile k n) ∧
      ((s.tile k m.tile).fits m.t → m.t ∈ matrixTys → (m.sc = true → m.t ∈ [.e4m3, .e5m2, .e3m2, .e2m1]) →
        Chunks 0 0 ((List.range 64).map (stepInputs m.t m.sc a.bytes)) ((List.range 64).map (stepInputs m.t m.sc b.bytes)) (depthOf m.t)
          (s.tile k m.tile).sheet (t.tile k m.tile).sheet) ∧
      (m.t = .s8 → m.sc = false → (s.tile k m.tile).words.length = 4096 → ∀ i j, i < 64 → j < 64 →
        (t.tile k m.tile).words.getD (64 * i + j) 0 = (s.tile k m.tile).words.getD (64 * i + j) 0 +
          BitVec.ofInt 32 (((List.range 32).map (fun q => (a.bytes.getD (32 * i + q) 0).toInt * (b.bytes.getD (32 * j + q) 0).toInt)).sum))) := by
  have htile : (s.kstep k m a b da db).tile k m.tile = (s.tile k m.tile).kstep m a b :=
    (State.tile_kstep ..).trans (State.tile_modTile_self _ _ _ (h8 ▸ hn))
  refine ⟨_, exec_mloopKStep he hk ha hb, ?_, ?_, fun n _ hne => ?_, fun hf _ hs => ?_, fun ht hs hw i j hi hj => ?_⟩
  · rw [State.core_kstep]
    dsimp only
    rw [he]
    rfl
  · rw [htile]; exact Tile.poison_kstep ..
  · exact (State.tile_kstep ..).trans (State.tile_modTile_of_ne _ _ _ hne)
  · rw [htile]; exact Tile.kstep_chunks hf (not_s8_of_scaled hs (by decide))
  · rw [htile]; exact Tile.kstep_s8 ht hs hw hi hj

theorem loopDrain_drained {s : State} {k : Nat} {c : ECmd} {rest : List ECmd} {m : MLoop} {retry : Bool} (he : (s.core k).eq = c :: rest)
    (hk : c.kind = .mloop m retry) (hn : m.tile < 8) (h8 : (s.core k).tiles.length = 8)
    (hf : (s.tile k m.tile).fits (if (s.tile k m.tile).int then .s8 else .f16)) :
    Drained ((s.part (s.group c.gid).pid).tolOf (s.tile k m.tile).tolTy) (s.tile k m.tile) ((s.loopDrain k).tile k m.tile) := by
  have : s.loopDrain k = s.drainTile (s.group c.gid).pid k m.tile := by
    unfold State.loopDrain
    rw [he]
    simp only [hk]
  rw [this, State.tile_drainTile _ _ _ (h8 ▸ hn)]
  exact Tile.drainWith_drained (Tile.fits_shaped hf) _

/-! A halt -/

/-- An `mdrain` whose result has not landed: it goes on, or it is saved with its tile as it was. -/
theorem stopDrain_either {s : State} {k : Nat} {r : DrainRun} (hr : (s.core k).drain = some r) (hn : r.n < 8) (h8 : (s.core k).tiles.length = 8) :
    let t := s.stopDrain k
    (t.core k).drain = none ∧ (∀ n, n < 8 → n ≠ r.n → t.tile k n = s.tile k n) ∧
    ((t.tile k r.n = s.tile k r.n ∧ (t.core k).eq = (s.core k).eq ∧ t.groups = s.groups) ∨
     (t.tile k r.n = r.tile ∧ (t.core k).eq = { r.cmd with issue := s.turn } :: (s.core k).eq.filter (fun c => c.ident != r.cmd.ident))) := by
  intro t
  obtain ⟨b, s0, hdraw, hcores, hturn, hgroups⟩ : ∃ b s0, s.drawNat 2 = (b, s0) ∧ s0.cores = s.cores ∧ s0.turn = s.turn ∧ s0.groups = s.groups :=
    ⟨_, _, rfl, rfl, rfl, rfl⟩
  have hcore : s0.core k = s.core k := State.core_of_cores hcores k
  by_cases hb : b = 0
  · have ht : t = s0.modCore k (fun q => { q with drain := none }) := by
      simp only [t, State.stopDrain, hr, hdraw, hb, if_true]
    have hc : t.core k = { s.core k with drain := none } := by rw [ht, State.core_modCore_self, hcore]
    have htile : ∀ n, t.tile k n = s.tile k n := fun n => by rw [State.tile, hc]; rfl
    exact ⟨by rw [hc], fun n _ _ => htile n, .inl ⟨htile r.n, by rw [hc], by rw [ht]; exact hgroups⟩⟩
  · have hc : t.core k = { s.core k with
        drain := none
        eq := { r.cmd with issue := s.turn } :: (s.core k).eq.filter (fun c => c.ident != r.cmd.ident)
        tiles := lmod (s.core k).tiles r.n (fun _ => r.tile) } := by
      have hcores : ∃ u : State, t.cores = u.cores ∧ u.core k = { s.core k with
          drain := none
          eq := { r.cmd with issue := s.turn } :: (s.core k).eq.filter (fun c => c.ident != r.cmd.ident)
          tiles := lmod (s.core k).tiles r.n (fun _ => r.tile) } := by
        refine ⟨(s0.modCore k (fun q => { q with drain := none })).modCore k (fun q => { q with
          eq := { r.cmd with issue := s.turn } :: q.eq.filter (fun c => c.ident != r.cmd.ident)
          tiles := lmod q.tiles r.n (fun _ => r.tile) }), ?_, by rw [State.core_modCore_self, State.core_modCore_self, hcore]⟩
        simp only [t, State.stopDrain, hr, hdraw, hb, if_false]
        rw [← hturn]
        split <;> rfl
      obtain ⟨u, hu, hcu⟩ := hcores
      rw [State.core_of_cores hu, hcu]
    have htile : ∀ n, t.tile k n = (lmod (s.core k).tiles r.n (fun _ => r.tile)).getD n {} := fun n => by rw [State.tile, hc]
    refine ⟨by rw [hc], fun n _ hne => ?_, .inr ⟨?_, by rw [hc]⟩⟩
    · rw [htile, getD_lmod, if_neg fun e => hne e.1.symm]; rfl
    · rw [htile, getD_lmod, if_pos ⟨rfl, h8 ▸ hn⟩]

/-! The end -/

/-- The command has left the queue, and its member is done. -/
def State.ended (s : State) (k : Nat) (c : ECmd) (rest : List ECmd) : State :=
  let u := s.modCore k (fun q => { q with eq := rest, eEnd := s.turn })
  match c.member with
  | some id => u.modGroup c.gid (fun g => (g.memberDone id).recordDone id)
  | none => u

/-- The group whose command has ended. -/
def Group.ended (g : Group) (c : ECmd) : Group :=
  match c.member with
  | some id => (g.memberDone id).recordDone id
  | none => g

theorem State.ended_group {s : State} {c : ECmd} {g : Group} (hg : tget s.groups c.gid = some g) (k : Nat) (rest : List ECmd) :
    tget (s.ended k c rest).groups c.gid = some (g.ended c) := by
  unfold State.ended Group.ended
  cases c.member with
  | none => exact hg
  | some id => exact State.tget_modGroup hg

theorem State.ended_cores (s : State) (k : Nat) (c : ECmd) (rest : List ECmd) :
    (s.ended k c rest).cores = (s.modCore k (fun q => { q with eq := rest, eEnd := s.turn })).cores := by
  unfold State.ended
  cases c.member <;> rfl

theorem State.ended_core (s : State) (k : Nat) (c : ECmd) (rest : List ECmd) : (s.ended k c rest).core k = { s.core k with eq := rest, eEnd := s.turn } := by
  rw [State.core_of_cores (State.ended_cores ..), State.core_modCore_self]

theorem State.ended_tile (s : State) (k : Nat) (c : ECmd) (rest : List ECmd) (n : Nat) : (s.ended k c rest).tile k n = s.tile k n := by
  rw [State.tile, State.ended_core]; rfl

/-- What the command's kind does after its end. -/
def State.endOf (u : State) (k : Nat) (c : ECmd) : State :=
  match c.kind with
  | .maccSt n sp a =>
    let t := u.tile k n
    { u with bankQ := u.bankQ ++ [{ bank := u.turn, tick := c.tick, core := k, quarter := (u.group c.gid).quarter, gid := c.gid, space := sp
                                    op := .bulk t.poison, lanes := [{ lane := 64, adr := a, b := t.words }], dst := .spec 0, land := 0
                                    seq := c.seq, pc := c.pc }] }
  | .mloop m true =>
    let t := u.tile k m.tile
    let g := u.group c.gid
    if (t.stat = 2 ∨ t.stat = 3 ∨ t.stat = 4) ∧ 2 ≤ t.retries then
      ((lanesOf g.live).foldl (fun s l => s.park c.gid l (g.lane l).pc
        { trap := 9, cause := 1, targ := t.status m.tile, word := s.wordAt g (g.lane l).pc.toNat }) u).modPart g.pid Part.countMantle
    else u
  | _ => u

theorem exec_matrixCommandEnd {s : State} {k : Nat} {c : ECmd} {rest : List ECmd} (he : (s.core k).eq = c :: rest) :
    exec (.matrixCommandEnd k) s = .next ((s.ended k c rest).endOf k c) := by
  change execMatrixCommandEnd k s = _
  unfold execMatrixCommandEnd
  rw [he]
  rfl

end Sys2Proof.Machine
end

section
/-! MATRIX_COMMAND_END (07 R157, R160, 08 R178), and the statement about the matrix engine. -/

namespace Sys2Proof.Machine

/-! What parking leaves of a group's batch -/

/-- The cores, and the members and the record of group `gid`, are those of `s`. -/
def State.KeepsBatch (gid : Nat) (s t : State) : Prop :=
  t.cores = s.cores ∧ (t.group gid).members = (s.group gid).members ∧ (t.group gid).mrec = (s.group gid).mrec

theorem State.KeepsBatch.trans {gid : Nat} {s t u : State} (h : s.KeepsBatch gid t) (h' : t.KeepsBatch gid u) : s.KeepsBatch gid u :=
  ⟨h'.1.trans h.1, h'.2.1.trans h.2.1, h'.2.2.trans h.2.2⟩

theorem State.KeepsBatch.refl (gid : Nat) (s : State) : s.KeepsBatch gid s := ⟨rfl, rfl, rfl⟩

theorem State.keepsBatch_modLane (s : State) (gid lane : Nat) (f : Lane → Lane) : s.KeepsBatch gid (s.modGroup gid (fun x => x.modLane lane f)) := by
  have hg : (s.modGroup gid (fun x => x.modLane lane f)).group gid = ((tget s.groups gid).map (fun x => x.modLane lane f)).getD {} := by
    rw [State.group, State.modGroup, tget_tmod_self]
  refine ⟨rfl, ?_, ?_⟩ <;> rw [hg, State.group] <;> cases tget s.groups gid <;> rfl

theorem State.keepsBatch_quench (s : State) (gid lane cause : Nat) : s.KeepsBatch gid (s.quench gid lane cause) := by
  unfold State.quench
  dsimp only
  split
  · refine State.KeepsBatch.trans (t := s.setGroup gid _) ⟨rfl, ?_, ?_⟩ ⟨rfl, rfl, rfl⟩ <;> rw [State.group, State.setGroup, tget_tset_self] <;> rfl
  · exact .refl gid s

theorem State.keepsBatch_park (s : State) (gid lane : Nat) (pc : BitVec 20) (r : TrapRec) : s.KeepsBatch gid (s.park gid lane pc r) := by
  unfold State.park
  dsimp only
  split
  · exact .refl gid s
  · split
    · split
      · exact State.KeepsBatch.trans (t := s.mantleFault gid) ⟨rfl, rfl, rfl⟩ (State.keepsBatch_modLane ..)
      · exact State.keepsBatch_quench ..
    · split
      · split
        · exact .refl gid s
        · exact State.keepsBatch_modLane ..
      · exact State.keepsBatch_modLane ..

theorem State.keepsBatch_foldl {gid : Nat} {step : State → Nat → State} (h : ∀ (s : State) (l : Nat), s.KeepsBatch gid (step s l)) (ls : List Nat) (s : State) :
    s.KeepsBatch gid (ls.foldl step s) := by
  induction ls generalizing s with
  | nil => exact .refl gid s
  | cons l ls ih => exact (h s l).trans (ih _)

/-! The end -/

theorem State.keepsBatch_endOf (u : State) (k : Nat) (c : ECmd) : u.KeepsBatch c.gid (u.endOf k c) := by
  unfold State.endOf
  split
  · exact ⟨rfl, rfl, rfl⟩
  · dsimp only
    split
    · exact (State.keepsBatch_foldl (fun s l => State.keepsBatch_park s _ l _ _) _ u).trans ⟨rfl, rfl, rfl⟩
    · exact .refl _ u
  · exact .refl _ u

/-- A failed retry parks the live lanes, each with the record `r` (08 R178). -/
theorem foldl_park_live {u : State} {gid : Nat} {g : Group} (hg : tget u.groups gid = some g) (hi : g.hphase = .idle) (h64 : g.lanes.length = 64)
    (r : TrapRec) {l : Nat} (hl : l < 64) :
    let t := (lanesOf g.live).foldl (fun s l => s.park gid l (g.lane l).pc { r with word := s.wordAt g (g.lane l).pc.toNat }) u
    (t.group gid).lane l = if (g.lane l).life = .live ∧ (g.lane l).trec = none then
      (g.lane l).parkedAt (g.lane l).pc { r with word := u.wordAt g (g.lane l).pc.toNat } else g.lane l := by
  intro t
  have ht : t = u.modGroup gid (fun x => x.onLanes (lanesOf g.live) (fun l => Lane.parkOnce (g.lane l).pc { r with word := u.wordAt g (g.lane l).pc.toNat })) := by
    refine State.foldl_onLanes (lanesOf_nodup _) hg fun v h hv hh hs j _ => ?_
    have hword : v.wordAt g (g.lane j).pc.toNat = u.wordAt g (g.lane j).pc.toNat := by rw [hs]; rfl
    rw [hword]
    exact State.park_of_plain hv (.inl (Group.parksPlain_of_idle (by rw [hh]; exact hi) j)) _ _
  rw [ht, State.group_of_tget (State.tget_modGroup hg), Group.lane_onLanes (h64.symm ▸ hl)]
  have hlive : l ∈ lanesOf g.live ↔ (g.lane l).isLive = true := by
    rw [Group.live, Group.mem_lanesOf_maskOf h64]
    exact and_iff_right hl
  have hlife : (g.lane l).isLive = true ↔ (g.lane l).life = .live := by simp [Lane.isLive]
  rw [Lane.parkOnce_eq]
  by_cases h : (g.lane l).isLive = true
  · rw [if_pos (hlive.2 h)]
    simp only [h, true_and, hlife.1 h]
  · rw [if_neg fun h' => h (hlive.1 h'), if_neg fun h' => h (hlife.2 h'.1)]

theorem Group.ended_rest (g : Group) (c : ECmd) :
    (g.ended c).quarter = g.quarter ∧ (g.ended c).lanes = g.lanes ∧ (g.ended c).hphase = g.hphase ∧ (g.ended c).pid = g.pid := by
  unfold Group.ended
  cases c.member <;> exact ⟨rfl, rfl, rfl, rfl⟩

theorem State.ended_bankQ (s : State) (k : Nat) (c : ECmd) (rest : List ECmd) :
    (s.ended k c rest).bankQ = s.bankQ ∧ (s.ended k c rest).turn = s.turn := by
  unfold State.ended
  cases c.member <;> exact ⟨rfl, rfl⟩

section
variable {s : State} {k : Nat} {c : ECmd} {rest : List ECmd} {g : Group} (hg : tget s.groups c.gid = some g)

theorem end_queue (s : State) (k : Nat) (c : ECmd) (rest : List ECmd) :
    (((s.ended k c rest).endOf k c).core k).eq = rest ∧ (((s.ended k c rest).endOf k c).core k).eEnd = s.turn := by
  obtain ⟨hcores, _⟩ := State.keepsBatch_endOf (s.ended k c rest) k c
  rw [State.core_of_cores hcores, State.ended_core]
  exact ⟨rfl, rfl⟩

include hg

theorem end_member {id : Nat} (hid : c.member = some id) :
    Completes c.gid id s ((s.ended k c rest).endOf k c) ∧
      (((s.ended k c rest).endOf k c).group c.gid).mrec = if g.mrecSrc = some id then g.mrec ||| 0x08000000 else g.mrec := by
  obtain ⟨_, hmembers, hmrec⟩ := State.keepsBatch_endOf (s.ended k c rest) k c
  rw [State.group_of_tget (State.ended_group hg k rest), Group.ended, hid] at hmembers hmrec
  refine ⟨?_, hmrec⟩
  rw [Completes, hmembers, State.group_of_tget hg]
  refine List.map_congr_left fun m _ => ?_
  by_cases h : m.ident = id <;> simp [h]

theorem end_maccSt {n : Nat} {sp : Space} {a : Nat} (hk : c.kind = .maccSt n sp a) :
    ∃ x, ((s.ended k c rest).endOf k c).bankQ = s.bankQ ++ [x] ∧ x.bank = s.turn ∧ x.tick = c.tick ∧ x.core = k ∧ x.quarter = g.quarter ∧ x.space = sp ∧
      x.op = .bulk (s.tile k n).poison ∧ x.lanes = [{ lane := 64, adr := a, b := (s.tile k n).words }] := by
  obtain ⟨hbank, hturn⟩ := State.ended_bankQ s k c rest
  obtain ⟨hq, _⟩ := g.ended_rest c
  simp only [State.endOf, hk, hbank, hturn, State.ended_tile, State.group_of_tget (State.ended_group hg k rest), hq]
  exact ⟨_, rfl, rfl, rfl, rfl, rfl, rfl, rfl, rfl⟩

theorem end_retry {m : MLoop} (hk : c.kind = .mloop m true) (h64 : g.lanes.length = 64) (hi : g.hphase = .idle)
    (hs : (s.tile k m.tile).stat = 2 ∨ (s.tile k m.tile).stat = 3 ∨ (s.tile k m.tile).stat = 4) (hr : 2 ≤ (s.tile k m.tile).retries) {l : Nat} (hl : l < 64) :
    let t := (s.ended k c rest).endOf k c
    if (g.lane l).life = .live ∧ (g.lane l).trec = none then
      ∃ r : TrapRec, r.trap = 9 ∧ r.cause = 1 ∧ r.targ = (s.tile k m.tile).status m.tile ∧ (t.group c.gid).lane l = (g.lane l).parkedAt (g.lane l).pc r
    else (t.group c.gid).lane l = g.lane l := by
  intro t
  obtain ⟨_, hlanes, hphase, _⟩ := g.ended_rest c
  have hgroup := State.ended_group hg k rest
  have hlane : (g.ended c).lane l = g.lane l := by rw [Group.lane, hlanes]; rfl
  have ht : t.group c.gid = ((lanesOf (g.ended c).live).foldl (fun s' l => s'.park c.gid l ((g.ended c).lane l).pc
      { trap := 9, cause := 1, targ := (s.tile k m.tile).status m.tile, word := s'.wordAt (g.ended c) ((g.ended c).lane l).pc.toNat }) (s.ended k c rest)).group c.gid := by
    simp only [t, State.endOf, hk, State.ended_tile, State.group_of_tget hgroup]
    rw [if_pos ⟨hs, hr⟩]
    rfl
  have hpark := foldl_park_live hgroup (hphase.trans hi) (by rw [hlanes]; exact h64)
    { trap := 9, cause := 1, targ := (s.tile k m.tile).status m.tile } hl
  dsimp only at hpark
  rw [← ht, hlane] at hpark
  split
  next h => rw [if_pos h] at hpark; exact ⟨_, rfl, rfl, rfl, hpark⟩
  next h => rw [if_neg h] at hpark; exact hpark

end

/-! The statement -/

/-- Settles O48. Every product is a step of 04 R94 and 08 R167 because the model's exact sums are the rational ones; a drain compares the same
differences in units of 2^−1200; and each event changes its own tile, queue and result alone. -/
theorem matrixEngineEvents : Obligations.MatrixEngineEvents := by
  refine ⟨fun k s c rest g he hs hg h8 => ?_, fun k s c rest m retry a b da db he hk ha hb hn h8 => mloopKStep_goes he hk ha hb hn h8,
    fun k s c rest m retry he hk hn h8 hf => loopDrain_drained he hk hn h8 hf, fun k s r hr hn h8 => stopDrain_either hr hn h8, fun k s c rest g he hg h64 => ?_⟩
  · refine ⟨_, exec_engineCommandStart he hs, State.started_eq he, ?_⟩
    cases hk : c.kind with
    | mma ty m64 sc zero a b cc scr =>
      obtain ⟨f, hres, hs8, hprod⟩ := start_mma hg hk
      exact ⟨f, hres, hs8, fun _ hsc => hprod (not_s8_of_scaled hsc (by decide))⟩
    | mmab ty n sc a b scr =>
      intro hn
      obtain ⟨hst, hprod⟩ := start_mmab h8 hk hn
      exact ⟨hst, fun hf _ hsc => hprod hf (not_s8_of_scaled hsc (by decide))⟩
    | mzero n => exact start_mzero h8 hk
    | maccLd n sp a => exact start_maccLd h8 hk
    | maccSt n sp a => exact start_maccSt hg h8 hk
    | mdrain n => exact start_mdrain hg h8 hk
    | mchk n frag => exact start_mchk hg hk
    | mloc n => exact start_mloc hg hk
    | mfix n => exact start_mfix hg h8 hk
    | mloop m retry => exact start_mloop h8 hk
    | mtol ty v => exact start_mtol hg hk
    | acc bit n row col => exact fun hn i hi => start_acc h8 hk hn hi
  · obtain ⟨hq, hend⟩ := end_queue s k c rest
    exact ⟨_, exec_matrixCommandEnd he, hq, hend, fun id hid => end_member hg hid, fun n sp a hk => end_maccSt hg hk,
      fun m hk hi hs hr l hl => end_retry hg hk h64 hi hs hr hl⟩

end Sys2Proof.Machine
end

section
/-! Integer words (05 R97–R103): how a word whose whole effect is one register result completes, and the values of sums, extremes, magnitudes
and products. -/

namespace Sys2Proof.Machine

/-! Words with one result -/

theorem takes_of {i : Instr} {opc : Nat} {t : Ty} {ts : List Ty} (ho : i.opc = opc) (hs : i.subWf = ts.contains t) : Takes i opc t ts :=
  ⟨ho, by rw [hs, List.contains_iff_mem]⟩

/-- A word whose meaning is one register result and no flag completes with that result in each selected lane. -/
theorem gives_of {i : Instr} {lat : Nat} {d : Opnd} {n : Nat} {f f' : State → Ctx → Nat → Nat} (h : endsHeld i.opc = false)
    (he : ∀ s, exec i s = withIssue i s (fun k s => s.put k lat d n (f s k)))
    (hf : ∀ s x g, Accepts i s x g → ∀ l ∈ (ctxOf i s x g).lanes,
      f (s.began i x g (predSel g x.iset i)) (ctxOf i s x g) l = f' s (ctxOf i s x g) l)
    (hr : i.front = (false, false) := by rfl) (hu : (unitOf i.opc == 5) = false := by rfl) : Gives i lat d n f' := by
  intro s x g ha
  rw [he, withIssue_of_accepts ha]
  simp only [State.put, State.began_result s h x g _ _ _ hr hu, Ctx.each]
  rw [List.map_congr_left fun l hl => by rw [hf s x g ha l hl]]

/-! Types and immediates -/

theorem Ty.int4_of_signed {t : Ty} (h : [Ty.s32, .s64].contains t = true) : Ty.int4.contains t = true := by
  cases t <;> simp_all [Ty.int4]

/-- An immediate of an integer operation has the value that its 32 bits have at the signedness of the type (02 R49). -/
theorem asInt_immOf {t : Ty} (h : Ty.int4.contains t = true) (v : Word) :
    asInt t (immOf t v) = if t.isSigned then v.toInt else (v.toNat : Int) := by
  rcases Ty.int4_cases h with rfl | rfl | rfl | rfl
  · have hv : (v.signExtend 64).setWidth 32 = v := by
      ext i hi
      simp [BitVec.getElem_signExtend, hi, show i < 64 by omega]
    simp only [asInt, immOf, Ty.isSigned, Ty.bits, if_true, hv]
  · simp [asInt, immOf, Ty.isSigned, Ty.bits]
  · simp [asInt, immOf, Ty.isSigned, Ty.bits, BitVec.toInt_signExtend_of_le]
  · simp [asInt, immOf, Ty.isSigned, Ty.bits]
    have := v.isLt
    omega

/-! Numbers modulo 2^w -/

theorem modBits_congr {w : Nat} {u v : Int} (h : u ≡ v [ZMOD 2 ^ w]) : modBits w u = modBits w v := congrArg Int.toNat h

theorem modBits_natCast (w n : Nat) : modBits w n = n % 2 ^ w := by
  rw [modBits, ← Nat.cast_ofNat, ← Nat.cast_pow, ← Int.natCast_emod, Int.toNat_natCast]

theorem toInt_modEq {w : Nat} (x : BitVec w) : x.toInt ≡ x.toNat [ZMOD 2 ^ w] := by
  rw [BitVec.toInt_eq_toNat_bmod]
  exact_mod_cast Int.bmod_emod

/-- Read at any type, a source agrees with its bits modulo the type's width. -/
theorem asInt_modEq (t : Ty) (x : DWord) : asInt t x ≡ x.toNat [ZMOD 2 ^ t.bits] := by
  have hbits : ((x.setWidth t.bits).toNat : Int) ≡ x.toNat [ZMOD 2 ^ t.bits] := by
    rw [BitVec.toNat_setWidth, Int.natCast_emod, Nat.cast_pow, Nat.cast_ofNat]
    exact Int.mod_modEq _ _
  unfold asInt
  split
  · exact (toInt_modEq _).trans hbits
  · exact hbits

/-! Extremes, magnitudes and products -/

theorem ite_lt_eq_min (u v : Int) : (if v < u then v else u) = min u v := by rw [min_comm, min_def_lt]

theorem ite_lt_eq_max (u v : Int) : (if u < v then v else u) = max u v := (max_def_lt u v).symm

/-- A magnitude is clamped from above alone. -/
theorem addOut_abs {t : Ty} (h : [Ty.s32, .s64].contains t = true) (sat : Bool) (x : Int) :
    addOut t sat x.natAbs = modBits (32 * t.regs) (if sat then min (greatestOf t) |x| else |x|) := by
  have hlow : leastOf t ≤ min (greatestOf t) |x| := by
    have : leastOf t ≤ 0 ∧ 0 ≤ greatestOf t := by cases t <;> decide
    have := abs_nonneg x
    omega
  rw [addOut_eq (Ty.int4_of_signed h), Int.natCast_natAbs, max_eq_right hlow]

/-- A factor of a low half agrees with its bits modulo 2^32, signed or not. -/
theorem factor_modEq {t : Ty} (h : Ty.int2.contains t = true) (x : DWord) : asInt t x ≡ (x.setWidth 32).toNat [ZMOD 2 ^ 32] := by
  rcases Ty.int2_cases h with rfl | rfl
  · exact toInt_modEq _
  · exact Int.ModEq.refl _

/-- The low half of a product is that of its factors' bits (05 R101). -/
theorem mulLow_eq {u v : Int} {m n : Nat} (hu : u ≡ m [ZMOD 2 ^ 32]) (hv : v ≡ n [ZMOD 2 ^ 32]) : m * n % 2 ^ 32 = modBits 32 (u * v) := by
  rw [modBits_congr (hu.mul hv), ← Nat.cast_mul, modBits_natCast]

/-- A multiply-add is exact before its reduction. -/
theorem madOut_eq {t : Ty} (h : Ty.int4.contains t = true) (x : Int) : t.out (t.wrap x) = modBits (32 * t.regs) x := addOut_eq h false x

/-! The statements -/

/-- Settles O1: sums and differences are `addOut`'s, with an immediate as well; the extremes are clamped nowhere, and a magnitude from above alone. -/
theorem sumsAndExtremes : Obligations.SumsAndExtremes := by
  refine ⟨fun c t sat d a b imm => ⟨takes_of rfl rfl, takes_of rfl rfl, takes_of rfl rfl, takes_of rfl rfl, ?add, ?sub, ?addImm, ?subImm⟩,
    fun c t sat d a b => ⟨takes_of rfl rfl, takes_of rfl rfl, takes_of rfl rfl, ?min, ?max, ?abs⟩⟩
  case add | sub =>
    refine gives_of rfl (fun _ => rfl) fun s x g ha l _ => ?_
    rw [addOut_eq ha.sub, Ty.val_eq, Ty.val_eq]
    rfl
  case addImm | subImm =>
    refine gives_of rfl (fun _ => rfl) fun s x g ha l _ => ?_
    rw [addOut_eq ha.sub, Ty.val_eq, Ty.val_eq, asInt_immOf ha.sub]
    rfl
  case min =>
    refine gives_of rfl (fun _ => rfl) fun s x g ha l _ => ?_
    simp only [ite_lt_eq_min, Ty.out_eq, Ty.val_eq, Ctx.src_began]
  case max =>
    refine gives_of rfl (fun _ => rfl) fun s x g ha l _ => ?_
    simp only [ite_lt_eq_max, Ty.out_eq, Ty.val_eq, Ctx.src_began]
  case abs =>
    refine gives_of rfl (fun _ => rfl) fun s x g ha l _ => ?_
    rw [addOut_abs ha.sub, Ty.val_eq]
    rfl

/-- Settles O2: the low half is the same for factors read signed and unsigned; the high half and the multiply-add read them at their type. -/
theorem multiplyResults : Obligations.MultiplyResults := by
  refine fun c t d a b cc imm => ⟨takes_of rfl rfl, takes_of rfl rfl, takes_of rfl rfl, takes_of rfl rfl, ?mulLo, ?mulLoImm, ?mulHi, ?mad⟩
  case mulLo => exact gives_of rfl (fun _ => rfl) fun s x g ha l _ => mulLow_eq (factor_modEq ha.sub _) (factor_modEq ha.sub _)
  case mulLoImm => exact gives_of rfl (fun _ => rfl) fun s x g ha l _ => mulLow_eq (factor_modEq ha.sub _) (toInt_modEq imm)
  case mulHi => exact gives_of rfl (fun _ => rfl) fun s x g ha l _ => by rw [Ty.val_eq, Ty.val_eq]; rfl
  case mad =>
    refine gives_of rfl (fun _ => rfl) fun s x g ha l _ => ?_
    rw [madOut_eq ha.sub, Ty.val_eq, Ty.val_eq, Ty.val_eq]
    rfl

end Sys2Proof.Machine
end

section
/-! Bits (05 R104–R108): logic, shifts and rotation at the width of the type, fields, and counts of bits. -/

namespace Sys2Proof.Machine

/-! The width of a bit type -/

theorem Ty.bits_of_bit2 {t : Ty} (h : Ty.bit2.contains t = true) : t.bits = 32 * t.regs := by
  rcases Ty.bit2_cases h with rfl | rfl <;> rfl

theorem bitsOut_toNat {t : Ty} (h : Ty.bit2.contains t = true) (x : DWord) : bitsOut t x.toNat = (x.setWidth (32 * t.regs)).toNat := by
  rw [bitsOut, Ty.bits_of_bit2 h, BitVec.toNat_setWidth]

/-- An immediate of a bit operation is zero-extended (02 R49). -/
theorem immOf_of_bit2 {t : Ty} (h : Ty.bit2.contains t = true) (v : Word) : immOf t v = v.setWidth 64 := by
  rcases Ty.bit2_cases h with rfl | rfl <;> rfl

/-! Shifts and rotation (05 R105) -/

theorem shl_value {t : Ty} (h : Ty.bit2.contains t = true) (x : DWord) (n : Nat) :
    (if t.bits ≤ n then 0 else bitsOut t (x.toNat * 2 ^ n)) = (x.setWidth (32 * t.regs) <<< n).toNat := by
  rw [bitsOut, Ty.bits_of_bit2 h, BitVec.toNat_shiftLeft, BitVec.toNat_setWidth, Nat.shiftLeft_eq, Nat.mod_mul_mod]
  split
  · next hn => exact (Nat.mod_eq_zero_of_dvd ((pow_dvd_pow 2 hn).trans (dvd_mul_left _ _))).symm
  · rfl

theorem shr_value {t : Ty} (h : Ty.bit2.contains t = true) (x : DWord) (n : Nat) :
    (if t.bits ≤ n then 0 else bitsOut t x.toNat / 2 ^ n) = (x.setWidth (32 * t.regs) >>> n).toNat := by
  rw [bitsOut_toNat h, Ty.bits_of_bit2 h, BitVec.toNat_ushiftRight, Nat.shiftRight_eq_div_pow]
  split
  · next hn => exact (Nat.div_eq_of_lt ((BitVec.isLt _).trans_le (Nat.pow_le_pow_right (by decide) hn))).symm
  · rfl

/-- Past the width, a signed number has nothing left but its sign. -/
theorem toInt_div_of_width_le {w n : Nat} (x : BitVec w) (h : w ≤ n) : x.toInt / 2 ^ n = if x.toInt < 0 then -1 else 0 := by
  have hle : (2 : Int) ^ w ≤ 2 ^ n := pow_le_pow_right₀ (by decide) h
  have hlow := x.le_two_mul_toInt
  have hhigh := x.two_mul_toInt_lt
  split
  · exact Int.ediv_eq_neg_one_of_neg_of_le (by assumption) (by omega)
  · exact Int.ediv_eq_zero_of_lt (by omega) (by omega)

/-- The bits of a two's-complement number are the number modulo 2^w. -/
theorem toNat_eq_modBits {w : Nat} (x : BitVec w) : x.toNat = modBits w x.toInt := by
  rw [modBits_congr (toInt_modEq x), modBits_natCast, Nat.mod_eq_of_lt x.isLt]

theorem sar_value {t : Ty} (h : [Ty.s32, .s64].contains t = true) (x : DWord) (n : Nat) :
    (if t.bits ≤ n then t.out (if asInt t x < 0 then -1 else 0) else t.out (asInt t x / 2 ^ n)) =
      ((x.setWidth (32 * t.regs)).sshiftRight n).toNat := by
  have hw : t.bits = 32 * t.regs := by cases t <;> simp_all [Ty.bits, Ty.regs]
  have hv : asInt t x = (x.setWidth t.bits).toInt := by cases t <;> simp_all [asInt, Ty.isSigned]
  rw [hv, hw, toNat_eq_modBits, BitVec.toInt_sshiftRight, Int.shiftRight_eq_div_pow, Ty.out_eq, Ty.out_eq]
  split
  · next hn => exact congrArg _ (toInt_div_of_width_le _ hn).symm
  · rfl

theorem rot_value {t : Ty} (h : Ty.bit2.contains t = true) (x : DWord) (n : Nat) :
    bitsOut t (bitsOut t x.toNat * 2 ^ (n % t.bits)) + bitsOut t x.toNat / 2 ^ (t.bits - n % t.bits) =
      ((x.setWidth (32 * t.regs)).rotateLeft n).toNat := by
  have hw : 0 < 32 * t.regs := by rcases Ty.bit2_cases h with rfl | rfl <;> decide
  rw [bitsOut_toNat h, bitsOut, Ty.bits_of_bit2 h, BitVec.toNat_rotateLeft, Nat.shiftRight_eq_div_pow, Nat.shiftLeft_eq]
  have hk : n % (32 * t.regs) < 32 * t.regs := Nat.mod_lt _ hw
  generalize x.setWidth (32 * t.regs) = y
  have hy := y.isLt
  generalize n % (32 * t.regs) = k at *
  generalize 32 * t.regs = w at *
  have hpow : 2 ^ w = 2 ^ (w - k) * 2 ^ k := by rw [← Nat.pow_add]; congr 1; omega
  have hlow : y.toNat / 2 ^ (w - k) < 2 ^ k := Nat.div_lt_of_lt_mul (hpow ▸ hy)
  have hhigh : y.toNat * 2 ^ k % 2 ^ w = (y.toNat % 2 ^ (w - k)) <<< k := by rw [hpow, Nat.mul_mod_mul_right, Nat.shiftLeft_eq]
  rw [hhigh, Nat.shiftLeft_add_eq_or_of_lt hlow]

/-- 05 R104 and R105. -/
theorem logicAndShiftResults : LogicAndShiftResults := by
  refine ⟨fun c t d a b imm => ⟨takes_of rfl rfl, takes_of rfl rfl, takes_of rfl rfl, takes_of rfl rfl, takes_of rfl rfl, takes_of rfl rfl,
      takes_of rfl rfl, takes_of rfl rfl, ?and, ?or, ?xor, ?andImm, ?orImm, ?xorImm, ?andn, ?not⟩,
    fun c t d a b => ⟨takes_of rfl rfl, takes_of rfl rfl, takes_of rfl rfl, takes_of rfl rfl, ?shl, ?shr, ?sar, ?rot⟩⟩
  case and | or | xor | andn | not =>
    exact gives_of rfl (fun _ => rfl) fun _ _ _ ha _ _ => bitsOut_toNat ha.sub _
  case andImm | orImm | xorImm =>
    refine gives_of rfl (fun _ => rfl) fun _ _ _ ha _ _ => ?_
    rw [immOf_of_bit2 ha.sub]
    exact bitsOut_toNat ha.sub _
  case shl => exact gives_of rfl (fun _ => rfl) fun _ _ _ ha _ _ => shl_value ha.sub _ _
  case shr => exact gives_of rfl (fun _ => rfl) fun _ _ _ ha _ _ => shr_value ha.sub _ _
  case sar =>
    refine gives_of rfl (fun _ => rfl) fun _ _ _ ha _ _ => ?_
    rw [Ty.val_eq]
    exact sar_value ha.sub _ _
  case rot => exact gives_of rfl (fun _ => rfl) fun _ _ _ ha _ _ => rot_value ha.sub _ _

/-! Fields (05 R106, R107) -/

/-- A field of `len` bits, sign-extended where the sign matters (05 R106). -/
theorem field_value (signed : Prop) [Decidable signed] (x : Word) (pos : Nat) {len : Nat} (hlen : len ≤ 32) :
    (let f := x.toNat / 2 ^ pos % 2 ^ len
     if len = 0 then 0 else if signed ∧ 2 ^ (len - 1) ≤ f then f + 2 ^ 32 - 2 ^ len else f) =
      modBits 32 (if signed then (x.extractLsb' pos len).toInt else (x.extractLsb' pos len).toNat) := by
  dsimp only
  have hf : (x.extractLsb' pos len).toNat = x.toNat / 2 ^ pos % 2 ^ len := by
    rw [BitVec.extractLsb'_toNat, Nat.shiftRight_eq_div_pow]
  have hle : 2 ^ len ≤ 2 ^ 32 := Nat.pow_le_pow_right (by decide) hlen
  have hlt : x.toNat / 2 ^ pos % 2 ^ len < 2 ^ len := Nat.mod_lt _ (Nat.two_pow_pos _)
  rw [BitVec.toInt_eq_toNat_cond, hf]
  generalize x.toNat / 2 ^ pos % 2 ^ len = f at *
  rcases Nat.eq_zero_or_pos len with rfl | hpos
  · obtain rfl : f = 0 := by simpa using hlt
    simp [modBits]
  · have hhalf : 2 ^ len = 2 * 2 ^ (len - 1) := by rw [← Nat.pow_succ']; congr 1; omega
    rw [if_neg hpos.ne']
    generalize 2 ^ len = p at *
    generalize 2 ^ (len - 1) = q at *
    by_cases hs : signed
    · simp only [hs, true_and, if_true, modBits]
      split_ifs <;> omega
    · simp only [hs, false_and, if_false, modBits]
      omega

/-- The mask of a field. -/
theorem getLsbD_fieldMask (pos len : Nat) {i : Nat} (hi : i < 32) :
    (BitVec.ofNat 32 ((2 ^ len - 1) * 2 ^ pos)).getLsbD i = decide (pos ≤ i ∧ i < pos + len) := by
  rw [BitVec.getLsbD_ofNat, Nat.testBit_mul_two_pow, Nat.testBit_two_pow_sub_one, Bool.eq_iff_iff]
  simp only [Bool.and_eq_true, decide_eq_true_eq]
  omega

/-- A field inserted through a mask is inserted bit by bit (05 R107). -/
theorem insert_value (x y : Word) (pos len : Nat) :
    let mask : Word := BitVec.ofNat 32 ((2 ^ len - 1) * 2 ^ pos)
    ((x &&& ~~~mask) ||| (BitVec.ofNat 32 (y.toNat * 2 ^ pos) &&& mask)).toNat =
      (BitVec.ofFnLE (fun (i : Fin 32) => if pos ≤ i.val ∧ i.val < pos + len then y.getLsbD (i.val - pos) else x.getLsbD i.val)).toNat := by
  intro mask
  congr 1
  apply BitVec.eq_of_getLsbD_eq
  intro i hi
  have hy : (BitVec.ofNat 32 (y.toNat * 2 ^ pos)).getLsbD i = (decide (pos ≤ i) && y.getLsbD (i - pos)) := by
    rw [BitVec.getLsbD_ofNat, Nat.testBit_mul_two_pow, BitVec.testBit_toNat]
    simp [hi]
  rw [BitVec.getLsbD_or, BitVec.getLsbD_and, BitVec.getLsbD_and, BitVec.getLsbD_not, getLsbD_fieldMask pos len hi, hy, BitVec.getLsbD_ofFnLE, dif_pos hi]
  by_cases h : pos ≤ i ∧ i < pos + len
  · simp [h]
  · simp [h, hi]

/-! Counts (05 R108) -/

/-- The numbers below n + 1: 0, and the successors of those below n. -/
theorem filter_range_succ (n : Nat) (p : Nat → Bool) :
    ((List.range (n + 1)).filter p).length = (if p 0 then 1 else 0) + ((List.range n).filter (fun i => p (i + 1))).length := by
  rw [List.range_succ_eq_map, List.filter_cons, List.filter_map, Function.comp_def]
  cases p 0 <;> simp [Nat.add_comm]

theorem popCount_eq (n v : Nat) : popCount n v = ((List.range n).filter (fun i => v.testBit i)).length := by
  induction n generalizing v with
  | zero => rfl
  | succ n ih =>
    rw [popCount, ih, filter_range_succ]
    simp only [Nat.testBit_succ, Nat.testBit_zero, decide_eq_true_eq]
    split <;> omega

/-- Below the lowest 1 bit stand the places with no 1 bit up to them. -/
theorem lowZeros_eq (n v : Nat) :
    lowZeros n v = ((List.range n).filter (fun i => (List.range n).all (fun j => i < j || !v.testBit j))).length := by
  induction n generalizing v with
  | zero => rfl
  | succ n ih =>
    rw [lowZeros, ih, filter_range_succ]
    simp only [List.range_succ_eq_map, List.all_cons, List.all_map, Function.comp_def, Nat.testBit_succ, Nat.testBit_zero]
    by_cases hv : v % 2 = 1
    · simp [hv]
    · simp [hv]

/-- Places counted from either end. -/
theorem filter_range_reflect (n : Nat) (p : Nat → Bool) :
    ((List.range n).filter p).length = ((List.range n).filter (fun i => p (n - 1 - i))).length := by
  have hrev : (List.range n).reverse = (List.range n).map (n - 1 - ·) := by
    rw [List.range_eq_range', List.reverse_range', ← List.range_eq_range']
    simp
  rw [← List.length_reverse, ← List.filter_reverse, hrev, List.filter_map, List.length_map]
  rfl

theorem revBits_lt (n v : Nat) : revBits n v < 2 ^ n := by
  induction n generalizing v with
  | zero => simp [revBits]
  | succ n ih =>
    have := ih (v / 2)
    rw [revBits, Nat.pow_succ]
    rcases Nat.mod_two_eq_zero_or_one v with h | h <;> rw [h] <;> omega

theorem testBit_revBits (n v j : Nat) : (revBits n v).testBit j = (decide (j < n) && v.testBit (n - 1 - j)) := by
  induction n generalizing v with
  | zero => simp [revBits]
  | succ n ih =>
    rw [revBits, Nat.mul_comm, Nat.testBit_two_pow_mul_add _ (revBits_lt n _), ih]
    rcases Nat.lt_trichotomy j n with h | rfl | h
    · rw [if_pos h, ← Nat.testBit_succ]
      simp [h, show j < n + 1 by omega, show n - 1 - j + 1 = n - j by omega]
    · simp
    · have : v % 2 < 2 ^ (j - n) := lt_of_lt_of_le (Nat.mod_lt _ two_pos) (Nat.le_self_pow (by omega) 2)
      simp [Nat.testBit_lt_two_pow this, show ¬ j < n by omega, show ¬ j < n + 1 by omega]

/-- The 0 bits above the highest 1 bit are the low ones of the reversed number. -/
theorem lowZeros_revBits (n v : Nat) :
    lowZeros n (revBits n v) = ((List.range n).filter (fun i => (List.range n).all (fun j => j < i || !v.testBit j))).length := by
  rw [lowZeros_eq, filter_range_reflect]
  congr 1
  refine List.filter_congr fun i hi => ?_
  rw [List.mem_range] at hi
  rw [Bool.eq_iff_iff]
  simp only [List.all_eq_true, List.mem_range, Bool.or_eq_true, decide_eq_true_eq, Bool.not_eq_true', testBit_revBits, Bool.and_eq_false_iff,
    decide_eq_false_iff_not]
  constructor
  · intro h j hj
    have := h (n - 1 - j) (by omega)
    rw [show n - 1 - (n - 1 - j) = j by omega] at this
    exact this.imp (by omega) (·.resolve_left (by omega))
  · intro h j hj
    exact (h (n - 1 - j) (by omega)).imp (by omega) .inr

theorem revBits_eq_reverse {w : Nat} (x : DWord) : revBits w x.toNat = ((x.setWidth w).reverse).toNat := by
  apply Nat.eq_of_testBit_eq
  intro j
  rw [testBit_revBits, BitVec.testBit_toNat, BitVec.testBit_toNat, BitVec.getLsbD_reverse, BitVec.getMsbD_eq_getLsbD, BitVec.getLsbD_setWidth]
  by_cases hj : j < w
  · simp [hj, show w - 1 - j < w by omega]
  · simp [hj]

/-- 05 R106–R108. -/
theorem bitResults : BitResults := by
  refine ⟨fun c t d a b cc => ⟨takes_of rfl rfl, rfl, ?bfe, ?bfi⟩,
    fun c t d a => ⟨takes_of rfl rfl, takes_of rfl rfl, takes_of rfl rfl, takes_of rfl rfl, ?popc, ?clz, ?ctz, ?brev⟩⟩
  case bfe => exact gives_of rfl (fun _ => rfl) fun _ _ _ _ _ _ => field_value _ _ _ ((Nat.min_le_right _ _).trans (Nat.sub_le _ _))
  case bfi =>
    refine gives_of rfl (fun _ => rfl) fun _ _ _ _ _ _ => ?_
    have hbyte : ∀ (w : Word) (k : Nat), (w.extractLsb' k 8).toNat = w.toNat / 2 ^ k % 256 := fun w k => by
      rw [BitVec.extractLsb'_toNat, Nat.shiftRight_eq_div_pow]
    dsimp only
    rw [hbyte, hbyte, Nat.pow_zero, Nat.div_one]
    exact insert_value _ _ _ _
  case popc =>
    refine gives_of rfl (fun _ => rfl) fun _ _ _ ha _ _ => ?_
    rw [popCount_eq, Ty.bits_of_bit2 ha.sub]
    rfl
  case clz =>
    refine gives_of rfl (fun _ => rfl) fun _ _ _ ha _ _ => ?_
    rw [lowZeros_revBits, Ty.bits_of_bit2 ha.sub]
    rfl
  case ctz =>
    refine gives_of rfl (fun _ => rfl) fun _ _ _ ha _ _ => ?_
    rw [lowZeros_eq, Ty.bits_of_bit2 ha.sub]
    rfl
  case brev =>
    refine gives_of rfl (fun _ => rfl) fun _ _ _ ha _ _ => ?_
    rw [Ty.bits_of_bit2 ha.sub]
    exact revBits_eq_reverse _

/-- Settles O3: logic, shifts and rotation are those of bit vectors of the type's width; fields go bit by bit, and counts run over places. -/
theorem bitwiseResults : Obligations.BitwiseResults := ⟨logicAndShiftResults, bitResults⟩

end Sys2Proof.Machine
end

section
/-! Compare, select and move, the special registers, and changes of width (05 R109–R115). -/

namespace Sys2Proof.Machine

/-! Compare, select and move (05 R109–R111) -/

/-- 05 R109–R111. A relation that no integer `cmp` has is refused before the word is accepted. -/
theorem selectMove : SelectMove := by
  refine fun c t rel d a b cc imm => ⟨takes_of rfl rfl, takes_of rfl rfl, takes_of rfl rfl, ⟨rfl, List.contains_iff_mem.1⟩,
    ?cmp, ?sel, ?mov, ?movImm⟩
  case cmp =>
    refine gives_of rfl (fun _ => rfl) fun s x g ha l _ => ?_
    rw [Ty.val_eq, Ty.val_eq, Ctx.src_began, Ctx.src_began]
    cases rel with
    | num | nan => exact absurd ha.mods Bool.false_ne_true
    | eq | ne | lt | le | gt | ge => simp [Rel.holds]
  case sel => exact gives_of rfl (fun _ => rfl) fun s x g ha l _ => apply_ite BitVec.toNat _ _ _
  case mov => exact gives_of rfl (fun _ => rfl) fun s x g ha l _ => rfl
  case movImm =>
    refine gives_of rfl (fun _ => rfl) fun s x g ha l _ => ?_
    rw [immOf_of_bit2 ha.sub, BitVec.toNat_setWidth, Nat.mod_eq_of_lt (imm.isLt.trans (by decide))]

/-! Special registers (05 R115) -/

/-- The layout of FLAGS (04 R90). -/
theorem flagsOf_toNat (g : Group) (e : Lane) :
    (g.flagsOf e).toNat = g.te.toNat * 2 ^ 16 + (if e.qread then 2 ^ 7 else 0) + (if e.hexh then 2 ^ 6 else 0) +
      (if e.wovf then 2 ^ 5 else 0) + g.fl.toNat := by
  have hbit : ∀ b : Bool, (BitVec.ofBool b).toNat = if b then 1 else 0 := by decide
  simp only [Group.flagsOf, toNat_append_add, hbit, BitVec.toNat_zero]
  split_ifs <;> omega

/-- The layout of QLOG (17 R383). -/
theorem qlog_toNat (g : Group) :
    g.qlog.toNat = g.nq % 256 * 2 ^ 24 + g.qcause % 16 * 2 ^ 20 + g.qlane % 64 * 2 ^ 12 + g.nrec % 4096 := by
  simp only [Group.qlog, toNat_append_add, BitVec.toNat_ofNat]
  omega

/-- A lane's beat is the second of the issue's two from lane 32 on (01 R16). -/
theorem Ctx.beat_eq (k : Ctx) {l : Nat} (hl : l < 64) : k.beat l = k.tick + l / 32 := by
  unfold Ctx.beat
  split <;> omega

theorem Ctx.lane_lt {k : Ctx} {l : Nat} (h : l ∈ k.lanes) : l < 64 := BitVec.lt_of_getLsbD (Ctx.mem_lanes.1 h)

/-- 05 R115. -/
theorem specialRegisters : SpecialRegisters := by
  refine fun c r fmt d => gives_of rfl (fun _ => rfl) fun s x g ha l hl => ?_
  rw [Ctx.sreg_began ha]
  dsimp only
  generalize r.toNat = n
  match n with
  | 0x08 => exact Ctx.beat_eq _ (Ctx.lane_lt hl)
  | 0x09 => exact flagsOf_toNat _ _
  | 0x0A => exact qlog_toNat _
  | 0 | 1 | 2 | 3 | 4 | 5 | 6 | 7 | 0x0B | 0x0C | 0x0D | 0x0E | n + 0x0F => rfl

/-- Settles O4: an accepted `cmp` has one of the six relations, and a special register is read as it stands before the word. -/
theorem selectMoveResults : Obligations.SelectMoveResults := ⟨selectMove, specialRegisters⟩

/-! Addresses and widths (05 R112–R114) -/

/-- What a type reads of a number modulo a width that is no smaller than its own is what it reads of the number. -/
theorem asInt_congr {t : Ty} {x y : DWord} (h : (x.toNat : Int) ≡ y.toNat [ZMOD 2 ^ t.bits]) : asInt t x = asInt t y := by
  have : x.setWidth t.bits = y.setWidth t.bits := by
    apply BitVec.eq_of_toNat_eq
    rw [BitVec.toNat_setWidth, BitVec.toNat_setWidth]
    exact_mod_cast h
  simp only [asInt, this]

theorem toNat_ofInt_modEq (w : Nat) (v : Int) : ((BitVec.ofInt w v).toNat : Int) ≡ v [ZMOD 2 ^ w] := by
  rw [BitVec.toNat_ofInt, Int.toNat_of_nonneg (Int.emod_nonneg _ (by positivity)), Nat.cast_pow, Nat.cast_ofNat]
  exact Int.mod_modEq _ _

/-- Narrowing by the low bits is reading the source at the narrow type (05 R114). -/
theorem wrap_asInt {t ts : Ty} (h : t.bits ≤ ts.bits) (hs : ts.bits ≤ 64) (x : DWord) : t.wrap (asInt ts x) = asInt t x := by
  have hdvd : ∀ {n : Nat}, t.bits ≤ n → (2 : Int) ^ t.bits ∣ 2 ^ n := pow_dvd_pow 2
  rw [Ty.wrap, Ty.val_eq]
  exact asInt_congr (((toNat_ofInt_modEq 64 _).of_dvd (hdvd (h.trans hs))).trans ((asInt_modEq ts x).of_dvd (hdvd h)))

theorem Ty.int4_of_n2 {t : Ty} (h : [Ty.n32, .n64].contains t = true) : Ty.int4.contains t = true := by
  cases t <;> simp_all [Ty.int4]

theorem Ty.regs_of_narrow {t : Ty} (h : Ty.narrow.contains t = true) : t.regs = 1 := by
  cases t <;> simp_all [Ty.narrow, Ty.regs, Ty.bits]

/-- Settles O5: a sum is exact before its reduction, and narrowing by the low bits reads the source at the narrow type. -/
theorem addressWidthResults : Obligations.AddressWidthResults := by
  refine fun c t ts sat sx sh d a b => ⟨takes_of rfl rfl, ?lea, ?ext, ?trunc⟩
  case lea =>
    refine gives_of rfl (fun _ => rfl) fun s x g ha l _ => ?_
    refine (madOut_eq (Ty.int4_of_n2 ha.sub) _).trans ?_
    cases sx <;> rfl
  case ext => exact gives_of rfl (fun _ => rfl) fun s x g ha l _ => by rw [Ty.val_eq]; rfl
  case trunc =>
    refine gives_of rfl (fun _ => rfl) fun s x g ha l _ => ?_
    have hmods : (Ty.wide.contains ts && decide (t.bits < ts.bits)) = true := ha.mods
    obtain ⟨-, hlt⟩ := Bool.and_eq_true_iff.1 hmods
    have hs : ts.bits ≤ 64 := by cases ts <;> decide
    dsimp only
    rw [Ty.val_eq, wrap_asInt (of_decide_eq_true hlt).le hs, Ty.sat_eq_clamp, Ty.out_eq, Ty.regs_of_narrow ha.sub]
    rfl

end Sys2Proof.Machine
end

section
/-! What lanes of a group read of each other (05 R116–R122): shuffles, votes, broadcast, match, running sums and spans of lanes. -/

namespace Sys2Proof.Machine

open Host (Outcome)

/-! Shuffles (05 R116, R117) -/

/-- The position that a shuffle names, before it is held to the group's 64 (05 R117). -/
def shflPos (mode : ShflMode) (l v : Nat) : Int :=
  match mode with
  | .idx => ((v % 64 : Nat) : Int)
  | .up => (l : Int) - v
  | .down => (l : Int) + v
  | .xor => ((l ^^^ v % 64 : Nat) : Int)

/-- A shuffle reads the lane at its position, where that lies inside the group. -/
theorem shflFrom_eq (mode : ShflMode) {l : Nat} (hl : l < 64) (b : Word) :
    shflFrom mode l b = if shflPos mode l b.toNat < 0 ∨ 63 < shflPos mode l b.toNat then none else some (shflPos mode l b.toNat).toNat := by
  cases mode with
  | idx =>
    rw [shflPos, if_neg (by omega), Int.toNat_natCast]
    rfl
  | up =>
    rw [shflFrom, shflPos]
    by_cases h : b.toNat ≤ l
    · rw [if_pos h, if_neg (by omega), ← Nat.cast_sub h, Int.toNat_natCast]
    · rw [if_neg h, if_pos (by omega)]
  | down =>
    rw [shflFrom, shflPos, ← Nat.cast_add, Int.toNat_natCast]
    by_cases h : l + b.toNat ≤ 63
    · rw [if_pos h, if_neg (by omega)]
    · rw [if_neg h, if_pos (by omega)]
  | xor =>
    have : l ^^^ b.toNat % 64 < 2 ^ 6 := Nat.xor_lt_two_pow hl (Nat.mod_lt _ (by decide))
    rw [shflPos, if_neg (by omega), Int.toNat_natCast]
    rfl

/-- What a lane reads through a shuffle to position `j`: its own value where that lies outside the group, 0 and QREAD of a quenched
lane (05 R116). -/
theorem exchange_shfl (s : State) (k : Ctx) (n : Nat) (a : Opnd) (l : Nat) (j : Int) :
    exchange s k n a l (if j < 0 ∨ 63 < j then none else some j.toNat) =
      if j < 0 ∨ 63 < j then ((k.src s n l a).toNat, 0)
      else if (k.g.lane j.toNat).life = .quenched then (0, 0x80#8)
      else ((k.src s n j.toNat a).toNat, 0) := by
  by_cases h : j < 0 ∨ 63 < j
  · rw [if_pos h, if_pos h]
    rfl
  · rw [if_neg h, if_neg h]
    exact if_congr beq_iff_eq rfl rfl

/-- Where no lane reads early, none parks and every lane in `sel` has its result. -/
theorem State.putF_of_no_early (s : State) {k : Ctx} {early : Mask} (he : early = 0) (r : TrapRec) (lat : Nat) (d : Opnd) (n : Nat)
    (f : Nat → Nat × BitVec 8) :
    (s.parkSel { k with sel := early } r).putF { k with sel := k.sel &&& ~~~early } lat d n f = s.result k lat d (k.each n f) := by
  subst he
  rw [mask_and_not_zero, State.parkSel, State.parkMask_zero]
  rfl

/-- 05 R116 and R117: with SBCHK clear no lane reads early, and each takes what its source lane holds. -/
theorem shuffleResults : ShuffleResults := by
  intro c mode w64 d a b s x g i k n ha hchk
  have hearly : ∀ p : Nat → Bool, maskOfList (k.lanes.filter (fun l => (s.part g.pid).sbchk && p l)) = 0 := fun p => by
    simp [hchk, maskOfList]
  have hrun : exec i s = .next (s.resultOf i x g 2 d (k.each n (fun l => exchange s k n a l (shflFrom mode l (k.src32 s l b))))) := by
    rw [show exec i s = execShfl c mode w64 d a b s from rfl, execShfl, withIssue_of_accepts ha]
    exact congrArg Outcome.next ((State.putF_of_no_early _ (hearly _) _ _ _ _ _).trans (State.began_result s rfl x g 2 d _))
  rw [hrun, Ctx.each, Ctx.each, List.map_congr_left fun l hl => by rw [shflFrom_eq mode (Ctx.lane_lt hl), exchange_shfl]]
  rfl

/-! Votes and masks (05 R118–R122) -/

/-- A mask made of lanes, bit by bit. -/
theorem maskOfList_toNat (ls : List Nat) (p : Nat → Bool) (h : ∀ j < 64, j ∈ ls ↔ p j = true) :
    (maskOfList ls).toNat = (BitVec.ofFnLE (fun (j : Fin 64) => p j.val)).toNat := by
  congr 1
  apply BitVec.eq_of_getLsbD_eq
  intro j hj
  rw [BitVec.getLsbD_ofFnLE, dif_pos hj, Bool.eq_iff_iff, getLsbD_maskOfList _ hj, h j hj]

/-- The mask of the selected lanes that `p` holds of. -/
theorem maskOfList_filter_lanes (k : Ctx) (p : Nat → Bool) :
    (maskOfList (k.lanes.filter p)).toNat = (BitVec.ofFnLE (fun (j : Fin 64) => k.sel.getLsbD j.val && p j.val)).toNat :=
  maskOfList_toNat _ (fun j => k.sel.getLsbD j && p j) fun j _ => by rw [List.mem_filter, Ctx.mem_lanes, Bool.and_eq_true]

theorem vote_any (ls : List Nat) (p : Nat → Bool) : (if (ls.filter p).isEmpty then 0 else 1) = if ∃ j ∈ ls, p j = true then 1 else 0 := by
  have hnone : (ls.filter p).isEmpty = true ↔ ¬ ∃ j ∈ ls, p j = true := by simp [List.isEmpty_iff, List.filter_eq_nil_iff]
  rw [if_congr hnone rfl rfl, ite_not]

theorem vote_all (ls : List Nat) (p : Nat → Bool) : (if (ls.filter p).length = ls.length then 1 else 0) = if ∀ j ∈ ls, p j = true then 1 else 0 :=
  if_congr List.length_filter_eq_length_iff rfl rfl

/-- The lanes of a span (05 R122). -/
theorem spanMask_toNat (absolute : Bool) (l : Nat) (w : Word) {lo hi : Int}
    (hlo : lo = if absolute then ((w.extractLsb' 0 8).toNat : Int) else l + (w.extractLsb' 0 8).toInt)
    (hhi : hi = if absolute then ((w.extractLsb' 8 8).toNat : Int) else l + (w.extractLsb' 8 8).toInt) :
    (spanMask absolute l w).toNat = (BitVec.ofFnLE (fun (j : Fin 64) => decide (lo ≤ (j.val : Int) ∧ (j.val : Int) ≤ hi))).toNat := by
  subst hlo hhi
  exact maskOfList_toNat _ (fun j => decide (_ ≤ (j : Int) ∧ (j : Int) ≤ _)) fun j hj => by simp [hj]

theorem foldl_add_eq_sum (f : Nat → Nat) (ls : List Nat) : ls.foldl (fun n j => n + f j) 0 = (ls.map f).sum := by
  rw [List.sum_eq_foldl_nat, List.foldl_map]

/-- 05 R118–R122. -/
theorem voteAndMaskResults : VoteAndMaskResults := by
  refine ⟨fun c t excl d a => ⟨takes_of rfl rfl, takes_of rfl rfl, takes_of rfl rfl, ?any, ?all, ?ballot, ?bcast, ?matchAny, ?scanAdd⟩,
    fun c d a => ⟨?around, ?absolute⟩⟩
  case any => exact gives_of rfl (fun _ => rfl) fun _ _ _ _ _ _ => vote_any _ _
  case all => exact gives_of rfl (fun _ => rfl) fun _ _ _ _ _ _ => vote_all _ _
  case ballot => exact gives_of rfl (fun _ => rfl) fun _ _ _ _ _ _ => maskOfList_filter_lanes _ _
  case bcast => exact gives_of rfl (fun _ => rfl) fun _ _ _ _ _ _ => rfl
  case matchAny => exact gives_of rfl (fun _ => rfl) fun _ _ _ _ _ _ => maskOfList_filter_lanes _ _
  case scanAdd => exact gives_of rfl (fun _ => rfl) fun _ _ _ _ _ _ => congrArg (· % 2 ^ 32) (foldl_add_eq_sum _ _)
  case around => exact gives_of rfl (fun _ => rfl) fun _ _ _ _ _ _ => spanMask_toNat _ _ _ rfl rfl
  case absolute => exact gives_of rfl (fun _ => rfl) fun _ _ _ _ _ _ => spanMask_toNat _ _ _ rfl rfl

/-- Settles O6: a shuffle reads the lane at its position, and every other word what the lanes of `sel` hold together. -/
theorem lanesExchange : Obligations.LanesExchange := ⟨shuffleResults, voteAndMaskResults⟩

end Sys2Proof.Machine
end

section
/-! Sums of exact terms (06 R125, R126): their special cases, and the rounded words that are such sums. -/

namespace Sys2Proof.Machine

/-! Special terms -/

theorem infinity_iff (t : FV) (neg : Bool) : (t.isInf && (t.sign == neg)) = true ↔ t = .inf neg := by
  cases t <;> simp [FV.isInf, FV.sign]

/-- An infinity of one sign among terms. -/
theorem any_infinity (ts : List FV) (neg : Bool) : ts.any (fun t => t.isInf && (t.sign == neg)) = decide (FV.inf neg ∈ ts) := by
  rw [Bool.eq_iff_iff, List.any_eq_true, decide_eq_true_iff]
  simp only [infinity_iff, exists_eq_right]

/-- The sign of a sum that is exactly zero (06 R126). -/
def zeroSumSign (rm : Rm) (ts : List FV) : Bool :=
  if ts.all FV.isZero ∧ (ts.all FV.sign ∨ ¬ ts.any FV.sign) then ts.all FV.sign else rm = .rd

/-- What a sum of terms without NaNs and zeros times infinity is (06 R126). -/
def termsSum (f : Fmt) (rm : Rm) (ts : List FV) : FRes :=
  if FV.inf false ∈ ts ∧ FV.inf true ∈ ts then (f.nanBits, 0x10#8)
  else if FV.inf false ∈ ts then (f.infBits false, 0)
  else if FV.inf true ∈ ts then (f.infBits true, 0)
  else if (ts.map ratOf).sum = 0 then (f.zeroBits (zeroSumSign rm ts), 0)
  else f.roundTo (.mode rm) (decide ((sumNums ts).1 < 0)) (sumNums ts).1.natAbs (sumNums ts).2

theorem zeroSumSign_eq (rm : Rm) (ts : List FV) :
    (if ts.all FV.isZero && (ts.all FV.sign || !(ts.any FV.sign)) then ts.all FV.sign else rm == .rd) = zeroSumSign rm ts := by
  unfold zeroSumSign
  refine if_congr ?_ rfl (Bool.beq_eq_decide_eq _ _)
  rw [Bool.and_eq_true, Bool.or_eq_true, Bool.not_eq_true', Bool.not_eq_true]

/-- A sum is a NaN by its inputs, or that of its terms. -/
theorem Fmt.sum_eq (f : Fmt) (rm : Rm) (prods : List (FV × FV)) (adds : List FV) :
    f.sum rm prods adds =
      let inputs := prods.flatMap (fun p => [p.1, p.2]) ++ adds
      let bad := prods.any (fun p => p.1.badProd p.2)
      if bad || inputs.any FV.isNan then (f.nanBits, flagNV (bad || inputs.any FV.isSnan))
      else termsSum f rm (prods.map (fun p => p.1.mul p.2) ++ adds) := by
  have hpos := fun ts => any_infinity ts false
  have hneg := fun ts => any_infinity ts true
  simp only [beq_true, beq_false] at hpos hneg
  unfold Fmt.sum termsSum
  dsimp only
  refine if_congr Iff.rfl rfl ?_
  rw [hpos, hneg, zeroSumSign_eq]
  generalize prods.map (fun p => p.1.mul p.2) ++ adds = ts
  simp only [← sumNums_zero]
  by_cases hp : FV.inf false ∈ ts <;> by_cases hn : FV.inf true ∈ ts <;>
    simp only [hp, hn, decide_true, decide_false, Bool.and_true, Bool.and_false, Bool.or_true, Bool.or_false, Bool.false_eq_true, if_true, if_false,
      and_self, and_true, and_false]

/-- Settles O8: a NaN or zero times infinity decides before the terms do, an infinite term before their sum, and `sumNums` is that sum. -/
theorem sumOfTerms : Obligations.SumOfTerms := by
  intro f hf rm prods adds inputs bad terms hasPos hasNeg x r
  have hr : r = if bad || inputs.any FV.isNan then (f.nanBits, flagNV (bad || inputs.any FV.isSnan)) else termsSum f rm terms :=
    Fmt.sum_eq f rm prods adds
  refine ⟨fun h => by rw [hr, if_pos (Bool.or_eq_true .. ▸ h)], fun hb hn => ?_⟩
  rw [hb, hn, if_neg (by decide)] at hr
  rw [hr, termsSum]
  refine ⟨fun h => if_pos h, fun ⟨hp, hn⟩ => ?_, fun ⟨hp, hn⟩ => ?_, fun hp hn h0 => ?_, fun hp hn h0 => ?_⟩
  · rw [if_neg fun h => hn h.2, if_pos hp]
  · rw [if_neg fun h => hp h.1, if_neg hp, if_pos hn]
  · rw [if_neg fun h => hp h.1, if_neg hp, if_neg hn, if_pos h0]
    rfl
  · refine ⟨_, _, sumNums_abs terms, ?_⟩
    rw [if_neg fun h => hp h.1, if_neg hp, if_neg hn, if_neg h0, decide_eq_decide.2 (sumNums_neg terms)]

/-! The words -/

/-- A result of each element, or one result (06 R125). -/
theorem elems_eq (t : Ty) (f : (Nat → Nat) → FRes) : elems t f = perElement t f := by
  cases t <;> rfl

/-- Settles O9: each rounded word is the sum of its terms, element by element. -/
theorem floatArithmeticResults : Obligations.FloatArithmeticResults := by
  intro c t rm d a b cc v
  refine ⟨?fadd, ?fsub, ?fmul, ?ffma, ?fdot2⟩
  case fadd | fsub | fmul | ffma => exact yields_of rfl (fun _ => rfl) fun _ _ _ _ _ => elems_eq _ _
  case fdot2 => exact yields_of rfl (fun _ => rfl) fun _ _ _ _ _ => rfl

end Sys2Proof.Machine
end

section
/-! Values in order (06 R127, R128): `scaled` orders the decoded values as `valueBelow` does. -/

namespace Sys2Proof.Machine

/-! Decoded numbers -/

/-- A decoded number has at most the hidden bit above its fraction, and an exponent between that of the subnormal numbers and the
greatest exponent field. -/
theorem decode_num {f : Fmt} (hf : Fmt.Regular f) {x : Nat} {s : Bool} {m : Nat} {e : Int} (h : f.decode x = .num s m e) :
    m < 2 ^ (f.m + 1) ∧ f.emin - f.m ≤ e ∧ e ≤ 2 ^ (f.width - 1 - f.m) := by
  have hfr : x % 2 ^ f.m < 2 ^ f.m := Nat.mod_lt _ (Nat.two_pow_pos _)
  have hex : x % 2 ^ (f.width - 1) / 2 ^ f.m < 2 ^ (f.width - 1 - f.m) := by
    have hw := hf.width
    rw [Nat.div_lt_iff_lt_mul (Nat.two_pow_pos _), ← Nat.pow_add, show f.width - 1 - f.m + f.m = f.width - 1 by omega]
    exact Nat.mod_lt _ (Nat.two_pow_pos _)
  have hemin : f.emin = 1 - (f.bias : Int) := rfl
  have hcast : ((2 ^ (f.width - 1 - f.m) : Nat) : Int) = 2 ^ (f.width - 1 - f.m) := by push_cast; rfl
  rw [← hcast, Nat.pow_succ]
  unfold Fmt.decode at h
  dsimp only at h
  generalize x % 2 ^ (f.width - 1) / 2 ^ f.m = ex at *
  generalize x % 2 ^ f.m = fr at *
  split at h
  · cases h; omega
  · split at h
    · split at h <;> cases h
    · split at h <;> cases h
      omega

theorem Ty.fmt_mem (t : Ty) : t.fmt ∈ floatFmts := by cases t <;> decide

theorem Ty.fmt_regular (t : Ty) : Fmt.Regular t.fmt := floatFmts_regular (Ty.fmt_mem t)

/-- A value that is no NaN, and lies within the range in which `scaled` is exact and below that of the infinities. -/
def FV.Ordered : FV → Prop
  | .nan _ => False
  | .inf _ => True
  | .num _ m e => m < 2 ^ 53 ∧ -1200 ≤ e ∧ e ≤ 2048

theorem ordered_decode {f : Fmt} (hf : f ∈ floatFmts) {x : Nat} (h : (f.decode x).isNan = false) : FV.Ordered (f.decode x) := by
  cases hv : f.decode x with
  | nan sig => simp [hv, FV.isNan] at h
  | inf neg => trivial
  | num s m e =>
    have hfields : f.m + 1 ≤ 53 ∧ -1200 ≤ f.emin - f.m ∧ (2 : Int) ^ (f.width - 1 - f.m) ≤ 2048 := by
      clear hv h
      simp only [floatFmts, List.mem_cons, List.not_mem_nil, or_false] at hf
      rcases hf with rfl | rfl | rfl | rfl | rfl | rfl | rfl | rfl <;> decide
    obtain ⟨hm, he, he'⟩ := decode_num (floatFmts_regular hf) hv
    exact ⟨hm.trans_le (Nat.pow_le_pow_right (by decide) hfields.1), by omega, by omega⟩

/-! The order -/

theorem scaled_num (s : Bool) (m : Nat) {e : Int} (h : -1200 ≤ e) : ((FV.num s m e).scaled : ℚ) = ratOf (.num s m e) * 2 ^ (1200 : Int) := by
  obtain ⟨k, hk⟩ := Int.le.dest h
  have hpow : (2 : ℚ) ^ k = 2 ^ e * 2 ^ (1200 : Int) := by rw [← zpow_natCast, ← zpow_add₀ two_ne_zero, ← hk]; congr 1; ring
  simp only [FV.scaled, ratOf, show (e + 1200).toNat = k by omega]
  generalize (2 : ℚ) ^ (1200 : Int) = unit at *
  cases s <;> simp only [Bool.false_eq_true, if_false, if_true] <;> push_cast <;> rw [hpow] <;> ring

/-- The magnitude that `scaled` gives an infinity. -/
def scaledInf : Int := 2 ^ 4000

theorem scaledInf_pos : 0 < scaledInf := pow_pos two_pos _

theorem scaled_inf (s : Bool) : (FV.inf s).scaled = if s then -scaledInf else scaledInf := rfl

/-- A number lies between the infinities. -/
theorem scaled_lt_inf {s : Bool} {m : Nat} {e : Int} (h : FV.Ordered (.num s m e)) :
    -scaledInf < (FV.num s m e).scaled ∧ (FV.num s m e).scaled < scaledInf := by
  obtain ⟨hm, _, he⟩ := h
  have hlt : ((m * 2 ^ (e + 1200).toNat : Nat) : Int) < scaledInf := calc
    ((m * 2 ^ (e + 1200).toNat : Nat) : Int) < ((2 ^ 53 * 2 ^ (e + 1200).toNat : Nat) : Int) :=
      Int.ofNat_lt.2 (Nat.mul_lt_mul_of_pos_right hm (Nat.two_pow_pos _))
    _ = 2 ^ (53 + (e + 1200).toNat) := by rw [← Nat.pow_add, Nat.cast_pow, Nat.cast_ofNat]
    _ ≤ scaledInf := pow_le_pow_right₀ one_le_two (by omega)
  unfold FV.scaled
  cases s <;> constructor <;> simp only [Bool.false_eq_true, if_false, if_true] <;> omega

theorem scaled_lt_iff {u v : FV} (hu : FV.Ordered u) (hv : FV.Ordered v) : u.scaled < v.scaled ↔ valueBelow u v = true := by
  have htop := scaledInf_pos
  cases u with
  | nan _ => exact hu.elim
  | inf a =>
    cases v with
    | nan _ => exact hv.elim
    | inf b =>
      rw [scaled_inf, scaled_inf]
      cases a <;> cases b <;> simp [valueBelow] <;> omega
    | num s m e =>
      have hbounds := scaled_lt_inf hv
      rw [scaled_inf]
      cases a <;> simp [valueBelow, hbounds, hbounds.2.le]
  | num s m e =>
    cases v with
    | nan _ => exact hv.elim
    | inf b =>
      have hbounds := scaled_lt_inf hu
      rw [scaled_inf]
      cases b <;> simp [valueBelow, hbounds, hbounds.1.le]
    | num s' m' e' =>
      have hval : valueBelow (.num s m e) (.num s' m' e') = decide (ratOf (.num s m e) < ratOf (.num s' m' e')) := rfl
      rw [hval, decide_eq_true_iff, ← Int.cast_lt (R := ℚ), scaled_num s m hu.2.1, scaled_num s' m' hv.2.1, mul_lt_mul_iff_left₀ (by positivity)]

theorem scaled_eq_zero_iff {v : FV} (h : FV.Ordered v) : v.scaled = 0 ↔ v.isZero = true := by
  have htop := scaledInf_pos
  cases v with
  | nan _ => exact h.elim
  | inf s => rw [scaled_inf]; cases s <;> simp [FV.isZero] <;> omega
  | num s m e => cases m <;> cases s <;> simp [FV.scaled, FV.isZero] <;> omega

/-! `fmin` and `fmax` -/

/-- The place of a value in the order in which −0 is below +0 (06 R127). -/
def rankOf (v : FV) : Int := 2 * v.scaled + if v.isZero && v.sign then -1 else 0

theorem rankOf_bounds (v : FV) : 2 * v.scaled - 1 ≤ rankOf v ∧ rankOf v ≤ 2 * v.scaled := by
  unfold rankOf
  split <;> omega

theorem rankOf_lt_iff {u v : FV} (hu : FV.Ordered u) (hv : FV.Ordered v) :
    rankOf u < rankOf v ↔ (valueBelow u v || (u.isZero && v.isZero && u.sign && !v.sign)) = true := by
  have hzu := scaled_eq_zero_iff hu
  have hzv := scaled_eq_zero_iff hv
  rw [Bool.or_eq_true, ← scaled_lt_iff hu hv]
  rcases eq_or_ne u.scaled v.scaled with h | h
  · have hz : u.isZero = v.isZero := by rw [Bool.eq_iff_iff, ← hzu, ← hzv, h]
    unfold rankOf
    rw [h, hz]
    cases v.isZero <;> cases u.sign <;> cases v.sign <;> simp
  · have hz : (u.isZero && v.isZero && u.sign && !v.sign) ≠ true := fun hall => by
      simp only [Bool.and_eq_true] at hall
      obtain ⟨⟨⟨hu0, hv0⟩, _⟩, _⟩ := hall
      exact h ((hzu.2 hu0).trans (hzv.2 hv0).symm)
    have hbu := rankOf_bounds u
    have hbv := rankOf_bounds v
    rw [or_iff_left hz]
    omega

/-- The order of 06 R127. -/
def belowSigned (y z : FV) : Bool := valueBelow y z || (y.isZero && z.isZero && y.sign && !z.sign)

/-- The choice of 06 R127. -/
def pickOrdered (f : Fmt) (nanp larger : Bool) (p q : Nat) : FRes :=
  let u := f.decode p
  let v := f.decode q
  (if u.isNan && v.isNan then f.nanBits
   else if u.isNan then (if nanp then f.nanBits else q)
   else if v.isNan then (if nanp then f.nanBits else p)
   else if larger then (if belowSigned u v then q else p) else (if belowSigned v u then q else p), flagNV (u.isSnan || v.isSnan))

theorem pickMin_eq {f : Fmt} (hf : f ∈ floatFmts) (nanp larger : Bool) (p q : Nat) : pickMin f nanp larger p q = pickOrdered f nanp larger p q := by
  refine Prod.ext ?_ rfl
  show (if _ then _ else if _ then _ else if _ then _ else if (if larger then rankOf (f.decode p) < rankOf (f.decode q) else
    rankOf (f.decode q) < rankOf (f.decode p)) then q else p) = _
  unfold pickOrdered
  dsimp only
  cases hu : (f.decode p).isNan <;> cases hv : (f.decode q).isNan <;> [skip; rfl; rfl; rfl]
  simp only [Bool.and_self, Bool.false_eq_true, if_false]
  have hou := ordered_decode hf hu
  have hov := ordered_decode hf hv
  cases larger <;> simp only [Bool.false_eq_true, if_false, if_true]
  · exact if_congr (rankOf_lt_iff hov hou) rfl rfl
  · exact if_congr (rankOf_lt_iff hou hov) rfl rfl

/-! `fcmp` -/

/-- The comparison of 06 R128. -/
def compares (rel : Rel) (u v : FV) : Bool :=
  let nan := u.isNan || v.isNan
  match rel with
  | .eq => !nan && !valueBelow u v && !valueBelow v u
  | .ne => nan || valueBelow u v || valueBelow v u
  | .lt => !nan && valueBelow u v
  | .le => !nan && !valueBelow v u
  | .gt => !nan && valueBelow v u
  | .ge => !nan && !valueBelow u v
  | .num => !nan
  | .nan => nan

/-- The comparisons that signal for every NaN (06 R128). -/
def signals (rel : Rel) (u v : FV) : Bool :=
  match rel with
  | .lt | .le | .gt | .ge => u.isNan || v.isNan
  | _ => u.isSnan || v.isSnan

theorem fcmpRes_eq (rel : Rel) {u v : FV} (hu : u.isNan = false → FV.Ordered u) (hv : v.isNan = false → FV.Ordered v) :
    fcmpRes rel u v = (if compares rel u v then 1 else 0, flagNV (signals rel u v)) := by
  refine Prod.ext ?_ (by cases rel <;> rfl)
  refine if_congr ?_ rfl rfl
  cases hn : u.isNan || v.isNan
  · obtain ⟨hu', hv'⟩ := Bool.or_eq_false_iff.1 hn
    have huv := scaled_lt_iff (hu hu') (hv hv')
    have hvu := scaled_lt_iff (hv hv') (hu hu')
    generalize u.scaled = a at *
    generalize v.scaled = b at *
    cases rel <;> simp only [compares, hn, Rel.holds, Bool.eq_false_iff, ← huv, ← hvu, Bool.not_false, Bool.true_and, Bool.false_or, Bool.and_eq_true,
      Bool.or_eq_true, Bool.not_eq_true', beq_iff_eq, bne_iff_ne, decide_eq_true_eq, Ne] <;> omega
  · cases rel <;> simp [compares, hn]

/-- Settles O10: `scaled` orders the values as R127 and R128 do, with −0 below +0 by the last place of its rank. -/
theorem floatCompareResults : Obligations.FloatCompareResults := by
  intro c t nanp rel d a b f pick
  refine ⟨?fmin, ?fmax, ?fcmp⟩
  case fmin | fmax =>
    refine yields_of rfl (fun _ => rfl) fun _ _ _ _ _ => ?_
    simp only [pickMin_eq (Ty.fmt_mem t)]
    exact elems_eq _ _
  case fcmp =>
    exact yields_of rfl (fun _ => rfl) fun _ _ _ _ _ => fcmpRes_eq rel (ordered_decode (Ty.fmt_mem t)) (ordered_decode (Ty.fmt_mem t))

end Sys2Proof.Machine
end

section
/-! Classes and parts of values (06 R129–R132): the fields of an encoding, rounding to an integer, scaling and decomposition. -/

namespace Sys2Proof.Machine

/-! The class -/

/-- The class of an encoding with the sign `neg`, the exponent field `ex` and the fraction field `fr` (06 R129). -/
def classOfFields (f : Fmt) (neg : Prop) [Decidable neg] (ex fr : Nat) : Nat :=
  if ex = 2 ^ (f.width - 1 - f.m) - 1 then
    (if fr = 0 then (if neg then 0 else 7) else if fr < 2 ^ (f.m - 1) then 8 else 9)
  else if ex = 0 then
    (if fr = 0 then (if neg then 3 else 4) else if neg then 2 else 5)
  else if neg then 1 else 6

/-- The three fields of the low bits of an encoding. -/
theorem fields_of_low {w m : Nat} (hw : m + 1 ≤ w) (x : Nat) :
    ((x / 2 ^ (w - 1) % 2 == 1) = true ↔ 2 ^ (w - 1) ≤ x % 2 ^ w) ∧
    x % 2 ^ (w - 1) / 2 ^ m = x % 2 ^ w / 2 ^ m % 2 ^ (w - 1 - m) ∧ x % 2 ^ m = x % 2 ^ w % 2 ^ m := by
  have hsign : 2 ^ w = 2 ^ (w - 1) * 2 := by rw [← Nat.pow_succ, show (w - 1).succ = w by omega]
  have hexp : 2 ^ (w - 1) = 2 ^ m * 2 ^ (w - 1 - m) := by rw [← Nat.pow_add, show m + (w - 1 - m) = w - 1 by omega]
  refine ⟨?_, ?_, (Nat.mod_mod_of_dvd _ (Nat.pow_dvd_pow 2 (by omega))).symm⟩
  · have hlt : x % 2 ^ (w - 1) < 2 ^ (w - 1) := Nat.mod_lt _ (Nat.two_pow_pos _)
    rw [beq_iff_eq, hsign, Nat.mod_mul]
    rcases Nat.mod_two_eq_zero_or_one (x / 2 ^ (w - 1)) with h | h <;> rw [h] <;> omega
  · rw [hsign, hexp, Nat.mod_mul_right_div_self, Nat.mul_assoc, Nat.mod_mul_right_div_self, Nat.mod_mod_of_dvd _ (Nat.dvd_mul_right _ _)]

/-- The class of a decoded value is that of its fields, in a layout with infinities and signalling NaNs. -/
theorem classBit_decode {f : Fmt} (hf : Fmt.Regular f) (hi : f.inf = true) (hm : 4 < f.m) (x : Nat) :
    classBit f (f.decode x) =
      classOfFields f (2 ^ (f.width - 1) ≤ x % 2 ^ f.width) (x % 2 ^ f.width / 2 ^ f.m % 2 ^ (f.width - 1 - f.m)) (x % 2 ^ f.width % 2 ^ f.m) := by
  have hw := hf.width
  obtain ⟨hneg, hex, hfr⟩ := fields_of_low (w := f.width) (m := f.m) (by omega) x
  have htop : 2 ^ (f.width - 1 - f.m) - 1 ≠ 0 := by
    have : 2 ^ 1 ≤ 2 ^ (f.width - 1 - f.m) := Nat.pow_le_pow_right (by decide) (by omega)
    omega
  have hlow : x % 2 ^ f.width % 2 ^ f.m < 2 ^ f.m := Nat.mod_lt _ (Nat.two_pow_pos _)
  unfold Fmt.decode classOfFields
  dsimp only
  rw [hex, hfr]
  simp only [← hneg]
  generalize (x / 2 ^ (f.width - 1) % 2 == 1) = neg
  generalize x % 2 ^ f.width / 2 ^ f.m % 2 ^ (f.width - 1 - f.m) = ex
  generalize x % 2 ^ f.width % 2 ^ f.m = fr at *
  rcases eq_or_ne ex 0 with rfl | h0
  · rw [if_pos rfl, if_neg htop.symm, if_pos rfl, classBit, if_pos hlow]
  · rw [if_neg h0, if_neg h0]
    by_cases ht : ex = 2 ^ (f.width - 1 - f.m) - 1
    · rw [if_pos ⟨hi, ht⟩, if_pos ht]
      by_cases hz : fr = 0 <;> simp [hz, hm, classBit]
    · have hpow := Nat.two_pow_pos f.m
      rw [if_neg fun h => ht h.2, if_neg fun h => ht h.2.2.1, if_neg ht, classBit, if_neg (by omega), if_neg (by omega)]

theorem Ty.flt4_cases {t : Ty} (h : Ty.flt4.contains t = true) : t = .f16 ∨ t = .f32 ∨ t = .f64 ∨ t = .bf16 := by
  cases t <;> simp_all [Ty.flt4]

/-! The parts -/

theorem roundInt_toNat (rm : Rm) (s : Bool) (m : Nat) (e : Int) : (roundInt rm s m e).1 = (intPick rm s ((m : ℚ) * (2 : ℚ) ^ e)).toNat := by
  rw [← (roundInt_spec rm s m e).1, Int.toNat_natCast]

theorem clampCount_eq (n : Int) : (if n < -10000 then -10000 else if 10000 < n then 10000 else n) = max (-10000) (min 10000 n) := by
  omega

/-- A result by the kind of the value: a NaN, an infinity or a number. -/
def byKind (nan inf : Bool → FRes) (num : Bool → Nat → Int → FRes) (v : FV) : FRes :=
  match v with
  | .nan sig => nan sig
  | .inf s => inf s
  | .num s m e => num s m e

section
variable (f : Fmt) (rm : Rm) (v : FV)

theorem froundRes_eq : froundRes f rm v = byKind (fun sig => (f.nanBits, flagNV sig)) (fun s => (f.infBits s, 0))
    (fun s m e => ((f.roundTo (.mode .rn) s (intPick rm s ((m : ℚ) * (2 : ℚ) ^ e)).toNat 0).1, 0)) v := by
  cases v with
  | nan _ | inf _ => rfl
  | num s m e => simp only [froundRes, byKind, roundInt_toNat]

theorem fldexpRes_eq (n : Int) : fldexpRes f rm n v = byKind (fun sig => (f.nanBits, flagNV sig)) (fun s => (f.infBits s, 0))
    (fun s m e => f.roundTo (.mode rm) s m (e + max (-10000) (min 10000 n))) v := by
  cases v with
  | nan _ | inf _ => rfl
  | num s m e => simp only [fldexpRes, byKind, clampCount_eq]

theorem ffrexp_fraction (x : Nat) : ffrexpRes f false x = byKind (fun sig => (f.nanBits, flagNV sig)) (fun s => (f.infBits s, 0))
    (fun s m e => if m = 0 then (f.zeroBits s, 0) else f.roundTo (.mode .rn) s m (e - ((Nat.log2 m : Int) + e + 1))) (f.decode x) := by
  unfold ffrexpRes
  cases f.decode x <;> rfl

theorem ffrexp_exponent (x : Nat) : ffrexpRes f true x = byKind (fun sig => (0, flagNV sig)) (fun _ => (0, 0))
    (fun _ m e => (if m = 0 then 0 else modBits 32 ((Nat.log2 m : Int) + e + 1), 0)) (f.decode x) := by
  unfold ffrexpRes
  cases f.decode x with
  | nan _ | inf _ => rfl
  | num s m e => exact (apply_ite (fun r : Nat => ((r, 0) : FRes)) (m = 0) 0 _).symm

end

/-! The statement -/

/-- Settles O11: the class is read off the fields, and the parts are those that `roundTo` makes of the value's mantissa and exponent. -/
theorem floatPartResults : Obligations.FloatPartResults := by
  refine ⟨fun c t d a => gives_of rfl (fun _ => rfl) fun s x g ha l _ => ?_, fun c t rm d a b => ⟨?fround, ?fldexp, ?fraction, ?exponent⟩⟩
  · obtain ⟨hi, hm⟩ : t.fmt.inf = true ∧ 4 < t.fmt.m := by
      rcases Ty.flt4_cases ha.sub with rfl | rfl | rfl | rfl <;> decide
    exact congrArg (2 ^ ·) (classBit_decode (Ty.fmt_regular t) hi hm _)
  case fround => exact yields_of rfl (fun _ => rfl) fun _ _ _ _ _ => froundRes_eq _ rm _
  case fldexp => exact yields_of rfl (fun _ => rfl) fun _ _ _ _ _ => fldexpRes_eq _ rm _ _
  case fraction => exact yields_of rfl (fun _ => rfl) fun _ _ _ _ _ => ffrexp_fraction _ _
  case exponent => exact yields_of rfl (fun _ => rfl) fun _ _ _ _ _ => ffrexp_exponent _ _

end Sys2Proof.Machine
end

section
/-! Reciprocals, roots and the other functions (06 R133): a value between two neighbours of a fine enough grid rounds as the middle of the two does. -/

namespace Sys2Proof.Machine

section
variable {K : Type} [Field K] [LinearOrder K] [IsStrictOrderedRing K] [FloorRing K]

/-! Values between two multiples of a unit -/

/-- The value lies strictly between n and n + 1 units. -/
def Between (u : K) (n : Nat) (a : K) : Prop := n * u < a ∧ a < (n + 1) * u

omit [FloorRing K] in
/-- Such a value is below just the multiples from n + 1 on. -/
theorem Between.lt_iff {u a : K} {n : Nat} (hu : 0 < u) (h : Between u n a) (j : Int) : a < j * u ↔ (n : Int) < j := by
  constructor
  · intro hj
    have := (mul_lt_mul_iff_left₀ hu).1 (h.1.trans hj)
    exact_mod_cast this
  · intro hj
    have : (n : K) + 1 ≤ j := by exact_mod_cast hj
    exact h.2.trans_le (mul_le_mul_of_nonneg_right this hu.le)

omit [FloorRing K] in
theorem Between.gt_iff {u a : K} {n : Nat} (hu : 0 < u) (h : Between u n a) (j : Int) : j * u < a ↔ j ≤ n := by
  constructor
  · intro hj
    have : (j : K) < n + 1 := (mul_lt_mul_iff_left₀ hu).1 (hj.trans h.2)
    exact Int.lt_add_one_iff.1 (by exact_mod_cast this)
  · intro hj
    have : (j : K) ≤ n := by exact_mod_cast hj
    exact (mul_le_mul_of_nonneg_right this hu.le).trans_lt h.1

omit [FloorRing K] in
theorem Between.ne {u a : K} {n : Nat} (hu : 0 < u) (h : Between u n a) (j : Int) : (j : K) * u ≠ a := by
  intro hj
  rcases lt_or_ge (n : Int) j with h' | h'
  · exact ((h.lt_iff hu j).2 h').ne' hj
  · exact ((h.gt_iff hu j).2 h').ne hj

omit [FloorRing K] in
/-- The middle of the two. -/
theorem between_middle (n : Nat) (e : Int) : Between ((2 : K) ^ e) n (((2 * n + 1 : Nat) : K) * 2 ^ (e - 1)) := by
  have hu : (0 : K) < 2 ^ (e - 1) := by positivity
  have hsplit : (2 : K) ^ e = 2 * 2 ^ (e - 1) := by rw [← zpow_one_add₀ two_ne_zero]; congr 1; ring
  constructor <;> push_cast <;> rw [hsplit] <;> nlinarith

theorem Between.log {n : Nat} {e : Int} {a : K} (hn : n ≠ 0) (h : Between ((2 : K) ^ e) n a) : Int.log 2 a = Nat.log2 n + e := by
  have hu : (0 : K) < 2 ^ e := by positivity
  have hpos : (0 : K) < a := (by positivity : (0 : K) ≤ n * 2 ^ e).trans_lt h.1
  have hup : a < (2 : K) ^ ((Nat.log2 n : Int) + e + 1) := by
    have : a < ((2 ^ (Nat.log2 n + 1) : Nat) : Int) * (2 : K) ^ e := (h.lt_iff hu _).2 (by exact_mod_cast Nat.lt_log2_self)
    rw [add_right_comm, zpow_add₀ two_ne_zero]
    exact_mod_cast this
  have hlow : Nat.log2 n + e ≤ Int.log 2 a := log_dyadic (K := K) e hn ▸ Int.log_mono_right (by positivity) h.1.le
  have := (Int.lt_zpow_iff_log_lt one_lt_two hpos).1 (by exact_mod_cast hup : a < ((2 : Nat) : K) ^ ((Nat.log2 n : Int) + e + 1))
  omega

/-! The pick on a grid -/

/-- A pick is a multiple of the spacing. -/
theorem pickOf_multiple (f : Fmt) (mode : RMode) (neg : Bool) (a : K) :
    ∃ j : Int, pickOf f mode neg a = j * (2 : K) ^ (max (Int.log 2 a) f.emin - f.m) := by
  unfold pickOf
  dsimp only
  generalize (2 : K) ^ (max (Int.log 2 a) f.emin - (f.m : Int)) = q
  generalize ⌊a / q⌋ = n
  have hlo : ∃ j : Int, (n : K) * q = j * q := ⟨n, rfl⟩
  have hhi : ∃ j : Int, (n : K) * q + q = j * q := ⟨n + 1, by push_cast; ring⟩
  split
  · exact hlo
  · split <;> repeat' split
    all_goals assumption

/-- Two values of one spacing, which has 2 w units, have the same pick when they lie on the same side of each multiple of the unit. -/
theorem pickOf_congr (f : Fmt) (rm : Rm) (neg : Bool) {a a' u : K} {w : Nat} (hw : 0 < 2 * w * u)
    (hq : (2 : K) ^ (max (Int.log 2 a) f.emin - f.m) = 2 * w * u) (hlog : Int.log 2 a = Int.log 2 a')
    (hlt : ∀ j : Int, a < j * u ↔ a' < j * u) (hgt : ∀ j : Int, j * u < a ↔ j * u < a') :
    pickOf f (.mode rm) neg a = pickOf f (.mode rm) neg a' := by
  have hfloor : ⌊a / (2 * w * u)⌋ = ⌊a' / (2 * w * u)⌋ := by
    refine eq_of_forall_le_iff fun z => ?_
    have := hlt (z * (2 * w))
    push_cast at this
    rw [Int.le_floor, Int.le_floor, le_div_iff₀ hw, le_div_iff₀ hw, ← not_lt, ← not_lt, ← mul_assoc, this]
  unfold pickOf
  dsimp only
  rw [← hlog, hq, ← hfloor]
  generalize ⌊a / (2 * w * u)⌋ = n
  have hexact : a = n * (2 * w * u) ↔ a' = n * (2 * w * u) := by
    have h1 := hlt (n * (2 * w))
    have h2 := hgt (n * (2 * w))
    push_cast at h1 h2
    rw [← mul_assoc, eq_iff_le_not_lt, eq_iff_le_not_lt, ← not_lt, ← not_lt, h1, h2]
  have hhalf : ∀ b : K, (b - n * (2 * w * u) < n * (2 * w * u) + 2 * w * u - b ↔ b < ((n * (2 * w) + w : Int) : K) * u) ∧
      (n * (2 * w * u) + 2 * w * u - b < b - n * (2 * w * u) ↔ ((n * (2 * w) + w : Int) : K) * u < b) := by
    intro b
    push_cast
    constructor <;> constructor <;> intro h <;> linarith
  cases rm <;> simp only [hexact, hhalf, hlt, hgt]

/-- A value between two multiples of a unit of at most half the spacing is rounded as their middle is. -/
theorem correctlyRounds_between {f : Fmt} (hf : Fmt.Regular f) (rm : Rm) (neg : Bool) {n : Nat} {e : Int} {a : K} (hn : 2 ^ (f.m + 1) ≤ n)
    (h : Between ((2 : K) ^ e) n a) : CorrectlyRounds f (.mode rm) neg a (f.roundTo (.mode rm) neg (2 * n + 1) (e - 1)) := by
  have hn0 : n ≠ 0 := by have := Nat.two_pow_pos (f.m + 1); omega
  have hu : (0 : K) < 2 ^ e := by positivity
  have hmid := between_middle (K := K) n e
  have hlog : f.m + 1 ≤ Nat.log2 n := (Nat.le_log2 hn0).2 hn
  have hlogs : Int.log 2 a = Int.log 2 (((2 * n + 1 : Nat) : K) * 2 ^ (e - 1)) := (h.log hn0).trans (hmid.log hn0).symm
  obtain ⟨d, hd⟩ := Int.le.dest (show e + 1 ≤ max (Int.log 2 a) f.emin - f.m by rw [h.log hn0]; omega)
  have hq : (2 : K) ^ (max (Int.log 2 a) f.emin - f.m) = 2 * ((2 ^ d : Nat) : K) * 2 ^ e := by
    rw [← hd, zpow_add₀ two_ne_zero, zpow_add_one₀ two_ne_zero, zpow_natCast]
    push_cast
    ring
  have hpick := pickOf_congr f rm neg (by positivity) hq hlogs (fun j => (h.lt_iff hu j).trans (hmid.lt_iff hu j).symm)
    fun j => (h.gt_iff hu j).trans (hmid.gt_iff hu j).symm
  obtain ⟨j, hj⟩ := pickOf_multiple f (.mode rm) neg a
  have hj' : pickOf f (.mode rm) neg a = ((j * (2 * 2 ^ d) : Int) : K) * 2 ^ e := by rw [hj, hq]; push_cast; ring
  have hround := roundTo_correct (K := K) hf (.mode rm) neg (e - 1) (Nat.succ_ne_zero (2 * n))
  unfold CorrectlyRounds at hround ⊢
  dsimp only at hround ⊢
  have hne : pickOf f (.mode rm) neg a ≠ a := hj' ▸ h.ne hu _
  have hne' : pickOf f (.mode rm) neg a ≠ ((2 * n + 1 : Nat) : K) * 2 ^ (e - 1) := hj' ▸ hmid.ne hu _
  rw [Nat.succ_eq_add_one, ← hpick, if_neg hne'] at hround
  rw [if_neg hne]
  exact hround

/-- `roundSticky` rounds the number itself, or one between its two neighbours. -/
theorem roundSticky_correct {f : Fmt} (hf : Fmt.Regular f) (rm : Rm) (neg : Bool) {n : Nat} {e : Int} {a : K} {inexact : Bool} (hn : 2 ^ (f.m + 1) ≤ n)
    (h : if inexact then Between ((2 : K) ^ e) n a else a = n * 2 ^ e) :
    CorrectlyRounds f (.mode rm) neg a (f.roundSticky (.mode rm) neg n e inexact) := by
  cases inexact with
  | true => exact correctlyRounds_between hf rm neg hn h
  | false =>
    have hn0 : n ≠ 0 := by have := Nat.two_pow_pos (f.m + 1); omega
    have ha : a = n * 2 ^ e := h
    rw [ha]
    exact roundTo_correct hf (.mode rm) neg e hn0

end

end Sys2Proof.Machine
end

section
/-! Reciprocals and roots as the model finds them (06 R133): quotients and integer roots with enough bits, and whether anything remains. -/

namespace Sys2Proof.Machine

/-! The integer root -/

theorem isqrtFrom_spec (n : Nat) : ∀ k acc, acc * acc ≤ n → n < (acc + 2 ^ k) * (acc + 2 ^ k) →
    isqrtFrom n k acc * isqrtFrom n k acc ≤ n ∧ n < (isqrtFrom n k acc + 1) * (isqrtFrom n k acc + 1) := by
  intro k
  induction k with
  | zero => exact fun _ hlo hhi => ⟨hlo, hhi⟩
  | succ k ih =>
    intro acc hlo hhi
    rw [isqrtFrom]
    split
    next h => exact ih _ h (by rwa [Nat.add_assoc, ← Nat.two_mul, ← Nat.pow_succ'])
    next h => exact ih _ hlo (Nat.not_le.1 h)

theorem isqrt_spec (n : Nat) : isqrt n * isqrt n ≤ n ∧ n < (isqrt n + 1) * (isqrt n + 1) := by
  refine isqrtFrom_spec n _ 0 (Nat.zero_le _) ?_
  rw [Nat.zero_add, ← Nat.pow_add]
  exact Nat.lt_log2_self.trans_le (Nat.pow_le_pow_right (by decide) (by omega))

theorem le_isqrt {b n : Nat} (h : b * b ≤ n) : b ≤ isqrt n :=
  Nat.lt_succ_iff.1 (Nat.mul_self_lt_mul_self_iff.1 (h.trans_lt (isqrt_spec n).2))

/-- A real root on a grid, from the integer root below it. -/
theorem sqrt_on_grid {x : ℝ} {r : Nat} {u : ℝ} (hu : 0 < u) (hlo : (r : ℝ) * r ≤ x) (hhi : x < ((r : ℝ) + 1) * (r + 1)) {inexact : Bool}
    (hex : inexact = true ↔ (r : ℝ) * r ≠ x) : if inexact then Between u r (√x * u) else √x * u = r * u := by
  have hle : (r : ℝ) ≤ √x := Real.le_sqrt_of_sq_le (by rwa [sq])
  have hlt : √x < r + 1 := (Real.sqrt_lt' (by positivity)).2 (by rwa [sq])
  split
  next h =>
    have hne : (r : ℝ) ≠ √x := fun e => hex.1 h (by rw [e, Real.mul_self_sqrt ((mul_self_nonneg _).trans hlo)])
    exact ⟨mul_lt_mul_of_pos_right (lt_of_le_of_ne hle hne) hu, mul_lt_mul_of_pos_right hlt hu⟩
  next h =>
    have he : (r : ℝ) * r = x := not_not.1 fun hne => h (hex.2 hne)
    rw [← he, Real.sqrt_mul_self (by positivity)]

/-- A quotient on a grid, from the integer quotient below it. -/
theorem div_on_grid (p : Nat) {m : Nat} (hm : m ≠ 0) {u : ℝ} (hu : 0 < u) :
    if p % m != 0 then Between u (p / m) ((p : ℝ) / m * u) else (p : ℝ) / m * u = (p / m : Nat) * u := by
  have hpos : (0 : ℝ) < m := by positivity
  have hdiv : (p : ℝ) / m = (p / m : Nat) + ((p % m : Nat) : ℝ) / m := by
    have := congrArg (Nat.cast (R := ℝ)) (Nat.div_add_mod p m)
    push_cast at this
    rw [← this]
    field_simp
  have hlt : ((p % m : Nat) : ℝ) / m < 1 := (div_lt_one hpos).2 (by exact_mod_cast Nat.mod_lt _ (by omega))
  rw [hdiv]
  generalize p % m = r at *
  cases r with
  | zero => simp
  | succ r =>
    have hr : (0 : ℝ) < ((r + 1 : Nat) : ℝ) / m := by positivity
    rw [if_pos (by simp)]
    exact ⟨mul_lt_mul_of_pos_right (by linarith) hu, mul_lt_mul_of_pos_right (by linarith) hu⟩

/-- The integer root of a quotient. -/
theorem isqrt_div_spec (p : Nat) {m : Nat} (hm : m ≠ 0) :
    (isqrt (p / m) : ℝ) * isqrt (p / m) ≤ (p : ℝ) / m ∧ (p : ℝ) / m < ((isqrt (p / m) : ℝ) + 1) * (isqrt (p / m) + 1) ∧
    ((isqrt (p / m) * isqrt (p / m) * m != p) = true ↔ (isqrt (p / m) : ℝ) * isqrt (p / m) ≠ (p : ℝ) / m) := by
  have hpos : (0 : ℝ) < m := by positivity
  obtain ⟨hlo, hhi⟩ := isqrt_spec (p / m)
  generalize isqrt (p / m) = r at *
  have hlo' : r * r * m ≤ p := (Nat.le_div_iff_mul_le (by omega)).1 hlo
  have hhi' : p < (r + 1) * (r + 1) * m := (Nat.div_lt_iff_lt_mul (by omega)).1 hhi
  rw [le_div_iff₀ hpos, div_lt_iff₀ hpos, bne_iff_ne, Ne, Ne, eq_div_iff hpos.ne']
  exact ⟨by exact_mod_cast hlo', by exact_mod_cast hhi', by exact_mod_cast Iff.rfl⟩

/-- The same number with an even exponent. -/
theorem evenExp_spec (m : Nat) (e : Int) : ∃ m' h, evenExp m e = (m', 2 * h) ∧ (m' : ℝ) * 2 ^ (2 * h) = m * 2 ^ e ∧ m ≤ m' ∧ m' ≤ 2 * m := by
  unfold evenExp
  split
  next he =>
    obtain ⟨h, rfl⟩ := Int.dvd_of_emod_eq_zero he
    exact ⟨m, h, rfl, rfl, le_rfl, by omega⟩
  next he =>
    obtain ⟨h, rfl⟩ : ∃ h, e = 2 * h + 1 := ⟨e / 2, by omega⟩
    refine ⟨2 * m, h, by rw [add_sub_cancel_right], ?_, by omega, le_rfl⟩
    rw [zpow_add_one₀ two_ne_zero]
    push_cast
    ring

theorem sqrt_mul_even {x : ℝ} (hx : 0 ≤ x) (h : Int) : √(x * 2 ^ (2 * h)) = √x * 2 ^ h := by
  rw [two_mul, zpow_add₀ two_ne_zero, Real.sqrt_mul hx, Real.sqrt_mul_self (by positivity)]

/-! The three functions -/

section
variable {f : Fmt} (rm : Rm) {m : Nat} (e : Int) (hm : m ≠ 0)
include hm

theorem rcp_num (neg : Bool) : f.rcp rm (.num neg m e) = f.roundSticky (.mode rm) neg (2 ^ (Nat.log2 m + 70) / m) (-((Nat.log2 m + 70 : Nat) : Int) - e)
    (2 ^ (Nat.log2 m + 70) % m != 0) := by
  unfold Fmt.rcp
  dsimp only
  rw [if_neg hm]

theorem sqrt_num {m' : Nat} {h : Int} (he : evenExp m e = (m', 2 * h)) : f.sqrt rm (.num false m e) =
    f.roundSticky (.mode rm) false (isqrt (m' * 2 ^ 160)) (h - 80) (isqrt (m' * 2 ^ 160) * isqrt (m' * 2 ^ 160) != m' * 2 ^ 160) := by
  refine (if_neg hm).trans ((if_neg Bool.false_ne_true).trans ?_)
  rw [he]
  dsimp only
  rw [Int.mul_ediv_cancel_left _ two_ne_zero]

theorem rsq_num {m' : Nat} {h : Int} (he : evenExp m e = (m', 2 * h)) : f.rsq rm (.num false m e) =
    f.roundSticky (.mode rm) false (isqrt (2 ^ 400 / m')) (-h - 200) (isqrt (2 ^ 400 / m') * isqrt (2 ^ 400 / m') * m' != 2 ^ 400) := by
  refine (if_neg hm).trans ((if_neg Bool.false_ne_true).trans ?_)
  rw [he]
  dsimp only
  rw [Int.mul_ediv_cancel_left _ two_ne_zero]

variable (hf : Fmt.Regular f) (hfm : f.m ≤ 52)
include hf hfm

theorem rcp_correct (neg : Bool) : CorrectlyRounds f (.mode rm) neg ((m : ℝ) * 2 ^ e)⁻¹ (f.rcp rm (.num neg m e)) := by
  have hval : ((m : ℝ) * 2 ^ e)⁻¹ = ((2 ^ (Nat.log2 m + 70) : Nat) : ℝ) / m * 2 ^ (-((Nat.log2 m + 70 : Nat) : Int) - e) := by
    rw [sub_eq_add_neg, zpow_add₀ two_ne_zero, zpow_neg, zpow_neg, zpow_natCast]
    push_cast
    field_simp
  have hn : 2 ^ (f.m + 1) * m ≤ 2 ^ (Nat.log2 m + 70) := calc
    2 ^ (f.m + 1) * m ≤ 2 ^ (f.m + 1) * 2 ^ (Nat.log2 m + 1) := Nat.mul_le_mul_left _ Nat.lt_log2_self.le
    _ = 2 ^ (f.m + 1 + (Nat.log2 m + 1)) := (Nat.pow_add ..).symm
    _ ≤ 2 ^ (Nat.log2 m + 70) := Nat.pow_le_pow_right (by decide) (by omega)
  rw [rcp_num rm e hm, hval]
  generalize 2 ^ (Nat.log2 m + 70) = p at *
  exact roundSticky_correct hf rm neg ((Nat.le_div_iff_mul_le (Nat.pos_of_ne_zero hm)).2 hn) (div_on_grid p hm (by positivity))

theorem sqrt_correct : CorrectlyRounds f (.mode rm) false (√((m : ℝ) * 2 ^ e)) (f.sqrt rm (.num false m e)) := by
  obtain ⟨m', h, he, hval, hle, _⟩ := evenExp_spec m e
  have hgrid : √((m : ℝ) * 2 ^ e) = √((m' * 2 ^ 160 : Nat) : ℝ) * 2 ^ (h - 80) := by
    rw [← hval, ← sqrt_mul_even (Nat.cast_nonneg _)]
    congr 1
    rw [show 2 * h = ((160 : Nat) : Int) + 2 * (h - 80) by push_cast; ring, zpow_add₀ two_ne_zero, zpow_natCast]
    push_cast
    ring
  obtain ⟨hlo, hhi⟩ := isqrt_spec (m' * 2 ^ 160)
  rw [sqrt_num rm e hm he, hgrid]
  refine roundSticky_correct hf rm false ?_ (sqrt_on_grid (by positivity) (by exact_mod_cast hlo) (by exact_mod_cast hhi) ?_)
  · refine le_isqrt ?_
    calc 2 ^ (f.m + 1) * 2 ^ (f.m + 1) = 2 ^ (f.m + 1 + (f.m + 1)) := (Nat.pow_add ..).symm
      _ ≤ 2 ^ 160 := Nat.pow_le_pow_right (by decide) (by omega)
      _ ≤ m' * 2 ^ 160 := Nat.le_mul_of_pos_left _ (by omega)
  · rw [bne_iff_ne]
    exact_mod_cast Iff.rfl

theorem rsq_correct (hlt : m < 2 ^ 53) : CorrectlyRounds f (.mode rm) false (√((m : ℝ) * 2 ^ e))⁻¹ (f.rsq rm (.num false m e)) := by
  obtain ⟨m', h, he, hval, hle, hle'⟩ := evenExp_spec m e
  have hm' : m' ≠ 0 := by omega
  have hm54 : m' ≤ 2 ^ 54 := by omega
  have hgrid : (√((m : ℝ) * 2 ^ e))⁻¹ = √(((2 ^ 400 : Nat) : ℝ) / m') * 2 ^ (-h - 200) := by
    rw [← hval, ← Real.sqrt_inv, ← sqrt_mul_even (by positivity)]
    congr 1
    rw [show 2 * (-h - 200) = -((400 : Nat) : Int) + -(2 * h) by push_cast; ring, zpow_add₀ two_ne_zero, zpow_neg, zpow_neg, zpow_natCast, Nat.cast_pow,
      Nat.cast_ofNat]
    generalize (2 : ℝ) ^ (2 * h) = y
    field_simp
  have hbits : f.m + 1 + (f.m + 1) + 54 ≤ 400 := by omega
  obtain ⟨hlo, hhi, hex⟩ := isqrt_div_spec (2 ^ 400) hm'
  rw [rsq_num rm e hm he, hgrid]
  refine roundSticky_correct hf rm false (le_isqrt ?_) (sqrt_on_grid (by positivity) hlo hhi hex)
  rw [Nat.le_div_iff_mul_le (Nat.pos_of_ne_zero hm')]
  refine (Nat.mul_le_mul_left _ hm54).trans ?_
  rw [← Nat.pow_add, ← Nat.pow_add]
  exact pow_le_pow_right₀ one_le_two hbits

end

/-! The words -/

/-- The value of a function by its table: for zeros, infinities, NaNs and, where `below` says so, negative numbers (06 R133). -/
def specialOr (f : Fmt) (zero inf : Bool → FRes) (below : Bool) (other : FV → FRes) (v : FV) : FRes :=
  match v with
  | .nan sig => (f.nanBits, flagNV sig)
  | .inf s => inf s
  | .num s m e => if m = 0 then zero s else if below && s then (f.nanBits, 0x10#8) else other (.num s m e)

/-- A result that is the table's for the values in it, and the function's own for all others. -/
theorem eq_specialOr {f : Fmt} {zero inf : Bool → FRes} {below : Bool} {other : FV → FRes} {v : FV} {r : FRes}
    (hnan : ∀ s, v = .nan s → r = (f.nanBits, flagNV s)) (hinf : ∀ s, v = .inf s → r = inf s) (hzero : ∀ s e, v = .num s 0 e → r = zero s)
    (hbelow : ∀ m e, v = .num true m e → m ≠ 0 → below = true → r = (f.nanBits, 0x10#8)) (hother : r = other v) :
    r = specialOr f zero inf below other v := by
  cases v with
  | nan s => exact hnan s rfl
  | inf s => exact hinf s rfl
  | num s m e =>
    show r = if m = 0 then zero s else if below && s then (f.nanBits, 0x10#8) else other (.num s m e)
    split_ifs with hm hb
    · subst hm; exact hzero s e rfl
    · obtain ⟨hbelow', rfl⟩ := (Bool.and_eq_true ..).mp hb
      exact hbelow m e rfl hm hbelow'
    · exact hother

section
variable (f : Fmt) (rm : Rm)

theorem rcp_table (v : FV) : f.rcp rm v = specialOr f (fun s => (f.infBits s, 0x08#8)) (fun s => (f.zeroBits s, 0)) false (f.rcp rm) v := by
  refine eq_specialOr ?_ ?_ ?_ (fun _ _ _ _ hb => absurd hb Bool.false_ne_true) rfl <;> (intros; subst v; rfl)

theorem rsq_table (v : FV) : f.rsq rm v =
    specialOr f (fun s => (f.infBits s, 0x08#8)) (fun s => if s then (f.nanBits, 0x10#8) else (f.zeroBits false, 0)) true (f.rsq rm) v := by
  refine eq_specialOr ?_ ?_ ?_ (fun m e h hm _ => ?_) rfl
  case refine_4 => subst h; exact (if_neg hm).trans (if_pos rfl)
  all_goals intros; subst v; rfl

theorem sqrt_table (v : FV) : f.sqrt rm v =
    specialOr f (fun s => (f.zeroBits s, 0)) (fun s => if s then (f.nanBits, 0x10#8) else (f.infBits false, 0)) true (f.sqrt rm) v := by
  refine eq_specialOr ?_ ?_ ?_ (fun m e h hm _ => ?_) rfl
  case refine_4 => subst h; exact (if_neg hm).trans (if_pos rfl)
  all_goals intros; subst v; rfl

variable (x : Nat)

theorem exp2_table : f.exp2 x = specialOr f (fun _ => f.roundTo (.mode .rn) false 1 0)
    (fun s => if s then (f.zeroBits false, 0) else (f.infBits false, 0)) false (fun _ => f.exp2 x) (f.decode x) := by
  refine eq_specialOr (fun _ h => ?_) (fun _ h => ?_) (fun _ _ h => ?_) (fun _ _ _ _ hb => absurd hb Bool.false_ne_true) rfl <;>
    simp only [Fmt.exp2, h] <;> rfl

theorem log2_table : f.log2 x = specialOr f (fun _ => (f.infBits true, 0x08#8))
    (fun s => if s then (f.nanBits, 0x10#8) else (f.infBits false, 0)) true (fun _ => f.log2 x) (f.decode x) := by
  refine eq_specialOr (fun _ h => ?_) (fun _ h => ?_) (fun _ _ h => ?_) (fun m e h hm _ => ?_) rfl
  case refine_4 => simp only [Fmt.log2, h, if_neg hm, if_true]
  all_goals simp only [Fmt.log2, h] <;> rfl

theorem sin_table : f.trig false x =
    specialOr f (fun s => (f.zeroBits s, 0)) (fun _ => (f.nanBits, 0x10#8)) false (fun _ => f.trig false x) (f.decode x) := by
  refine eq_specialOr (fun _ h => ?_) (fun _ h => ?_) (fun _ _ h => ?_) (fun _ _ _ _ hb => absurd hb Bool.false_ne_true) rfl <;>
    simp only [Fmt.trig, h] <;> rfl

theorem cos_table : f.trig true x =
    specialOr f (fun _ => f.roundTo (.mode .rn) false 1 0) (fun _ => (f.nanBits, 0x10#8)) false (fun _ => f.trig true x) (f.decode x) := by
  refine eq_specialOr (fun _ h => ?_) (fun _ h => ?_) (fun _ _ h => ?_) (fun _ _ _ _ hb => absurd hb Bool.false_ne_true) rfl <;>
    simp only [Fmt.trig, h] <;> rfl

end

/-- Settles O12: the table's special cases are the model's, and a quotient or root of more bits than the format has is rounded with its remainder. -/
theorem floatFunctionResults : Obligations.FloatFunctionResults := by
  intro c t rm d a f special one
  refine ⟨?frcp, ?frsq, ?fsqrt, ?fexp2, ?flog2, ?fsin, ?fcos, ?rounds⟩
  case frcp => exact yields_of rfl (fun _ => rfl) fun s x g _ l => rcp_table _ rm _
  case frsq => exact yields_of rfl (fun _ => rfl) fun s x g _ l => rsq_table _ rm _
  case fsqrt => exact yields_of rfl (fun _ => rfl) fun s x g _ l => sqrt_table _ rm _
  case fexp2 => exact yields_of rfl (fun _ => rfl) fun s x g _ l => exp2_table _ _
  case flog2 => exact yields_of rfl (fun _ => rfl) fun s x g _ l => log2_table _ _
  case fsin => exact yields_of rfl (fun _ => rfl) fun s x g _ l => sin_table _ _
  case fcos => exact yields_of rfl (fun _ => rfl) fun s x g _ l => cos_table _ _
  case rounds =>
    intro ht x neg m e hx hm v
    have hfm : t.fmt.m ≤ 52 := by rcases ht with rfl | rfl <;> decide
    have hf := Ty.fmt_regular t
    have hlt : m < 2 ^ 53 := (decode_num hf hx).1.trans_le (Nat.pow_le_pow_right (by decide) (Nat.succ_le_succ hfm))
    exact ⟨rcp_correct rm e hm hf hfm neg, rsq_correct rm e hm hf hfm hlt, sqrt_correct rm e hm hf hfm⟩

end Sys2Proof.Machine
end

section
/-! The wide accumulator (06 R139–R142): the integer of the window, and the exact terms added to it. -/

namespace Sys2Proof.Machine

/-! The window -/

theorem length_toWords (n : Nat) : ∀ v, (toWords n v).length = n := by
  induction n with
  | zero => exact fun _ => rfl
  | succ n ih => exact fun v => congrArg Nat.succ (ih _)

theorem length_srcWords (s : State) (k : Ctx) (n l : Nat) (o : Opnd) : (k.srcWords s n l o).length = n := by
  cases o with
  | v i => simp [Ctx.srcWords, Lane.regs]
  | _ => exact length_toWords _ _

theorem ofWords_lt (ws : List Word) : ofWords ws < 2 ^ (32 * ws.length) := by
  induction ws with
  | nil => simp [ofWords]
  | cons w ws ih =>
    have hw : w.toNat < 2 ^ 32 := w.isLt
    rw [ofWords, List.length_cons, Nat.mul_succ, Nat.add_comm, Nat.pow_add, Nat.mul_comm (2 ^ (32 * ws.length))]
    generalize 2 ^ (32 * ws.length) = p at *
    omega

/-- The two's complement reading of `w` = p + 1 bits. -/
theorem toInt_ofNat_eq {p w n : Nat} (hw : w = p + 1) (hn : n < 2 ^ w) : (if 2 ^ p ≤ n then (n : Int) - 2 ^ w else n) = (BitVec.ofNat w n).toInt := by
  subst hw
  have hpow : 2 ^ (p + 1) = 2 * 2 ^ p := Nat.pow_succ'
  rw [BitVec.toInt_eq_toNat_cond, BitVec.toNat_ofNat, Nat.mod_eq_of_lt hn]
  split
  · rw [if_neg (by omega)]; push_cast; rfl
  · rw [if_pos (by omega)]

theorem toInt_bounds {p w : Nat} (hw : w = p + 1) (x : BitVec w) : -2 ^ p ≤ x.toInt ∧ x.toInt < 2 ^ p := by
  subst hw
  exact ⟨BitVec.le_toInt x, BitVec.toInt_lt⟩

/-- The window's integer as the model reads it (06 R139). -/
theorem windowVal_eq {ws : List Word} (h : ws.length = 16) : windowVal ws = windowInt ws := by
  have hlt := ofWords_lt ws
  rw [h, show 32 * 16 = 512 from rfl] at hlt
  unfold windowVal windowInt
  exact toInt_ofNat_eq (p := 511) (w := 512) rfl hlt

theorem windowInt_bounds (ws : List Word) : -2 ^ 511 ≤ windowInt ws ∧ windowInt ws < 2 ^ 511 := toInt_bounds (p := 511) rfl _

/-! Units -/

/-- The integer part of v × 2^sh, and whether anything is dropped. -/
def floorScaled (v sh : Int) : Int × Bool :=
  if 0 ≤ sh then (v * 2 ^ sh.toNat, false) else (v / 2 ^ (-sh).toNat, v % 2 ^ (-sh).toNat != 0)

/-- The shift to which the model holds a term's exponent in units. -/
def clampShift (sh : Int) : Int := max (-5000) (min 1200 sh)

theorem clampShift_of_far {sh : Int} (h : 1200 < sh) : clampShift sh = 1200 := by unfold clampShift; omega
theorem clampShift_of_near {sh : Int} (h : -5000 ≤ sh) (h' : sh ≤ 1200) : clampShift sh = sh := by unfold clampShift; omega
theorem clampShift_of_tiny {sh : Int} (h : sh < -5000) : clampShift sh = -((5000 : Nat) : Int) := by unfold clampShift; omega

/-- A mantissa with its sign. -/
def signedMant (neg : Bool) (m : Nat) : Int := if neg then -(m : Int) else m

theorem abs_signedMant (neg : Bool) (m : Nat) : |signedMant neg m| = m := by cases neg <;> simp [signedMant]

theorem windowUnits_eq (s : Bool) (m : Nat) (e b : Int) :
    windowUnits s m e b = floorScaled (signedMant s m) (clampShift (e - b + 256)) := by
  have hclamp : ∀ sh : Int, (if sh < -5000 then -5000 else if 1200 < sh then 1200 else sh) = clampShift sh := fun sh => by unfold clampShift; omega
  unfold windowUnits
  dsimp only
  rw [hclamp]
  rfl

/-- An integer part over a power of 2. -/
theorem floor_div_pow (v : Int) (k : Nat) : ⌊(v : ℚ) * 2 ^ (-(k : Int))⌋ = v / 2 ^ k ∧
    ((⌊(v : ℚ) * 2 ^ (-(k : Int))⌋ : ℚ) = v * 2 ^ (-(k : Int)) ↔ v % 2 ^ k = 0) := by
  have hpow : (0 : ℚ) < 2 ^ k := by positivity
  have hval : (v : ℚ) * 2 ^ (-(k : Int)) = (v : ℚ) / ((2 ^ k : Nat) : ℚ) := by rw [zpow_neg, zpow_natCast, div_eq_mul_inv]; push_cast; rfl
  have hfloor : ⌊(v : ℚ) / ((2 ^ k : Nat) : ℚ)⌋ = v / 2 ^ k := by rw [Int.floor_div_natCast, Int.floor_intCast]; push_cast; rfl
  rw [hval, hfloor]
  refine ⟨rfl, ?_⟩
  have := Int.mul_ediv_add_emod v (2 ^ k)
  rw [Nat.cast_pow, Nat.cast_ofNat, eq_div_iff hpow.ne', show (((v / 2 ^ k : Int) : ℚ) * 2 ^ k = v ↔ v / 2 ^ k * 2 ^ k = v) by exact_mod_cast Iff.rfl]
  constructor <;> intro h <;> linarith

theorem floorScaled_of_nonneg (v : Int) {sh : Int} (h : 0 ≤ sh) : (floorScaled v sh).1 = v * 2 ^ sh.toNat := by
  rw [floorScaled, if_pos h]

theorem floorScaled_spec (v sh : Int) :
    (floorScaled v sh).1 = ⌊(v : ℚ) * 2 ^ sh⌋ ∧ ((floorScaled v sh).2 = true ↔ (⌊(v : ℚ) * 2 ^ sh⌋ : ℚ) ≠ v * 2 ^ sh) := by
  unfold floorScaled
  split
  next h =>
    obtain ⟨k, rfl⟩ := Int.eq_ofNat_of_zero_le h
    have hval : (v : ℚ) * 2 ^ ((k : Nat) : Int) = ((v * 2 ^ k : Int) : ℚ) := by push_cast; rw [zpow_natCast]
    rw [hval, Int.floor_intCast]
    simp
  next h =>
    obtain ⟨k, hk⟩ : ∃ k : Nat, sh = -(k : Int) := ⟨(-sh).toNat, by omega⟩
    subst hk
    obtain ⟨hfloor, hexact⟩ := floor_div_pow v k
    rw [neg_neg, Int.toNat_natCast]
    exact ⟨hfloor.symm, by rw [bne_iff_ne, Ne, Ne, hexact]⟩

/-- Far below a unit only the sign is left. -/
theorem floor_tiny {v : Int} {k : Nat} (h : |v| < 2 ^ k) : ⌊(v : ℚ) * 2 ^ (-(k : Int))⌋ = (if v < 0 then -1 else 0) ∧
    ((⌊(v : ℚ) * 2 ^ (-(k : Int))⌋ : ℚ) = v * 2 ^ (-(k : Int)) ↔ v = 0) := by
  obtain ⟨hlo, hhi⟩ := abs_lt.1 h
  obtain ⟨hfloor, hexact⟩ := floor_div_pow v k
  rw [hexact, hfloor]
  generalize (2 : Int) ^ k = p at *
  split
  next hneg =>
    refine ⟨?_, ?_⟩
    · rw [Int.ediv_eq_iff_of_pos (by omega)]; omega
    · rw [← Int.add_emod_right, Int.emod_eq_of_lt (by omega) (by omega)]; omega
  next hneg => rw [Int.ediv_eq_zero_of_lt (by omega) hhi, Int.emod_eq_of_lt (by omega) hhi]; exact ⟨rfl, Iff.rfl⟩

/-! A step of the window -/

/-- Outside the range of a window of p + 1 bits. -/
def Outside (p : Nat) (n : Int) : Prop := n < -2 ^ p ∨ 2 ^ p ≤ n

section
variable {p w : Nat} (hw : w = p + 1) {W : Int} (hW : -2 ^ p ≤ W ∧ W < 2 ^ p) {v : Int}

/-- A term that is a multiple of the window's size changes none of its bits. -/
theorem modBits_add_far {j : Nat} (hj : w ≤ j) : modBits w (W + v * 2 ^ j) = modBits w W := by
  refine modBits_congr ?_
  obtain ⟨d, rfl⟩ := Nat.le.dest hj
  rw [pow_add, mul_left_comm]
  exact Int.modEq_iff_dvd.2 ⟨-(v * 2 ^ d), by ring⟩

include hw hW

theorem outside_add_far (hv : v ≠ 0) {j : Nat} (hj : w ≤ j) : Outside p (W + v * 2 ^ j) := by
  have hpow : (2 : Int) * 2 ^ p ≤ 2 ^ j := by
    rw [← pow_succ', ← hw]
    exact pow_le_pow_right₀ one_le_two hj
  have hpos : (0 : Int) < 2 ^ p := by positivity
  unfold Outside
  generalize (2 : Int) ^ j = y at *
  generalize (2 : Int) ^ p = x at *
  rcases lt_or_gt_of_ne hv with h | h
  · left; nlinarith
  · right; nlinarith

/-- A term in units adds to the window what the model's, clamped to its range, adds: the same bits, and the same loss. -/
theorem window_step (hj : w ≤ 1200) (hv : |v| < 2 ^ 5000) (sh : Int) :
    let q := floorScaled v (clampShift sh)
    let n := W + ⌊(v : ℚ) * 2 ^ sh⌋
    modBits w (W + q.1) = modBits w n ∧ ((q.2 = true ∨ Outside p (W + q.1)) ↔ ((⌊(v : ℚ) * 2 ^ sh⌋ : ℚ) ≠ v * 2 ^ sh ∨ Outside p n)) := by
  obtain ⟨hval, hlost⟩ := floorScaled_spec v (clampShift sh)
  dsimp only
  rcases lt_or_ge 1200 sh with h | h
  · rcases eq_or_ne v 0 with rfl | hv0
    · rw [hlost, hval]; simp
    · have hfar : ⌊(v : ℚ) * 2 ^ sh⌋ = v * 2 ^ sh.toNat := by rw [← (floorScaled_spec v sh).1, floorScaled_of_nonneg v (by omega)]
      rw [clampShift_of_far h, floorScaled_of_nonneg v (by decide), hfar]
      refine ⟨?_, iff_of_true (.inr (outside_add_far hw hW hv0 hj)) (.inr (outside_add_far hw hW hv0 (by omega)))⟩
      rw [modBits_add_far (by omega), modBits_add_far (by omega)]
  · have hsame : ⌊(v : ℚ) * 2 ^ clampShift sh⌋ = ⌊(v : ℚ) * 2 ^ sh⌋ ∧
        ((⌊(v : ℚ) * 2 ^ clampShift sh⌋ : ℚ) = v * 2 ^ clampShift sh ↔ (⌊(v : ℚ) * 2 ^ sh⌋ : ℚ) = v * 2 ^ sh) := by
      rcases le_or_gt (-5000) sh with h' | h'
      · rw [clampShift_of_near h' h]; exact ⟨rfl, Iff.rfl⟩
      · obtain ⟨k, hk⟩ : ∃ k : Nat, sh = -(k : Int) := ⟨(-sh).toNat, by omega⟩
        obtain ⟨h1, h2⟩ := floor_tiny hv
        obtain ⟨h3, h4⟩ := floor_tiny (k := k) (hv.trans_le (pow_le_pow_right₀ one_le_two (by omega)))
        rw [clampShift_of_tiny h', hk, h2, h4, h1, h3]
        exact ⟨rfl, Iff.rfl⟩
    rw [hlost, hval, hsame.1, Ne, Ne, ← hsame.2, hsame.1]
    exact ⟨rfl, Iff.rfl⟩

end

/-! The words -/

/-- A number, or nothing where there is none. -/
def numberOf (v : FV) : Option ℚ := if FV.finite v then some (ratOf v) else none

/-- The window after one contribution (06 R141). -/
def windowSum (ws : List Word) (neg : Bool) (b : Int) (t : Option ℚ) : FRes :=
  match t with
  | none => (ofWords ws, 0x30#8)
  | some t =>
    let u : ℚ := (2 : ℚ) ^ (b - 256)
    let t := if neg then -t else t
    let n : Int := windowInt ws + ⌊t / u⌋
    (modBits 512 n, if (⌊t / u⌋ : ℚ) * u ≠ t ∨ n < -2 ^ 511 ∨ 2 ^ 511 ≤ n then 0x20#8 else 0x00#8)

/-- A contribution in units of the window. -/
theorem contribution_units (s neg : Bool) (m : Nat) (e b : Int) :
    (if neg then -ratOf (.num s m e) else ratOf (.num s m e)) = (signedMant (s != neg) m : ℚ) * 2 ^ (e - b + 256) * 2 ^ (b - 256) := by
  rw [mul_assoc, ← zpow_add₀ two_ne_zero, show e - b + 256 + (b - 256) = e by ring]
  cases s <;> cases neg <;> simp [ratOf, signedMant]

/-- One contribution as the model adds it. -/
theorem windowAdd_num {ws : List Word} (hws : ws.length = 16) (s neg : Bool) (m : Nat) (e b : Int) :
    windowAdd ws neg b (.num s m e) =
      let q := floorScaled (signedMant (s != neg) m) (clampShift (e - b + 256))
      (modBits 512 (windowInt ws + q.1), if q.2 = true ∨ windowInt ws + q.1 < -2 ^ 511 ∨ 2 ^ 511 ≤ windowInt ws + q.1 then 0x20#8 else 0x00#8) := by
  unfold windowAdd
  dsimp only
  rw [windowUnits_eq, windowVal_eq hws]
  simp only [Bool.or_eq_true, decide_eq_true_eq, or_assoc]
  rfl

theorem windowAdd_eq {ws : List Word} (hws : ws.length = 16) (neg : Bool) (b : Int) {v : FV} (hv : ∀ s m e, v = .num s m e → m < 2 ^ 106) :
    windowAdd ws neg b v = windowSum ws neg b (numberOf v) := by
  cases v with
  | nan _ | inf _ => rfl
  | num s m e =>
    have hu : (2 : ℚ) ^ (b - 256) ≠ 0 := by positivity
    have habs : |signedMant (s != neg) m| < 2 ^ 5000 := by
      have hlt : (m : Int) < 2 ^ 106 := by exact_mod_cast hv s m e rfl
      rw [abs_signedMant]
      exact hlt.trans_le (pow_le_pow_right₀ one_le_two (by decide))
    obtain ⟨hbits, hflag⟩ := window_step (p := 511) (w := 512) rfl (windowInt_bounds ws) (by decide) habs (e - b + 256)
    rw [windowAdd_num hws]
    show _ = windowSum ws neg b (some (ratOf (.num s m e)))
    unfold windowSum
    dsimp only
    rw [contribution_units, mul_div_cancel_right₀ _ hu]
    exact congrArg₂ Prod.mk hbits (if_congr (hflag.trans (or_congr (mul_left_injective₀ hu).ne_iff.symm Iff.rfl)) rfl rfl)

theorem wbaseRes_eq (v : FV) (b : Nat) :
    wbaseRes v b = if FV.finite v then
        modBits 32 ((if |ratOf v| = 0 then -1075 else Int.log 2 |ratOf v|) + 1 + (min b 255 : Nat) - 255)
      else 0x7FFFFFFF := by
  cases v with
  | nan _ | inf _ => rfl
  | num s m e =>
    have hexp : (if (m : ℚ) * 2 ^ e = 0 then -1075 else Int.log 2 ((m : ℚ) * 2 ^ e)) = if m = 0 then -1075 else (Nat.log2 m : Int) + e := by
      rcases eq_or_ne m 0 with rfl | hm
      · simp
      · rw [if_neg (by positivity), if_neg hm, log_dyadic e hm]
    rw [abs_ratOf_num, hexp]
    rfl

/-! The contributions -/

theorem decode_f64_lt {x : Nat} {s : Bool} {m : Nat} {e : Int} (h : Fmt.f64.decode x = .num s m e) : m < 2 ^ 53 :=
  (decode_num (floatFmts_regular (by decide)) h).1

/-- The term of a product; a factor that is not finite makes it none (06 R141). -/
def productTerm (u v : FV) : FV := if u.isNan || u.isInf || v.isNan || v.isInf then .nan false else u.mul v

theorem numberOf_productTerm (u v : FV) : numberOf (productTerm u v) = if FV.finite u && FV.finite v then some (ratOf u * ratOf v) else none := by
  cases u with
  | nan _ | inf _ => rfl
  | num s m e =>
    cases v with
    | nan _ | inf _ => rfl
    | num s' m' e' => exact congrArg some (ratOf_mul (a := .num s m e) (b := .num s' m' e') rfl rfl (by simp [FV.badProd, FV.isInf]))

theorem productTerm_lt {u v : FV} (hu : ∀ s m e, u = .num s m e → m < 2 ^ 53) (hv : ∀ s m e, v = .num s m e → m < 2 ^ 53)
    {s : Bool} {m : Nat} {e : Int} (h : productTerm u v = .num s m e) : m < 2 ^ 106 := by
  cases u with
  | nan _ | inf _ => cases h
  | num s₁ m₁ e₁ =>
    cases v with
    | nan _ | inf _ => cases h
    | num s₂ m₂ e₂ =>
      cases h
      calc m₁ * m₂ < 2 ^ 53 * 2 ^ 53 := Nat.mul_lt_mul'' (hu _ _ _ rfl) (hv _ _ _ rfl)
        _ = 2 ^ 106 := (Nat.pow_add 2 53 53).symm

/-! The statement -/

/-- Settles O15: a term adds its floor in units of the window, and the clamp of its shift changes neither the bits nor what is lost. -/
theorem wideAccumulatorResults : Obligations.WideAccumulatorResults := by
  intro c neg rm d a b cc add f64 finite
  refine ⟨?wclr, ?wbase, ?wfma, ?wadd, ?wsign, ?wrnd⟩
  case wclr => exact gives_of rfl (fun _ => rfl) fun _ _ _ _ _ _ => rfl
  case wbase => exact gives_of rfl (fun _ => rfl) fun _ _ _ _ _ _ => wbaseRes_eq _ _
  case wfma =>
    refine yields_of rfl (fun _ => rfl) fun s x g _ l => ?_
    refine (windowAdd_eq (length_srcWords ..) _ _ fun _ _ _ => productTerm_lt (fun _ _ _ => decode_f64_lt) fun _ _ _ => decode_f64_lt).trans ?_
    rw [numberOf_productTerm]
    rfl
  case wadd =>
    exact yields_of rfl (fun _ => rfl) fun s x g _ l => windowAdd_eq (length_srcWords ..) _ _ fun _ _ _ h =>
      (decode_f64_lt h).trans (Nat.pow_lt_pow_right (by decide) (by decide))
  case wsign =>
    refine gives_of rfl (fun _ => rfl) fun s x g _ l _ => ?_
    rw [windowVal_eq (length_srcWords ..), Ctx.srcWords_began]
    dsimp only
    split_ifs <;> omega
  case wrnd =>
    refine yields_of rfl (fun _ => rfl) fun s x g _ l => ?_
    rw [windowVal_eq (length_srcWords ..), Ctx.srcWords_began, Ctx.src32_began]
    dsimp only
    split
    next h => rw [h]; rfl
    next h => rfl

end Sys2Proof.Machine
end

section
/-! Matrix words: the checks that they share, and the queue of the engine that they join (07 R146–R162, 08 R175–R177). -/

namespace Sys2Proof.Machine

open Host (Outcome)

/-! The limit of four outstanding commands (07 R148) -/

section
variable {i : Instr} {s : State} {x : Issue} {g : Group} {go : Ctx → State → State}

/-- With fewer than four commands outstanding, an engine word does what comes after that check. -/
theorem exec_of_room (he : exec i s = withIssue i s (fun k s => engineWord k s (go k))) (ha : Accepts i s x g)
    (hs : (ctxOf i s x g).sel ≠ 0) (hq : (s.core g.core).eq.length < 4) :
    exec i s = .next (go (ctxOf i s x g) (s.entered i x g)) := by
  rw [he, withIssue_of_accepts ha]
  exact congrArg Outcome.next ((if_neg hs).trans (if_neg (Nat.not_le.2 hq)))

/-- With four commands outstanding, an engine word parks its lanes. -/
theorem parksAll_of_full (he : exec i s = withIssue i s (fun k s => engineWord k s (go k))) (hlen : g.lanes.length = 64)
    (hidle : g.hphase = .idle) (ha : Accepts i s x g) (hq : 4 ≤ (s.core g.core).eq.length) :
    ParksAll i s x g (fun _ => { trap := 5, cause := 3 }) := by
  refine parksAll_of_fold (step := fun t l => t.parkLane (ctxOf i s x g) l { trap := 5, cause := 3 }) ha hlen hidle he ?_
    fun t ht l => State.parkLane_entered ht l _
  by_cases hs : (ctxOf i s x g).sel = 0
  · rw [Ctx.lanes_of_sel_zero hs]; exact if_pos hs
  · exact (if_neg hs).trans (if_pos hq)

/-- Parking each lane of a word, outside a handler, is one change of its group. -/
theorem parkEach_entered (hidle : g.hphase = .idle) (trap cause : Nat) (targ : Nat → Word) :
    (s.entered i x g).parkEach (ctxOf i s x g) trap cause targ = (s.entered i x g).modGroup x.gid (fun y =>
      y.onLanes (ctxOf i s x g).lanes (fun l => Lane.parkOnce x.pc { trap := trap, cause := cause, targ := targ l, word := x.word })) :=
  State.foldl_onLanes (lanesOf_nodup _) (tget_entered s i x g) fun t h ht hh hs l _ => by
    rw [State.parkLane_entered hs]
    exact State.park_of_plain ht (.inl (Group.parksPlain_of_idle (by rw [hh]; simp [hidle]) l)) _ _

end

/-! A command in the queue -/

/-- A group that a command joins as a batch member; with `cls` set the batch closes (07 R157, 10 R214). -/
def Group.enlist (g : Group) (id : Nat) (busy : List Busy) (cls : Bool) : Group :=
  if cls then (g.join id busy).close else g.join id busy

@[simp] theorem Group.enlist_pend (g : Group) (id : Nat) (busy : List Busy) (cls : Bool) : (g.enlist id busy cls).pend = g.pend := by
  cases cls <;> rfl

@[simp] theorem Group.enlist_lanes (g : Group) (id : Nat) (busy : List Busy) (cls : Bool) : (g.enlist id busy cls).lanes = g.lanes := by
  cases cls <;> rfl

@[simp] theorem Group.enlist_last (g : Group) (id : Nat) (busy : List Busy) (cls : Bool) :
    (g.enlist id busy cls).last = if cls then g.last + 1 else g.last := by
  cases cls <;> rfl

/-- A close gives members their batch and keeps who they are. -/
theorem Group.close_idents (g : Group) : g.close.members.map (·.ident) = g.members.map (·.ident) := by
  simp only [Group.close, List.map_map]
  refine List.map_congr_left fun m _ => ?_
  dsimp only [Function.comp]
  split <;> rfl

@[simp] theorem Group.enlist_idents (g : Group) (id : Nat) (busy : List Busy) (cls : Bool) :
    (g.enlist id busy cls).members.map (·.ident) = g.members.map (·.ident) ++ [id] := by
  have hjoin : (g.join id busy).members.map (·.ident) = g.members.map (·.ident) ++ [id] := List.map_append
  cases cls
  · exact hjoin
  · exact (Group.close_idents _).trans hjoin

/-- From `s` to `t` a command of this kind has joined the queue of the word's engine and `f` has changed the word's group; the other
cores, the issue, HBM4 and the banks' queue stand as they were. -/
structure Queues (k : Ctx) (kind : EKind) (d : Opnd) (f : Group → Group) (s t : State) : Prop where
  queue : ∃ c : ECmd, (t.core k.g.core).eq = (s.core k.g.core).eq ++ [c] ∧ c.kind = kind ∧ c.gid = k.gid ∧ c.issue = s.turn ∧
    c.start = none ∧ c.sel = k.sel ∧ c.dst = d ∧ c.seq = k.seq
  groups : t.groups = tmod s.groups k.gid f
  cores : ∀ j, j ≠ k.g.core → t.core j = s.core j
  issue : t.issue = s.issue
  hbm : t.hbm = s.hbm
  banks : t.bankQ = s.bankQ

section
variable {k : Ctx} {kind : EKind} {d : Opnd} {f : Group → Group} {s t : State}

/-- The command that an accepted engine word becomes. -/
def Ctx.command (k : Ctx) (s : State) (kind : EKind) (occ : Nat) (d : Opnd) (fa fb : Nat) (member : Option Nat) : ECmd :=
  { ident := s.ident, gid := k.gid, kind := kind, sel := k.sel, dst := d, seq := k.seq, pc := k.pc, issue := s.turn, tick := k.tick
    occ := occ, fill := Nat.max fa fb, fa := fa, fb := fb, member := member }

/-- A command at the end of its core's queue. -/
theorem Queues.push (s : State) (k : Ctx) (n : Nat) (e : ECmd) (hgid : e.gid = k.gid) (hissue : e.issue = s.turn) (hstart : e.start = none)
    (hsel : e.sel = k.sel) (hseq : e.seq = k.seq) :
    Queues k e.kind e.dst id s (({ s with ident := n } : State).modCore k.g.core (fun q => { q with eq := q.eq ++ [e] })) where
  queue := ⟨e, congrArg Core.eq (State.core_modCore_self _ _ _), rfl, hgid, hissue, hstart, hsel, rfl, hseq⟩
  groups := (tmod_id _ _).symm
  cores _ hj := State.core_setCore_of_ne _ _ hj
  issue := rfl
  hbm := rfl
  banks := rfl

/-- A further change of the group. -/
theorem Queues.modGroup (h : Queues k kind d f s t) (f' : Group → Group) :
    Queues k kind d (fun y => f' (f y)) s (t.modGroup k.gid f') where
  queue := h.queue
  groups := by
    change tmod t.groups k.gid f' = _
    rw [h.groups, tmod_tmod]
  cores := h.cores
  issue := h.issue
  hbm := h.hbm
  banks := h.banks

/-- An accepted command that is no batch member. -/
theorem Queues.accept (s : State) (k : Ctx) (kind : EKind) (occ : Nat) (d : Opnd) : Queues k kind d id s (s.accept k kind occ d) :=
  .push s k (s.ident + 1) (k.command s kind occ d 0 0 none) rfl rfl rfl rfl rfl

/-- An accepted command that is a batch member of its group. -/
theorem Queues.accept_member (s : State) (k : Ctx) (kind : EKind) (occ : Nat) (d : Opnd) (fa fb : Nat) (busy : List Busy) (cls : Bool) :
    Queues k kind d (fun y => y.enlist s.ident busy cls) s (s.accept k kind occ d fa fb (some busy) cls) :=
  (Queues.push s k (s.ident + 1) (k.command s kind occ d fa fb (some s.ident)) rfl rfl rfl rfl rfl).modGroup (fun y => y.enlist s.ident busy cls)

/-- A change of the core's tiles leaves its queue. -/
theorem Queues.modTile (h : Queues k kind d f s t) (n : Nat) (f' : Tile → Tile) :
    Queues k kind d f s (t.modTile k.g.core n f') where
  queue := by
    have hkeep : ((t.modTile k.g.core n f').core k.g.core).eq = (t.core k.g.core).eq :=
      (congrArg Core.eq (State.core_modCore_self t k.g.core fun c => { c with tiles := lmod c.tiles n f' }) :)
    rw [hkeep]
    exact h.queue
  groups := h.groups
  cores j hj := (State.core_setCore_of_ne _ _ hj).trans (h.cores j hj)
  issue := h.issue
  hbm := h.hbm
  banks := h.banks

end

/-- A word that joins its engine and the open batch of its group. -/
def JoinsBatch (i : Instr) (s : State) (x : Issue) (g : Group) (cls : Bool) (kind : EKind) (d : Opnd) (res : List Landing) : Prop :=
  JoinsEngine i s x g kind d res ∧
    ∃ t h id, exec i s = .next t ∧ tget t.groups x.gid = some h ∧
      h.members.map (·.ident) = g.members.map (·.ident) ++ [id] ∧ h.last = (if cls then g.last + 1 else g.last)

section
variable {i : Instr} {s t : State} {x : Issue} {g : Group} {kind : EKind} {d : Opnd} {f : Group → Group} {res : List Landing}

/-- A word that queues its command joins its engine with the results that it adds to its group, when it leaves the lanes alone. -/
theorem Queues.joinsEngine (h : Queues (ctxOf i s x g) kind d f (s.entered i x g) t) (he : exec i s = .next t)
    (hpend : ∀ y, (f y).pend = y.pend ++ res) (hlanes : ∀ y, (f y).lanes = y.lanes) : JoinsEngine i s x g kind d res := by
  obtain ⟨c, heq, hkind, hgid, hissue, hstart, hsel, hdst, hseq⟩ := h.queue
  refine ⟨t, c, f (enteredGroup i x g), he, heq, hkind, hgid, hissue, hstart, hsel, hdst, hseq, ?_, ?_, hlanes _, h.issue, h.hbm, h.banks, h.cores⟩
  · rw [h.groups]; exact tget_tmod_of_some (tget_entered s i x g)
  · rw [hpend, enteredGroup_pend]

/-- The queued command of a batch member, with what its word adds to the group besides. -/
theorem Queues.joinsBatch {id : Nat} {busy : List Busy} {cls : Bool} {f' : Group → Group}
    (h : Queues (ctxOf i s x g) kind d (fun y => f' (y.enlist id busy cls)) (s.entered i x g) t) (he : exec i s = .next t)
    (hpend : ∀ y, (f' y).pend = y.pend ++ res) (hlanes : ∀ y, (f' y).lanes = y.lanes)
    (hmembers : ∀ y, (f' y).members = y.members) (hlast : ∀ y, (f' y).last = y.last) : JoinsBatch i s x g cls kind d res := by
  refine ⟨h.joinsEngine he (fun y => by simp [hpend]) (fun y => by simp [hlanes]), t, f' ((enteredGroup i x g).enlist id busy cls), id, he, ?_, ?_, ?_⟩
  · rw [h.groups]; exact tget_tmod_of_some (tget_entered s i x g)
  · rw [hmembers, Group.enlist_idents, enteredGroup_eq]
  · rw [hlast, Group.enlist_last, enteredGroup_eq]

end

/-! Words that join the queue alone -/

section
variable {i : Instr} {s : State} {x : Issue} {g : Group} {kind : EKind} {d : Opnd}

/-- An engine word that only queues its command. -/
theorem joinsEngine_of_accept {occ : Nat} {go : Ctx → State → State} (he : exec i s = withIssue i s (fun k s => engineWord k s (go k)))
    (hgo : go (ctxOf i s x g) (s.entered i x g) = (s.entered i x g).accept (ctxOf i s x g) kind occ d) (ha : Accepts i s x g)
    (hs : (ctxOf i s x g).sel ≠ 0) (hq : (s.core g.core).eq.length < 4) : JoinsEngine i s x g kind d [] :=
  (Queues.accept _ _ _ _ _).joinsEngine ((exec_of_room he ha hs hq).trans (congrArg Outcome.next hgo))
    (fun _ => (List.append_nil _).symm) fun _ => rfl

/-- An engine word that queues its command and ends what `mretry` could repeat on its tile. -/
theorem joinsEngine_of_accept_modTile {occ n : Nat} {f : Tile → Tile} {go : Ctx → State → State}
    (he : exec i s = withIssue i s (fun k s => engineWord k s (go k)))
    (hgo : go (ctxOf i s x g) (s.entered i x g) = ((s.entered i x g).accept (ctxOf i s x g) kind occ d).modTile g.core n f)
    (ha : Accepts i s x g) (hs : (ctxOf i s x g).sel ≠ 0) (hq : (s.core g.core).eq.length < 4) : JoinsEngine i s x g kind d [] :=
  ((Queues.accept _ _ _ _ _).modTile n f).joinsEngine ((exec_of_room he ha hs hq).trans (congrArg Outcome.next hgo))
    (fun _ => (List.append_nil _).symm) fun _ => rfl

/-- An engine word that queues its command and reserves the registers of its result. -/
theorem joinsEngine_of_accept_later {occ n : Nat} {go : Ctx → State → State}
    (he : exec i s = withIssue i s (fun k s => engineWord k s (go k)))
    (hgo : go (ctxOf i s x g) (s.entered i x g) = ((s.entered i x g).accept (ctxOf i s x g) kind occ d).later (ctxOf i s x g) d n)
    (ha : Accepts i s x g) (hs : (ctxOf i s x g).sel ≠ 0) (hq : (s.core g.core).eq.length < 4) :
    JoinsEngine i s x g kind d [reservedRes i s x g (2 ^ 60) d n .mat] :=
  ((Queues.accept _ _ _ _ _).modGroup _).joinsEngine ((exec_of_room he ha hs hq).trans (congrArg Outcome.next hgo))
    (fun _ => rfl) fun _ => rfl

end

/-- What a word captures of the lanes: the registers as they stand, and 0 of quenched lanes (07 R150). -/
theorem captured_eq (i : Instr) (s : State) (x : Issue) (g : Group) (n : Nat) (o : Opnd) : captured g n o = (ctxOf i s x g).capture n o := by
  refine List.map_congr_left fun l _ => ?_
  cases o with
  | v r => simp only [beq_iff_eq]; rfl
  | _ => rfl

theorem matrixWordsJoin : MatrixWordsJoin := by
  intro c t m64 frag tile scr d a b cc s x g
  dsimp only
  refine ⟨?mma, ?mmab, ?mzero, ?mdrain, ?mchk, ?mloc, ?mfix, ?mtol⟩
  case mma =>
    refine joinsEngine_of_accept_later (occ := 1) rfl ?_
    simp only [captured_eq (.mma c t m64 scr d a b cc) s x g]
    cases scr <;> rfl
  case mmab =>
    refine joinsEngine_of_accept_modTile (occ := 1) (n := tile.toNat) (f := fun t => { t with retry := none }) rfl ?_
    simp only [captured_eq (.mmab c t tile scr a b) s x g]
    cases scr <;> rfl
  case mzero => exact joinsEngine_of_accept_modTile (occ := 1) (n := tile.toNat) (f := fun t => { t with retry := none }) rfl rfl
  case mdrain => exact joinsEngine_of_accept_later (occ := 2) rfl rfl
  case mchk => exact joinsEngine_of_accept_later (occ := 1) rfl rfl
  case mloc => exact joinsEngine_of_accept_later (occ := 1) rfl rfl
  case mfix => exact joinsEngine_of_accept_later (occ := 3) rfl rfl
  case mtol => exact joinsEngine_of_accept (occ := 1) rfl rfl

/-! Words that join the open batch too (07 R157, R158, 08 R177) -/

/-- The records of 07 R162 as the `mloop` that is member `id` is accepted. -/
def Group.noteLoop (g : Group) (m : MLoop) (id : Nat) : Group :=
  { g with prog := loopRecord m.tile 0, progSrc := some id, progN := m.nk, mrec := loopRecord m.tile 0, mrecSrc := some id, mrecN := m.nk }

/-- With fewer than 32 members in its group, an `mloop` joins the engine and the batch. -/
theorem Queues.acceptLoop (s : State) (k : Ctx) (m : MLoop) (retry cls : Bool) (hm : k.g.members.length < 32) :
    Queues k (.mloop m retry) (.spec 0) (fun y => (y.enlist s.ident [] cls).noteLoop m s.ident) s (s.acceptLoop k m retry cls) := by
  have hloop := (Queues.accept_member s k (.mloop m retry) (m.occ (Nat.max m.fa m.fb) 0) (.spec 0) m.fa m.fb [] cls).modGroup
    (fun y => y.noteLoop m s.ident)
  have hroom : ¬ k.g.memberLimit = true := by simpa [Group.memberLimit] using hm
  rw [State.acceptLoop, if_neg hroom]
  cases retry
  · exact hloop.modTile _ _
  · exact hloop

section
variable {c : Ctl} {tile : BitVec 3} {die cls : Bool} {a : Opnd} {s : State} {x : Issue} {g : Group}

theorem mretry_joins (ha : Accepts (.mretry c tile cls) s x g) (hs : (ctxOf (.mretry c tile cls) s x g).sel ≠ 0)
    (hq : (s.core g.core).eq.length < 4) (hm : g.members.length < 32) {m : MLoop} (hr : (s.tile g.core tile.toNat).retry = some m) :
    JoinsBatch (.mretry c tile cls) s x g cls (.mloop m true) (.spec 0) [] := by
  refine (Queues.acceptLoop _ _ m true cls hm).joinsBatch (f' := fun y => y.noteLoop m (s.entered (.mretry c tile cls) x g).ident) ?_
    (fun _ => (List.append_nil _).symm) (fun _ => rfl) (fun _ => rfl) fun _ => rfl
  refine (exec_of_room rfl ha hs hq).trans (congrArg Outcome.next ?_)
  change (match (s.tile g.core tile.toNat).retry with | none => _ | some m => (s.entered (.mretry c tile cls) x g).acceptLoop _ m true cls) = _
  rw [hr]

theorem maccLd_joins (ha : Accepts (.maccLd c tile die cls a) s x g) (hs : (ctxOf (.maccLd c tile die cls a) s x g).sel ≠ 0)
    (hq : (s.core g.core).eq.length < 4) (hm : g.members.length < 32) {sp : Space} {o : Nat}
    (hp : (s.entered (.maccLd c tile die cls a) x g).locate g die (((ctxOf (.maccLd c tile die cls a) s x g).low32 s a).toNat / 64 * 64) 16384 =
      some (sp, o)) (hb : (s.entered (.maccLd c tile die cls a) x g).busy sp o 16384 false = false) :
    JoinsBatch (.maccLd c tile die cls a) s x g cls (.maccLd tile.toNat sp o) (.spec 0) [] := by
  set k := ctxOf (.maccLd c tile die cls a) s x g
  set u := s.entered (.maccLd c tile die cls a) x g
  have hroom : ¬ g.memberLimit = true := by simpa [Group.memberLimit] using hm
  refine ((Queues.accept_member u k (.maccLd tile.toNat sp o) (fillOf die ((k.low32 s a).toNat / 64 * 64) + 4) (.spec 0) 0 0 [] cls).modTile
    tile.toNat (fun t => { t with retry := none })).joinsBatch (f' := fun y => y) ?_
    (fun _ => (List.append_nil _).symm) (fun _ => rfl) (fun _ => rfl) fun _ => rfl
  refine (exec_of_room rfl ha hs hq).trans (congrArg Outcome.next ?_)
  change (match u.locate g die ((k.low32 s a).toNat / 64 * 64) 16384 with
    | none => _
    | some (sp, o) => if u.busy sp o 16384 false then _ else if g.memberLimit then _ else State.modTile (u.accept k (.maccLd tile.toNat sp o) _ _ _ _ _ _) _ _ _) = _
  rw [hp]
  exact (if_neg (Bool.not_eq_true _ ▸ hb)).trans (if_neg hroom)

theorem maccSt_joins (ha : Accepts (.maccSt c tile die cls a) s x g) (hs : (ctxOf (.maccSt c tile die cls a) s x g).sel ≠ 0)
    (hq : (s.core g.core).eq.length < 4) (hm : g.members.length < 32) {sp : Space} {o : Nat}
    (hp : (s.entered (.maccSt c tile die cls a) x g).locate g die (((ctxOf (.maccSt c tile die cls a) s x g).low32 s a).toNat / 64 * 64) 16384 =
      some (sp, o)) (hb : (s.entered (.maccSt c tile die cls a) x g).busy sp o 16384 true = false)
    (hw : die = true → (s.grid g.grid).mayWrite (s.block g.block).blockId true 0 o 16384 = true) :
    JoinsBatch (.maccSt c tile die cls a) s x g cls (.maccSt tile.toNat sp o) (.spec 0) [] := by
  set k := ctxOf (.maccSt c tile die cls a) s x g
  set u := s.entered (.maccSt c tile die cls a) x g
  have hroom : ¬ g.memberLimit = true := by simpa [Group.memberLimit] using hm
  have hown : ¬ (die && !(s.grid g.grid).mayWrite (s.block g.block).blockId true 0 o 16384) = true := by
    cases die
    · simp
    · simp [hw rfl]
  refine (Queues.accept_member u k (.maccSt tile.toNat sp o) (fillOf die ((k.low32 s a).toNat / 64 * 64) + 4) (.spec 0) 0 0
    [{ space := sp, adr := o, len := 16384, all := true }] cls).joinsBatch (f' := fun y => y) ?_
    (fun _ => (List.append_nil _).symm) (fun _ => rfl) (fun _ => rfl) fun _ => rfl
  refine (exec_of_room rfl ha hs hq).trans (congrArg Outcome.next ?_)
  change (match u.locate g die ((k.low32 s a).toNat / 64 * 64) 16384 with
    | none => _
    | some (sp, o) => if die && !(s.grid g.grid).mayWrite (s.block g.block).blockId true 0 o 16384 then _
      else if u.busy sp o 16384 true then _ else if g.memberLimit then _ else u.accept k (.maccSt tile.toNat sp o) _ _ _ _ _ _) = _
  rw [hp]
  exact (if_neg hown).trans ((if_neg (Bool.not_eq_true _ ▸ hb)).trans (if_neg hroom))

end

/-- The `mloop` that a word's sources describe (07 R158, R159). -/
def MLoop.of (t : Ty) (tile : BitVec 3) (sc acc adie bdie : Bool) (base : DWord) (inc cnt : Word) : MLoop :=
  { tile := tile.toNat, t := t, sc := sc, acc := acc, adie := adie, bdie := bdie,
    abase := (base.setWidth 32).toNat, bbase := (base >>> 32).toNat,
    ainc := (inc.setWidth 16).toInt, binc := (inc.extractLsb' 16 16).toInt, nk := cnt.toNat % 65536, rl := cnt.toNat / 65536 }

/-- The fields as the model takes them out of the sources. -/
theorem MLoop.of_eq (t : Ty) (tile : BitVec 3) (sc acc adie bdie : Bool) (base : DWord) (inc cnt : Word) :
    ({ tile := tile.toNat, t := t, sc := sc, acc := acc, adie := adie, bdie := bdie,
       abase := (base.extractLsb' 0 32).toNat, bbase := (base.extractLsb' 32 32).toNat,
       ainc := (inc.extractLsb' 0 16).toInt, binc := (inc.extractLsb' 16 16).toInt,
       nk := (cnt.extractLsb' 0 16).toNat, rl := (cnt.extractLsb' 16 16).toNat } : MLoop) = MLoop.of t tile sc acc adie bdie base inc cnt := by
  have habase : base.extractLsb' 0 32 = base.setWidth 32 := (BitVec.setWidth_eq_extractLsb' (by decide)).symm
  have hainc : inc.extractLsb' 0 16 = inc.setWidth 16 := (BitVec.setWidth_eq_extractLsb' (by decide)).symm
  have hbbase : (base.extractLsb' 32 32).toNat = (base >>> 32).toNat := by
    rw [BitVec.extractLsb'_toNat, BitVec.toNat_ushiftRight, Nat.shiftRight_eq_div_pow]
    have := base.isLt
    omega
  have hrl : (cnt.extractLsb' 16 16).toNat = cnt.toNat / 65536 := by
    rw [injField]
    have := cnt.isLt
    omega
  have hnk : (cnt.extractLsb' 0 16).toNat = cnt.toNat % 65536 := by rw [injField]; omega
  rw [habase, hainc, hbbase, hrl, hnk]
  rfl

/-- The turns from an `mloop`'s issue to its end, on their way to D (07 R160). -/
def loopRes (s : State) (k : Ctx) (d : Opnd) (m : MLoop) : Landing :=
  { due := s.turn + 1, seq := k.seq, dst := d, pc := k.pc, kind := .mat
    res := k.lanes.map (fun l =>
      { lane := l, ws := [BitVec.ofNat 32 ((s.core k.g.core).nextStart s.turn + m.occ (Nat.max m.fa m.fb) 0 - s.turn)] }) }

theorem mloop_joins {c : Ctl} {t : Ty} {tile : BitVec 3} {sc acc adie bdie cls : Bool} {d a b cc : Opnd} {s : State} {x : Issue} {g : Group} :
    let i : Instr := .mloop c t tile sc acc adie bdie cls d a b cc
    let k := ctxOf i s x g
    let m := MLoop.of t tile sc acc adie bdie (k.src s 2 k.low a) (k.low32 s b) (k.low32 s cc)
    Accepts i s x g → k.sel ≠ 0 → (s.core g.core).eq.length < 4 → g.members.length < 32 →
      JoinsBatch i s x g cls (.mloop m false) (.spec 0) [loopRes s k d m] := by
  intro i k m ha hs hq hm
  have hroom : ¬ g.memberLimit = true := by simpa [Group.memberLimit] using hm
  refine ((Queues.acceptLoop (s.entered i x g) k m false cls hm).modGroup (fun y => { y with pend := y.pend ++ [loopRes s k d m] })).joinsBatch
    (f' := fun y => { y.noteLoop m (s.entered i x g).ident with pend := y.pend ++ [loopRes s k d m] }) ?_
    (fun _ => rfl) (fun _ => rfl) (fun _ => rfl) fun _ => rfl
  refine (exec_of_room rfl ha hs hq).trans (congrArg Outcome.next ?_)
  simp only [MLoop.of_eq]
  exact if_neg hroom

theorem streamedMatrixWordsJoin : StreamedMatrixWordsJoin := by
  intro c t tile sc acc adie bdie die cls d a b cc s x g
  refine ⟨?mloop, ?mretry, ?maccLd, ?maccSt⟩
  case mloop => exact fun ⟨ha, hs, hq, hm⟩ => mloop_joins ha hs hq hm
  case mretry => exact fun ⟨ha, hs, hq, hm⟩ _ hr => mretry_joins ha hs hq hm hr
  case maccLd => exact fun ⟨ha, hs, hq, hm⟩ _ _ ⟨hp, hb⟩ => maccLd_joins ha hs hq hm hp hb
  case maccSt => exact fun ⟨ha, hs, hq, hm⟩ _ _ ⟨hp, hb⟩ hw => maccSt_joins ha hs hq hm hp hb hw

/-- Settles O21: each word queues its command as it is accepted, and what it does besides leaves the queue, the lanes and the other cores. -/
theorem engineWordsJoin : Obligations.EngineWordsJoin := ⟨matrixWordsJoin, streamedMatrixWordsJoin⟩

/-! Words that trap -/

/-- An `mretry` of a tile with no retry record parks its lanes with the tile's status, whatever the members of its group (08 R177). -/
theorem mretry_parks {c : Ctl} {tile : BitVec 3} {cls : Bool} {s : State} {x : Issue} {g : Group} (hlen : g.lanes.length = 64)
    (hidle : g.hphase = .idle) (ha : Accepts (.mretry c tile cls) s x g) (hq : (s.core g.core).eq.length < 4)
    (hs : (ctxOf (.mretry c tile cls) s x g).sel ≠ 0) (hr : (s.tile g.core tile.toNat).retry = none) :
    ∃ u, exec (.mretry c tile cls) s = .next u ∧ ∀ l ∈ (ctxOf (.mretry c tile cls) s x g).lanes, (g.lane l).isLive = true → (g.lane l).trec = none →
      (u.group x.gid).lane l = ((enteredGroup (.mretry c tile cls) x g).lane l).parkedAt x.pc
        { trap := 9, cause := 2, targ := (s.tile g.core tile.toNat).status tile.toNat, word := x.word } := by
  set i : Instr := .mretry c tile cls
  set u := s.entered i x g
  set status := (s.tile g.core tile.toNat).status tile.toNat
  refine ⟨(u.parkEach (ctxOf i s x g) 9 2 (fun _ => status)).modPart g.pid Part.countMantle, ?_, fun l hl hlive htrec => ?_⟩
  · refine (exec_of_room rfl ha hs hq).trans (congrArg Outcome.next ?_)
    change (match (s.tile g.core tile.toNat).retry with
      | none => (u.parkEach (ctxOf i s x g) 9 2 (fun _ => status)).modPart g.pid Part.countMantle
      | some m => _) = _
    rw [hr]
  · have hplain : enteredGroup i x g = { g with seq := g.seq + 1 } := enteredGroup_of_plain x g rfl
    have hl64 : l < 64 := Ctx.lane_lt hl
    have hgroup := State.group_of_tget (State.tget_modGroup (f := fun y => y.onLanes (ctxOf i s x g).lanes (fun l =>
      Lane.parkOnce x.pc { trap := 9, cause := 2, targ := status, word := x.word })) (tget_entered s i x g))
    rw [parkEach_entered hidle]
    change Group.lane (State.group (State.modGroup _ _ _) _) l = _
    rw [hgroup, Group.lane_onLanes (by simp [hlen, hl64]), if_pos hl, Lane.parkOnce_eq, if_pos]
    rw [hplain]
    exact ⟨hlive, htrec⟩

/-- Settles O22: the check of four outstanding commands stands before every other check of an engine word, and `mretry` looks at the tile's
record before anything else of its own. -/
theorem matrixTraps : Obligations.MatrixTraps := by
  intro c t tile m64 sc acc adie bdie die cls frag d a b cc scr s x g hlen hidle
  refine ⟨⟨?mma, ?mloop, ?maccLd, ?maccSt, ?mmab, ?mzero, ?mdrain, ?mchk, ?mloc, ?mfix, ?mtol, ?mretry⟩, mretry_parks hlen hidle⟩
  all_goals exact parksAll_of_full rfl hlen hidle

end Sys2Proof.Machine
end

section
/-! What the turn of CLEARING leaves of the partitions (10 R228, R232, 16 R356): what was sent or had started still applies, and an engine may
raise a fault in doing so. -/

namespace Sys2Proof.Machine

/-! Partitions up to the faults raised in them -/

/-- A partition without the faults raised in it. -/
def Part.bare (q : Part) : Part := { q with faults := [] }

/-- The partitions of `t` are those of `s`, up to the faults raised in them. -/
def SameParts (s t : State) : Prop := t.parts.map Part.bare = s.parts.map Part.bare

section
variable {s t u : State}

theorem SameParts.of_eq (h : t.parts = s.parts) : SameParts s t := congrArg (List.map Part.bare) h

theorem SameParts.trans (h : SameParts s t) (k : SameParts t u) : SameParts s u := Eq.trans k h

theorem SameParts.foldl {α : Type} {f : State → α → State} (h : ∀ s a, SameParts s (f s a)) (l : List α) (s : State) : SameParts s (l.foldl f s) :=
  List.foldlRecOn l f (SameParts.of_eq rfl) fun t ht a _ => ht.trans (h t a)

/-- A run over a list that carries something beside the state. -/
theorem SameParts.foldl_fst {α β : Type} {f : State × β → α → State × β} (h : ∀ p a, SameParts p.1 (f p a).1) (l : List α) (p : State × β) :
    SameParts p.1 (l.foldl f p).1 :=
  List.foldlRecOn (motive := fun q : State × β => SameParts p.1 q.1) l f (SameParts.of_eq rfl) fun q hq a _ => hq.trans (h q a)

theorem SameParts.length (h : SameParts s t) : t.parts.length = s.parts.length := by
  simpa using congrArg List.length h

theorem SameParts.part (h : SameParts s t) (p : Nat) : (t.part p).bare = (s.part p).bare := by
  have := congrArg (fun l => l.getD p (Part.bare {})) h
  simpa only [List.getD_map, State.part] using this

theorem OnlyFabric.sameParts (h : OnlyFabric s t) : SameParts s t := SameParts.of_eq (by rw [h])

end

theorem State.raise_sameParts (s : State) (p : Nat) (f : CFault) : SameParts s (s.raise p f) := by
  refine List.ext_getElem? fun j => ?_
  simp only [State.raise, State.modPart, List.getElem?_map, getElem?_lmod]
  split
  · rw [Option.map_map]
    rfl
  · rfl

theorem State.modCopy_sameParts (s : State) (k : Nat) (cl : CClass) (f : CCmd → CCmd) : SameParts s (s.modCopy k cl f) := SameParts.of_eq rfl

/-! Far memory and the two kinds of executions that still apply -/

theorem State.mirror_sameParts (s : State) (ident a : Nat) (bs : List Byte) (bad : Bool) : SameParts s (s.mirror ident a bs bad) := by
  refine SameParts.trans (SameParts.of_eq (by rfl)) (SameParts.foldl (fun s g => ?_) _ _)
  dsimp only
  split
  · exact (s.sendPiece_fabric ..).sameParts
  · exact SameParts.of_eq rfl

theorem State.farWrite_sameParts (s : State) (e : Extent) (ofs : Nat) (bs : List Byte) (bad : Bool) (ident : Nat) :
    SameParts s (s.farWrite e ofs bs bad ident) := by
  unfold State.farWrite
  cases e.seg ofs with
  | none => exact SameParts.of_eq rfl
  | some q =>
    dsimp only
    split
    · exact SameParts.of_eq rfl
    · split
      · exact SameParts.trans (SameParts.of_eq rfl) (State.mirror_sameParts _ ident q.2 bs bad)
      · exact SameParts.of_eq rfl

theorem State.farAtomic_sameParts (s : State) (e : Extent) (op : AOp) (l : RLane) (ident : Nat) : SameParts s (s.farAtomic e op l ident).1 := by
  unfold State.farAtomic
  dsimp only
  split
  · exact SameParts.of_eq rfl
  · exact s.farWrite_sameParts ..

theorem State.applySelf_sameParts (s : State) (e : Extent) (r : RExec) : SameParts s (s.applySelf e r).1 := by
  unfold State.applySelf
  cases r.kind with
  | load =>
    refine SameParts.foldl_fst (fun p q => ?_) _ _
    dsimp only
    split <;> exact SameParts.of_eq rfl
  | atom op =>
    refine SameParts.foldl_fst (fun p q => ?_) _ _
    have hq := p.1.farAtomic_sameParts e op q.2 0
    split <;> next h => rw [h] at hq; exact hq
  | store =>
    refine SameParts.trans (SameParts.foldl (fun s q => s.farWrite_sameParts ..) _ _) (SameParts.foldl (fun s q => ?_) _ _)
    split <;> exact SameParts.of_eq rfl

theorem State.applySent_sameParts (s : State) (p : Nat) : SameParts s (s.applySent p) := by
  refine SameParts.foldl (fun s r => ?_) _ _
  split
  · split
    · exact s.applySelf_sameParts ..
    · exact SameParts.of_eq rfl
  · exact SameParts.of_eq rfl

/-- A `cpy.atom` at its turn changes memory and its own command, or raises a fault. -/
theorem copyUnitEffect_atom_sameParts {k : Nat} {cl : CClass} {s t : State} {c : CCmd} {rest : List CCmd} {op : AOp} {rng : Nat}
    {lanes : List (Nat × RLane)} {ret : Option Nat} (hq : (s.core k).queue cl = c :: rest) (hk : c.kind = .atom op rng lanes ret)
    (h : execCopyUnitEffect k cl s = .next t) : SameParts s t := by
  simp only [execCopyUnitEffect, hq, hk, Host.Outcome.next.injEq] at h
  subst h
  split
  · exact (s.raise_sameParts ..).trans (State.modCopy_sameParts ..)
  · refine (SameParts.trans ?_ (State.modCopy_sameParts ..)).trans (State.modCopy_sameParts ..)
    refine SameParts.foldl_fst (fun p l => ?_) _ _
    exact p.1.farAtomic_sameParts ..

theorem State.applyAtoms_sameParts (s : State) (p : Nat) : SameParts s (s.applyAtoms p) := by
  refine SameParts.foldl (fun s k => SameParts.foldl (fun s cl => ?_) _ _) _ _
  split
  case h_2 => exact SameParts.of_eq rfl
  case h_1 c rest hq =>
    split
    case h_2 => exact SameParts.of_eq rfl
    case h_1 hkind _ =>
      split
      · split
        · next t ht => exact copyUnitEffect_atom_sameParts hq hkind ht
        · exact SameParts.of_eq rfl
      · exact SameParts.of_eq rfl

end Sys2Proof.Machine
end

section
/-! What reset leaves, and what OPEN leaves of a partition (08 R174, 13 R277, 14 R292, R312, 16 R352–R357). -/

namespace Sys2Proof.Machine

/-! CLEARING -/

/-- Of the groups and grids of `s` those of partition `p` are gone in `t`, and its partitions stand. -/
def Emptied (p : Nat) (s t : State) : Prop :=
  t.groups = s.groups.filter (fun g => g.2.pid != p) ∧ t.grids = s.grids.filter (fun r => r.2.pid != p) ∧ t.parts = s.parts

/-- What CLEARING leaves: the groups and grids of other partitions, and of the partition's own registers those that the driver writes. -/
theorem State.clearContext_leaves (s : State) (p : Nat) :
    (∀ g ∈ (s.clearContext p).groups, g.2.pid ≠ p) ∧ (∀ r ∈ (s.clearContext p).grids, r.2.pid ≠ p) ∧
      (s.clearContext p).parts.length = s.parts.length ∧
      (p < s.parts.length → ((s.clearContext p).part p).sems = [] ∧ ((s.clearContext p).part p).fairlim = (s.part p).fairlim ∧
        ((s.clearContext p).part p).bwdog = (s.part p).bwdog) := by
  set v := (s.applySent p).applyAtoms p
  have hv : SameParts s v := (s.applySent_sameParts p).trans (State.applyAtoms_sameParts _ p)
  obtain ⟨w, f, ht, ⟨hgroups, hgrids, hparts⟩, hf⟩ : ∃ (w : State) (f : Part → Part), s.clearContext p = w.modPart p f ∧ Emptied p v w ∧
      ∀ q, (f q).sems = [] ∧ (f q).fairlim = q.fairlim ∧ (f q).bwdog = q.bwdog := by
    refine ⟨_, _, rfl, List.foldlRecOn (motive := Emptied p v) _ _ ?_ fun w hw i _ => ?_, fun q => ⟨rfl, rfl, rfl⟩⟩
    · rw [State.foldl_modCore_only]
      exact ⟨rfl, rfl, rfl⟩
    · split <;> exact hw
  rw [ht]
  refine ⟨fun g hg => ?_, fun r hr => ?_, ?_, fun hp => ?_⟩
  · rw [State.modPart_groups, hgroups] at hg
    simpa using (List.mem_filter.1 hg).2
  · rw [State.modPart_grids, hgrids] at hr
    simpa using (List.mem_filter.1 hr).2
  · rw [State.modPart_parts, length_lmod, hparts, hv.length]
  · have hpart : (w.modPart p f).part p = f (v.part p) := by
      rw [State.part_modPart (by rw [hparts, hv.length]; exact hp), State.part, hparts]
      rfl
    obtain ⟨hsems, hfair, hdog⟩ := hf (v.part p)
    rw [hpart]
    exact ⟨hsems, hfair.trans (congrArg Part.fairlim (hv.part p) :), hdog.trans (congrArg Part.bwdog (hv.part p) :)⟩

/-! OPEN -/

theorem exec_openCmd {p : Nat} {ds : Bool} {s : State} (hp : p < 8) (hfw : s.dev.fwok = true) : exec (.openCmd p ds) s = .next (s.cmdOpen p) :=
  (if_pos hp).trans (congrArg Host.Outcome.next (State.served_of_fwok hfw _))

/-- The partition from OPEN on, until turn `done` (16 R353, R357). -/
def Part.opened (q : Part) (done : Nat) : Part :=
  { q with st := .clearing, cstat := 0, cmdDone := done, cmdOpen := true, sbchk := false, tol := ({} : Part).tol }

@[simp] theorem Part.opened_fairlim (q : Part) (done : Nat) : (q.opened done).fairlim = q.fairlim := rfl
@[simp] theorem Part.opened_bwdog (q : Part) (done : Nat) : (q.opened done).bwdog = q.bwdog := rfl
@[simp] theorem Part.opened_sem (q : Part) (done i : Nat) : (q.opened done).sem i = q.sem i := rfl

/-- The turns of CLEARING are drawn, and the partition changes alone. -/
theorem State.enter_opened (s : State) (p lo hi : Nat) :
    ∃ done, (s.enter p .clearing lo hi).modPart p (fun q => { q with cmdOpen := true, sbchk := false, tol := ({} : Part).tol }) =
      ({ s with free := s.free + 1 } : State).modPart p (fun q => q.opened done) :=
  ⟨_, State.modPart_modPart _ p _ _⟩

theorem State.cmdOpen_of_empty {s : State} {p : Nat} (hst : (s.part p).st = .empty) :
    (s.cmdOpen p).groups = (s.clearContext p).groups ∧ (s.cmdOpen p).grids = (s.clearContext p).grids ∧
      (p < (s.clearContext p).parts.length → ∃ done, (s.cmdOpen p).part p = ((s.clearContext p).part p).opened done) := by
  obtain ⟨done, hdone⟩ := (s.clearContext p).enter_opened p 1 (s.clearBound p)
  rw [show s.cmdOpen p = _ from (if_neg (by simp [hst])).trans hdone]
  generalize s.clearContext p = u
  exact ⟨rfl, rfl, fun hp => ⟨done, State.part_modPart (s := { u with free := u.free + 1 }) hp _⟩⟩

/-! The statement -/

/-- The tolerances that a partition starts with (08 R174). -/
theorem Part.tolOf_start {q : Part} (h : q.tol = ({} : Part).tol) : ∀ ty ∈ [Ty.bf16, .f16, .e4m3, .e5m2, .e3m2, .e2m1], q.tolOf ty = 0x0E01 := by
  unfold Part.tolOf
  rw [h]
  decide

/-- Settles O33: the values after reset are read off, and OPEN is the clearing of the context followed by one change of the partition. -/
theorem resetAndStartValues : Obligations.ResetAndStartValues := by
  refine ⟨by decide, by decide, by decide, fun s p ds hp h8 hst hfw => ?_⟩
  obtain ⟨hgroups, hgrids, hlen, hclear⟩ := s.clearContext_leaves p
  obtain ⟨hsems, hfair, hdog⟩ := hclear (h8 ▸ hp)
  obtain ⟨ogroups, ogrids, opart⟩ := State.cmdOpen_of_empty hst
  obtain ⟨done, hpart⟩ := opart (by rwa [hlen, h8])
  refine ⟨s.cmdOpen p, exec_openCmd hp hfw, ?_⟩
  rw [hpart, ogroups, ogrids]
  refine ⟨rfl, rfl, (Part.opened_fairlim _ _).trans hfair, (Part.opened_bwdog _ _).trans hdog, fun i => ?_, Part.tolOf_start rfl, hgroups, hgrids⟩
  rw [Part.opened_sem, Part.sem, hsems]
  rfl

end Sys2Proof.Machine
end

section
/-! The canonical form of the far memories (`State.memOk`) along a step. A change of what holds no far memory leaves it by definition, so only
what chooses, repeats or writes has a lemma here. First the operations that every event shares, and the words (02 R53). -/

/- Proofs are checked one after another from here on, so that the compile of the whole text stays within its memory. -/
set_option Elab.async false

namespace Sys2Proof.Machine

open Host (Outcome)

/- A match unfolds to `casesOn`, so that one lemma for each type serves every match over it. -/
set_option smartUnfolding false

/-- If the outcome is a next state, its far memories are canonical. -/
def FarNext (o : Outcome State Fault Refusal) : Prop := ∀ t, o = .next t → t.memOk

namespace FarNext

theorem fault {r : Fault} : FarNext (.fault r) := fun _ h => by cases h

theorem next {s : State} (h : s.memOk) : FarNext (.next s) := fun _ ht => by
  cases ht
  exact h

theorem ite {c : Prop} [Decidable c] {o p : Outcome State Fault Refusal} (ho : FarNext o) (hp : FarNext p) : FarNext (if c then o else p) := by
  split <;> assumption

theorem opt {α : Type} {x : Option α} {o : Outcome State Fault Refusal} {f : α → Outcome State Fault Refusal} (ho : FarNext o)
    (hf : ∀ a, FarNext (f a)) : FarNext (Option.casesOn (motive := fun _ => _) x o f) := by
  cases x with
  | none => exact ho
  | some a => exact hf a

theorem list {α : Type} {l : List α} {o : Outcome State Fault Refusal} {f : α → List α → Outcome State Fault Refusal} (ho : FarNext o)
    (hf : ∀ a l, FarNext (f a l)) : FarNext (List.casesOn (motive := fun _ => _) l o f) := by
  cases l with
  | nil => exact ho
  | cons a l => exact hf a l

end FarNext

namespace State.memOk
variable {s : State}

theorem ite {c : Prop} [Decidable c] {t u : State} (ht : t.memOk) (hu : u.memOk) : (if c then t else u).memOk := by
  split <;> assumption

/-- A choice that carries something beside the state. -/
theorem ite_fst {β : Type} {c : Prop} [Decidable c] {p q : State × β} (hp : p.1.memOk) (hq : q.1.memOk) : (if c then p else q).1.memOk := by
  split <;> assumption

/-- A choice by a literal. -/
theorem lit {n k : Nat} {t u : State} (ht : t.memOk) (hu : u.memOk) :
    State.memOk (if h : n = k then Eq.ndrec_symm (motive := fun _ => State) t h else u) := by
  split
  · next h =>
    cases h
    exact ht
  · exact hu

theorem opt {α : Type} {x : Option α} {t : State} {f : α → State} (ht : t.memOk) (hf : ∀ a, (f a).memOk) :
    State.memOk (Option.casesOn (motive := fun _ => _) x t f) := by
  cases x with
  | none => exact ht
  | some a => exact hf a

theorem list {α : Type} {l : List α} {t : State} {f : α → List α → State} (ht : t.memOk) (hf : ∀ a l, (f a l).memOk) :
    State.memOk (List.casesOn (motive := fun _ => _) l t f) := by
  cases l with
  | nil => exact ht
  | cons a l => exact hf a l

theorem foldl {α : Type} {f : State → α → State} {l : List α} (h : s.memOk) (hf : ∀ s a, s.memOk → (f s a).memOk) : (l.foldl f s).memOk :=
  List.foldlRecOn l f h fun t ht a _ => hf t a ht

/-- A run over a list that carries something beside the state. -/
theorem foldl_fst {α β : Type} {f : State × β → α → State × β} {p : State × β} {l : List α} (h : p.1.memOk)
    (hf : ∀ p a, p.1.memOk → (f p a).1.memOk) : (l.foldl f p).1.memOk :=
  List.foldlRecOn (motive := fun q : State × β => q.1.memOk) l f h fun q hq a _ => hf q a hq

/-- What a word leaves alone includes the far memories. -/
theorem kept {t : State} (h : s.memOk) (k : KeepsStorage s t) : t.memOk := ⟨k.hbm ▸ h.1, k.host ▸ h.2⟩

/-- A word writes no far memory (02 R53, 10 R210). -/
theorem word {i : Instr} (h : s.memOk) (hi : i.ctl?.isSome = true ∨ i = .fillWord ∨ ∃ ty r, i = .div ty r ∨ i = .rem ty r) :
    FarNext (exec i s) := fun _ ht => h.kept (wordsKeepStorage i s _ hi ht)

/-! Operations on groups and scratch -/

theorem quenchAll {g cause : Nat} {ls : List Nat} (h : s.memOk) : (s.quenchAll g ls cause).memOk := h.kept (State.quenchAll_keeps _ _ _)

theorem park {g lane : Nat} {pc : BitVec 20} {r : TrapRec} (h : s.memOk) : (s.park g lane pc r).memOk := h.kept (State.park_keeps _ _ _ _)

theorem parkBack {gid : Nat} {sigs : List (Nat × Word)} {pc : BitVec 20} {r : TrapRec} (h : s.memOk) : (s.parkBack gid sigs pc r).memOk :=
  .foldl h fun _ _ h => .ite (.park h) h

theorem modRam {sp : Space} {f : Ram → Ram} (h : s.memOk) : (s.modRam sp f).memOk := (s.modRam_same sp f).memOk h

theorem endResv {sp : Space} {a n : Nat} {who : Option (Nat × Nat)} (h : s.memOk) : (s.endResv sp a n who).memOk := .ite h h

theorem scratchWrite {sp : Space} {a : Nat} {bs : List Byte} {bad : Bool} {who : Option (Nat × Nat)} (h : s.memOk) :
    (s.scratchWrite sp a bs bad who).memOk := .endResv (.modRam h)

theorem flush {k t lim : Nat} (h : s.memOk) : (s.flush k t lim).1.memOk := h.kept (State.flush_keeps _ _ _)

theorem markCore {k : Nat} (h : s.memOk) : (s.markCore k).memOk := h.kept (State.markCore_keeps k)

/-! Results, the end of a word and traps -/

theorem landLane {gid : Nat} {p : Landing} {r : LRes} (h : s.memOk) : (s.landLane gid p r).memOk := .ite h (.ite (.park h) h)

theorem land {gid : Nat} (h : s.memOk) : (s.land gid).memOk := .foldl h fun _ _ h => .foldl (.quenchAll h) fun _ _ h => .landLane h

theorem finishWord (h : s.memOk) : s.finishWord.memOk := .opt h fun _ => .opt h fun _ => .ite h (.opt h fun _ => h)

theorem takeTrap {g e : Nat} (h : s.memOk) : (s.takeTrap g e).memOk := .ite (.ite h (.quenchAll h)) h

theorem captureFrames {g : Nat} (h : s.memOk) : (s.captureFrames g).memOk := by
  unfold State.captureFrames
  dsimp only
  split <;> exact h

theorem enterHandler {g : Nat} (h : s.memOk) : (s.enterHandler g).memOk := by
  unfold State.enterHandler
  dsimp only
  split <;> exact h

theorem restoreFrames {g : Nat} (h : s.memOk) : (s.restoreFrames g).memOk := by
  have hq : ∀ {u : State} {i c : Nat}, u.memOk → (u.quench g i c).memOk := fun h => h.kept (State.quench_keeps _ _ _)
  exact .foldl h fun u i h => .ite (hq h) (.ite (hq h) (.opt h fun _ => .park h))

/-! Accesses at their bank turn -/

theorem writeBytes {sp : Space} {f : Ram → Ram} {b n : Nat} {who : Option (Nat × Nat)} (h : s.memOk) : ((s.modRam sp f).endResv sp b n who).memOk :=
  .endResv (.modRam h)

theorem applyLoad {x : Access} {sz : Size} (h : s.memOk) : (s.applyLoad x sz).memOk := .quenchAll h

theorem applyStore {x : Access} {n : Nat} (h : s.memOk) : (s.applyStore x n).memOk :=
  .modRam (.foldl h fun _ _ h => .foldl h fun _ _ h => .writeBytes h)

theorem applyAtom {x : Access} {o : AOp} {ret : Bool} (h : s.memOk) : (s.applyAtom x o ret).memOk := by
  refine .ite (.foldl_fst h fun p l h => ?_) (.foldl_fst h fun p l h => ?_)
  all_goals exact .ite_fst (.ite (h.kept (State.quench_keeps _ _ _)) h) (.writeBytes h)

theorem applyLdr {x : Access} {sz : Size} (h : s.memOk) : (s.applyLdr x sz).memOk := .foldl (.applyLoad h) fun _ _ h => .ite h h

theorem applyStc {x : Access} {n : Nat} (h : s.memOk) : (s.applyStc x n).memOk := .modRam (.foldl_fst h fun _ _ h => .ite (.writeBytes h) h)

theorem heapWrite {sp : Space} {gid a : Nat} {old : Heap} {p : HeapRun} (h : s.memOk) : (s.heapWrite sp gid a old p).memOk :=
  .foldl (.modRam h) fun _ _ h => .endResv h

theorem applyHalloc {x : Access} {mode1 : Bool} (h : s.memOk) : (s.applyHalloc x mode1).memOk := by
  refine .list h fun _ _ => .ite (.quenchAll h) (.opt (.ite (.quenchAll h) ?_) fun _ => h)
  split
  · exact .parkBack (.heapWrite h)
  · exact .heapWrite h

theorem applyHfree {x : Access} (h : s.memOk) : (s.applyHfree x).memOk :=
  .list h fun _ _ => .ite h (.opt (.opt (.heapWrite h) fun _ => h) fun _ => h)

theorem ringWrite {sp : Space} {gid lane : Nat} {ws : List (Nat × Word)} (h : s.memOk) : (s.ringWrite sp gid lane ws).memOk :=
  .foldl h fun _ _ h => .scratchWrite h

theorem applyRing {x : Access} {op : Nat} (h : s.memOk) : (s.applyRing x op).memOk := by
  refine .list h fun l _ => ?_
  dsimp only
  cases ringTry (s.ram x.space) (s.spaceSize x.space) l.adr op (l.b.headD 0) with
  | done => exact .ite (.ringWrite h) (.ringWrite h)
  | bad => exact .parkBack h
  | outside | unmet => exact h

theorem ringRetry {gid : Nat} {r : RingOp} (h : s.memOk) : (s.ringRetry gid r).memOk := by
  refine .ite h ?_
  generalize ringTry _ _ _ _ _ = q
  cases q with
  | done => exact .ringWrite h
  | bad => exact .parkBack h
  | outside | unmet => exact h

/-! The matrix engine -/

theorem countDrain {pid stat : Nat} (h : s.memOk) : (s.countDrain pid stat).memOk := .ite h h

theorem startCommand {k : Nat} {c : ECmd} (h : s.memOk) : (s.startCommand k c).memOk := by
  unfold State.startCommand
  cases c.kind with
  | mma | mfix => exact .countDrain h
  | maccSt | mdrain => exact .ite (.countDrain h) h
  | mloop => exact .ite h h
  | mmab | mzero | maccLd | mchk | mloc | mtol | acc => exact h

theorem stopDrain {k : Nat} (h : s.memOk) : (s.stopDrain k).memOk := .opt h fun _ => .ite h (.ite h h)

theorem engineRead {k : Nat} (h : s.memOk) : (s.engineRead k).memOk := by
  unfold State.engineRead
  split
  · exact h
  · split
    · extract_lets one
      have hone : ∀ u isA, u.memOk → (one u isA).memOk := fun u isA hu => by
        unfold one
        dsimp only
        split <;> exact hu
      exact .ite (hone _ _ (.ite (hone _ _ h) h)) (.ite (hone _ _ h) h)
    · exact h

theorem loopDrain {k : Nat} (h : s.memOk) : (s.loopDrain k).memOk := by
  refine .list h fun c _ => ?_
  dsimp only
  split
  · exact .countDrain h
  · exact h

theorem matrixCommandEnd {k : Nat} (h : s.memOk) : FarNext (execMatrixCommandEnd k s) := by
  refine .list .fault fun c rest => .next ?_
  have hm : (match c.member with
    | some id => (s.modCore k (fun q => { q with eq := rest, eEnd := s.turn })).modGroup c.gid (fun g => (g.memberDone id).recordDone id)
    | none => s.modCore k (fun q => { q with eq := rest, eEnd := s.turn })).memOk := .opt h fun _ => h
  split
  · exact hm
  · exact .ite (.foldl hm fun _ _ h => .park h) hm
  · exact hm

end State.memOk
end Sys2Proof.Machine
end

section
/-! The canonical form of the far memories: copies, executions of remote words and barriers (10 R210-R235, 14 R304-R313). -/

set_option Elab.async false

namespace Sys2Proof.Machine

open Host (Outcome)

/- A match unfolds to `casesOn`, so that one lemma for each type serves every match over it. -/
set_option smartUnfolding false

namespace State.memOk
variable {s : State}

/-! Far memory -/

theorem mirror {ident a : Nat} {bs : List Byte} {bad : Bool} (h : s.memOk) : (s.mirror ident a bs bad).memOk :=
  .foldl h fun _ _ h => .opt h fun _ => (State.sendPiece_fabric _ _ _ _ _ _ _ _ _ _).memOk h

theorem writeHost {a : Nat} {bs : List Byte} {bad : Bool} (h : s.memOk) : ({ s with host := s.host.write a bs bad } : State).memOk :=
  ⟨h.1, Memory.wf_write a bs bad h.2⟩

theorem writeHbm {a : Nat} {bs : List Byte} {bad : Bool} (h : s.memOk) : ({ s with hbm := s.hbm.write a bs bad } : State).memOk :=
  ⟨Memory.wf_write a bs bad h.1, h.2⟩

theorem farWrite {e : Extent} {ofs : Nat} {bs : List Byte} {bad : Bool} {ident : Nat} (h : s.memOk) : (s.farWrite e ofs bs bad ident).memOk :=
  .opt h fun _ => .ite (.writeHost h) (.ite (.mirror (.writeHbm h)) (.writeHbm h))

theorem farAtomic {e : Extent} {op : AOp} {l : RLane} {ident : Nat} (h : s.memOk) : (s.farAtomic e op l ident).1.memOk :=
  .ite_fst h (.farWrite h)

/-! The copy engines -/

theorem drawFor {g : Group} {tags : List Nat} {n : Nat} (h : s.memOk) : (s.drawFor g tags n).2.memOk := (State.drawFor_fabric _ _ _ _).memOk h

theorem copyCommandStart {k : Nat} {cl : CClass} (h : s.memOk) : FarNext (execCopyCommandStart k cl s) := by
  refine .list .fault fun c _ => .ite (.next h) ?_
  dsimp only
  split
  · exact .next (.drawFor h)
  · exact .next h

theorem copyUnitEffect {k : Nat} {cl : CClass} (h : s.memOk) : FarNext (execCopyUnitEffect k cl s) := by
  refine .list .fault fun c _ => .next ?_
  dsimp only
  cases c.kind with
  | move => exact .ite (.farWrite h) (.scratchWrite h)
  | index =>
    refine .opt h fun _ => .ite (.scratchWrite h) ?_
    split
    · exact .farWrite h
    · exact .scratchWrite h
    · exact h
  | atom => exact .opt (.foldl_fst h fun _ _ h => .farAtomic h) fun _ => h
  | digest => exact h

theorem copyEnd {c : CCmd} (h : s.memOk) : (s.copyEnd c).memOk := by
  unfold State.copyEnd
  split
  · exact .scratchWrite h
  · exact .modRam (.foldl h fun _ _ h => .scratchWrite h)
  · exact h

theorem copyMemberComplete {k : Nat} {cl : CClass} (h : s.memOk) : FarNext (execCopyMemberComplete k cl s) :=
  .opt (.list .fault fun _ _ => .ite (.next (.copyEnd h)) (.next (.copyEnd h))) fun _ => .next h

/-! Executions of remote words -/

theorem sendData {f : HeldFlit} (h : s.memOk) : (s.sendData f).memOk := (State.sendData_fabric _ _).memOk h

theorem sendHeld (h : s.memOk) : s.sendHeld.memOk := (State.sendHeld_fabric _).memOk h

theorem sendRemote {gid : Nat} (h : s.memOk) : (s.sendRemote gid).memOk :=
  .list h fun _ _ => .opt (.opt ((State.planExecs_fabric _).memOk (.ite h (.foldl h fun _ _ h => .sendData h))) fun _ => h) fun _ => h

theorem applySelf {e : Extent} {r : RExec} (h : s.memOk) : (s.applySelf e r).1.memOk := by
  unfold State.applySelf
  cases r.kind with
  | load => exact .foldl_fst h fun _ _ h => .ite_fst h h
  | atom op =>
    refine .foldl_fst h fun p q h => ?_
    have hq := farAtomic (e := e) (op := op) (l := q.2) (ident := 0) h
    split <;> next hs =>
      rw [hs] at hq
      exact hq
  | store => exact .foldl (.foldl h fun _ _ h => .farWrite h) fun _ _ h => .ite h h

theorem applyPeer {r : RExec} (h : s.memOk) : (s.applyPeer r).1.memOk := by
  unfold State.applyPeer
  cases r.kind with
  | store => exact h
  | load | atom => exact .foldl_fst h fun _ _ h => .ite_fst (.drawFor (.drawFor h)) (.drawFor (.drawFor h))

theorem applyRequest {r : RReq} {poison : Bool} (h : s.memOk) : (s.applyRequest r poison).memOk := by
  unfold State.applyRequest
  refine .ite h (.ite h ?_)
  dsimp only
  split
  · exact .ite (.applySelf h) (.applySelf h)
  · exact .ite (.ite (.applySelf h) (.applySelf h)) (.foldl (.ite (.applySelf h) (.applySelf h)) fun _ _ h => .sendData h)

theorem served {f : State → State} (hf : (f s).memOk) (h : s.memOk) : (s.served f).memOk := .ite hf h

theorem remoteApply {src : Option RReq} (h : s.memOk) : FarNext (execRemoteApply src s) :=
  .opt (.opt .fault fun _ => .ite (.opt (.next h) fun _ => .opt (.next (.applySelf h)) fun _ => .next h) (.next (.applyPeer h)))
    fun _ => .next (.served (.ite (.applyRequest h) h) h)

theorem remoteComplete {ident : Nat} (h : s.memOk) : FarNext (execRemoteComplete ident s) := by
  refine .opt .fault fun r => .next ?_
  dsimp only
  cases r.kind <;> exact h

/-! Barriers -/

theorem closeBar {b : Nat} (h : s.memOk) : (s.closeBar b).memOk := .foldl h fun _ _ h => h

theorem barFlush {b : Nat} (h : s.memOk) : (s.barFlush b).memOk := .flush h

end State.memOk
end Sys2Proof.Machine
end

section
/-! The canonical form of the far memories: translation, records, launches, streams, the scheduler and collectives (14 R289-R318,
15 R341-R346, 16 R360-R363). -/

set_option Elab.async false

namespace Sys2Proof.Machine

open Host (Outcome)

/- A match unfolds to `casesOn`, so that one lemma for each type serves every match over it. -/
set_option smartUnfolding false

namespace State.memOk
variable {s : State}

/-! Translation -/

theorem lookup {p va : Nat} (h : s.memOk) : (s.lookup p va).1.memOk := by
  unfold State.lookup
  extract_lets q walk
  have hwalk : ∀ u, u.memOk → (walk u).1.memOk := fun u hu => by
    unfold walk
    split <;> exact hu
  clear_value walk
  split
  · dsimp only
    split
    · exact h
    · exact hwalk _ h
  · exact hwalk _ h

theorem transFrom {p b e acc atom fuel va : Nat} {segs : List Seg} (h : s.memOk) : (s.transFrom p b e acc atom fuel va segs).1.memOk := by
  induction fuel generalizing s va segs with
  | zero => exact h
  | succ n ih =>
    have hl := lookup (p := p) (va := va) h
    unfold State.transFrom
    split
    · exact h
    · split
      · next hs => rw [hs] at hl; exact hl
      · next hs => rw [hs] at hl; exact hl
      · next hs =>
        rw [hs] at hl
        split
        · exact hl
        · exact ih hl

theorem translate {p va size acc atom : Nat} (h : s.memOk) : (s.translate p va size acc atom).1.memOk := .ite_fst h (.transFrom h)

theorem pageMiss {p va : Nat} (h : s.memOk) : (s.pageMiss p va).memOk := h

/-! Records -/

theorem modPart {p : Nat} {f : Part → Part} (h : s.memOk) : (s.modPart p f).memOk := h

theorem emit {e : Emit} (h : s.memOk) : (s.emit e).memOk := h

theorem modStream {p i : Nat} {f : Stream → Stream} (h : s.memOk) : (s.modStream p i f).memOk := h

theorem writeRec {p i : Nat} {bs : List Byte} {urgent : Bool} (h : s.memOk) : (s.writeRec p i bs urgent).memOk := by
  unfold State.writeRec
  extract_lets x ofs data u n v
  have hu : u.memOk := .opt h fun _ => .ite (.writeHost h) (.writeHbm h)
  exact .ite hu hu

theorem flushRecs {p i fuel : Nat} (h : s.memOk) : (s.flushRecs p i fuel).memOk := by
  induction fuel generalizing s with
  | zero => exact h
  | succ n ih => exact .list h fun _ _ => .ite h (ih (.writeRec h))

theorem putRec {p i : Nat} {r : Rec} {intr : Bool} (h : s.memOk) : (s.putRec p i r intr).memOk := .flushRecs h

theorem semaphoreTurn {ident : Nat} (h : s.memOk) : FarNext (execSemaphoreTurn ident s) :=
  .opt .fault fun _ => .next (.lit h (.ite (.putRec h) h))

/-! Launches -/

theorem writeRejects {p : Nat} (h : s.memOk) : (s.writeRejects p).memOk := .foldl h fun _ _ h => .putRec h

theorem launch {p stream : Nat} {priv : Bool} {bs : List Byte} {due : Nat} (h : s.memOk) : (s.launch p stream priv bs due).1.memOk := by
  unfold State.launch
  split
  · exact .ite (.putRec h) h
  · exact h

set_option smartUnfolding true in
theorem applyLaunch {x : Access} (h : s.memOk) : (s.applyLaunch x).memOk := by
  unfold State.applyLaunch
  split
  · exact h
  · exact .ite (.quenchAll h) (.launch h)

/-! Streams -/

theorem packetStep {p i : Nat} {f : Stream → List Byte → State → State} (hf : ∀ x bs, (f x bs s).memOk) : FarNext (packetStep p i s f) :=
  .opt .fault fun _ => .next (hf _ _)

theorem stopStream {p i : Nat} (h : s.memOk) : (s.stopStream p i).memOk := .putRec h

theorem copyPacket {p i : Nat} (h : s.memOk) : FarNext (execCopyPacket p i s) := by
  refine .packetStep fun x bs => ?_
  dsimp only
  split
  · exact .modStream (.pageMiss (.translate h))
  · exact .stopStream (.translate h)
  · split
    · exact .modStream (.pageMiss (.translate (.translate h)))
    · exact .stopStream (.translate (.translate h))
    · exact .modStream (.ite (.translate (.translate h)) (.translate (.translate h)))

theorem copyUnits {src dst : Extent} {ident n a : Nat} (h : s.memOk) : (s.copyUnits src dst ident n a).memOk := by
  induction n generalizing s a with
  | zero => exact h
  | succ n ih => exact ih (.ite (.farWrite h) (.foldl h fun _ _ h => .farWrite h))

theorem copyPacketDone {p i : Nat} (h : s.memOk) : FarNext (execCopyPacketDone p i s) :=
  .packetStep fun _ _ => .ite (.putRec h) (.ite (.copyUnits h) (.putRec (.copyUnits h)))

/-! The scheduler -/

theorem resideFrom {p i : Nat} {es : List Extent} (h : s.memOk) : (s.resideFrom p i es).1.memOk := by
  induction es generalizing s i with
  | nil => exact h
  | cons e es ih =>
    unfold State.resideFrom
    refine ih ?_
    split
    · have ht := translate (p := p) (va := e.base) (size := e.size) (acc := e.acc) (atom := e.atom) h
      split <;> next hs =>
        rw [hs] at ht
        exact ht
    · exact h

theorem grantLeases {gr : Nat} {r : Grid} (h : s.memOk) : (s.grantLeases gr r).memOk := .foldl h fun _ _ h => h

theorem grantAll (h : s.memOk) : s.grantAll.memOk := .foldl h fun _ _ h => .ite (.grantLeases h) h

theorem reside {gr : Nat} (h : s.memOk) : (s.reside gr).memOk :=
  .opt (.ite (.grantLeases (.resideFrom h)) (.resideFrom h)) fun _ => .putRec (.resideFrom h)

theorem gridReady {gr : Nat} (h : s.memOk) : FarNext (execGridReady gr s) :=
  .opt .fault fun _ => .next (.ite (.ite h (.reside h)) (.ite h (.reside h)))

theorem serve {gr base : Nat} (h : s.memOk) : (s.serve gr base).memOk := .ite h h

theorem gridStart {gr : Nat} (h : s.memOk) : FarNext (execGridStart gr s) := .opt .fault fun _ => .next (.foldl h fun _ _ h => h)

theorem traceRec {gr : Nat} {t : TRec} (h : s.memOk) : (s.traceRec gr t).memOk := .ite (.ite (.writeHbm h) h) h

theorem dispatchBlock {gr bid : Nat} {pl : Load} (h : s.memOk) : (s.dispatchBlock gr bid pl).memOk := .traceRec (.foldl h fun _ _ h => h)

theorem blockDispatch {gr : Nat} (h : s.memOk) : FarNext (execBlockDispatch gr s) :=
  .opt .fault fun _ => .opt (.next h) fun _ => .next (.foldl h fun _ _ h => .dispatchBlock h)

theorem blockDataLoaded {b : Nat} (h : s.memOk) : FarNext (execBlockDataLoaded b s) := .opt .fault fun _ => .next (.foldl h fun _ _ h => h)

theorem blockRelease {b : Nat} (h : s.memOk) : FarNext (execBlockRelease b s) := .opt .fault fun _ => .ite (.next (.ite h h)) (.next h)

theorem traceHeader {gr : Nat} (h : s.memOk) : (s.traceHeader gr).memOk := .ite (.writeHbm h) h

theorem noteRecord {stream : Nat} {tag : Word} (h : s.memOk) : (s.noteRecord stream tag).memOk := .ite h h

theorem gridComplete {gr : Nat} (h : s.memOk) : FarNext (execGridComplete gr s) :=
  .opt .fault fun _ => .next (.foldl (.noteRecord (.ite (.traceHeader (.putRec h)) (.traceHeader (.putRec h)))) fun _ _ h => h)

/-! Collectives -/

theorem sendControl {port : Nat} {msg : Place → Emit} (h : s.memOk) : (s.sendControl port msg).memOk := (State.sendControl_fabric _ _ _).memOk h

theorem tellVersion {gr : Nat} {c : Coll} {e : CollEntry} (h : s.memOk) : (s.tellVersion gr c e).memOk :=
  .ite (.foldl h fun _ _ h => .sendControl h) h

theorem contribute {planned : Bool} {c : Coll} {e : CollEntry} {ps : List (Nat × List Byte × Bool)} (h : s.memOk) :
    (s.contribute planned c e ps).memOk :=
  .foldl h fun _ _ h => .foldl h fun _ _ h => .ite ((State.sendPiece_fabric _ _ _ _ _ _ _ _ _ _).memOk h) h

theorem collectiveStep {gr : Nat} (h : s.memOk) : FarNext (execCollectiveStep gr s) :=
  .opt .fault fun _ => .opt (.next h) fun _ => .opt (.next h) fun _ => .ite (.opt (.next (.tellVersion h)) fun _ => .next (.tellVersion h))
    (.opt (.next h) fun _ => .next (.contribute (.tellVersion h)))

theorem modGrid {gr : Nat} {f : Grid → Grid} (h : s.memOk) : (s.modGrid gr f).memOk := h

theorem modBlock {b : Nat} {f : Block → Block} (h : s.memOk) : (s.modBlock b f).memOk := h

theorem chunkLand {gr : Nat} (h : s.memOk) : FarNext (execChunkLand gr s) := by
  refine .opt .fault fun _ => .opt (.next h) fun _ => .opt (.next h) fun _ => .opt (.next h) fun _ => .next (.opt (.modGrid ?_)
    fun _ => .foldl (.modBlock (.modGrid ?_)) fun _ _ h => h)
  all_goals exact .opt h fun _ => .foldl h fun _ _ h => .scratchWrite h

theorem collectiveRetire {gr : Nat} (h : s.memOk) : FarNext (execCollectiveRetire gr s) := .opt .fault fun _ => .next (.ite h h)

end State.memOk
end Sys2Proof.Machine
end

section
/-! The canonical form of the far memories: core events, stops and the driver's commands (16 R349-R368, 17 R394-R399, 18 R414). -/

set_option Elab.async false

namespace Sys2Proof.Machine

open Host (Outcome)

/- A match unfolds to `casesOn`, so that one lemma for each type serves every match over it. -/
set_option smartUnfolding false

namespace State.memOk
variable {s : State}

/-! Pending writes -/

theorem snapshot {p trig tick : Nat} (h : s.memOk) : (s.snapshot p trig tick).memOk :=
  .ite (.foldl h fun _ _ h => h) (.ite h (.foldl (.foldl h fun _ _ h => h) fun _ _ h => h))

theorem logEvent {p : Nat} {bs : List Byte} (h : s.memOk) : (s.logEvent p bs).memOk := .ite h (.writeHbm h)

theorem applyWrite {p : Nat} {w : PWrite} (h : s.memOk) : (s.applyWrite p w).memOk := by
  unfold State.applyWrite
  cases w with
  | reg | tol | flags | parity => exact h
  | snap => exact .snapshot h
  | evt => exact .logEvent h

theorem applyWrites {p : Nat} {late : Bool} (h : s.memOk) : (s.applyWrites p late).memOk := .foldl h fun _ _ h => .applyWrite h

/-! Events inside a core -/

theorem onGroup {g : Nat} {f : Group → State → State} (hf : ∀ x, (f x s).memOk) : FarNext (onGroup g s f) := .opt .fault fun _ => .next (hf _)

theorem correctable {k : Nat} (h : s.memOk) : (s.correctable k).memOk := h.kept (State.correctable_keeps k)

theorem lineRefetch {k line : Nat} (h : s.memOk) : FarNext (execLineRefetch k line s) :=
  .opt .fault fun _ => .ite (.next h) (.next (.correctable h))

theorem serveSlots {core quarter : Nat} {ks cs : List Nat} (h : s.memOk) : (serveSlots core quarter ks cs s).memOk := by
  induction ks generalizing s cs with
  | nil => exact h
  | cons k ks ih =>
    cases cs with
    | nil => exact h
    | cons c cs => exact .opt (ih h) fun _ => .ite (ih h) (ih h)

theorem rotationBoundary (h : s.memOk) : FarNext (execRotationBoundary s) := .next (.foldl h fun _ _ h => .serveSlots h)

theorem forcedFlush {k : Nat} (h : s.memOk) : FarNext (execForcedFlush k s) := .list (.next (.flush h)) fun _ _ => .next (.traceRec (.flush h))

theorem applyEntry {e : REntry} (h : s.memOk) : (s.applyEntry e).memOk := .ite h (.writeBytes h)

theorem reductionEntryApply {k : Nat} (h : s.memOk) : FarNext (execReductionEntryApply k s) := .list .fault fun _ _ => .next (.applyEntry h)

/-! Stops -/

theorem imgWrite {l : ImgLoc} {ofs : Nat} {bs : List Byte} (h : s.memOk) : (s.imgWrite l ofs bs).memOk := by
  cases l with
  | hbm => exact .writeHbm h
  | area => exact h

theorem writeStops {p : Nat} (h : s.memOk) : (s.writeStops p).memOk := .opt h fun _ => .foldl h fun _ _ h => .imgWrite h

theorem countSig {p : Nat} (h : s.memOk) : (s.countSig p).memOk := .ite h (.ite (.markCore h) h)

theorem contextFault {p : Nat} (h : s.memOk) : FarNext (execContextFault p s) :=
  .ite .fault (.list (.next h) fun _ _ => .ite (.next h) (.next (.foldl (.ite (.snapshot h) h) fun _ _ h => h)))

theorem faultGrids {p : Nat} (h : s.memOk) : (s.faultGrids p).memOk := .foldl h fun _ _ h => .ite (.putRec h) h

theorem stopRecordsWritten {p : Nat} (h : s.memOk) : FarNext (execStopRecordsWritten p s) :=
  .ite .fault (.next (.emit (.modPart (.countSig (.faultGrids (.writeStops h))))))

/-! A context leaves -/

theorem applySent {p : Nat} (h : s.memOk) : (s.applySent p).memOk := .foldl h fun _ _ h => .ite (.opt h fun _ => .applySelf h) h

theorem applyAtoms {p : Nat} (h : s.memOk) : (s.applyAtoms p).memOk := by
  refine .foldl h fun u k h => .foldl h fun v cl h => .list h fun c _ => ?_
  dsimp only
  split
  · refine .ite ?_ h
    split
    · next hs => exact copyUnitEffect h _ hs
    · exact h
  · exact h

theorem clearContext {p : Nat} (h : s.memOk) : (s.clearContext p).memOk := by
  obtain ⟨hhbm, hhost⟩ := applyAtoms (p := p) (applySent (p := p) h)
  unfold State.clearContext
  exact .modPart (.foldl (.foldl ⟨hhbm, hhost⟩ fun _ _ h => h) fun _ _ h => .ite h h)

theorem enter {p lo hi : Nat} {st : PState} (h : s.memOk) : (s.enter p st lo hi).memOk := h

/-! Commands -/

theorem onPart {p : Nat} {f : Part → State → State} (hf : ∀ q, (f q s).memOk) (h : s.memOk) : FarNext (onPart p s f) :=
  .ite (.next (.served (hf _) h)) .fault

theorem cmdOpen {p : Nat} (h : s.memOk) : (s.cmdOpen p).memOk := .ite h (.modPart (.enter (.clearContext h)))

theorem cmdHalt {p : Nat} (h : s.memOk) : (s.cmdHalt p).memOk := .ite h h

theorem cmdResume {p : Nat} (h : s.memOk) : (s.cmdResume p).memOk := .ite h (.foldl h fun _ _ h => h)

theorem cmdSave {p : Nat} {ds : Bool} (h : s.memOk) : (s.cmdSave p ds).memOk := .ite h (.ite h h)

theorem cmdRestore {p : Nat} {ds : Bool} (h : s.memOk) : (s.cmdRestore p ds).memOk := .ite h h

theorem cmdTerminate {p : Nat} (h : s.memOk) : (s.cmdTerminate p).memOk :=
  .ite h (.modPart (.enter (.clearContext (.foldl h fun _ _ h => .ite (.putRec h) h))))

theorem command {p code : Nat} {ds : Bool} (h : s.memOk) : (s.command p code ds).memOk :=
  .lit (.cmdOpen h) (.lit (.cmdHalt h) (.lit (.cmdResume h) (.lit (.cmdSave h) (.lit (.cmdRestore h) (.lit (.cmdTerminate h) h)))))

/-! Context images -/

theorem saveComplete {p : Nat} (h : s.memOk) : FarNext (execSaveComplete p s) :=
  .onPart (fun _ => .opt h fun _ => .modPart (.enter (.clearContext (.imgWrite h)))) h

theorem putBack {p : Nat} {m : Image} (h : s.memOk) : (s.putBack p m).memOk := by
  unfold State.putBack
  exact .foldl (.foldl (.foldl h fun _ _ h => h) fun _ _ h => .foldl h fun _ _ h => h) fun _ _ h => .ite h h

theorem restoreComplete {p : Nat} (h : s.memOk) : FarNext (execRestoreComplete p s) :=
  .onPart (fun _ => .emit (.opt h fun _ => .ite (.putBack h) h)) h

/-! Translation -/

theorem mapStream {p i : Nat} (h : s.memOk) : (s.mapStream p i).memOk := by
  unfold State.mapStream
  extract_lets one x
  have hone : ∀ u va n acc, u.memOk → (one u va n acc).1.memOk := fun u va n acc hu => by
    have ht := translate (p := p) (va := va.toNat) (size := 64 * n.toNat) (acc := acc) (atom := 0) hu
    unfold one
    split <;> next hs =>
      rw [hs] at ht
      exact ht
  clear_value one
  exact .flushRecs (.modStream (hone _ _ _ _ (hone _ _ _ _ h)))

set_option smartUnfolding true in
theorem pageAck {p : Nat} (h : s.memOk) : (s.pageAck p).memOk :=
  .foldl (.foldl h fun _ _ h => .reside h) fun _ _ h => .ite (.mapStream (.ite h h)) (.ite h h)

theorem recallLeases {p : Nat} {hit : Extent → Seg → Bool} (h : s.memOk) : (s.recall p hit).memOk :=
  .foldl h fun _ _ h => .foldl h fun _ _ h => .sendControl h

theorem invalidate {p : Nat} {va : DWord} (h : s.memOk) : (s.invalidate p va).memOk := .modPart (.recallLeases h)

/-! Registers -/

theorem writeStream {p i : Nat} {v : Word} (h : s.memOk) : (s.writeStream p i v).memOk := .ite (.mapStream (.modStream h)) h

theorem restart {p i : Nat} {v : Word} (h : s.memOk) : FarNext (execRestart p i v s) :=
  .ite .fault (.onPart (fun _ => .ite (.writeStream h) (.writeStream h)) h)

theorem writePart {p ofs : Nat} {v : Word} (h : s.memOk) : (s.writePart p ofs v).memOk :=
  .lit (.command h) (.lit h (.lit h (.lit h (.lit h (.lit h (.lit h (.lit (.modPart (.ite (.recallLeases h) h)) (.lit h (.lit h (.lit h
    (.lit (.ite (.pageAck h) h) (.lit h (.lit h (.lit h (.lit h (.lit (.invalidate h) (.lit (.invalidate h) (.lit (.ite h h) h))))))))))))))))))

theorem writeStreamReg {p i ofs : Nat} {v : Word} (h : s.memOk) : (s.writeStreamReg p i ofs v).memOk :=
  .lit h (.lit h (.lit h (.lit h (.lit (.ite (.writeStream h) (.writeStream h)) (.lit h (.lit h (.lit h (.lit (.flushRecs h) (.lit (.ite h h)
    (.lit h h))))))))))

theorem writePlay {v : Word} (h : s.memOk) : (s.writePlay v).memOk := .ite h h

theorem writeShadow {v : Word} (h : s.memOk) : (s.writeShadow v).memOk := .ite h h

theorem writeDev {ofs : Nat} {v : Word} (h : s.memOk) : (s.writeDev ofs v).memOk := .lit h (.lit (.writePlay h) (.lit (.writeShadow h) h))

theorem regWrite {ofs : Nat} {v : Word} (h : s.memOk) : (s.regWrite ofs v).memOk :=
  .ite (.writeDev h) (.ite (.ite (.writePart h) (.ite (.writeStreamReg h) h)) h)

theorem hostWrite {addr : Nat} {bytes : List Byte} {poison : Bool} (h : s.memOk) : FarNext (execHostWrite addr bytes poison s) := by
  unfold execHostWrite
  exact .ite (.ite (.next (.mirror (.writeHbm h))) (.next (.writeHbm h))) (.next h)

theorem mirAcks (h : s.memOk) : s.mirAcks.memOk := .foldl h fun _ _ h => h

end State.memOk
end Sys2Proof.Machine
end

section
/-! The canonical form of the far memories: the pod, maintenance, recovery and the device as a whole (15 R319-R348, 16 R363-R371,
18 R405-R420). -/

set_option Elab.async false

namespace Sys2Proof.Machine

open Host (Outcome)

/- A match unfolds to `casesOn`, so that one lemma for each type serves every match over it. -/
set_option smartUnfolding false

namespace State.memOk
variable {s : State}

/-! Schedule faults and the clock -/

theorem schedFault {c : Sys2Proof.SFault} {dev tick : Nat} (h : s.memOk) : (s.schedFault c dev tick).memOk :=
  .foldl h fun _ _ h => .ite h h

theorem detectAt {c : Sys2Proof.SFault} {tick : Nat} (h : s.memOk) : (s.detectAt c tick).memOk :=
  .ite h (.foldl (.schedFault h) fun _ _ h => .sendControl h)

theorem detect {c : Sys2Proof.SFault} (h : s.memOk) : (s.detect c).memOk := .detectAt h

theorem setPat {x : Pat} (h : s.memOk) : ({ s with pat := x } : State).memOk := h

theorem late {x : Overdue} (h : s.memOk) : FarNext (execLate x s) := by
  have ht : ∀ {key tick}, (s.lateAt key tick).memOk := .detectAt (.setPat h)
  cases x with
  | planned | coll => exact .opt .fault fun _ => .next (.opt h fun _ => ht)
  | grid => exact .opt .fault fun _ => .next (.detect h)

set_option smartUnfolding true in
theorem ptpSync {m : PtpTimes} (h : s.memOk) : FarNext (execPtpSync m s) := by
  refine .next (.served ?_ h)
  dsimp only
  split
  · exact .ite (.sendControl h) h
  · split
    · exact .ite (.ite (.detect h) h) h
    · exact h
  · exact .ite (.sendControl h) h

theorem sendSync (h : s.memOk) : s.sendSync.memOk := .foldl h fun _ _ h => .sendControl h

theorem retime (h : s.memOk) : s.retime.memOk := .ite h (.opt (.detect h) fun _ => h)

theorem failLink {port : Nat} (h : s.memOk) : (s.failLink port).memOk := .ite h (.sendControl h)

theorem timingPortLockLoss {locked : List Nat} (h : s.memOk) : FarNext (execTimingPortLockLoss locked s) :=
  .next (.served (.retime (.foldl h fun _ _ h => .failLink h)) h)

/-! Flits -/

theorem withdraw {w : SentFlit → Bool} (h : s.memOk) : (s.withdraw w).memOk := (State.withdraw_fabric _ _).memOk h

theorem resendFlit {pair : Nat} {f : SentFlit} (h : s.memOk) : (s.resendFlit pair f).memOk :=
  .ite (.detect h) (.opt h fun _ => .opt h fun _ => .ite h ((State.delayExec_fabric _ _ _).memOk h))

theorem acknowledgement {pair : Nat} {flit : AckFlit} {lost : Bool} (h : s.memOk) : FarNext (execAcknowledgement pair flit lost s) :=
  .next (.served (.sendHeld (.foldl h fun _ _ h => .opt h fun _ => .ite h (.resendFlit h))) h)

theorem applyPayload {poison : Bool} {body : Payload} (h : s.memOk) : (s.applyPayload poison body).memOk := by
  cases body with
  | request => exact .applyRequest h
  | copy => exact .ite h (.writeHbm h)
  | mirrorWrite => exact .writeHbm h
  | contribution | version | reply | pairState | data | idle => exact h

theorem ackLater {pair : Nat} {q : Slot} {ok : Bool} {crc : Word} (h : s.memOk) : (s.ackLater pair q ok crc).memOk := .opt h fun _ => .ite h h

theorem flitReceive {pair frame slot : Nat} {rx : FlitIn} {poison : Bool} {body : Payload} (h : s.memOk) :
    FarNext (execFlitReceive pair frame slot rx poison body s) :=
  .next (.served (.opt h fun _ => .ite (.ite h (.ite (.applyPayload h) h)) (.ite h (.ite (.ackLater h) (.ite (.ackLater h)
    (.opt (.setPat (.ackLater h)) fun _ => .ite (.applyPayload (.setPat (.ackLater h))) (.setPat (.ackLater h))))))) h)

theorem sendAck (h : s.memOk) : s.sendAck.memOk := .opt h fun _ => h

theorem useBackups (h : s.memOk) : s.useBackups.memOk :=
  .sendHeld (.foldl (.withdraw h) fun _ _ h => .foldl h fun _ _ h => .resendFlit h)

theorem executionMissesBound {ident : Nat} (h : s.memOk) : FarNext (execExecutionMissesBound ident s) :=
  .opt .fault fun _ => .next (.ite (.detect h) h)

/-! Resynchronisation and patterns -/

theorem quietFrames (h : s.memOk) : FarNext (execQuietFrames s) := by
  unfold execQuietFrames
  dsimp only
  generalize hw : State.withdraw _ _ = w
  obtain ⟨hhbm, hhost⟩ : w.memOk := hw ▸ .withdraw (.setPat h)
  exact .next ⟨hhbm, hhost⟩

theorem alignmentCheck (h : s.memOk) : FarNext (execAlignmentCheck s) := .next (.ite (.detect h) h)

theorem anchor (h : s.memOk) : s.anchor.memOk := h

theorem rejoin (h : s.memOk) : FarNext (execRejoin s) := .next (.sendHeld (.setPat (.anchor h)))

theorem patternLoad {q : Pattern} (h : s.memOk) : FarNext (execPatternLoad q s) := .next (.served (.ite h h) h)

theorem patternEffect (h : s.memOk) : FarNext (execPatternEffect s) := by
  have hv : (if s.pat.st = 1 then s.withdraw (fun f => !f.gone) else (s.withdraw (fun f => !f.gone)).anchor).memOk :=
    .ite (.withdraw h) (.anchor (.withdraw h))
  exact .opt .fault fun _ => .next (.sendHeld (.grantAll (.retime ⟨hv.1, hv.2⟩)))

theorem leaseGrant {gr p : Nat} {range : LRange} (h : s.memOk) : FarNext (execLeaseGrant gr p range s) := .opt .fault fun _ => .next (.ite h h)

theorem leaseRecall {gr p rng page : Nat} (h : s.memOk) : FarNext (execLeaseRecall gr p rng page s) := .opt .fault fun _ => .next h

theorem recallAnswer {gr p rng : Nat} (h : s.memOk) : FarNext (execRecallAnswer gr p rng s) := .opt .fault fun _ => .next (.ite h h)

/-! Maintenance and recovery -/

theorem easeWindow (h : s.memOk) : FarNext (execEaseWindow s) := by
  unfold execEaseWindow
  split
  · exact .next (.foldl h fun _ _ h => State.maintain_memOk _ h)
  · exact .next h

theorem checkpoint (h : s.memOk) : FarNext (execCheckpoint s) := .next (.ite h (.detect h))

theorem managementRequest {m : Mgmt} (h : s.memOk) : FarNext (execManagementRequest m s) := by
  cases m with
  | readSnapshots | power | snack => exact .next h
  | retire => exact .next (.ite (.markCore h) h)

/-- HBM4 is empty after a cold start and without power; the host keeps its memory. -/
theorem empty {u : State} (hhbm : u.hbm = {} := by rfl) (hhost : u.host = s.host := by rfl) (h : s.memOk) : u.memOk := by
  rw [State.memOk, hhbm, hhost]
  exact ⟨rfl, h.2⟩

theorem powerOff (h : s.memOk) : s.powerOff.memOk := .foldl (.empty (s := s) (h := h)) fun _ _ h => h

end State.memOk
end Sys2Proof.Machine
end

section
/-! Every step keeps the far memories canonical: each event, each quiet move of a turn's phases, and each word with the end of its issue. -/

set_option Elab.async false

namespace Sys2Proof.Machine

open Host (Outcome)

/- A match unfolds to `casesOn`, so that one lemma for each type serves every match over it. -/
set_option smartUnfolding false

namespace State.memOk
variable {s : State}

theorem applyAccess {x : Access} (h : s.memOk) : (s.applyAccess x).memOk := by
  have hq : ({ s with bankQ := s.bankQ.erase x } : State).memOk := h
  unfold State.applyAccess
  cases x.op with
  | ld => exact .applyLoad hq
  | st => exact .applyStore hq
  | atom => exact .applyAtom hq
  | ldr => exact .applyLdr hq
  | stc => exact .applyStc hq
  | halloc => exact .applyHalloc hq
  | hfree => exact .applyHfree hq
  | put | get | peek => exact .applyRing hq
  | launch => exact .applyLaunch hq
  | poison => exact .modRam hq
  | bulk => exact .foldl hq fun _ _ h => .foldl h fun _ _ h => .scratchWrite h

/-! Events -/

theorem barrierRelease {b : Nat} (h : s.memOk) : FarNext (execBarrierRelease b s) := .opt .fault fun _ => .next (.foldl h fun _ _ h => h)

theorem gangBarrierRelease {gr gang : Nat} (h : s.memOk) : FarNext (execGangBarrierRelease gr gang s) :=
  .opt .fault fun _ => .next (.foldl h fun _ _ h => .foldl h fun _ _ h => h)

theorem ringRetryEvent {g : Nat} (h : s.memOk) : FarNext (execRingRetry g s) :=
  .opt .fault fun _ => .opt (.next h) fun _ => .next (.ite (.ringRetry h) h)

theorem engineCommandStart {k : Nat} (h : s.memOk) : FarNext (execEngineCommandStart k s) :=
  .list .fault fun _ _ => .ite (.next h) (.next (.startCommand h))

theorem mloopKStep {k : Nat} (h : s.memOk) : FarNext (execMloopKStep k s) := by
  refine .list .fault fun c _ => ?_
  dsimp only
  split <;> exact .next h

theorem batchComplete {g : Nat} (h : s.memOk) : FarNext (execBatchComplete g s) := .opt .fault fun _ => .ite (.next h) (.next h)

theorem waitcExpire {g : Nat} (h : s.memOk) : FarNext (execWaitcExpire g s) := .opt .fault fun _ => .next h

theorem endFlush {b : Nat} (h : s.memOk) : FarNext (execEndFlush b s) := .opt .fault fun _ => .next (.flush h)

theorem streamEn {p i : Nat} {v : Word} (h : s.memOk) : FarNext (execStreamEn p i v s) := .ite .fault (.onPart (fun _ => .writeStream h) h)

theorem fairnessExcursion {g : Nat} (h : s.memOk) : FarNext (execFairnessExcursion g s) := .onGroup fun _ => .opt h fun _ => h

set_option smartUnfolding true in
/-- What any row of the table does leaves the far memories canonical. -/
theorem exec {i : Instr} (h : s.memOk) : FarNext (exec i s) := by
  cases i with
  | resultLand g => exact show FarNext (execResultLand g s) from .onGroup fun _ => .land h
  | lineRefetch => exact .lineRefetch h
  | rotationBoundary => exact .rotationBoundary h
  | fairnessExcursion => exact .fairnessExcursion h
  | waitcExpire => exact .waitcExpire h
  | engineCommandStart => exact .engineCommandStart h
  | mloopKStep => exact .mloopKStep h
  | matrixCommandEnd => exact .matrixCommandEnd h
  | copyCommandStart => exact .copyCommandStart h
  | copyUnitEffect => exact .copyUnitEffect h
  | copyMemberComplete => exact .copyMemberComplete h
  | batchComplete => exact .batchComplete h
  | remoteApply => exact .remoteApply h
  | remoteComplete => exact .remoteComplete h
  | ringRetry => exact .ringRetryEvent h
  | barrierRelease => exact .barrierRelease h
  | gangBarrierRelease => exact .gangBarrierRelease h
  | semaphoreTurn => exact .semaphoreTurn h
  | forcedFlush => exact .forcedFlush h
  | endFlush => exact .endFlush h
  | reductionEntryApply => exact .reductionEntryApply h
  | trapEntry g => exact show FarNext (execTrapEntry g s) from .onGroup fun _ => .ite (.takeTrap h) h
  | trapFrameCaptured g => exact show FarNext (execTrapFrameCaptured g s) from .onGroup fun _ => .enterHandler h
  | handlerEnd g => exact show FarNext (execHandlerEnd g s) from .onGroup fun _ => .ite h h
  | trapFrameRestored g => exact show FarNext (execTrapFrameRestored g s) from .onGroup fun _ => .restoreFrames h
  | stopSpacing g => exact show FarNext (execStopSpacing g s) from .onGroup fun _ => h
  | watchdog | ctimeExpire => exact .ite (.next h) .fault
  | contextFault => exact .contextFault h
  | stopRecordsWritten => exact .stopRecordsWritten h
  | snaptMatch => exact .ite (.next (.snapshot h)) .fault
  | launchPacket p i => exact show FarNext (execLaunchPacket p i s) from .packetStep fun _ _ => .launch h
  | nopPacket p i => exact show FarNext (execNopPacket p i s) from .packetStep fun _ _ => h
  | serialRelease p i => exact show FarNext (execSerialRelease p i s) from .packetStep fun _ _ => h
  | semwaitPacket p i => exact show FarNext (execSemwaitPacket p i s) from .packetStep fun _ _ => .ite h h
  | semwaitMet p i => exact show FarNext (execSemwaitMet p i s) from .packetStep fun _ _ => .ite h h
  | semsigPacket p i => exact show FarNext (execSemsigPacket p i s) from .packetStep fun _ _ => .putRec h
  | copyPacket => exact .copyPacket h
  | copyPacketDone => exact .copyPacketDone h
  | invalidPacket p i => exact show FarNext (execInvalidPacket p i s) from .packetStep fun _ _ => .stopStream h
  | gridReady => exact .gridReady h
  | gridStart => exact .gridStart h
  | blockDispatch => exact .blockDispatch h
  | blockDataLoaded => exact .blockDataLoaded h
  | blockRelease => exact .blockRelease h
  | gridComplete => exact .gridComplete h
  | collectiveStep => exact .collectiveStep h
  | chunkLand => exact .chunkLand h
  | collectiveRetire => exact .collectiveRetire h
  | openCmd p d => exact show FarNext (execOpenCmd p d s) from .onPart (fun _ => .cmdOpen h) h
  | haltCmd p d => exact show FarNext (execHaltCmd p d s) from .onPart (fun _ => .cmdHalt h) h
  | resumeCmd p d => exact show FarNext (execResumeCmd p d s) from .onPart (fun _ => .cmdResume h) h
  | saveCmd p d => exact show FarNext (execSaveCmd p d s) from .onPart (fun _ => .cmdSave h) h
  | restoreCmd p d => exact show FarNext (execRestoreCmd p d s) from .onPart (fun _ => .cmdRestore h) h
  | terminateCmd p d => exact show FarNext (execTerminateCmd p d s) from .onPart (fun _ => .cmdTerminate h) h
  | haltComplete => exact .ite .fault (.next (.emit (.modPart (.writeStops h))))
  | saveComplete => exact .saveComplete h
  | restoreComplete => exact .restoreComplete h
  | clearingDone p => exact show FarNext (execClearingDone p s) from .onPart (fun _ => h) h
  | invalidationDone p => exact show FarNext (execInvalidationDone p s) from .onPart (fun _ => h) h
  | snack p => exact show FarNext (execSnack p s) from .onPart (fun _ => h) h
  | pgack p => exact show FarNext (execPgack p s) from .onPart (fun _ => .pageAck h) h
  | invva p va => exact show FarNext (execInvva p va s) from .onPart (fun _ => .invalidate h) h
  | play => exact .next (.served (.writePlay h) h)
  | shadow => exact .next (.served (.writeShadow h) h)
  | streamEn => exact .streamEn h
  | restart => exact .restart h
  | registerWrite => exact .next (.served (.regWrite h) h)
  | hostWrite => exact .hostWrite h
  | acknowledgement => exact .acknowledgement h
  | flitReceive => exact .flitReceive h
  | linkFailed => exact .next (.served (.failLink h) h)
  | ptpSync => exact .ptpSync h
  | timingPortLockLoss => exact .timingPortLockLoss h
  | late => exact .late h
  | ease => exact .next (.detect (.foldl h fun _ _ h => State.maintain_memOk _ h))
  | peer => exact .ite (.next h) (.next (.schedFault h))
  | quietFrames => exact .quietFrames h
  | alignmentCheck => exact .alignmentCheck h
  | rejoin => exact .rejoin h
  | patternLoad => exact .patternLoad h
  | patternEffect => exact .patternEffect h
  | leaseGrant => exact .leaseGrant h
  | leaseRecall => exact .leaseRecall h
  | recallAnswer => exact .recallAnswer h
  | easeWindow => exact .easeWindow h
  | rowActivationAlert => exact .next (State.queueMaint_memOk _ _ h)
  | checkpoint => exact .checkpoint h
  | coreMark => exact .ite (.next (.markCore h)) .fault
  | standbySubstitution | firmwareLoad => exact .ite (.next h) (.next h)
  | coldStart => exact .next (.empty (s := s) (h := h))
  | hostRead | spdmRequest => exact .next h
  | managementRequest => exact .managementRequest h
  | executionMissesBound => exact .executionMissesBound h
  | thermalTrip | mainRailDrop => exact .next (.powerOff h)
  | fillWord => exact .word h (.inr (.inl rfl))
  | div ty r | rem ty r => exact .word h (.inr (.inr ⟨ty, r, by simp⟩))
  | _ => exact .word h (.inl rfl)

end State.memOk

/-! What a step does next -/

/-- The state in which a move acts. -/
def Action.state : Action → State
  | .event _ t | .word _ t | .quiet t => t

/-- Every move on offer acts in a state whose far memories are canonical. -/
def Offers (o : Option Action) : Prop := ∀ a, o = some a → a.state.memOk

namespace Offers
variable {s : State}

theorem none : Offers none := fun _ h => nomatch h

theorem some {a : Action} (h : a.state.memOk) : Offers (some a) := fun _ ha => Option.some.inj ha ▸ h

theorem ite {c : Prop} [Decidable c] {o p : Option Action} (ho : Offers o) (hp : Offers p) : Offers (if c then o else p) := by
  split <;> assumption

theorem fire {c : Bool} {i : Instr} (h : s.memOk) : Offers (s.fire c i) := .ite (.some h) .none

theorem silent {c : Bool} {f : State → State} (h : (f s).memOk) : Offers (s.silent c f) := .ite (.some h) .none

theorem opt {α : Type} {x : Option α} {o : Option Action} {f : α → Option Action} (ho : Offers o) (hf : ∀ a, Offers (f a)) :
    Offers (Option.casesOn (motive := fun _ => _) x o f) := by
  cases x with
  | none => exact ho
  | some a => exact hf a

theorem list {α : Type} {l : List α} {o : Option Action} {f : α → List α → Option Action} (ho : Offers o) (hf : ∀ a l, Offers (f a l)) :
    Offers (List.casesOn (motive := fun _ => _) l o f) := by
  cases l with
  | nil => exact ho
  | cons a l => exact hf a l

theorem orElse {o p : Option Action} (ho : Offers o) (hp : Offers p) : Offers (o <|> p) := by
  cases o with
  | none => exact hp
  | some a => exact ho

theorem firstSome {α : Type} {f : α → Option Action} {l : List α} (h : ∀ a, Offers (f a)) : Offers (firstSome f l) := by
  induction l with
  | nil => exact .none
  | cons a l ih =>
    unfold Machine.firstSome
    have ha := h a
    generalize f a = o at ha ⊢
    cases o with
    | none => exact ih
    | some b => exact ha

theorem map {α : Type} {o : Option α} {f : α → Action} (h : ∀ a, (f a).state.memOk) : Offers (o.map f) := by
  cases o with
  | none => exact .none
  | some a => exact .some (h a)

theorem getD {o : Option Action} {a : Action} (ho : Offers o) (ha : a.state.memOk) : (o.getD a).state.memOk := by
  cases o with
  | none => exact ha
  | some b => exact ho b rfl

end Offers

namespace State.memOk
variable {s : State}

theorem dueInput (h : s.memOk) : Offers s.dueInput := .opt .none fun _ => .some h

theorem dueHap (h : s.memOk) : Offers s.dueHap := .opt .none fun q => .some (State.happen_memOk (s := { s with haps := s.haps.erase q }) q.2 h)

theorem dueLatch {p : Nat} (h : s.memOk) : Offers (s.dueLatch p) :=
  .ite .none (.orElse (.fire h) (.orElse (.firstSome fun _ => .fire h) (.firstSome fun _ => .fire h)))

theorem duePart {p : Nat} (h : s.memOk) : Offers (s.duePart p) :=
  .orElse (dueLatch h) (.orElse (.fire h) (.orElse (.fire h) (.orElse (.fire h) (.orElse (.fire h) (.orElse (.fire h) (.orElse (.fire h)
    (.orElse (.fire h) (.orElse (.silent (.applyWrites h)) (.silent (.writeRejects h))))))))))

theorem duePod (h : s.memOk) : Offers s.duePod :=
  .orElse (.firstSome fun _ => .firstSome fun _ => .fire h) (.orElse (.silent (.sendAck h)) (.orElse (.silent (.useBackups h))
    (.orElse (.silent ((State.launchFlits_fabric _).memOk h)) (.orElse (.silent (.sendSync h)) (.map fun _ => h)))))

theorem dueUpkeep (h : s.memOk) : Offers s.dueUpkeep :=
  .orElse (.fire h) (.orElse (.firstSome fun _ => .fire h) (.map fun _ => h))

theorem duePattern (h : s.memOk) : Offers s.duePattern :=
  .orElse (.fire h) (.orElse (.fire h) (.orElse (.fire h) (.orElse (.fire h) (.orElse (.opt .none fun _ => .fire h)
    (.orElse (.ite (.firstSome fun _ => .fire h) .none) (.orElse (.firstSome fun _ => .silent h)
      (.orElse (.silent (.mirAcks h)) (.orElse (duePod h) (dueUpkeep h)))))))))

theorem dueSem (h : s.memOk) : Offers s.dueSem := .list .none fun _ _ => .some h

theorem dueStream {p i : Nat} (h : s.memOk) : Offers (s.dueStream p i) :=
  .orElse (.opt .none fun _ => .opt (.some h) fun _ => .some h) (.fire h)

theorem dueSched {p : Nat} (h : s.memOk) : Offers (s.dueSched p) :=
  .ite .none (.orElse (.ite (.orElse (.firstSome fun _ => .fire h) (.orElse (.opt .none fun _ => .some (.serve h)) (.orElse (.firstSome fun _ => .fire h)
    (.orElse (.firstSome fun _ => .fire h) (.firstSome fun _ => .fire h))))) .none) (.ite (.firstSome fun _ => .fire h) .none))

theorem dueRemote (h : s.memOk) : Offers s.dueRemote :=
  .orElse (.firstSome fun _ => .silent (.sendRemote h)) (.orElse (.fire h) (.orElse (.firstSome fun _ => .fire h) (.firstSome fun _ => .fire h)))

theorem dueLand (h : s.memOk) : Offers s.dueLand := by
  refine .orElse (.firstSome fun g => ?_) (.orElse (.firstSome fun _ => .fire h) (.orElse (.firstSome fun _ => .silent (.applyWrites h))
    (.orElse (.firstSome fun _ => .fire h) (.firstSome fun _ => .silent (.captureFrames h)))))
  split
  · exact .fire h
  · exact .none

theorem dueMatrix (h : s.memOk) : Offers s.dueMatrix := by
  refine .orElse (.firstSome fun _ => .silent (.stopDrain h)) (.ite .none (.orElse (.firstSome fun _ => .fire h)
    (.orElse (.firstSome fun _ => .fire h) (.firstSome fun c => ?_))))
  split
  · exact .ite .none (.ite (.some h) (.orElse (.silent (.engineRead h)) (.orElse (.fire h) (.silent (.loopDrain h)))))
  · exact .none

theorem dueQueue {k : Nat} {cl : CClass} (h : s.memOk) : Offers (s.dueQueue k cl) :=
  .list .none fun _ _ => .ite (.ite (.some h) (.orElse (.silent h) (.orElse (.fire h) (.fire h)))) (.fire h)

theorem dueCopies (h : s.memOk) : Offers s.dueCopies :=
  .orElse (.firstSome fun _ => .orElse (.fire h) (.firstSome fun _ => dueQueue h)) (.orElse (.firstSome fun _ => .silent h) (.firstSome fun _ => .fire h))

theorem dueColl (h : s.memOk) : Offers s.dueColl := .firstSome fun _ => .ite (.orElse (.fire h) (.fire h)) .none

theorem dueBanks (h : s.memOk) : Offers s.dueBanks :=
  .orElse (.firstSome fun _ => .fire h) (.orElse (.opt .none fun _ => .some (.applyAccess h))
    (.ite (.firstSome fun _ => .opt .none fun _ => .fire h) .none))

theorem dueBars (h : s.memOk) : Offers s.dueBars :=
  .orElse (.firstSome fun _ => .firstSome fun _ => .silent h) (.orElse (.firstSome fun _ => .ite .none
    (.orElse (.silent (.closeBar h)) (.orElse (.opt .none fun _ => .some h) (.orElse (.silent (.barFlush h)) (.orElse (.fire h) (.silent h))))))
      (.orElse (.firstSome fun _ => .firstSome fun _ => .fire h) (.firstSome fun _ => .fire h)))

theorem dueFlush (h : s.memOk) : Offers s.dueFlush := .orElse (.firstSome fun _ => .fire h) (.firstSome fun _ => .fire h)

theorem dueTraps (h : s.memOk) : Offers s.dueTraps := by
  refine .orElse (.firstSome fun g => .ite .none ?_) (.orElse (.fire h) (.orElse (.firstSome fun _ => .orElse (.fire h) (.fire h))
    (.orElse (.firstSome fun _ => .ite (.orElse (.silent h) (.silent h)) .none) (.firstSome fun _ => .fire h))))
  split
  · exact .fire h
  · exact .none

/-! The issue -/

theorem parkMask {g : Nat} {m : Mask} {pc : BitVec 20} {r : TrapRec} (h : s.memOk) : (s.parkMask g m pc r).memOk :=
  h.kept (State.parkMask_keeps _ _ _ _)

theorem setIssue {x : Option Issue} (h : s.memOk) : ({ s with issue := x } : State).memOk := h

theorem rejectWord {x : Issue} {cls : Nat} (h : s.memOk) : (s.rejectWord x cls).memOk := .finishWord (.setIssue (.parkMask h))

theorem actWord {x : Issue} (h : s.memOk) : (s.actWord x).state.memOk := by
  unfold State.actWord
  split
  · exact h
  · exact .rejectWord h

theorem iteAct {c : Prop} [Decidable c] {a b : Action} (ha : a.state.memOk) (hb : b.state.memOk) : (if c then a else b).state.memOk := by
  split <;> assumption

theorem groupTurn {i : Nat} {g : Group} (h : s.memOk) : (s.groupTurn i g).state.memOk := by
  unfold State.groupTurn
  extract_lets base lim
  split
  · exact h
  generalize (if g.held != 0 then (g.held, { g with mark := none }) else ({ g with mark := none } : Group).select) = x
  obtain ⟨iset, g'⟩ := x
  dsimp -zeta only
  extract_lets lane0 pc k line l j w bad pair w2 stop tgt x
  clear_value x tgt stop w2 pair bad w j l line k pc lane0
  exact .iteAct h (.iteAct h (.iteAct h (.iteAct h (.iteAct h (.iteAct h (.actWord h))))))

theorem issueNext (h : s.memOk) : Offers s.issueNext := .opt .none fun _ => .ite (.some h) (.some (.groupTurn h))

theorem advance (h : s.memOk) : s.advance.memOk := by
  have hw : ((s.refreshProg.noteFinished (s.turn + 1)).newWindow (s.turn + 1)).memOk := .ite h h
  exact hw

theorem endTurn (h : s.memOk) : s.endTurn.state.memOk :=
  Offers.getD (.orElse (.silent h) (.orElse (.firstSome fun _ => .fire h) (.firstSome fun _ => .fire h))) (advance h)

theorem nextAction (h : s.memOk) : (nextAction s).state.memOk := by
  unfold Machine.nextAction
  split
  · exact .actWord h
  · exact Offers.getD (.orElse (dueInput h) (.orElse (dueHap h) (.ite (.orElse (.firstSome fun _ => duePart h) (.orElse (duePattern h)
      (.orElse (dueSem h) (.orElse (.firstSome fun _ => dueStream h) (.orElse (.firstSome fun _ => dueSched h) (.orElse (.map fun _ => h)
        (.orElse (dueRemote h) (.orElse (dueLand h) (.orElse (dueMatrix h) (.orElse (dueCopies h) (.orElse (dueColl h) (.orElse (dueBanks h)
          (.orElse (dueBars h) (.orElse (dueFlush h) (.orElse (dueTraps h) (issueNext h)))))))))))))))) .none))) (endTurn h)

theorem afterWord {o : Outcome State Fault Refusal} (ho : FarNext o) : FarNext (afterWord o) := by
  cases o with
  | next t => exact .next (.finishWord (ho t rfl))
  | fault r => exact .fault
  | refused r => exact fun _ h => nomatch h

/-- A step leaves the far memories canonical. -/
theorem step (h : s.memOk) : FarNext (step s) := by
  have ha := nextAction h
  unfold Machine.step
  generalize Machine.nextAction s = a at ha
  cases a with
  | event i t => exact .exec ha
  | word i t => exact .afterWord (.exec ha)
  | quiet t => exact .next ha

end State.memOk

/-- Settles O39: every operation of the machine writes far memory byte by byte, and a byte written keeps the canonical form. -/
theorem memoryStaysCanonical : Obligations.MemoryStaysCanonical := fun _ _ h ht => State.memOk.step h _ ht

end Sys2Proof.Machine
end

section
/-! SUPPORT. The checks of a scratch word (09 R193), each by the outcome it leads to. -/

set_option Elab.async false

namespace Sys2Proof.Machine

open Host (Outcome)

/-! The lanes of a word, in ascending order -/

theorem lanesOf_ascending (m : Mask) : (lanesOf m).Pairwise (· < ·) := List.pairwise_lt_range.filter _

/-- The lowest of the lanes for which a test holds is the one that a search finds. -/
theorem Ctx.find_lanes {k : Ctx} {p : Nat → Bool} {l : Nat} (hl : l ∈ k.lanes) (hp : p l = true) (hlow : ∀ j ∈ k.lanes, j < l → p j = false) :
    k.lanes.find? p = some l := by
  obtain ⟨pre, post, hs⟩ := List.append_of_mem hl
  have hasc : (pre ++ l :: post).Pairwise (· < ·) := hs ▸ lanesOf_ascending k.sel
  rw [List.find?_eq_some_iff_append]
  refine ⟨hp, pre, post, hs, fun j hj => ?_⟩
  rw [hlow j (hs ▸ List.mem_append_left _ hj) ((List.pairwise_append.1 hasc).2.2 j hj l List.mem_cons_self)]
  rfl

theorem Ctx.find_lanes_none {k : Ctx} {p : Nat → Bool} (h : ∀ j ∈ k.lanes, p j = false) : k.lanes.find? p = none :=
  List.find?_eq_none.2 fun j hj => by simp [h j hj]

theorem Ctx.lanes_eq_nil {k : Ctx} : k.lanes = [] ↔ k.sel = 0 := by
  refine ⟨fun h => BitVec.eq_of_getLsbD_eq fun i hi => ?_, fun h => ?_⟩
  · have : ¬ i ∈ k.lanes := by simp [h]
    simpa [Ctx.mem_lanes] using this
  · exact List.eq_nil_iff_forall_not_mem.2 fun i hi => by simp [Ctx.mem_lanes, h] at hi

theorem Ctx.low_mem {k : Ctx} (h : k.sel ≠ 0) : k.low ∈ k.lanes := by
  unfold Ctx.low
  cases hl : lanesOf k.sel with
  | nil => exact absurd (Ctx.lanes_eq_nil.1 hl) h
  | cons a t =>
    change a ∈ lanesOf k.sel
    exact hl ▸ List.mem_cons_self

/-! What the checks ask of a lane -/

/-- A lane's bytes lie outside the allocation. -/
def Ctx.outside (k : Ctx) (s : State) (q : AccShape) (adr : Nat → Word) (l : Nat) : Bool := (s.locate k.g q.die (adr l).toNat q.n).isNone

/-- A lane writes die scratch that the block does not own. -/
def Ctx.alien (k : Ctx) (s : State) (q : AccShape) (adr : Nat → Word) (l : Nat) : Bool :=
  q.die && q.writes && !(s.grid k.g.grid).mayWrite (s.block k.g.block).blockId true 0 (s.offsetOf k.g q.die (adr l) q.n) q.n

/-- The space of a word's bytes, by its lowest lane. -/
def Ctx.spaceOf (k : Ctx) (s : State) (q : AccShape) (adr : Nat → Word) : Space :=
  ((s.locate k.g q.die (adr k.low).toNat q.n).map (·.1)).getD (.blk k.g.block)

/-- What follows once every byte is in the allocation and the block's to write. -/
def scratchPlaced (k : Ctx) (q : AccShape) (adr : Nat → Word) (s : State) (go : Space → Nat → (Nat → Nat) → State → State) : State :=
  let off := fun l => s.offsetOf k.g q.die (adr l) q.n
  let sp := k.spaceOf s q adr
  let bank := s.turn + bankDelay k.g sp
  if k.lanes.any (fun l => off l % q.n != 0) then s.parkEach k 0x0B 1 adr
  else if q.die && q.spread && k.lanes.any (fun l => adr l >>> 8 != adr k.low >>> 8) then s.parkEach k 0x0B 2 adr
  else if k.lanes.any (fun l => s.busy sp (off l) q.n q.writes) || q.words.any (fun w => s.busy sp w 4 q.writes) then s.parkEach k 6 0 adr
  else if !orderOk k.g q bank then s.parkEach k 5 2 (fun _ => 0)
  else (go sp bank off s).modGroup k.gid (fun g => g.horizon q bank s.turn)

section
variable {k : Ctx} {q : AccShape} {adr : Nat → Word} {s : State} {go : Space → Nat → (Nat → Nat) → State → State}

theorem scratchWord_outside {l : Nat} (hl : l ∈ k.lanes) (hout : k.outside s q adr l = true) (hlow : ∀ j ∈ k.lanes, j < l → k.outside s q adr j = false) :
    scratchWord k q adr s go = s.violate k 2 ((adr l).setWidth 64) := by
  have hf := Ctx.find_lanes hl hout hlow
  unfold Ctx.outside at hf
  unfold scratchWord
  split
  · next h => simp [h] at hl
  · simp only [hf]

/-- What comes after the first check: a violation by the descriptor's words or by ownership, or the rest. -/
theorem scratchWord_inside (hs : k.sel ≠ 0) (hin : ∀ j ∈ k.lanes, k.outside s q adr j = false) :
    scratchWord k q adr s go = match q.beyond.map (fun a => (2, a)) <|> (k.lanes.find? (k.alien s q adr)).map (fun l => (3, (adr l).toNat)) <|>
        q.foreign.map (fun a => (3, a)) with
      | some (cause, a) => s.violate k cause (BitVec.ofNat 64 a)
      | none => scratchPlaced k q adr s go := by
  have hf := Ctx.find_lanes_none hin
  unfold Ctx.outside at hf
  obtain ⟨l0, ls, hl⟩ := List.exists_cons_of_ne_nil (mt Ctx.lanes_eq_nil.1 hs)
  have hlow : k.low = l0 := by rw [Ctx.low, show lanesOf k.sel = l0 :: ls from hl]; rfl
  unfold scratchWord
  split
  · next h => simp [h] at hl
  · next l0' ls' h =>
    have : l0' = k.low := by rw [hlow]; exact (List.cons.inj (h.symm.trans hl)).1
    subst this
    simp only [hf]
    rfl

theorem scratchWord_beyond (hs : k.sel ≠ 0) (hin : ∀ j ∈ k.lanes, k.outside s q adr j = false) {w : Nat} (hw : q.beyond = some w) :
    scratchWord k q adr s go = s.violate k 2 (BitVec.ofNat 64 w) := by
  rw [scratchWord_inside hs hin, hw]
  rfl

theorem scratchWord_alien {l : Nat} (hin : ∀ j ∈ k.lanes, k.outside s q adr j = false) (hb : q.beyond = none) (hl : l ∈ k.lanes)
    (ha : k.alien s q adr l = true) (hlow : ∀ j ∈ k.lanes, j < l → k.alien s q adr j = false) :
    scratchWord k q adr s go = s.violate k 3 ((adr l).setWidth 64) := by
  rw [scratchWord_inside (mt Ctx.lanes_eq_nil.2 (List.ne_nil_of_mem hl)) hin, hb, Ctx.find_lanes hl ha hlow, ← BitVec.ofNat_toNat]
  rfl

theorem scratchWord_foreign (hs : k.sel ≠ 0) (hin : ∀ j ∈ k.lanes, k.outside s q adr j = false) (hb : q.beyond = none)
    (ha : ∀ j ∈ k.lanes, k.alien s q adr j = false) {w : Nat} (hw : q.foreign = some w) :
    scratchWord k q adr s go = s.violate k 3 (BitVec.ofNat 64 w) := by
  rw [scratchWord_inside hs hin, hb, Ctx.find_lanes_none ha, hw]
  rfl

theorem scratchWord_placed (hs : k.sel ≠ 0) (hin : ∀ j ∈ k.lanes, k.outside s q adr j = false) (hb : q.beyond = none)
    (ha : ∀ j ∈ k.lanes, k.alien s q adr j = false) (hf : q.foreign = none) :
    scratchWord k q adr s go = scratchPlaced k q adr s go := by
  rw [scratchWord_inside hs hin, hb, Ctx.find_lanes_none ha, hf]
  rfl

/-! The rest, as the statements put its tests -/

/-- A lane's bytes are not aligned. -/
def Ctx.isOdd (k : Ctx) (s : State) (q : AccShape) (adr : Nat → Word) : Prop := ∃ j ∈ k.lanes, s.offsetOf k.g q.die (adr j) q.n % q.n ≠ 0

/-- Two lanes touch die scratch in different segments of 256 bytes. -/
def Ctx.isFar (k : Ctx) (q : AccShape) (adr : Nat → Word) : Prop := q.die = true ∧ q.spread = true ∧ ∃ j ∈ k.lanes, adr j >>> 8 ≠ adr k.low >>> 8

/-- A byte that the word touches is busy. -/
def Ctx.isBusy (k : Ctx) (s : State) (q : AccShape) (adr : Nat → Word) : Prop :=
  (∃ j ∈ k.lanes, s.busy (k.spaceOf s q adr) (s.offsetOf k.g q.die (adr j) q.n) q.n q.writes = true) ∨
    ∃ w ∈ q.words, s.busy (k.spaceOf s q adr) w 4 q.writes = true

open Classical in
theorem scratchPlaced_eq : scratchPlaced k q adr s go =
    if k.isOdd s q adr then s.parkEach k 0x0B 1 adr
    else if k.isFar q adr then s.parkEach k 0x0B 2 adr
    else if k.isBusy s q adr then s.parkEach k 6 0 adr
    else if orderOk k.g q (s.turn + bankDelay k.g (k.spaceOf s q adr)) = false then s.parkEach k 5 2 (fun _ => 0)
    else (go (k.spaceOf s q adr) (s.turn + bankDelay k.g (k.spaceOf s q adr)) (fun l => s.offsetOf k.g q.die (adr l) q.n) s).modGroup k.gid
      (fun g => g.horizon q (s.turn + bankDelay k.g (k.spaceOf s q adr)) s.turn) := by
  have hodd : k.lanes.any (fun l => s.offsetOf k.g q.die (adr l) q.n % q.n != 0) = true ↔ k.isOdd s q adr := by simp [Ctx.isOdd]
  have hfar : (q.die && q.spread && k.lanes.any (fun l => adr l >>> 8 != adr k.low >>> 8)) = true ↔ k.isFar q adr := by
    simp [Ctx.isFar, and_assoc]
  have hbusy : (k.lanes.any (fun l => s.busy (k.spaceOf s q adr) (s.offsetOf k.g q.die (adr l) q.n) q.n q.writes) ||
      q.words.any (fun w => s.busy (k.spaceOf s q adr) w 4 q.writes)) = true ↔ k.isBusy s q adr := by simp [Ctx.isBusy]
  have hord : (!orderOk k.g q (s.turn + bankDelay k.g (k.spaceOf s q adr))) = true ↔
      orderOk k.g q (s.turn + bankDelay k.g (k.spaceOf s q adr)) = false := by simp
  unfold scratchPlaced
  simp only [hodd, hfar, hbusy, hord]

/-! What lets an access go -/

variable {sp : Space}

theorem ScratchOk.inside (h : ScratchOk k q adr sp s) : ∀ j ∈ k.lanes, k.outside s q adr j = false := fun j hj => by
  obtain ⟨o, ho⟩ := h.place j hj
  simp [Ctx.outside, ho]

theorem ScratchOk.ownedLanes (h : ScratchOk k q adr sp s) : ∀ j ∈ k.lanes, k.alien s q adr j = false := fun j hj => by
  unfold Ctx.alien
  cases hc : q.die && q.writes with
  | false => rfl
  | true =>
    obtain ⟨hd, hw⟩ := Bool.and_eq_true_iff.1 hc
    rw [h.own hd hw j hj]
    rfl

theorem ScratchOk.spaceOf_eq (h : ScratchOk k q adr sp s) : k.spaceOf s q adr = sp := by
  obtain ⟨o, ho⟩ := h.place _ (Ctx.low_mem h.some)
  simp [Ctx.spaceOf, ho]

/-- A scratch word that passes its checks goes to the banks, and the horizons take it in. -/
theorem scratchWord_of_ok (h : ScratchOk k q adr sp s) : scratchWord k q adr s go =
    (go sp (s.turn + bankDelay k.g sp) (fun l => s.offsetOf k.g q.die (adr l) q.n) s).modGroup k.gid
      (fun g => g.horizon q (s.turn + bankDelay k.g sp) s.turn) := by
  rw [scratchWord_placed h.some h.inside h.within h.ownedLanes h.owned, scratchPlaced_eq, h.spaceOf_eq, if_neg, if_neg, if_neg, if_neg]
  · simp [h.order]
  · rintro (⟨j, hj, hb⟩ | ⟨w, hw, hb⟩)
    · rw [h.spaceOf_eq, h.free j hj] at hb; cases hb
    · rw [h.spaceOf_eq, h.stack w hw] at hb; cases hb
  · rintro ⟨hd, hs, j, hj, hne⟩
    exact hne (h.near hd hs j hj)
  · rintro ⟨j, hj, hne⟩
    exact hne (h.aligned j hj)

end

/-! The checks of a copy word (10 R213) -/

/-- A stretch of scratch is in the allocation and has a busy byte. -/
def Ctx.hits (k : Ctx) (s : State) (die : Bool) (a n : Nat) (wr : Bool) : Bool :=
  match s.locate k.g die a n with
  | some (sp, o) => s.busy sp o n wr
  | none => false

theorem Ctx.hits_iff {k : Ctx} {s : State} {die : Bool} {a n : Nat} {wr : Bool} :
    k.hits s die a n wr = true ↔ ∃ sp o, s.locate k.g die a n = some (sp, o) ∧ s.busy sp o n wr = true := by
  unfold Ctx.hits
  cases s.locate k.g die a n with
  | none => simp
  | some p => exact ⟨fun h => ⟨_, _, rfl, h⟩, fun ⟨_, _, he, h⟩ => Option.some.inj he ▸ h⟩

/-- The first stretch of a copy word that has a busy byte. -/
def Ctx.firstHit (k : Ctx) (s : State) (q : CopyShape) : Option Nat :=
  ((q.scr.find? (fun p => k.hits s p.1 p.2.1 p.2.2.1 p.2.2.2)).map (fun p => p.2.1)).or
    ((q.elems.find? (fun p => k.hits s true p.1 p.2.1 p.2.2)).map (fun p => p.1))

section
variable {k : Ctx} {q : CopyShape} {s : State} {go : State → State}

/-- A stretch at this address has a busy byte. -/
def Ctx.HitAt (k : Ctx) (s : State) (q : CopyShape) (a : Nat) : Prop :=
  (∃ p ∈ q.scr, p.2.1 = a ∧ k.hits s p.1 p.2.1 p.2.2.1 p.2.2.2 = true) ∨ ∃ p ∈ q.elems, p.1 = a ∧ k.hits s true p.1 p.2.1 p.2.2 = true

theorem Ctx.hitAt_of_firstHit {a : Nat} (h : k.firstHit s q = some a) : k.HitAt s q a := by
  rcases Option.or_eq_some_iff.1 h with h | ⟨-, h⟩
  all_goals obtain ⟨p, hp, rfl⟩ := Option.map_eq_some_iff.1 h
  · exact .inl ⟨p, List.mem_of_find?_eq_some hp, rfl, List.find?_some (p := fun p : Bool × Nat × Nat × Bool => k.hits s p.1 p.2.1 p.2.2.1 p.2.2.2) hp⟩
  · exact .inr ⟨p, List.mem_of_find?_eq_some hp, rfl, List.find?_some (p := fun p : Nat × Nat × Bool => k.hits s true p.1 p.2.1 p.2.2) hp⟩

theorem Ctx.firstHit_eq_none : k.firstHit s q = none ↔ ∀ a, ¬ k.HitAt s q a := by
  refine ⟨fun h a ha => ?_, fun h => ?_⟩
  · obtain ⟨h1, h2⟩ := Option.or_eq_none_iff.1 h
    simp only [Option.map_eq_none_iff, List.find?_eq_none] at h1 h2
    rcases ha with ⟨p, hp, -, hh⟩ | ⟨p, hp, -, hh⟩
    · exact h1 p hp hh
    · exact h2 p hp hh
  · cases hf : k.firstHit s q with
    | none => rfl
    | some a => exact absurd (Ctx.hitAt_of_firstHit hf) (h a)

theorem copyWord_violates (hs : k.sel ≠ 0) {c a : Nat} (hv : s.copyViolation k.g q = some (c, a)) :
    copyWord k q s go = s.violate k c (BitVec.ofNat 64 a) (BitVec.ofNat 32 (q.rng.getD 0 * 2 ^ 15)) := by
  unfold copyWord
  rw [if_neg hs, hv]
  rfl

/-- A copy word that violates nothing. -/
theorem copyWord_of_clean (hs : k.sel ≠ 0) (hv : s.copyViolation k.g q = none) : copyWord k q s go =
    match q.align, q.length with
    | some w, _ => s.parkEach k 0x0B 1 (fun _ => w)
    | none, some w => s.parkEach k 0x0B 3 (fun _ => w)
    | none, none => match k.firstHit s q with
      | some a => s.parkEach k 6 0 (fun _ => BitVec.ofNat 32 a)
      | none => if 32 ≤ k.g.members.length then s.parkEach k 5 3 (fun _ => 0) else go s := by
  unfold copyWord Group.memberLimit
  rw [if_neg hs, hv]
  simp only [decide_eq_true_eq]
  rfl

end

/-! What the first check of a copy word finds -/

theorem FirstOf.find {α : Type} {l : List α} {bad : α → Prop} {p : α} (h : FirstOf l bad p) {t : α → Bool} (ht : ∀ y, t y = true ↔ bad y) :
    l.find? t = some p := by
  obtain ⟨pre, post, rfl, hp, hpre⟩ := h
  exact List.find?_eq_some_iff_append.2 ⟨(ht p).2 hp, pre, post, rfl, fun y hy => by simpa using mt (ht y).1 (hpre y hy)⟩

theorem find_eq_none {α : Type} {l : List α} {bad : α → Prop} (h : ∀ y ∈ l, ¬ bad y) {t : α → Bool} (ht : ∀ y, t y = true ↔ bad y) :
    l.find? t = none := List.find?_eq_none.2 fun y hy => mt (ht y).1 (h y hy)

namespace State
variable (s : State) (g : Group) (q : CopyShape)

/-- A far stretch lies past its range, or an atomic's is of a class that the range does not allow. -/
def pastRange (e : Extent) (p : Nat × Nat) : Bool :=
  (p.2 != 0 && e.size < p.1 + p.2) || (q.atomic && e.atom < (if e.cls p.1 == .X then 3 else 1))

/-- What is wrong with the range and the far stretches. -/
def farViolation : Option (Nat × Nat) :=
  match q.rng with
  | none => none
  | some r =>
    match s.ext g r with
    | none => some (1, ((q.farRd ++ q.farWr).headD (0, 0)).1)
    | some e =>
      if (q.farRd ≠ [] ∧ !e.canRead) ∨ (q.farWr ≠ [] ∧ !e.canWrite) then some (1, ((q.farRd ++ q.farWr).headD (0, 0)).1)
      else if q.atomic ∧ !e.canRead then some (1, (q.farWr.headD (0, 0)).1)
      else ((q.farRd ++ q.farWr).find? (pastRange q e)).map (fun p => (1, p.1))

/-- The first stretch of scratch outside the allocation. -/
def scrViolation : Option (Nat × Nat) :=
  (q.scr.find? (fun p => p.2.2.1 != 0 && (s.locate g p.1 p.2.1 p.2.2.1).isNone)).map (fun p => (2, p.2.1))

/-- The first far stretch that is not the block's to write. -/
def farForeign : Option (Nat × Nat) :=
  match q.rng with
  | some r => (q.farWr.find? (fun p => !(s.grid g.grid).mayWrite (s.block g.block).blockId false r p.1 p.2)).map (fun p => (3, p.1))
  | none => none

/-- Die scratch that is not the block's to write. -/
def alienStretch (p : Bool × Nat × Nat × Bool) : Bool :=
  p.1 && p.2.2.2 && (match s.locate g true p.2.1 p.2.2.1 with
    | some (_, o) => !(s.grid g.grid).mayWrite (s.block g.block).blockId true 0 o p.2.2.1
    | none => false)

/-- The first stretch of scratch that is not the block's to write. -/
def scrForeign : Option (Nat × Nat) := (q.scr.find? (s.alienStretch g)).map (fun p => (3, p.2.1))

theorem copyViolation_eq : s.copyViolation g q = (((s.farViolation g q).or (s.scrViolation g q)).or (s.farForeign g q)).or (s.scrForeign g q) := rfl

variable {s g q}

theorem alienStretch_iff {p : Bool × Nat × Nat × Bool} : s.alienStretch g p = true ↔ p.1 = true ∧ p.2.2.2 = true ∧
    ∃ sp o, s.locate g true p.2.1 p.2.2.1 = some (sp, o) ∧ (s.grid g.grid).mayWrite (s.block g.block).blockId true 0 o p.2.2.1 = false := by
  unfold alienStretch
  rw [Bool.and_eq_true_iff, Bool.and_eq_true_iff, and_assoc]
  refine and_congr_right fun _ => and_congr_right fun _ => ?_
  cases s.locate g true p.2.1 p.2.2.1 with
  | none => simp
  | some r => exact ⟨fun h => ⟨_, _, rfl, by simpa using h⟩, fun ⟨_, _, he, h⟩ => by cases Option.some.inj he; simpa using h⟩

/-- The range is one that the word may not use. -/
def Unfit (q : CopyShape) (e : Extent) : Prop :=
  (q.farRd ≠ [] ∧ e.canRead = false) ∨ (q.farWr ≠ [] ∧ e.canWrite = false) ∨ (q.atomic = true ∧ e.canRead = false)

theorem farViolation_of_missing {r : Nat} (hr : q.rng = some r) (he : s.ext g r = none) :
    s.farViolation g q = some (1, ((q.farRd ++ q.farWr).headD (0, 0)).1) := by
  simp [farViolation, hr, he]

theorem farViolation_of_unfit {r : Nat} {e : Extent} (hr : q.rng = some r) (he : s.ext g r = some e) (hu : Unfit q e) :
    s.farViolation g q = some (1, ((q.farRd ++ q.farWr).headD (0, 0)).1) := by
  simp only [farViolation, hr, he, Bool.not_eq_true']
  split
  · rfl
  · next h =>
    obtain ⟨hrd, hwr⟩ := not_or.1 h
    have ha : q.atomic = true ∧ e.canRead = false := (hu.resolve_left hrd).resolve_left hwr
    have hnil : q.farRd = [] := by_contra fun hn => hrd ⟨hn, ha.2⟩
    rw [if_pos ha, hnil, List.nil_append]

theorem farViolation_of_fit {r : Nat} {e : Extent} (hr : q.rng = some r) (he : s.ext g r = some e) (hu : ¬ Unfit q e) :
    s.farViolation g q = ((q.farRd ++ q.farWr).find? (pastRange q e)).map (fun p => (1, p.1)) := by
  obtain ⟨hrd, hu⟩ := not_or.1 hu
  obtain ⟨hwr, ha⟩ := not_or.1 hu
  simp only [farViolation, hr, he, Bool.not_eq_true']
  rw [if_neg (not_or.2 ⟨hrd, hwr⟩), if_neg ha]

end State

/-! Ownership (12 R263) -/

/-- The end that a walk over intervals reaches from `a` in one step. -/
theorem reach_spec (es : List (Nat × Nat)) (a : Nat) :
    let m := es.foldl (fun m iv => if iv.1 ≤ a && m < iv.2 then iv.2 else m) a
    (m = a ∨ ∃ iv ∈ es, iv.1 ≤ a ∧ iv.2 = m) ∧ a ≤ m ∧ ∀ iv ∈ es, iv.1 ≤ a → iv.2 ≤ m := by
  induction es using List.reverseRecOn with
  | nil => simp
  | append_singleton es iv ih =>
    dsimp only at ih ⊢
    rw [List.foldl_append, List.foldl_cons, List.foldl_nil]
    generalize es.foldl (fun m iv => if iv.1 ≤ a && m < iv.2 then iv.2 else m) a = m at ih
    obtain ⟨hm, ha, hle⟩ := ih
    by_cases h : iv.1 ≤ a ∧ m < iv.2
    · rw [if_pos (by simpa using h)]
      refine ⟨.inr ⟨iv, by simp, h.1, rfl⟩, by omega, fun jv hj hja => ?_⟩
      rcases List.mem_append.1 hj with hj | hj
      · exact (hle jv hj hja).trans h.2.le
      · rw [List.mem_singleton.1 hj]
    · rw [if_neg (by simpa using h)]
      refine ⟨hm.imp_right fun ⟨jv, hj, he⟩ => ⟨jv, List.mem_append_left _ hj, he⟩, ha, fun jv hj hja => ?_⟩
      rcases List.mem_append.1 hj with hj | hj
      · exact hle jv hj hja
      · rw [List.mem_singleton.1 hj] at hja ⊢
        omega

/-- The intervals that end past a place, of which each step of the walk leaves fewer. -/
theorem count_past_lt {es : List (Nat × Nat)} {a m : Nat} {iv : Nat × Nat} (hiv : iv ∈ es) (ham : a < m) (hm : iv.2 = m) :
    (es.filter (fun v => decide (m < v.2))).length < (es.filter (fun v => decide (a < v.2))).length := by
  have hsub : es.filter (fun v => decide (m < v.2)) = (es.filter (fun v => decide (a < v.2))).filter (fun v => decide (m < v.2)) := by
    rw [List.filter_filter]
    refine List.filter_congr fun v _ => ?_
    by_cases h : m < v.2
    · simp [h, ham.trans h]
    · simp [h]
  rw [hsub, List.length_filter_lt_length_iff_exists]
  exact ⟨iv, List.mem_filter.2 ⟨hiv, by simpa [hm] using ham⟩, by simp [hm]⟩

theorem covers_iff {es : List (Nat × Nat)} {e : Nat} : ∀ {fuel a : Nat}, (es.filter (fun v => decide (a < v.2))).length < fuel →
    (covers es fuel a e = true ↔ ∀ j, a ≤ j → j < e → ∃ iv ∈ es, iv.1 ≤ j ∧ j < iv.2) := by
  intro fuel
  induction fuel with
  | zero => intro a h; omega
  | succ fuel ih =>
    intro a h
    obtain ⟨hm, ham, hle⟩ := reach_spec es a
    unfold covers
    dsimp only
    generalize es.foldl (fun m iv => if iv.1 ≤ a && m < iv.2 then iv.2 else m) a = m at hm ham hle ⊢
    by_cases hea : e ≤ a
    · simp only [hea, if_true, true_iff]
      intro j h1 h2
      omega
    rw [if_neg hea]
    by_cases hma : m ≤ a
    · simp only [hma, if_true, Bool.false_eq_true, false_iff]
      intro hall
      obtain ⟨iv, hiv, h1, h2⟩ := hall a le_rfl (by omega)
      have := hle iv hiv h1
      omega
    · obtain ⟨iv, hiv, hia, hivm⟩ := hm.resolve_left (by omega)
      rw [if_neg hma, ih (by have := count_past_lt hiv (by omega : a < m) hivm; omega)]
      refine ⟨fun hall j h1 h2 => ?_, fun hall j h1 h2 => hall j (by omega) h2⟩
      by_cases hj : j < m
      · exact ⟨iv, hiv, by omega, by omega⟩
      · exact hall j (by omega) h2

theorem Grid.mayWrite_iff {r : Grid} {b : Nat} {die : Bool} {rng a n : Nat} : r.mayWrite b die rng a n = true ↔ r.desc.det = false ∨ ∀ j, j < n →
    ∃ o ∈ r.owns, (o.block = b ∨ o.block = 0xFFFFFFFF) ∧ o.die = die ∧ (die = true ∨ o.rng = rng) ∧ 64 * o.ofs ≤ a + j ∧ a + j < 64 * (o.ofs + o.len) := by
  unfold Grid.mayWrite
  dsimp only
  rw [Bool.or_eq_true_iff, covers_iff (Nat.lt_succ_of_le (List.length_filter_le _ _)), Bool.not_eq_true']
  refine or_congr_right ⟨fun h j hj => ?_, fun h j h1 h2 => ?_⟩
  · obtain ⟨iv, hiv, h3, h4⟩ := h (a + j) (by omega) (by omega)
    obtain ⟨o, ho, rfl⟩ := List.mem_map.1 hiv
    obtain ⟨ho, hown⟩ := List.mem_filter.1 ho
    simp only [Bool.and_eq_true, Bool.or_eq_true, beq_iff_eq] at hown
    exact ⟨o, ho, hown.1.1, hown.1.2, hown.2, h3, h4⟩
  · obtain ⟨o, ho, hb, hd, hr, h3, h4⟩ := h (j - a) (by omega)
    refine ⟨_, List.mem_map.2 ⟨o, List.mem_filter.2 ⟨ho, by simpa using ⟨⟨hb, hd⟩, hr⟩⟩, rfl⟩, ?_, ?_⟩
    · change 64 * o.ofs ≤ j
      omega
    · change j < 64 * (o.ofs + o.len)
      omega

end Sys2Proof.Machine
end

section
/-! The checks of scratch and copy words (09 R193, 10 R213, 12 R263). -/

set_option Elab.async false

namespace Sys2Proof.Machine

open Host (Outcome)

theorem scratchWord_checks (k : Ctx) (q : AccShape) (adr : Nat → Word) (s : State) (go : Space → Nat → (Nat → Nat) → State → State) (l : Nat)
    (hl : l ∈ k.lanes) :
    let out := k.outside s q adr
    let foreign := k.alien s q adr
    let placed := (∀ j ∈ k.lanes, out j = false ∧ foreign j = false) ∧ q.beyond = none ∧ q.foreign = none
    let odd := k.isOdd s q adr
    let far := k.isFar q adr
    let busy := k.isBusy s q adr
    let r := scratchWord k q adr s go
    (out l = true → (∀ j ∈ k.lanes, j < l → out j = false) → r = s.violate k 2 ((adr l).setWidth 64)) ∧
    ((∀ j ∈ k.lanes, out j = false) → ∀ w, q.beyond = some w → r = s.violate k 2 (BitVec.ofNat 64 w)) ∧
    ((∀ j ∈ k.lanes, out j = false) → q.beyond = none → foreign l = true → (∀ j ∈ k.lanes, j < l → foreign j = false) →
      r = s.violate k 3 ((adr l).setWidth 64)) ∧
    ((∀ j ∈ k.lanes, out j = false ∧ foreign j = false) → q.beyond = none → ∀ w, q.foreign = some w → r = s.violate k 3 (BitVec.ofNat 64 w)) ∧
    (placed → odd → r = s.parkEach k 0x0B 1 adr) ∧
    (placed → ¬ odd → far → r = s.parkEach k 0x0B 2 adr) ∧
    (placed → ¬ odd → ¬ far → busy → r = s.parkEach k 6 0 adr) ∧
    (placed → ¬ odd → ¬ far → ¬ busy → orderOk k.g q (s.turn + bankDelay k.g (k.spaceOf s q adr)) = false → r = s.parkEach k 5 2 (fun _ => 0)) := by
  have hs : k.sel ≠ 0 := mt Ctx.lanes_eq_nil.2 (List.ne_nil_of_mem hl)
  intro out foreign placed odd far busy r
  have hr : placed → r = scratchPlaced k q adr s go := fun ⟨hp, hb, hf⟩ =>
    scratchWord_placed hs (fun j hj => (hp j hj).1) hb (fun j hj => (hp j hj).2) hf
  refine ⟨scratchWord_outside hl, fun hin _ => scratchWord_beyond hs hin, fun hin hb => scratchWord_alien hin hb hl,
    fun h hb _ => scratchWord_foreign hs (fun j hj => (h j hj).1) hb (fun j hj => (h j hj).2), fun hp ho => ?_, fun hp ho hf => ?_,
    fun hp ho hf hb => ?_, fun hp ho hf hb hord => ?_⟩
  all_goals rw [hr hp, scratchPlaced_eq]
  · rw [if_pos ho]
  · rw [if_neg ho, if_pos hf]
  · rw [if_neg ho, if_neg hf, if_pos hb]
  · rw [if_neg ho, if_neg hf, if_neg hb, if_pos hord]

theorem copyWord_checks (k : Ctx) (q : CopyShape) (s : State) (go : State → State) (hs : k.sel ≠ 0) :
    let r := copyWord k q s go
    (∀ cause a, s.copyViolation k.g q = some (cause, a) → r = s.violate k cause (BitVec.ofNat 64 a) (BitVec.ofNat 32 (q.rng.getD 0 * 2 ^ 15))) ∧
    (s.copyViolation k.g q = none →
      (∀ w, q.align = some w → r = s.parkEach k 0x0B 1 (fun _ => w)) ∧
      (∀ w, q.align = none → q.length = some w → r = s.parkEach k 0x0B 3 (fun _ => w)) ∧
      (q.align = none → q.length = none →
        ((∃ a, k.HitAt s q a) → ∃ a, k.HitAt s q a ∧ r = s.parkEach k 6 0 (fun _ => BitVec.ofNat 32 a)) ∧
        ((∀ a, ¬ k.HitAt s q a) → 32 ≤ k.g.members.length → r = s.parkEach k 5 3 (fun _ => 0)) ∧
        ((∀ a, ¬ k.HitAt s q a) → k.g.members.length < 32 → r = go s))) := by
  refine ⟨fun _ _ hv => copyWord_violates hs hv, fun hv => ?_⟩
  rw [copyWord_of_clean hs hv]
  refine ⟨fun w ha => by rw [ha], fun w ha hn => by rw [ha, hn], fun ha hn => ?_⟩
  rw [ha, hn]
  refine ⟨fun ⟨a, hat⟩ => ?_, fun hno hfull => ?_, fun hno hroom => ?_⟩
  · cases hf : k.firstHit s q with
    | none => exact absurd hat (Ctx.firstHit_eq_none.1 hf a)
    | some b => exact ⟨b, Ctx.hitAt_of_firstHit hf, rfl⟩
  · rw [Ctx.firstHit_eq_none.2 hno]
    exact if_pos hfull
  · rw [Ctx.firstHit_eq_none.2 hno]
    exact if_neg (by omega)

theorem copyViolation_checks (k : Ctx) (q : CopyShape) (s : State) :
    let far := q.farRd ++ q.farWr
    let grid := s.grid k.g.grid
    let blk := (s.block k.g.block).blockId
    let past := fun (e : Extent) (p : Nat × Nat) => (p.2 ≠ 0 ∧ e.size < p.1 + p.2) ∨ (q.atomic = true ∧ e.atom < if e.cls p.1 = .X then 3 else 1)
    let out := fun (p : Bool × Nat × Nat × Bool) => p.2.2.1 ≠ 0 ∧ s.locate k.g p.1 p.2.1 p.2.2.1 = none
    let alien := fun (r : Nat) (p : Nat × Nat) => grid.mayWrite blk false r p.1 p.2 = false
    let alienS := fun (p : Bool × Nat × Nat × Bool) => p.1 = true ∧ p.2.2.2 = true ∧
      ∃ sp o, s.locate k.g true p.2.1 p.2.2.1 = some (sp, o) ∧ grid.mayWrite blk true 0 o p.2.2.1 = false
    let v := s.copyViolation k.g q
    let farOk := ∀ r, q.rng = some r → ∃ e, s.ext k.g r = some e ∧ ¬ State.Unfit q e ∧ ∀ p ∈ far, ¬ past e p
    let inside := ∀ p ∈ q.scr, ¬ out p
    let owned := ∀ r, q.rng = some r → ∀ p ∈ q.farWr, ¬ alien r p
    (∀ r, q.rng = some r → s.ext k.g r = none → v = some (1, (far.headD (0, 0)).1)) ∧
    (∀ r e, q.rng = some r → s.ext k.g r = some e → State.Unfit q e → v = some (1, (far.headD (0, 0)).1)) ∧
    (∀ r e p, q.rng = some r → s.ext k.g r = some e → ¬ State.Unfit q e → FirstOf far (past e) p → v = some (1, p.1)) ∧
    (farOk → ∀ p, FirstOf q.scr out p → v = some (2, p.2.1)) ∧
    (farOk → inside → ∀ r p, q.rng = some r → FirstOf q.farWr (alien r) p → v = some (3, p.1)) ∧
    (farOk → inside → owned → ∀ p, FirstOf q.scr alienS p → v = some (3, p.2.1)) ∧
    (farOk → inside → owned → (∀ p ∈ q.scr, ¬ alienS p) → v = none) := by
  intro far grid blk past out alien alienS v farOk inside owned
  have hv : v = (((s.farViolation k.g q).or (s.scrViolation k.g q)).or (s.farForeign k.g q)).or (s.scrForeign k.g q) := s.copyViolation_eq k.g q
  have hpast : ∀ e p, State.pastRange q e p = true ↔ past e p := fun e p => by simp [State.pastRange, past]
  have hout : ∀ p : Bool × Nat × Nat × Bool, (p.2.2.1 != 0 && (s.locate k.g p.1 p.2.1 p.2.2.1).isNone) = true ↔ out p := fun p => by simp [out]
  have halien : ∀ r (p : Nat × Nat), (!grid.mayWrite blk false r p.1 p.2) = true ↔ alien r p := fun r p => by simp [alien]
  have hfar : farOk → s.farViolation k.g q = none := fun h => by
    cases hr : q.rng with
    | none => simp [State.farViolation, hr]
    | some r =>
      obtain ⟨e, he, hu, hp⟩ := h r hr
      rw [State.farViolation_of_fit hr he hu, find_eq_none hp (hpast e)]
      rfl
  have hscr : inside → s.scrViolation k.g q = none := fun h => by
    rw [State.scrViolation, find_eq_none h hout]
    rfl
  have hown : owned → s.farForeign k.g q = none := fun h => by
    unfold State.farForeign
    split
    · next r hr =>
      rw [find_eq_none (h r hr) (halien r)]
      rfl
    · rfl
  refine ⟨fun r hr he => ?_, fun r e hr he hu => ?_, fun r e p hr he hu hp => ?_, fun h1 p hp => ?_, fun h1 h2 r p hr hp => ?_,
    fun h1 h2 h3 p hp => ?_, fun h1 h2 h3 h4 => ?_⟩ <;> rw [hv]
  · rw [State.farViolation_of_missing hr he]; rfl
  · rw [State.farViolation_of_unfit hr he hu]; rfl
  · rw [State.farViolation_of_fit hr he hu, hp.find (hpast e)]; rfl
  · rw [hfar h1, State.scrViolation, hp.find hout]; rfl
  · have hf : s.farForeign k.g q = some (3, p.1) := by
      unfold State.farForeign
      rw [hr]
      exact congrArg (Option.map _) (hp.find (halien r))
    rw [hfar h1, hscr h2, hf]
    rfl
  · rw [hfar h1, hscr h2, hown h3, State.scrForeign, hp.find fun _ => State.alienStretch_iff]; rfl
  · rw [hfar h1, hscr h2, hown h3, State.scrForeign, find_eq_none h4 fun _ => State.alienStretch_iff]; rfl

/-- Settles O24: a word's checks are searches in order, and what each finds is the first that the statement names. -/
theorem accessChecks : Obligations.AccessChecks := by
  refine ⟨scratchWord_checks, fun k q s go hs => ?_, copyViolation_checks, fun _ _ _ _ _ _ => Grid.mayWrite_iff⟩
  have h := copyWord_checks k q s go hs
  simp only [Ctx.HitAt, Ctx.hits_iff] at h
  exact h

end Sys2Proof.Machine
end

section
/-! Scratch words that pass their checks (09 R187, R193-R198, 12 R264). -/

set_option Elab.async false

namespace Sys2Proof.Machine

open Host (Outcome)

section
variable {i : Instr} {s : State} {x : Issue} {g : Group} {q : AccShape} {sp : Space} {op : AccOp} {lanes : List ALane} {dst : Opnd}

/-- A word's access and the results that it reserves, with the horizons of its bank turn. -/
theorem State.enqueue_reserved_horizon {res : List Landing} :
    (((s.entered i x g).enqueue (ctxOf i s x g) sp (s.turn + bankDelay g sp) op lanes dst).modGroup x.gid (fun y =>
      { y with pend := y.pend ++ res })).modGroup x.gid (fun y => y.horizon q (s.turn + bankDelay g sp) s.turn) =
      s.accessOf i x g q sp op lanes dst res := by
  unfold State.accessOf
  rw [← enteredGroup_pend i x g]
  simp only [State.modGroup, State.enqueue, State.entered, State.began, State.setGroup, tmod_tset]
  rfl

/-- An accepted word with the checks of 09 R193 passed. -/
theorem exec_access (ha : Accepts i s x g) {adr : Nat → Word} {body : Ctx → State → State} {go : Space → Nat → (Nat → Nat) → State → State}
    {res : List Landing} (he : exec i s = withIssue i s body)
    (hb : body (ctxOf i s x g) (s.entered i x g) = scratchWord (ctxOf i s x g) q adr (s.entered i x g) go)
    (hok : ScratchOk (ctxOf i s x g) q adr sp (s.entered i x g))
    (hgo : go sp (s.turn + bankDelay g sp) (fun l => (s.entered i x g).offsetOf g q.die (adr l) q.n) (s.entered i x g) =
      ((s.entered i x g).enqueue (ctxOf i s x g) sp (s.turn + bankDelay g sp) op lanes dst).modGroup x.gid (fun y => { y with pend := y.pend ++ res })) :
    exec i s = .next (s.accessOf i x g q sp op lanes dst res) := by
  rw [he, withIssue_of_accepts ha]
  refine congrArg Outcome.next (hb.trans ((scratchWord_of_ok hok).trans ?_))
  exact (congrArg (fun u => u.modGroup x.gid fun y => y.horizon q (s.turn + bankDelay g sp) s.turn) hgo).trans State.enqueue_reserved_horizon

/-- An access that reserves no result. -/
theorem State.enqueue_alone {bank : Nat} : (s.entered i x g).enqueue (ctxOf i s x g) sp bank op lanes dst =
    ((s.entered i x g).enqueue (ctxOf i s x g) sp bank op lanes dst).modGroup x.gid (fun y => { y with pend := y.pend ++ [] }) :=
  (State.modGroup_eq_self (s := (s.entered i x g).enqueue (ctxOf i s x g) sp bank op lanes dst) (tget_entered s i x g)
    (f := fun y => { y with pend := y.pend ++ [] }) (by rw [List.append_nil])).symm

/-- An access whose result lands as long after its bank turn as that is after the issue. -/
theorem State.enqueue_reserve {d : Opnd} {n : Nat} :
    ((s.entered i x g).enqueue (ctxOf i s x g) sp (s.turn + bankDelay g sp) op lanes dst).reserve (ctxOf i s x g)
      (2 * (s.turn + bankDelay g sp) - s.turn) d n =
    ((s.entered i x g).enqueue (ctxOf i s x g) sp (s.turn + bankDelay g sp) op lanes dst).modGroup x.gid (fun y =>
      { y with pend := y.pend ++ [reservedRes i s x g (s.turn + 2 * bankDelay g sp) d n .ord] }) := by
  rw [show 2 * (s.turn + bankDelay g sp) - s.turn = s.turn + 2 * bankDelay g sp by omega]
  rfl

end

theorem Size.regs_ne_zero (sz : Size) : sz.regs ≠ 0 := by cases sz <;> decide

theorem AOp.regs_ne_zero (o : AOp) : o.regs ≠ 0 := by cases o <;> decide

section
variable {i : Instr} {s : State} {x : Issue} {g : Group} {q : AccShape} {sp : Space} {op : AccOp} {lanes : List ALane} {dst : Opnd}

theorem State.enqueue_reserve_of_ne_zero {d : Opnd} {n : Nat} (hn : n ≠ 0) :
    ((s.entered i x g).enqueue (ctxOf i s x g) sp (s.turn + bankDelay g sp) op lanes dst).reserve (ctxOf i s x g)
      (2 * (s.turn + bankDelay g sp) - s.turn) d n =
    ((s.entered i x g).enqueue (ctxOf i s x g) sp (s.turn + bankDelay g sp) op lanes dst).modGroup x.gid (fun y =>
      { y with pend := y.pend ++ if n = 0 then [] else [reservedRes i s x g (s.turn + 2 * bankDelay g sp) d n .ord] }) := by
  rw [if_neg hn]
  exact State.enqueue_reserve

end

/-! Reductions -/

section
variable {c : Ctl} {o : AOp} {a b : Opnd} {ofs : BitVec 24} {s : State} {x : Issue} {g : Group}

/-- What a reduction asks of the checks. -/
def redShape (die : Bool) (o : AOp) (det : Bool) : AccShape := { die := die, n := 4 * o.regs, reads := false, writes := true, turnless := det }

/-- The entries of a reduction in the core's buffer. -/
def redEntries (s : State) (k : Ctx) (die : Bool) (o : AOp) (a b : Opnd) (ofs : BitVec 24) (sp : Space) (u : State) : List REntry :=
  k.lanes.map (fun l =>
    { space := sp, adr := u.offsetOf k.g die (k.src32 s l a + ofs.signExtend 32) (4 * o.regs), op := o
      val := BitVec.ofNat 64 (ofWords (k.opWords s o o.regs l b)), block := (s.block k.g.block).blockId, gidx := k.g.index, lane := l
      seq := (k.g.lane l).seq, gid := k.gid, tick := k.tick })

/-- Outside a deterministic grid a reduction is an access like any other. -/
theorem redWord_of_plain {k : Ctx} {die : Bool} (hdet : (s.grid k.g.grid).desc.det = false) : redWord k die o a b ofs s =
    scratchWord k (redShape die o false) (k.adr s a ofs) s (fun sp bank at_ s => s.enqueue k sp bank (.atom o false)
      (k.lanes.map (fun l => { lane := l, adr := at_ l, b := k.opWords s o o.regs l b }))) := by
  unfold redWord
  rw [hdet]
  rfl

/-- In a deterministic grid a reduction enters the buffer of its core and moves no horizon. -/
theorem redWord_of_det {i : Instr} {die : Bool} {sp : Space} (hdet : (s.grid g.grid).desc.det = true)
    (hok : ScratchOk (ctxOf i s x g) (redShape die o true) ((ctxOf i s x g).adr (s.entered i x g) a ofs) sp (s.entered i x g)) :
    let t := redWord (ctxOf i s x g) die o a b ofs (s.entered i x g)
    t.bankQ = s.bankQ ∧ (t.core g.core).rbuf = (s.core g.core).rbuf ++ redEntries s (ctxOf i s x g) die o a b ofs sp (s.entered i x g) := by
  have hgo : redWord (ctxOf i s x g) die o a b ofs (s.entered i x g) =
      scratchWord (ctxOf i s x g) (redShape die o true) ((ctxOf i s x g).adr (s.entered i x g) a ofs) (s.entered i x g) (fun sp _ at_ u =>
        (u.modCore g.core (fun c => { c with rbuf := c.rbuf ++ (ctxOf i s x g).lanes.map (fun l =>
          { space := sp, adr := at_ l, op := o, val := BitVec.ofNat 64 (ofWords ((ctxOf i s x g).opWords u o o.regs l b)),
            block := (u.block g.block).blockId, gidx := g.index, lane := l, seq := (g.lane l).seq, gid := x.gid
            tick := (ctxOf i s x g).tick }) })).modGroup x.gid (fun y => y.modLanes (ctxOf i s x g).sel (fun l => { l with seq := l.seq + 1 }))) := by
    unfold redWord
    rw [show ((s.entered i x g).grid (ctxOf i s x g).g.grid).desc.det = true from hdet]
    rfl
  rw [hgo, scratchWord_of_ok hok]
  refine ⟨rfl, ?_⟩
  have hcore : ∀ (u : State) (f h : Group → Group), ((u.modGroup x.gid f).modGroup x.gid h).core g.core = u.core g.core := fun _ _ _ => rfl
  exact congrArg Core.rbuf ((hcore _ _ _).trans (State.core_modCore_self _ _ _))

end

/-- Settles O23: a word that passes the checks does what it has for the banks, and nothing more but for the horizons. -/
theorem scratchWordsEnter : Obligations.ScratchWordsEnter := by
  refine ⟨fun c spc sz op w64 ord d a b cc ofs sp s x g => ?_, fun c op a b ofs sp s x g => ?_⟩
  · intro goes die none_ words opnd m
    have hatom : ∀ die i, exec i s = withIssue i s (fun k u => atomWord k die op ord.isSome d a b cc ofs u) →
        goes i { die := die, n := 4 * op.regs, reads := true, writes := true, acq := ord.isSome, rel := ord.isSome }
          (.atom op true) (opnd b) (if op.isCas then words op.regs cc else none_) op.regs := fun die i he ha hok => by
      simp only [ite_apply]
      exact exec_access ha he rfl hok (State.enqueue_reserve_of_ne_zero (AOp.regs_ne_zero op))
    have hred : ∀ die i, (s.grid g.grid).desc.det = false → exec i s = withIssue i s (fun k u => redWord k die op a b ofs u) →
        goes i { die := die, n := 4 * op.regs, reads := false, writes := true } (.atom op false) (opnd b) none_ 0 := fun die i hdet he ha hok =>
      exec_access ha he (redWord_of_plain hdet) hok State.enqueue_alone
    refine ⟨fun ha hok => exec_access ha rfl rfl hok (State.enqueue_reserve_of_ne_zero (Size.regs_ne_zero sz)),
      fun ha hok => exec_access ha rfl rfl hok State.enqueue_alone, hatom _ _ rfl, hatom _ _ rfl,
      fun hdet => hred _ _ hdet rfl, fun hdet => hred _ _ hdet rfl, fun ha hok => ?_, fun ha hok => ?_⟩
    · cases w64
      · exact exec_access ha rfl rfl hok (State.enqueue_reserve_of_ne_zero (by decide))
      · exact exec_access ha rfl rfl hok (State.enqueue_reserve_of_ne_zero (by decide))
    · cases w64
      · exact exec_access ha rfl rfl hok (State.enqueue_reserve_of_ne_zero (by decide))
      · exact exec_access ha rfl rfl hok (State.enqueue_reserve_of_ne_zero (by decide))
  · refine ⟨fun ha hdet hok => ?_, fun ha hdet hok => ?_⟩
    all_goals
      have h := redWord_of_det hdet hok (b := b)
      exact ⟨_, withIssue_of_accepts ha _, h⟩

end Sys2Proof.Machine
end

section
/-! SUPPORT. A heap descriptor read by its bytes (09 R205, R208). -/

set_option Elab.async false

namespace Sys2Proof.Machine

open Host (Outcome)

section
variable {r : Ram} {a : Nat}

theorem Heap.word_eq {i : Nat} (hi : i < 16) : (r.heap a).word i = heapWord r.cells a i := by
  simp [Heap.word, Ram.heap, List.getD_eq_getElem?_getD, hi]
  rfl

theorem Heap.word_of_ge {i : Nat} (hi : 16 ≤ i) : (r.heap a).word i = 0 := by
  simp [Heap.word, Ram.heap, List.getD_eq_getElem?_getD, hi]

theorem Heap.depth_eq : (r.heap a).depth = heapDepth r.cells a := congrArg (· % 2 ^ 16) (Heap.word_eq (by decide))

/-- The low and the high half of a word of four bytes are those of its first and its last two bytes. -/
theorem leNat_half (m : Mem) (b : Nat) : leNat (memRead m b 4) = leNat (memRead m b 2) + 2 ^ 16 * leNat (memRead m (b + 2) 2) ∧
    leNat (memRead m b 2) < 2 ^ 16 ∧ leNat (memRead m (b + 2) 2) < 2 ^ 16 := by
  refine ⟨?_, ?_, ?_⟩
  · rw [show (4 : Nat) = 2 + 2 from rfl, memRead_append, leNat_append, length_memRead]
    norm_num
  · simpa [length_memRead] using leNat_lt (memRead m b 2)
  · simpa [length_memRead] using leNat_lt (memRead m (b + 2) 2)

theorem Heap.top_eq {c : Nat} (hc : c < 16) : (r.heap a).top c = heapTop r.cells a c := by
  unfold Heap.top heapTop
  rw [Heap.word_eq (by omega), heapWord]
  obtain ⟨hw, hlo, hhi⟩ := leNat_half r.cells (a + 4 * (4 + c / 2))
  rw [hw]
  rcases Nat.mod_two_eq_zero_or_one c with h | h
  · rw [show a + 0x10 + 2 * c = a + 4 * (4 + c / 2) by omega, h]
    omega
  · rw [show a + 0x10 + 2 * c = a + 4 * (4 + c / 2) + 2 by omega, h]
    omega

theorem Heap.corrupt_iff : (r.heap a).corrupt = true ↔ HeapCorrupt r.cells a := by
  have htop : ((List.range 16).any fun c => decide ((r.heap a).depth < (r.heap a).top c)) = true ↔ ∃ c, c < 16 ∧ heapDepth r.cells a < heapTop r.cells a c := by
    simp only [List.any_eq_true, List.mem_range, decide_eq_true_eq, Heap.depth_eq]
    exact exists_congr fun c => and_congr_right fun hc => by rw [Heap.top_eq hc]
  unfold Heap.corrupt HeapCorrupt
  rw [Heap.word_eq (by decide), Heap.word_eq (by decide), Heap.word_eq (by decide), Heap.word_eq (by decide), Heap.word_eq (by decide)]
  simp only [Bool.or_eq_true, htop, bne_iff_ne, decide_eq_true_eq, or_assoc]
  have : heapWord r.cells a 3 / 2 ^ 16 ≠ 0 ↔ 2 ^ 16 ≤ heapWord r.cells a 3 := by omega
  rw [this]

theorem heapClass_eq {n c : Nat} (h : HeapClass n c) (hn : n ≤ 2 ^ 21) : heapClass n = c ∧ c < 16 := by
  have hc : c < 16 := by
    by_contra hge
    have := h.2 15 (by omega)
    omega
  refine ⟨?_, hc⟩
  unfold heapClass
  rw [(List.find?_range_eq_some (p := fun c => decide (n ≤ 64 * 2 ^ c)) (i := c)).2 ⟨by simpa using h.1, by simp; omega, fun d hd => by simpa using h.2 d hd⟩]
  rfl

theorem Heap.entry_eq {c e : Nat} : (r.heap a).entry c e = heapWord r.cells a 2 + 4 * (heapDepth r.cells a * c + e) := by
  unfold Heap.entry
  rw [Heap.word_eq (by decide), Heap.depth_eq]

variable {s : State} {g : Group} {sp : Space}

theorem Heap.place_eq {c e : Nat} : (r.heap a).place (s.stackRoom g sp) c e =
    if heapWord r.cells a 2 < s.stackEnd g ∧ heapEntry r.cells a c e + 4 ≤ s.spaceSize sp then some (heapEntry r.cells a c e) else none := by
  unfold Heap.place
  rw [Heap.word_eq (by decide), Heap.depth_eq]
  rfl

theorem Heap.place_eq_none {c e : Nat} (h : s.stackEnd g ≤ heapWord r.cells a 2 ∨ s.spaceSize sp < heapEntry r.cells a c e + 4) :
    (r.heap a).place (s.stackRoom g sp) c e = none := by
  rw [Heap.place_eq, if_neg (by omega)]

end

/-! What one lane does with a stack word outside the allocation -/

section
variable {r : Ram} {a n c : Nat} {p : HeapRun} {s : State} {g : Group} {sp : Space}

theorem HeapRun.alloc_outside (hp : p.h = r.heap a) (hcls : HeapClass n c) (hcor : ¬ HeapCorrupt r.cells a) (hn : n ≤ 2 ^ 21)
    (htop : 0 < heapTop r.cells a c)
    (hout : s.stackEnd g ≤ heapWord r.cells a 2 ∨ s.spaceSize sp < heapEntry r.cells a c (heapTop r.cells a c - 1) + 4) (m : Ram) (lane : Nat) :
    p.alloc m (s.stackRoom g sp) lane n =
      { p with outside := p.outside.or (some (heapWord r.cells a 2 + 4 * (heapDepth r.cells a * c + (heapTop r.cells a c - 1)))) } := by
  obtain ⟨hc, hlt⟩ := heapClass_eq hcls hn
  unfold HeapRun.alloc
  simp only [hp, hc, Heap.top_eq hlt, if_neg (mt Heap.corrupt_iff.1 hcor), if_neg (Nat.not_lt.2 hn), if_pos htop, Heap.place_eq_none hout, Heap.entry_eq]

/-- A free that the descriptor takes. -/
def FreeGood (m : Mem) (a b n c : Nat) : Prop :=
  ¬ HeapCorrupt m a ∧ n ≤ 2 ^ 21 ∧ b % 64 = 0 ∧ b + 64 * 2 ^ c ≤ heapWord m a 0 ∧ heapTop m a c ≠ heapDepth m a

/-- The test that drops a free. -/
theorem Heap.drops_iff {b : Nat} (hcls : HeapClass n c) : ((r.heap a).corrupt || 2 ^ 21 < n || b % 64 != 0 ||
    (r.heap a).word 0 < b + 64 * 2 ^ heapClass n || (r.heap a).top (heapClass n) == (r.heap a).depth) = true ↔ ¬ FreeGood r.cells a b n c := by
  rw [Heap.word_eq (by decide), Heap.depth_eq]
  by_cases hn : n ≤ 2 ^ 21
  · obtain ⟨hc, hlt⟩ := heapClass_eq hcls hn
    rw [hc, Heap.top_eq hlt, FreeGood]
    simp only [Bool.or_eq_true, decide_eq_true_eq, bne_iff_ne, beq_iff_eq, Heap.corrupt_iff, not_and_or, not_not, Nat.not_le, or_assoc, ne_eq]
  · rw [show decide (2 ^ 21 < n) = true from decide_eq_true (Nat.lt_of_not_le hn)]
    refine iff_of_true (by simp) fun h => hn h.2.1

theorem HeapRun.release_of_bad {b : Nat} (hp : p.h = r.heap a) (hb : b ≠ 0xFFFFFFFF) (hcls : HeapClass n c) (hbad : ¬ FreeGood r.cells a b n c)
    (room : StackRoom) : p.release room b n = { p with h := (r.heap a).set 14 ((r.heap a).word 14 + 1) } := by
  unfold HeapRun.release
  rw [hp, if_neg hb]
  exact if_pos ((Heap.drops_iff hcls).2 hbad)

theorem HeapRun.release_of_good {b : Nat} (hp : p.h = r.heap a) (hb : b ≠ 0xFFFFFFFF) (hcls : HeapClass n c) (hgood : FreeGood r.cells a b n c)
    (room : StackRoom) : p.release room b n = match (r.heap a).place room c (heapTop r.cells a c) with
      | none => { p with outside := p.outside.or (some ((r.heap a).entry c (heapTop r.cells a c))) }
      | some w => { p with h := ((r.heap a).setTop c (heapTop r.cells a c + 1)).set 12 ((r.heap a).word 12 + 2 ^ 32 - 1)
                           wr := (w, b) :: p.wr.filter (fun v => v.1 != w) } := by
  obtain ⟨hc, hlt⟩ := heapClass_eq hcls hgood.2.1
  unfold HeapRun.release
  rw [hp, if_neg hb]
  refine (if_neg (mt (Heap.drops_iff hcls).1 (not_not.2 hgood))).trans ?_
  rewrite [hc, Heap.top_eq hlt]
  rfl

end

/-! Words whose stack words lie outside the allocation (09 R193, R208) -/

section
variable {i : Instr} {s : State} {x : Issue} {g : Group} {a b cc : Opnd} {sp : Space} {o l cl : Nat}

/-- The step that a heap word would make, on an aligned descriptor in the allocation. -/
theorem State.heapRun_eq {u : State} {k : Ctx} (hloc : u.locate k.g true (k.low32 u a).toNat 64 = some (sp, o)) (ho : o % 64 = 0)
    (hclean : (u.ram sp).poisoned o 64 = false) (run : Ram → StackRoom → Nat → HeapRun) :
    u.heapRun k a run = some (run (u.ram sp) (u.stackRoom k.g sp) o) := by
  unfold State.heapRun
  rw [hloc]
  simp [ho, hclean]

end

end Sys2Proof.Machine
end

section
/-! The spill stack's words, and the words that go to the banks as one step (09 R195, R205-R208, 14 R314). -/

set_option Elab.async false

namespace Sys2Proof.Machine

open Host (Outcome)

section
variable {i : Instr} {s : State} {x : Issue} {g : Group} {q : AccShape} {sp : Space} {op : AccOp} {lanes : List ALane} {dst : Opnd}

/-- An access without an order of its own moves no horizon. -/
theorem State.enqueue_turnless {res : List Landing} (hq : q.turnless = true) :
    ((s.entered i x g).enqueue (ctxOf i s x g) sp (s.turn + bankDelay g sp) op lanes dst).modGroup x.gid (fun y => { y with pend := y.pend ++ res }) =
      s.accessOf i x g q sp op lanes dst res := by
  rw [← State.enqueue_reserved_horizon]
  have ht := State.tget_modGroup (s := (s.entered i x g).enqueue (ctxOf i s x g) sp (s.turn + bankDelay g sp) op lanes dst)
    (f := fun y => { y with pend := y.pend ++ res }) (tget_entered s i x g)
  refine (State.modGroup_eq_self ht ?_).symm
  unfold Group.horizon
  rw [hq]
  rfl

end

/-! The spill stack (09 R195) -/

section
variable {i : Instr} {s : State} {x : Issue} {g : Group} {n : Nat} {adr : Nat → Word} {go : State → State} {k : Ctx}

theorem spillWordOp_goes (hs : k.sel ≠ 0) (hfits : ∀ l ∈ k.lanes, (adr l).toNat + n ≤ (s.grid k.g.grid).desc.spill / 64)
    (heven : ∀ l ∈ k.lanes, (adr l).toNat % n = 0) : spillWordOp k n adr s go = go s := by
  unfold spillWordOp
  dsimp only
  rw [if_neg, if_neg, if_neg hs]
  · simpa using heven
  · simpa using hfits

theorem spillWordOp_limits (h : ¬ ∀ l ∈ k.lanes, (adr l).toNat + n ≤ (s.grid k.g.grid).desc.spill / 64) :
    spillWordOp k n adr s go = s.parkEach k 7 0 adr := if_pos (by simpa using h)

theorem spillWordOp_misaligned (hfits : ∀ l ∈ k.lanes, (adr l).toNat + n ≤ (s.grid k.g.grid).desc.spill / 64)
    (h : ¬ ∀ l ∈ k.lanes, (adr l).toNat % n = 0) : spillWordOp k n adr s go = s.parkEach k 0x0B 1 adr :=
  (if_neg (by simpa using hfits)).trans (if_pos (by simpa using h))

/-- A word that parks each of its lanes, outside a handler. -/
theorem parksAll_of_parkEach (ha : Accepts i s x g) (hlen : g.lanes.length = 64) (hidle : g.hphase = .idle) {body : Ctx → State → State}
    {trap cause : Nat} {targ : Nat → Word} (he : exec i s = withIssue i s body)
    (hb : body (ctxOf i s x g) (s.entered i x g) = (s.entered i x g).parkEach (ctxOf i s x g) trap cause targ) :
    ParksAll i s x g (fun l => { trap := trap, cause := cause, targ := targ l }) :=
  parksAll_of_fold ha hlen hidle he hb fun _ ht l => State.parkLane_entered ht l _

/-- What a word of the spill stack does with its checks passed, and where they fail. -/
def SpillChecks (i : Instr) (s : State) (x : Issue) (g : Group) (n : Nat) (adr : Nat → Word) (t : State) : Prop :=
  let k := ctxOf i s x g
  let fits := ∀ l ∈ k.lanes, (adr l).toNat + n ≤ (s.grid g.grid).desc.spill / 64
  let even := ∀ l ∈ k.lanes, (adr l).toNat % n = 0
  (k.sel ≠ 0 → fits → even → exec i s = .next t) ∧
  (g.lanes.length = 64 → g.hphase = .idle →
    (¬ fits → ParksAll i s x g (fun l => { trap := 7, cause := 0, targ := adr l })) ∧
    (fits → ¬ even → ParksAll i s x g (fun l => { trap := 0x0B, cause := 1, targ := adr l })))

theorem spillChecks_of {body : Ctx → State → State} (he : exec i s = withIssue i s body)
    (hb : body (ctxOf i s x g) (s.entered i x g) = spillWordOp (ctxOf i s x g) n adr (s.entered i x g) go) (ha : Accepts i s x g) :
    SpillChecks i s x g n adr (go (s.entered i x g)) := by
  refine ⟨fun hs hfits heven => ?_, fun hlen hidle => ⟨fun hfits => ?_, fun hfits heven => ?_⟩⟩
  · rw [he, withIssue_of_accepts ha]
    exact congrArg Outcome.next (hb.trans (spillWordOp_goes hs hfits heven))
  · exact parksAll_of_parkEach ha hlen hidle he (hb.trans <| spillWordOp_limits hfits)
  · exact parksAll_of_parkEach ha hlen hidle he (hb.trans <| spillWordOp_misaligned hfits heven)

end

section
variable {c : Ctl} {sz : Size} {d a b : Opnd} {ofs : BitVec 24} {s : State} {x : Issue} {g : Group}

/-- A lane's address is the same before and after the word has begun. -/
theorem Ctx.adr_entered (i : Instr) (k : Ctx) : k.adr (s.entered i x g) a ofs = fun l => k.src32 s l a + ofs.signExtend 32 :=
  funext fun l => congrArg (· + ofs.signExtend 32) (Ctx.src32_began s i x g _ k l a)

theorem fill_checks (ha : Accepts (.fill c sz d a ofs) s x g) :
    let i := .fill c sz d a ofs
    let k := ctxOf i s x g
    let adr := fun l => k.src32 s l a + ofs.signExtend 32
    SpillChecks i s x g sz.bytes adr (((s.entered i x g).enqueue k (.spill x.gid) (s.turn + 1) (.ld sz)
      (k.lanes.map (fun l => { lane := l, adr := (adr l).toNat }))).reserve k (s.turn + 2) d sz.regs) := by
  intro i k adr
  have h := spillChecks_of (i := i) (n := sz.bytes) (adr := k.adr (s.entered i x g) a ofs) (body := fun k u =>
    spillWordOp k sz.bytes (k.adr u a ofs) u (fun u => (u.enqueue k (.spill k.gid) (u.turn + 1) (.ld sz)
      (k.lanes.map (fun l => { lane := l, adr := (k.adr u a ofs l).toNat }))).reserve k (u.turn + 2) d sz.regs)) rfl rfl ha
  rw [Ctx.adr_entered] at h
  exact h

theorem spill_checks (ha : Accepts (.spill c sz a b ofs) s x g) :
    let i := .spill c sz a b ofs
    let k := ctxOf i s x g
    let adr := fun l => k.src32 s l a + ofs.signExtend 32
    SpillChecks i s x g sz.bytes adr ((s.entered i x g).enqueue k (.spill x.gid) (s.turn + 1) (.st sz.bytes)
      (k.lanes.map (fun l => { lane := l, adr := (adr l).toNat, b := k.srcWords s sz.regs l b }))) := by
  intro i k adr
  have h := spillChecks_of (i := i) (n := sz.bytes) (adr := k.adr (s.entered i x g) a ofs) (body := fun k u =>
    spillWordOp k sz.bytes (k.adr u a ofs) u (fun u => u.enqueue k (.spill k.gid) (u.turn + 1) (.st sz.bytes)
      (k.lanes.map (fun l => { lane := l, adr := (k.adr u a ofs l).toNat, b := k.srcWords u sz.regs l b })))) rfl rfl ha
  rw [Ctx.adr_entered] at h
  exact h

end

theorem spillWordsGo : SpillWordsGo := by
  intro c sz d a b ofs s x g adr share fits even q f p
  refine ⟨fun ha hs hfits heven => ?_, fun ha hs hfits heven => ?_, fun hlen hidle => ⟨fun ha => ((fill_checks ha).2 hlen hidle).1,
    fun ha => ((fill_checks ha).2 hlen hidle).2, fun ha => ((spill_checks ha).2 hlen hidle).1, fun ha => ((spill_checks ha).2 hlen hidle).2⟩⟩
  · rw [(fill_checks ha).1 hs hfits heven, ← State.enqueue_turnless rfl]
    rfl
  · rw [(spill_checks ha).1 hs hfits heven, ← State.enqueue_turnless rfl]
    exact congrArg Outcome.next State.enqueue_alone

/-! The heap words and `launch` (09 R206-R208, 14 R314) -/

section
variable {c : Ctl} {mode1 : Bool} {d a b cc : Opnd} {sp : Space} {s : State} {x : Issue} {g : Group}

theorem Ctx.requests_entered (i : Instr) (k : Ctx) (cc : Option Opnd) : k.requests (s.entered i x g) b cc = k.requests s b cc := rfl

/-- The step of a `halloc` by the bytes at its issue. -/
def allocRun (k : Ctx) (s : State) (b : Opnd) : Ram → StackRoom → Nat → HeapRun := fun r room o => r.allocs room o (k.requests s b none)

/-- The step of an `hfree` by the bytes at its issue. -/
def freeRun (k : Ctx) (s : State) (b cc : Opnd) : Ram → StackRoom → Nat → HeapRun := fun r room o => r.frees room o (k.requests s b (some cc))

theorem halloc_body (ha : Accepts (.halloc c mode1 d a b) s x g) :
    let i := .halloc c mode1 d a b
    let k := ctxOf i s x g
    let u := s.entered i x g
    exec i s = .next (scratchWord k (u.heapShape k a (allocRun k s b)) (fun _ => k.low32 s a) u (fun spc bank at_ u =>
      (u.enqueue k spc bank (.halloc mode1) (k.lanes.map (fun l => { lane := l, adr := at_ l, b := [k.src32 u l b], sig := (g.lane l).sig }))).reserve
        k (2 * bank - s.turn) d 1)) := withIssue_of_accepts ha _

theorem hfree_body (ha : Accepts (.hfree c a b cc) s x g) :
    let i := .hfree c a b cc
    let k := ctxOf i s x g
    let u := s.entered i x g
    exec i s = .next (scratchWord k { u.heapShape k a (freeRun k s b cc) with foreign := u.freeForeign k a b cc } (fun _ => k.low32 s a) u
      (fun spc bank at_ u => u.enqueue k spc bank .hfree (k.lanes.map (fun l =>
        { lane := l, adr := at_ l, b := [k.src32 u l b], c := [k.src32 u l cc] })))) := withIssue_of_accepts ha _

theorem halloc_goes (ha : Accepts (.halloc c mode1 d a b) s x g) :
    let i := .halloc c mode1 d a b
    let k := ctxOf i s x g
    let u := s.entered i x g
    let q := u.heapShape k a (allocRun k s b)
    ScratchOk k q (fun _ => k.low32 s a) sp u → exec i s = .next (s.accessOf i x g q sp (.halloc mode1) (k.lanes.map (fun l =>
      { lane := l, adr := u.offsetOf g q.die (k.low32 s a) 64, b := [k.src32 s l b], sig := (g.lane l).sig })) (.spec 0)
      [reservedRes i s x g (s.turn + 2 * bankDelay g sp) d 1 .ord]) := by
  intro i k u q hok
  rw [halloc_body ha]
  refine congrArg Outcome.next ((scratchWord_of_ok hok).trans ?_)
  rw [← State.enqueue_reserved_horizon]
  exact congrArg (fun v => v.modGroup x.gid fun y => y.horizon q (s.turn + bankDelay g sp) s.turn) State.enqueue_reserve

theorem hfree_goes (ha : Accepts (.hfree c a b cc) s x g) :
    let i := .hfree c a b cc
    let k := ctxOf i s x g
    let u := s.entered i x g
    let q := { u.heapShape k a (freeRun k s b cc) with foreign := u.freeForeign k a b cc }
    ScratchOk k q (fun _ => k.low32 s a) sp u → exec i s = .next (s.accessOf i x g q sp .hfree (k.lanes.map (fun l =>
      { lane := l, adr := u.offsetOf g q.die (k.low32 s a) 64, b := [k.src32 s l b], c := [k.src32 s l cc] })) (.spec 0) []) := by
  intro i k u q hok
  rw [hfree_body ha]
  refine congrArg Outcome.next ((scratchWord_of_ok hok).trans ?_)
  rw [← State.enqueue_reserved_horizon]
  exact congrArg (fun v => v.modGroup x.gid fun y => y.horizon q (s.turn + bankDelay g sp) s.turn) State.enqueue_alone

theorem launch_goes (ha : Accepts (.launch c d a) s x g) :
    let i := .launch c d a
    let k := ctxOf i s x g
    let u := s.entered i x g
    let q : AccShape := { die := false, n := 64, reads := true, writes := false }
    ScratchOk k q (fun _ => k.low32 s a) sp u → exec i s = .next (s.accessOf i x g q sp .launch (k.lanes.map (fun l =>
      { lane := l, adr := u.offsetOf g q.die (k.low32 s a) 64 })) d [reservedRes i s x g (s.turn + 96) d 2 .ord]) := by
  intro i k u q hok
  rw [show exec i s = .next (scratchWord k q (fun _ => k.low32 s a) u (fun sp bank at_ u =>
    (u.enqueue k sp bank .launch (k.lanes.map (fun l => { lane := l, adr := at_ k.low })) d).reserve k (u.turn + 96) d 2)) from withIssue_of_accepts ha _]
  refine congrArg Outcome.next ((scratchWord_of_ok hok).trans ?_)
  rw [← State.enqueue_reserved_horizon]
  rfl

/-- A heap word one of whose stack words lies outside the allocation. -/
theorem scratchWord_stackOutside {k : Ctx} {q : AccShape} {go : Space → Nat → (Nat → Nat) → State → State} {v : Word} {w o : Nat} (hs : k.lanes ≠ [])
    (hloc : s.locate k.g true v.toNat 64 = some (sp, o)) (hq : q.die = true) (hn : q.n = 64) (hw : q.beyond = some w) :
    scratchWord k q (fun _ => v) s go = s.violate k 2 (BitVec.ofNat 64 w) := by
  refine scratchWord_beyond (mt Ctx.lanes_eq_nil.2 hs) (fun j _ => ?_) hw
  rw [Ctx.outside, hq, hn, hloc]
  rfl

theorem ofWords_singleton (w : Word) : ofWords [w] = w.toNat := by simp [ofWords]

theorem HeapRun.noting_outside (p p' : HeapRun) (lane : Nat) : (p.noting p' lane).outside = p'.outside := rfl

section
variable {i : Instr} {l o cl e : Nat} {k : Ctx}

theorem State.locate_die {u : State} {v n : Nat} (h : u.locate g true v n = some (sp, o)) : ∃ d, sp = .die g.grid d := by
  simp only [State.locate, if_true] at h
  split at h
  · exact ⟨_, (Prod.mk.inj (Option.some.inj h)).1.symm⟩
  · cases h

/-- A word of one lane names what that lane's operand says, after the word has begun as before. -/
theorem locate_low (hl : (ctxOf i s x g).lanes = [l]) (hloc : s.locate g true ((ctxOf i s x g).src32 s l a).toNat 64 = some (sp, o)) :
    (s.entered i x g).locate g true ((ctxOf i s x g).low32 s a).toNat 64 = some (sp, o) := by
  rw [Ctx.low32, Ctx.low, show lanesOf (ctxOf i s x g).sel = [l] from hl]
  exact hloc

/-- The step of a heap word is by the memory as it stood before the word began. -/
theorem heapRun_entered (hg : tget s.groups x.gid = some g) (hl : (ctxOf i s x g).lanes = [l])
    (hloc : s.locate g true ((ctxOf i s x g).src32 s l a).toNat 64 = some (sp, o)) (ho : o % 64 = 0) (hclean : (s.ram sp).poisoned o 64 = false)
    (run : Ram → StackRoom → Nat → HeapRun) :
    (s.entered i x g).heapRun (ctxOf i s x g) a run = some (run (s.ram sp) (s.stackRoom g sp) o) := by
  have hram : (s.entered i x g).ram sp = s.ram sp := (State.began_keeps hg i _).ram sp
  have hlow : (ctxOf i s x g).low32 (s.entered i x g) a = (ctxOf i s x g).low32 s a := Ctx.src32_began s i x g _ _ _ a
  rw [State.heapRun_eq (k := ctxOf i s x g) (hlow ▸ locate_low hl hloc) ho (hram ▸ hclean), hram]
  obtain ⟨d, rfl⟩ := State.locate_die hloc
  rfl

theorem halloc_outside (ha : Accepts (.halloc c mode1 d a b) s x g) (hl : (ctxOf (.halloc c mode1 d a b) s x g).lanes = [l])
    (hloc : s.locate g true ((ctxOf (.halloc c mode1 d a b) s x g).src32 s l a).toNat 64 = some (sp, o)) (ho : o % 64 = 0)
    (hclean : (s.ram sp).poisoned o 64 = false) (hcls : HeapClass ((ctxOf (.halloc c mode1 d a b) s x g).src32 s l b).toNat cl)
    (hcor : ¬ HeapCorrupt (s.ram sp).cells o) (hn : ((ctxOf (.halloc c mode1 d a b) s x g).src32 s l b).toNat ≤ 2 ^ 21)
    (htop : 0 < heapTop (s.ram sp).cells o cl)
    (hout : s.stackEnd g ≤ heapWord (s.ram sp).cells o 2 ∨
      s.spaceSize sp < heapEntry (s.ram sp).cells o cl (heapTop (s.ram sp).cells o cl - 1) + 4) :
    exec (.halloc c mode1 d a b) s = .next ((s.entered (.halloc c mode1 d a b) x g).violate (ctxOf (.halloc c mode1 d a b) s x g) 2
      (BitVec.ofNat 64 (heapWord (s.ram sp).cells o 2 + 4 * (heapDepth (s.ram sp).cells o * cl + (heapTop (s.ram sp).cells o cl - 1))))) := by
  rw [halloc_body ha]
  refine congrArg Outcome.next (scratchWord_stackOutside (by simp [hl]) (locate_low hl hloc) rfl rfl ?_)
  rw [State.heapShape, heapRun_entered ha.group hl hloc ho hclean]
  simp only [allocRun, Ctx.requests, hl, List.map_cons, List.map_nil, Ram.allocs, List.foldl_cons, List.foldl_nil, ofWords_singleton, Option.bind_some,
    HeapRun.noting_outside]
  rw [HeapRun.alloc_outside (r := s.ram sp) rfl hcls hcor hn htop hout]
  rfl

theorem hfree_outside (ha : Accepts (.hfree c a b cc) s x g) (hl : (ctxOf (.hfree c a b cc) s x g).lanes = [l])
    (hloc : s.locate g true ((ctxOf (.hfree c a b cc) s x g).src32 s l a).toNat 64 = some (sp, o)) (ho : o % 64 = 0)
    (hclean : (s.ram sp).poisoned o 64 = false) (hb : ((ctxOf (.hfree c a b cc) s x g).src32 s l b).toNat ≠ 0xFFFFFFFF)
    (hcls : HeapClass ((ctxOf (.hfree c a b cc) s x g).src32 s l cc).toNat cl)
    (hgood : FreeGood (s.ram sp).cells o ((ctxOf (.hfree c a b cc) s x g).src32 s l b).toNat ((ctxOf (.hfree c a b cc) s x g).src32 s l cc).toNat cl)
    (hout : s.stackEnd g ≤ heapWord (s.ram sp).cells o 2 ∨
      s.spaceSize sp < heapEntry (s.ram sp).cells o cl (heapTop (s.ram sp).cells o cl) + 4) :
    exec (.hfree c a b cc) s = .next ((s.entered (.hfree c a b cc) x g).violate (ctxOf (.hfree c a b cc) s x g) 2
      (BitVec.ofNat 64 (heapWord (s.ram sp).cells o 2 + 4 * (heapDepth (s.ram sp).cells o * cl + heapTop (s.ram sp).cells o cl)))) := by
  rw [hfree_body ha]
  refine congrArg Outcome.next (scratchWord_stackOutside (by simp [hl]) (locate_low hl hloc) rfl rfl ?_)
  rw [State.heapShape, heapRun_entered ha.group hl hloc ho hclean]
  simp only [freeRun, Ctx.requests, hl, List.map_cons, List.map_nil, Ram.frees, List.foldl_cons, List.foldl_nil, ofWords_singleton, Option.bind_some,
    HeapRun.noting_outside, Option.map_some, Option.getD_some]
  rw [HeapRun.release_of_good (r := s.ram sp) rfl hb hcls hgood, Heap.place_eq_none hout, ← Heap.entry_eq]
  rfl

end

end

theorem stepWordsGo : StepWordsGo := by
  intro c mode1 d a b cc sp s x g at_ ok heap req src
  refine ⟨fun ⟨ha, hok⟩ => halloc_goes ha hok, fun ⟨ha, hok⟩ => hfree_goes ha hok, fun l o cl hloc ho hclean => ?_, fun ⟨ha, hok⟩ => launch_goes ha hok⟩
  refine ⟨fun htop ha hl hcls hcor hn hout => halloc_outside ha hl hloc ho hclean hcls hcor hn htop hout, fun hb hal hlim htop ha hl hcls hcor hn hout =>
    hfree_outside ha hl hloc ho hclean hb hcls ⟨hcor, hn, hal, hlim, htop⟩ hout⟩

/-- Settles O25: each word is its checks, searched in order, and then one access for all its lanes. -/
theorem stackAndStepWords : Obligations.StackAndStepWords := ⟨spillWordsGo, stepWordsGo⟩

end Sys2Proof.Machine
end

section
/-! Stores at their bank turn (09 R187, R188, R192, R194, R195). -/

set_option Elab.async false

namespace Sys2Proof.Machine

/-! What a write at its bank turn leaves -/

/-- The memory of the space `sp` has changed by `f`; every other memory and the lanes' registers have not. -/
structure Writes (sp : Space) (f : Ram → Ram) (s t : State) : Prop where
  ram : t.ram sp = f (s.ram sp)
  space : ∀ q, s.hasSpace q → t.hasSpace q
  others : ∀ q, s.hasSpace q → q ≠ sp → t.ram q = s.ram q
  hbm : t.hbm = s.hbm
  host : t.host = s.host
  regs : ∀ g l, ((t.group g).lane l).v = ((s.group g).lane l).v

theorem Writes.trans {sp : Space} {f g : Ram → Ram} {s t u : State} (h : Writes sp f s t) (k : Writes sp g t u) : Writes sp (g ∘ f) s u where
  ram := k.ram.trans (congrArg g h.ram)
  space q hq := k.space q (h.space q hq)
  others q hq hne := (k.others q (h.space q hq) hne).trans (h.others q hq hne)
  hbm := k.hbm.trans h.hbm
  host := k.host.trans h.host
  regs g l := (k.regs g l).trans (h.regs g l)

/-- The memory with its bytes changed and its marks as they were. -/
def Ram.onCells (f : Mem → Mem) (r : Ram) : Ram := { r with cells := f r.cells }

/-- A run of writes makes one write. -/
theorem Writes.foldl {α : Type} {sp : Space} {step : State → α → State} {f : Mem → α → Mem}
    (h : ∀ (u : State) a, u.hasSpace sp → Writes sp (Ram.onCells (f · a)) u (step u a)) (l : List α) {s : State} (hs : s.hasSpace sp) :
    Writes sp (Ram.onCells fun m => l.foldl f m) s (l.foldl step s) := by
  induction l generalizing s with
  | nil => exact ⟨rfl, fun _ h => h, fun _ _ _ => rfl, rfl, rfl, fun _ _ => rfl⟩
  | cons a l ih => exact (h s a hs).trans (ih ((h s a hs).space sp hs))

theorem isSome_tget_tmod {α : Type} {t : Tbl α} {n m : Nat} {f : α → α} (h : (tget t m).isSome) : (tget (tmod t n f) m).isSome := by
  by_cases hm : m = n
  · rwa [hm, tget_tmod_self, ← hm, Option.isSome_map]
  · rwa [tget_tmod_of_ne _ _ hm]

/-- What a change of an entry leaves of that entry, it leaves of every entry. -/
theorem getD_tget_tmod {α β : Type} {t : Tbl α} {n : Nat} {f : α → α} {p : α → β} (h : ∀ x, p (f x) = p x) (m : Nat) (d : α) :
    p ((tget (tmod t n f) m).getD d) = p ((tget t m).getD d) := by
  by_cases hm : m = n
  · rw [hm, tget_tmod_self]
    cases tget t n with
    | none => rfl
    | some x => exact h x
  · rw [tget_tmod_of_ne _ _ hm]

theorem State.modRam_others {s : State} {sp q : Space} (f : Ram → Ram) (h : s.hasSpace sp) (hq : s.hasSpace q) (hne : q ≠ sp) :
    (s.modRam sp f).ram q = s.ram q := by
  cases sp with
  | blk b =>
    cases q with
    | blk c => exact congrArg (fun x => (x.getD {}).scr) (tget_tmod_of_ne s.blocks _ fun e => hne (congrArg _ e))
    | die | spill => rfl
  | spill g =>
    cases q with
    | spill k => exact congrArg (fun x => (x.getD {}).spill) (tget_tmod_of_ne s.groups _ fun e => hne (congrArg _ e))
    | die | blk => rfl
  | die g d =>
    cases q with
    | die k e =>
      obtain ⟨-, hd⟩ := h
      obtain ⟨-, he⟩ := hq
      by_cases hk : k = g
      · have hde : ¬ (d = 0 ↔ e = 0) := fun hh => hne (by rw [hk, show e = d by omega])
        refine getD_tget_tmod (p := fun x : Grid => if e = 0 then x.scr0 else x.scr1) (fun x => ?_) k {}
        by_cases hd0 : d = 0 <;> by_cases he0 : e = 0 <;> simp [hd0, he0] at hde ⊢
      · exact congrArg (fun x => if e = 0 then (x.getD {}).scr0 else (x.getD {}).scr1) (tget_tmod_of_ne s.grids _ hk)
    | blk | spill => rfl

theorem State.modRam_writes {s : State} {sp : Space} (f : Ram → Ram) (h : s.hasSpace sp) : Writes sp f s (s.modRam sp f) where
  ram := State.ram_modRam h f
  space q hq := by
    cases sp with
    | blk =>
      cases q with
      | blk => exact isSome_tget_tmod hq
      | die | spill => exact hq
    | die =>
      cases q with
      | die => exact ⟨isSome_tget_tmod hq.1, hq.2⟩
      | blk | spill => exact hq
    | spill =>
      cases q with
      | spill => exact isSome_tget_tmod hq
      | die | blk => exact hq
  others q hq hne := State.modRam_others f h hq hne
  hbm := by cases sp <;> rfl
  host := by cases sp <;> rfl
  regs g l := by
    cases sp with
    | blk | die => rfl
    | spill i => exact getD_tget_tmod (f := fun x : Group => { x with spill := f x.spill }) (p := fun x => (x.lane l).v) (fun _ => rfl) g {}

/-- The lanes of every group changed, each by its own change. -/
def Group.eachLane (f : Nat → Nat → Lane → Lane) (k : Nat) (g : Group) : Group := { g with lanes := mapFrom (f k) 0 g.lanes }

/-- What a write from `a` over `n` bytes of the space `q` leaves of lane `i` of group `k` (09 R199). -/
def Lane.endResv (q : Space) (a n : Nat) (who : Option (Nat × Nat)) (k i : Nat) (l : Lane) : Lane :=
  match l.resv with
  | some r => if r.space == q && a / 16 ≤ r.granule && r.granule ≤ (a + n - 1) / 16 && who != some (k, i) then { l with resv := none } else l
  | none => l

theorem Lane.endResv_v (q : Space) (a n : Nat) (who : Option (Nat × Nat)) (k i : Nat) (l : Lane) : (l.endResv q a n who k i).v = l.v := by
  unfold Lane.endResv
  split
  · split <;> rfl
  · rfl

theorem State.endResv_eq (s : State) (q : Space) (a n : Nat) (who : Option (Nat × Nat)) :
    s.endResv q a n who = s ∨
    s.endResv q a n who = { s with groups := s.groups.map (fun p => (p.1, p.2.eachLane (Lane.endResv q a n who) p.1)) } := by
  unfold State.endResv
  split
  · exact .inl rfl
  · exact .inr rfl

theorem Group.lane_eachLane_v {f : Nat → Nat → Lane → Lane} (hf : ∀ g i l, (f g i l).v = l.v) (k : Nat) (g : Group) (l : Nat) :
    ((g.eachLane f k).lane l).v = (g.lane l).v := by
  unfold Group.lane Group.eachLane
  rw [List.getD_eq_getElem?_getD, List.getD_eq_getElem?_getD, getElem?_mapFrom]
  cases g.lanes[l]? with
  | none => rfl
  | some x => exact hf ..

/-- Ending reservations changes no memory and no register. -/
theorem State.endResv_writes (s : State) (sp q : Space) (a n : Nat) (who : Option (Nat × Nat)) :
    Writes sp id s (s.endResv q a n who) := by
  obtain ⟨hram, -⟩ := s.endResv_ram q a n who
  rcases s.endResv_eq q a n who with h | h
  · rw [h]
    exact ⟨rfl, fun _ h => h, fun _ _ _ => rfl, rfl, rfl, fun _ _ => rfl⟩
  · have hget := fun k => tget_map (fun k g => Group.eachLane (Lane.endResv q a n who) k g) s.groups k
    refine ⟨hram sp, fun k hk => ?_, fun k _ _ => hram k, (congrArg State.hbm h).trans rfl, (congrArg State.host h).trans rfl, fun g l => ?_⟩
    · rw [h]
      cases k with
      | blk | die => exact hk
      | spill i => exact (congrArg Option.isSome (hget i)).trans ((Option.isSome_map ..).trans hk)
    · rw [h]
      refine (congrArg (fun x => ((x.getD {}).lane l).v) (hget g)).trans ?_
      rw [State.group]
      cases tget s.groups g with
      | none => rfl
      | some x => exact Group.lane_eachLane_v (Lane.endResv_v q a n who) g x l

/-! The bytes of a store -/

/-- Byte `j` of the value that a lane stores. -/
def ALane.storeByte (l : ALane) (j : Nat) : Byte := BitVec.ofNat 8 (ofWords l.b / 256 ^ j)

/-- Bytes written one after another. -/
def writeBytes (m : Mem) (ps : List (Nat × Byte)) : Mem := ps.foldl (fun m p => memWr m p.1 p.2) m

/-- A lane's store, byte by byte. -/
def laneBytes (sp : Space) (n : Nat) (l : ALane) : List (Nat × Byte) := (List.range n).map fun j => (byteAdr sp l j, l.storeByte j)

theorem wf_writeBytes (ps : List (Nat × Byte)) : ∀ {m : Mem}, Memory.wf m = true → Memory.wf (writeBytes m ps) = true := by
  induction ps with
  | nil => exact id
  | cons p ps ih => exact fun h => ih (Memory.wf_memWr p.1 p.2 h)

theorem memRd_writeBytes_of_out {a : Nat} (ps : List (Nat × Byte)) : ∀ {m : Mem}, Memory.wf m = true → (∀ p ∈ ps, p.1 ≠ a) →
    memRd (writeBytes m ps) a = memRd m a := by
  induction ps with
  | nil => exact fun _ _ => rfl
  | cons p ps ih =>
    intro m h ho
    exact (ih (Memory.wf_memWr p.1 p.2 h) fun q hq => ho q (.tail _ hq)).trans (memRd_memWr_of_ne p.2 h (ho p (.head _)).symm)

/-- Where no address is written twice, each byte reads as written. -/
theorem memRd_writeBytes_of_mem {p : Nat × Byte} (ps : List (Nat × Byte)) : ∀ {m : Mem}, Memory.wf m = true →
    ps.Pairwise (fun q r => q.1 ≠ r.1) → p ∈ ps → memRd (writeBytes m ps) p.1 = p.2 := by
  induction ps with
  | nil => exact fun _ _ hp => nomatch hp
  | cons q ps ih =>
    intro m h hd hp
    obtain ⟨hq, hd⟩ := List.pairwise_cons.1 hd
    have hm := Memory.wf_memWr q.1 q.2 h
    rcases List.mem_cons.1 hp with rfl | hp
    · exact (memRd_writeBytes_of_out ps hm fun r hr => (hq r hr).symm).trans (memRd_memWr_self _ _ h)
    · exact ih hm hd hp

/-! The bytes of several lanes -/

/-- The memory after the stores of the lanes, in their order. -/
def writeLanes (sp : Space) (n : Nat) (m : Mem) (ls : List ALane) : Mem := ls.foldl (fun m l => writeBytes m (laneBytes sp n l)) m

theorem byteAdr_inj {sp : Space} {l : ALane} {n i j : Nat} (h : widthOk sp l n) (he : byteAdr sp l i = byteAdr sp l j) : i = j := by
  obtain ⟨-, hl, -⟩ := h
  cases sp with
  | blk | die => exact Nat.add_left_cancel he
  | spill =>
    simp only [byteAdr, spillAdr] at he
    omega

theorem memRd_writeLanes_of_out {sp : Space} {n a : Nat} (ls : List ALane) : ∀ {m : Mem}, Memory.wf m = true →
    (∀ l ∈ ls, ∀ j, j < n → byteAdr sp l j ≠ a) → memRd (writeLanes sp n m ls) a = memRd m a := by
  induction ls with
  | nil => exact fun _ _ => rfl
  | cons l ls ih =>
    intro m h ho
    refine (ih (wf_writeBytes _ h) fun k hk => ho k (.tail _ hk)).trans (memRd_writeBytes_of_out _ h fun p hp => ?_)
    obtain ⟨j, hj, rfl⟩ := List.mem_map.1 hp
    exact ho l (.head _) j (List.mem_range.1 hj)

theorem memRd_laneBytes {sp : Space} {n j : Nat} {l : ALane} {m : Mem} (h : Memory.wf m = true) (hw : widthOk sp l n) (hj : j < n) :
    memRd (writeBytes m (laneBytes sp n l)) (byteAdr sp l j) = l.storeByte j := by
  refine memRd_writeBytes_of_mem (p := (byteAdr sp l j, l.storeByte j)) _ h ?_ (List.mem_map.2 ⟨j, List.mem_range.2 hj, rfl⟩)
  exact List.pairwise_map.2 (List.nodup_range.imp fun hne he => hne (byteAdr_inj hw he))

/-- A byte that no lane behind `l` stores reads as that of `l`. -/
theorem memRd_writeLanes {sp : Space} {n j : Nat} {l : ALane} (hw : widthOk sp l n) (hj : j < n) (ls : List ALane) :
    ∀ {m : Mem}, Memory.wf m = true → ls.Pairwise (fun k m => k = l → m ≠ l → ∀ i, i < n → byteAdr sp m i ≠ byteAdr sp l j) → l ∈ ls →
      memRd (writeLanes sp n m ls) (byteAdr sp l j) = l.storeByte j := by
  induction ls with
  | nil => exact fun _ _ hl => nomatch hl
  | cons k ls ih =>
    intro m h hd hl
    obtain ⟨hk, hd⟩ := List.pairwise_cons.1 hd
    by_cases hin : l ∈ ls
    · exact ih (wf_writeBytes _ h) hd hin
    · obtain rfl : l = k := (List.mem_cons.1 hl).resolve_right hin
      exact (memRd_writeLanes_of_out ls (wf_writeBytes _ h) fun r hr => hk r hr rfl fun e => hin (e ▸ hr)).trans (memRd_laneBytes h hw hj)

/-! A lane's stretches are its bytes -/

theorem memWrite_toBytes (m : Mem) (a n v : Nat) :
    memWrite m a (toBytes n v) = writeBytes m ((List.range n).map fun j => (a + j, BitVec.ofNat 8 (v / 256 ^ j))) := by
  induction n generalizing m a v with
  | zero => rfl
  | succ n ih =>
    rw [toBytes, memWrite, ih, List.range_succ_eq_map, List.map_cons, List.map_map]
    simp [writeBytes, Function.comp_def, Nat.div_div_eq_div_mul, Nat.pow_succ', Nat.add_assoc, Nat.add_comm 1]

/-- Byte `r` of word `q` of a value. -/
theorem byte_ofWords (ws : List Word) (q r : Nat) (hr : r < 4) :
    BitVec.ofNat 8 (ofWords ws / 256 ^ (4 * q + r)) = BitVec.ofNat 8 ((ws.getD q 0).toNat / 256 ^ r) := by
  induction ws generalizing q with
  | nil => simp [ofWords]
  | cons w ws ih =>
    cases q with
    | zero =>
      have hpow : 2 ^ 32 = 256 ^ r * (256 * 256 ^ (3 - r)) := by interval_cases r <;> rfl
      apply BitVec.eq_of_toNat_eq
      rw [BitVec.toNat_ofNat, BitVec.toNat_ofNat, ofWords, List.getD_cons_zero, Nat.mul_zero, Nat.zero_add, hpow, Nat.mul_assoc,
        Nat.add_mul_div_left _ _ (Nat.pow_pos (by decide)), Nat.mul_assoc]
      exact Nat.add_mul_mod_self_left ..
    | succ q =>
      have hlt := w.isLt
      rw [List.getD_cons_succ, ← ih, ofWords, show 4 * (q + 1) + r = 4 + (4 * q + r) by omega, pow_add, ← Nat.div_div_eq_div_mul]
      congr 2
      omega

/-- Byte `r` of a word of the spill area stands `r` behind the word. -/
theorem spillAdr_byte {lane a r : Nat} (ha : a % 4 = 0) (q : Nat) (hr : r < 4) :
    spillAdr lane (a + (4 * q + r)) = spillAdr lane (a + 4 * q) + r := by
  obtain ⟨c, rfl⟩ := Nat.dvd_of_mod_eq_zero ha
  unfold spillAdr
  rw [← Nat.add_assoc, ← Nat.mul_add, Nat.mul_add_div (by decide), Nat.div_eq_of_lt hr, Nat.mul_add_mod, Nat.mod_eq_of_lt hr,
    Nat.mul_div_cancel_left _ (by decide), Nat.mul_mod_right]
  rfl

/-- The stretches of a lane's store with what goes into each. -/
def storeParts (sp : Space) (n : Nat) (l : ALane) : List ((Nat × Nat) × List Byte) :=
  (stretches sp l.lane l.adr n).zip (if n < 4 then [toBytes n (ofWords l.b)]
    else match sp with
      | .spill _ => l.b.map (fun w => toBytes 4 w.toNat)
      | _ => [toBytes n (ofWords l.b)])

def writeParts (m : Mem) (ps : List ((Nat × Nat) × List Byte)) : Mem := ps.foldl (fun m p => memWrite m p.1.1 p.2) m

/-- Bytes numbered from 0, taken four at a time. -/
theorem writeBytes_range_four (f : Nat → Nat × Byte) (k : Nat) (m : Mem) :
    writeBytes m ((List.range (4 * k)).map f) =
      (List.range k).foldl (fun m q => writeBytes m ((List.range 4).map fun r => f (4 * q + r))) m := by
  induction k with
  | zero => rfl
  | succ k ih =>
    rw [List.range_succ (n := k), List.foldl_concat, ← ih, Nat.mul_succ, List.range_add]
    simp [writeBytes, Function.comp_def]

theorem storeParts_spill (g : Nat) {n : Nat} {l : ALane} (h : widthOk (.spill g) l n) :
    storeParts (.spill g) n l = (List.range (n / 4)).map fun q => ((spillAdr l.lane (l.adr + 4 * q), 4), toBytes 4 (l.b.getD q 0).toNat) := by
  obtain ⟨hb, -, hn, -⟩ := h
  unfold storeParts stretches
  by_cases h4 : n < 4
  · rw [show n / 4 = 0 by omega]
    rfl
  · rw [if_neg h4]
    apply List.ext_getElem
    · simp only [List.length_zip, List.length_map, List.length_range]
      omega
    · intro i hi hj
      have : i < l.b.length := by simp at hi; omega
      simp [this]

/-- The stretches of a lane's store are its bytes. -/
theorem writeParts_storeParts {sp : Space} {n : Nat} {l : ALane} (h : widthOk sp l n) (m : Mem) :
    writeParts m (storeParts sp n l) = writeBytes m (laneBytes sp n l) := by
  cases sp with
  | blk | die =>
    unfold storeParts
    rw [ite_self]
    exact memWrite_toBytes m l.adr n (ofWords l.b)
  | spill g =>
    rw [storeParts_spill g h]
    obtain ⟨-, -, hn, ha⟩ := h
    obtain ⟨k, rfl⟩ := Nat.dvd_of_mod_eq_zero hn
    rw [laneBytes, writeBytes_range_four, writeParts, List.foldl_map, Nat.mul_div_cancel_left k (by omega)]
    refine List.foldl_ext _ _ _ fun u q _ => ?_
    rw [memWrite_toBytes]
    congr 1
    exact List.map_congr_left fun r hr => Prod.ext (spillAdr_byte ha q (List.mem_range.1 hr)).symm
      (byte_ofWords l.b q r (List.mem_range.1 hr)).symm

/-! The marks of a store -/

theorem mem_coveredBy {as : List Nat} {q : Nat} : q ∈ coveredBy as ↔ ∀ i, i < 64 → 64 * q + i ∈ as := by
  have key : ∀ (as gs : List Nat), q ∈ as.foldl (fun l a => insNat l (a / 64)) gs ↔ q ∈ gs ∨ ∃ a ∈ as, q = a / 64 := by
    intro as
    induction as with
    | nil => simp
    | cons a as ih => intro gs; rw [List.foldl_cons, ih, mem_insNat]; simp only [List.mem_cons, exists_eq_or_imp]; tauto
  unfold coveredBy
  simp only [List.mem_filter, key, List.all_eq_true, List.mem_range, List.contains_iff_mem]
  exact ⟨fun h => h.2, fun h => ⟨.inr ⟨_, h 0 (by omega), by omega⟩, h⟩⟩

/-- The addresses of a lane's stretches are those of its bytes. -/
theorem mem_stretches {sp : Space} {l : ALane} {n a : Nat} (h : widthOk sp l n) :
    a ∈ (stretches sp l.lane l.adr n).flatMap (fun p => (List.range p.2).map (p.1 + ·)) ↔ ∃ j, j < n ∧ byteAdr sp l j = a := by
  obtain ⟨-, -, h⟩ := h
  cases sp with
  | blk | die => simp [stretches, byteAdr]
  | spill g =>
    obtain ⟨hn, ha⟩ := h
    obtain ⟨k, rfl⟩ := Nat.dvd_of_mod_eq_zero hn
    simp only [stretches, byteAdr, List.mem_flatMap, List.mem_map, List.mem_range, exists_exists_and_eq_and, Nat.mul_div_cancel_left k (show 0 < 4 by decide)]
    constructor
    · rintro ⟨q, hq, r, hr, rfl⟩
      exact ⟨4 * q + r, by omega, spillAdr_byte ha q hr⟩
    · rintro ⟨j, hj, rfl⟩
      have hr := Nat.mod_lt j (show 0 < 4 by decide)
      exact ⟨j / 4, Nat.div_lt_of_lt_mul hj, j % 4, hr, by rw [← spillAdr_byte ha _ hr, Nat.div_add_mod]⟩

/-- The granules that an access writes in full, where the memory has marks. -/
def Access.full (x : Access) (n : Nat) (r : Ram) : List Nat :=
  if r.poison.isEmpty then [] else coveredBy (x.lanes.flatMap (fun l =>
    (stretches x.space l.lane l.adr n).flatMap (fun p => (List.range p.2).map (p.1 + ·))))

theorem Access.mem_unmark_full {x : Access} {n : Nat} (h : ∀ l ∈ x.lanes, widthOk x.space l n) (r : Ram) (q : Nat) :
    q ∈ (r.unmark (x.full n r)).poison ↔
      q ∈ r.poison ∧ ¬ ∀ i, i < 64 → ∃ l ∈ x.lanes, ∃ j, j < n ∧ byteAdr x.space l j = 64 * q + i := by
  unfold Ram.unmark Access.full
  rw [List.mem_filter]
  refine and_congr_right fun hq => ?_
  rw [if_neg (by simpa using List.ne_nil_of_mem hq), Bool.not_eq_true', ← Bool.not_eq_true, List.contains_iff_mem, mem_coveredBy]
  refine not_congr (forall₂_congr fun i _ => ?_)
  rw [List.mem_flatMap]
  exact exists_congr fun l => and_congr_right fun hl => mem_stretches (h l hl)

/-! The store -/

theorem State.writePart_writes (s : State) {sp : Space} (hs : s.hasSpace sp) (p : (Nat × Nat) × List Byte) (who : Option (Nat × Nat)) :
    Writes sp (Ram.onCells (memWrite · p.1.1 p.2)) s ((s.modRam sp (Ram.onCells (memWrite · p.1.1 p.2))).endResv sp p.1.1 p.2.length who) :=
  (State.modRam_writes _ hs).trans (State.endResv_writes ..)

theorem State.writeParts_writes (s : State) {sp : Space} (hs : s.hasSpace sp) (ps : List ((Nat × Nat) × List Byte)) (who : Option (Nat × Nat)) :
    Writes sp (Ram.onCells (writeParts · ps)) s
      (ps.foldl (fun s p => (s.modRam sp (Ram.onCells (memWrite · p.1.1 p.2))).endResv sp p.1.1 p.2.length who) s) :=
  Writes.foldl (fun u p hu => u.writePart_writes hu p who) ps hs

theorem State.applyStore_writes {s : State} {x : Access} {n : Nat} (hs : s.hasSpace x.space) :
    Writes x.space (fun r => (r.onCells fun m => x.lanes.foldl (fun m l => writeParts m (storeParts x.space n l)) m).unmark
      (x.full n (s.ram x.space))) s (s.applyStore x n) := by
  have h := Writes.foldl (fun u (l : ALane) hu => u.writeParts_writes hu (storeParts x.space n l) (some (x.gid, l.lane))) x.lanes hs
  exact h.trans (State.modRam_writes (Ram.unmark · (x.full n (s.ram x.space))) (h.space _ hs))

theorem foldl_writeParts {x : Access} {n : Nat} (h : ∀ l ∈ x.lanes, widthOk x.space l n) (m : Mem) :
    x.lanes.foldl (fun m l => writeParts m (storeParts x.space n l)) m = writeLanes x.space n m x.lanes :=
  List.foldl_ext _ _ _ fun u l hl => writeParts_storeParts (h l hl) u

/-- Settles O43: the store is one write of its lanes' bytes, in their order. -/
theorem storesWriteTheirBytes : Obligations.StoresWriteTheirBytes := by
  intro s x n hs hm hw t
  have ht : Writes x.space _ s t := State.applyStore_writes hs
  have hcells : (t.ram x.space).cells = writeLanes x.space n (s.ram x.space).cells x.lanes :=
    (congrArg Ram.cells ht.ram).trans (foldl_writeParts hw _)
  refine ⟨fun a ha => ?_, fun l hl hd j hj => ?_, fun hp l hl j hj hd => ?_, fun q => ?_, ht.others, ht.hbm, ht.host, ht.regs⟩
  · rw [hcells]
    exact memRd_writeLanes_of_out _ hm ha
  · rw [hcells]
    refine memRd_writeLanes (hw l hl) hj _ hm (List.pairwise_of_forall_mem_list fun k _ r hr _ hne i hi => ?_) hl
    exact hd r hr hne i j hi hj
  · rw [hcells]
    refine memRd_writeLanes (hw l hl) hj _ hm ((List.pairwise_map.1 hp).imp_of_mem fun hk hr hlt he _ i hi => ?_) hl
    exact hd _ hr (he ▸ hlt) i hi
  · rw [ht.ram]
    exact Access.mem_unmark_full hw (s.ram x.space) q

end Sys2Proof.Machine
end
